-- ==== Sys2Proof/Word.lean ====
section
/-! DEFINITION. Word.lean: the word types of the module and nothing else. Every register of the module is 32 bits
(R34, R486), memory is little-endian bytes (R40), FP32 and FP64 are IEEE 754 encodings (R40). -/
namespace Sys2Proof

/-- A register word. -/
abbrev Word := BitVec 32
/-- A byte of memory. -/
abbrev Byte := BitVec 8
/-- A half word (keys, tokens, session numbers). -/
abbrev Half := BitVec 16
/-- A double word (extended counts, 64-bit counters). -/
abbrev DWord := BitVec 64
/-- An IEEE 754 binary32 encoding (R40). -/
abbrev F32 := BitVec 32
/-- An IEEE 754 binary64 encoding (R40). -/
abbrev F64 := BitVec 64
/-- A 256-bit value: digests, key values, nonces. -/
abbrev Big := BitVec 256
/-- A string of bytes, the first at the lowest address (R40, R41). -/
abbrev Bytes := List Byte

end Sys2Proof
end

