-- ==== Sys2Proof/Syntax.lean ====
section
/-! DEFINITION. Syntax.lean: the commands and events that reach the module. The module is a block: it fetches no
instruction; what it takes are the rows of spec/opcode_table.json. Operands are what the sender or the physical world
supplies: which lane and requester wrote (R9, R19, R281), the words written, levels and frames at the pins. Indices are
`Fin` of the range the spec gives the object, so that no command names an object that does not exist. -/
namespace Sys2Proof

/-- The two compute lanes (R13). -/
inductive LaneId where
  | a | b
deriving DecidableEq, Repr, Inhabited

/-- Who makes a register access (R19, R84, R281): an engine of the lane, the HC session, the service UART, a debugger
(R262), a DMA channel, an HC bulk transfer (requester 18), or another unit of the lane that reaches register space through the
window table, by its bit there (R281). -/
inductive Requester where
  | engine (e : Fin 16)
  | hc
  | uart
  | debugger
  | dma (ch : Fin 16)
  | hcBulk
  | unit (q : Fin 32)
deriving DecidableEq, Repr, Inhabited

/-- The origin of an access: the requester and the lane it arrives in. An HC access acts in both lanes (R481); its
`lane` is not used. -/
structure Src where
  lane : LaneId
  req : Requester
deriving DecidableEq, Repr, Inhabited

/-- Width of a register access (R486). -/
inductive Width where
  | w8 | w16 | w32 | w64
deriving DecidableEq, Repr, Inhabited

/-- Physical facts of one power-up sequence (R58, R59, R467): which lanes report ready within 1,000 ms, the level of
PROV_EN at the release of the reset, and whether the lanes' digests of the image agree at step 9. -/
structure BootFacts where
  readyA : Bool
  readyB : Bool
  provEn : Bool
  digestsAgree : Bool
deriving DecidableEq, Repr, Inhabited

/-- A host-channel datagram as received (R475): the sender's address, the header fields and the body as sent (with the
tag for an encrypted type). -/
structure HcDatagram where
  ip : Bytes
  port : Half
  magic : Half := 0x4348
  version : Byte := 1
  typ : Byte
  session : Half
  seq : Word
  xinfo : Word := 0
  body : Bytes
  tag : Bytes
deriving DecidableEq, Repr, Inhabited

/-- A CAN frame as received (R350, R356): identifier word of R355, format bits, a recessive res bit, DLC and data bytes. -/
structure CanFrame where
  ide : Bool
  ident : BitVec 29
  fdf : Bool
  brs : Bool
  esi : Bool
  res : Bool
  rtr : Bool
  dlc : Fin 16
  data : Bytes
deriving DecidableEq, Repr, Inhabited

/-- Where an engine's store of a cycle goes (R29): its own TCM or the lane's shared regions. -/
structure MemWrite where
  engine : Fin 16
  addr : Word
  data : Bytes
deriving DecidableEq, Repr, Inhabited

/-- What the ECC of a word says when it is read (R295). -/
inductive EccResult where
  | clean | correctable | uncorrectable
deriving DecidableEq, Repr, Inhabited


/-- The commands and events of the module: one constructor per row of spec/opcode_table.json, in its order. -/
inductive Instr where
  /-- POWER_GOOD (R58): At least one feed has stayed at or above 18.0 V for 10 ms; rails come up in order, the Chest recalls and the boot sequence starts. -/
  | powerGood (pa pb : Bool) (facts : BootFacts)
  /-- LANE_READY_TIMEOUT (R59): A lane not ready 1,000 ms after power good is left out of the flash broadcast and later joins through resynchronisation. -/
  | laneReadyTimeout (lane : LaneId)
  /-- BOOT_END (R58): Boot finishes: the module enters STOP, or CONFIGURE when no valid image exists or PROV_EN is set, and raises EV_SYS_MODE. -/
  | bootEnd
  /-- BOOT_WATCHDOG_EXPIRY (R57): A lane that has not finished boot 8 s after its reset release lane-resets itself with cause BOOT_WDG, and gives up after three such resets. -/
  | bootWatchdogExpiry (lane : LaneId)
  /-- RESET_PIN (R45): RESET_N on X14 held low for at least 10 µs causes a full reset, applied after the Chest store when in RETAIN. -/
  | resetPin (lowNs : Nat) (facts : BootFacts)
  /-- RESET_CMD_FULL (R52): SYS_RESET_CMD with FULL resets both lanes, the field die, the link die and the PMIC sequences, and keeps the Chest, the keeper die and the flash. -/
  | resetCmdFull (src : Src) (key : Half) (facts : BootFacts)
  /-- RESET_CMD_LANE (R54): SYS_RESET_CMD with LANE_A or LANE_B requests a lane reset; it is refused for the only running lane, and an active lane first hands over its role. -/
  | resetCmdLane (src : Src) (key : Half) (laneA laneB : Bool)
  /-- BOOT_CFG_WRITE (R64): A write of SYS_BOOT_CFG is applied in CONFIGURE or STOP, and is otherwise refused with NOT_PERMITTED. -/
  | bootCfgWrite (src : Src) (data : Word)
  /-- MODE_CMD_STOP (R45): SYS_MODE_CMD with target STOP is checked against the transition table and its key, and is then accepted as a pending change or refused. -/
  | modeCmdStop (src : Src) (key : Half)
  /-- MODE_CMD_CONFIGURE (R45): SYS_MODE_CMD with target CONFIGURE is accepted from STOP as a pending change, or refused. -/
  | modeCmdConfigure (src : Src) (key : Half)
  /-- MODE_CMD_RUN (R45): SYS_MODE_CMD with target RUN is accepted from STOP with a healthy lane, or from HOLD, and is otherwise refused. -/
  | modeCmdRun (src : Src) (key : Half)
  /-- MODE_CMD_HOLD (R45): SYS_MODE_CMD with target HOLD names a task to hold at its next cycle boundary, and is refused with BAD_TASK when that task does not exist. -/
  | modeCmdHold (src : Src) (key : Half) (task : Fin 8)
  /-- MODE_CMD_SAFE (R50): SYS_MODE_CMD with target SAFE is accepted and replaces any pending mode command. -/
  | modeCmdSafe (src : Src) (key : Half)
  /-- MODE_CMD_NOT_COMMANDABLE (R51): A mode command that names RESET, SINGLE or RETAIN is refused with NOT_PERMITTED. -/
  | modeCmdNotCommandable (src : Src) (key : Half) (target : Fin 16)
  /-- MODE_CHANGE_TAKES_EFFECT (R45): A pending mode change takes effect at its instant in both lanes; cycles in progress are cut and outputs move to their STOP or safe states. -/
  | modeChangeTakesEffect
  /-- RUN_START (R246): At t_R, RUN or SINGLE takes effect: DATA segments are applied again, the first snapshots are taken, and task 0 and the loops start. -/
  | runStart
  /-- POWER_FAIL (R503): Both feeds stay below 17.0 V for 100 µs: RETAIN is entered, outputs switch off, the lanes halt and the Chest store runs; in RESET the boot stops instead. -/
  | powerFail
  /-- CHEST_POWER_FAIL_STORE_END (R430): The power-fail store of every dirty bank, and of a bank whose store was cut, is complete. -/
  | chestPowerFailStoreEnd
  /-- RETAIN_END (R505): Once the store is complete and power good has returned, RETAIN ends with a full reset of cause BROWNOUT. -/
  | retainEnd (facts : BootFacts)
  /-- FEED_LOST (R502): A feed below 18.0 V for 1 ms is lost: its OK bit clears and EV_PMU_FEED is raised. -/
  | feedLost (feed : Fin 2)
  /-- FEED_RESTORED (R502): A feed at or above 18.0 V for 10 ms is restored. -/
  | feedRestored (feed : Fin 2)
  /-- HOLDUP_CHARGED (R501): The hold-up bank has finished charging after power good, and HOLDUP_OK reads 1. -/
  | holdupCharged
  /-- PACE_WINDOW_END (R21): A 1,000-tick pace window ends; PACE and SEQ are written, and MIN is updated. -/
  | paceWindowEnd (lane : LaneId) (steps : Nat)
  /-- PACE_MIN_CLR (R21): Writing MIN_CLR sets SYS_PACE_MIN.MIN to 0xFFFF. -/
  | paceMinClr (src : Src)
  /-- REGISTER_WRITE (R85): A write to a register without a row of its own is checked, then applied, staged in a transaction or held as a pair member, or refused. -/
  | registerWrite (src : Src) (addr : Word) (width : Width) (data : DWord)
  /-- ALIAS_SET_WRITE (R36): A write through the set alias performs an indivisible OR into the RW bits of the register. -/
  | aliasSetWrite (src : Src) (addr data : Word)
  /-- ALIAS_CLEAR_WRITE (R36): A write through the clear alias performs an indivisible AND NOT on the RW bits of the register. -/
  | aliasClearWrite (src : Src) (addr data : Word)
  /-- ALIAS_TOGGLE_WRITE (R36): A write through the toggle alias performs an indivisible XOR on the RW bits of the register. -/
  | aliasToggleWrite (src : Src) (addr data : Word)
  /-- ALIAS_READ (R37): A read through an alias region is a bus error with no side effect. -/
  | aliasRead (src : Src) (addr : Word)
  /-- TXN_BEGIN (R84): A read of TXN_BEGIN by an engine or the HC session opens a transaction and returns a token, or returns 0 with BEGIN_BUSY. -/
  | txnBegin (src : Src)
  /-- TXN_COMMIT (R88): COMMIT with the right token seals the transaction; in RUN the journal is sent to the standby, which compares it. -/
  | txnCommit (src : Src) (token : Half)
  /-- TXN_ROLLBACK (R91): ROLLBACK with the right token discards the journal and closes the transaction. -/
  | txnRollback (src : Src) (token : Half)
  /-- TXN_CLR_CNT (R84): CLR_CNT sets both TXN_CNT fields to 0. -/
  | txnClrCnt (src : Src)
  /-- COMMIT_INSTANT (R88): At the first qualifying instant at least 100 µs after a COMMIT, every block switches to the staged values together. -/
  | commitInstant
  /-- TXN_IDLE_TIMEOUT (R92): An OPEN or ABORTED transaction idle for TXN_CFG.IDLE seconds is rolled back with ABORT_IDLE. -/
  | txnIdleTimeout (lane : LaneId)
  /-- PAIR_TIMEOUT (R94): A staged pair member whose partner is not written within 10 ms is discarded, and EV_PAIR_TIMEOUT is raised. -/
  | pairTimeout (lane : LaneId) (addr : Word)
  /-- IMG_WRITE (R80): The loader checks the image in DRAM and then erases, programs and verifies the slot, with the header programmed last. -/
  | imgWrite (src : Src) (key : Half) (slot : Fin 2)
  /-- IMG_ERASE (R80): The loader erases a slot. -/
  | imgErase (src : Src) (key : Half) (slot : Fin 2)
  /-- IMG_CHECK (R80): The loader reads a slot and checks it in full. -/
  | imgCheck (src : Src) (key : Half) (slot : Fin 2)
  /-- IMG_LOAD (R80): The loader checks a slot and loads it into both lanes. -/
  | imgLoad (src : Src) (key : Half) (slot : Fin 2)
  /-- LOADER_DONE (R80): A loader operation ends; RESULT holds the slot result, and LOADED is updated. -/
  | loaderDone (worn : Bool)
  /-- BEN_RESV (R132): A read of BEN_RESV reserves the next SEQ of the ring, or reports FULL or UNAVAIL. -/
  | benResv (src : Src) (ring : Fin 2)
  /-- BEN_POST (R132): A write of a reserved, unposted SEQ to BEN_POST posts its job; any other SEQ raises EV_BEN_POST_BAD. -/
  | benPost (src : Src) (ring : Fin 2) (data : Word)
  /-- BEN_RING_CONFIG_WRITE (R156): An accepted write of a ring's base, length or completion base restarts SEQ at 0 and releases a halted ring. -/
  | benRingConfigWrite (src : Src) (addr data : Word)
  /-- RESV_TIMEOUT (R133): A head slot left unposted for RESV_TO ms completes with NOT_POSTED. -/
  | resvTimeout (lane : LaneId) (ring : Fin 2)
  /-- BENCH_JOB_START (R134): The Bench starts the posted head of a ring, alternating between rings, and checks the job before it runs. -/
  | benchJobStart (lane : LaneId)
  /-- BENCH_DEADLINE_MISS (R152): A deadline check finds DEADLINE passed, and the job ends DEADLINE, with the iterate written where one exists. -/
  | benchDeadlineMiss (lane : LaneId) (iterations : Nat)
  /-- BENCH_JOB_END (R157): A job reaches its own status, sends it to the peer lane and writes x. -/
  | benchJobEnd (lane : LaneId)
  /-- BENCH_PEER_STATUS (R157): The peer lane's status arrives; the agreed status is formed, and the header and completion entry are written. -/
  | benchPeerStatus (lane : LaneId)
  /-- BENCH_AGREE_TIMEOUT (R158): The peer's status has not arrived by the agreement limit; the lane reports its own status with PEER_SUSPECT. -/
  | benchAgreeTimeout (lane : LaneId)
  /-- PCL_STEP_START (R172): A regular tracker step starts on its grid, takes up fed flows and latches its inputs, or is skipped while the previous step runs. -/
  | pclStepStart
  /-- PCL_STEP_END (R179): A tracker step ends: the output buffer is written and PCL_OUT.SEQ increments. -/
  | pclStepEnd
  /-- RET_STALE (R170): A substation's return value grows older than RET_AGE and is marked RET_STALE. -/
  | retStale (sub : Fin 4096)
  /-- PRED_START (R180): START in PCL_PRED_CMD starts a prediction from the descriptor at PCL_PRED_ADDR, or is refused. -/
  | predStart (src : Src) (key : Half)
  /-- PRED_ABORT (R180): ABORT ends the running prediction ABORTED, with its result untouched. -/
  | predAbort (src : Src) (key : Half)
  /-- PRED_DEADLINE_MISS (R184): A prediction passes its deadline and ends DEADLINE, partial where a step has completed. -/
  | predDeadlineMiss (lane : LaneId) (steps : Nat)
  /-- PRED_END (R184): A prediction completes; its result is written and agreed, PCL_PRED_STAT is updated and EV_PCL_PRED_DONE is raised. -/
  | predEnd (lane : LaneId)
  /-- LOOP_SAMPLE (R196): A loop sample latches, shapes, ages, injects, computes the control law, blends, limits and updates the observer. -/
  | loopSample (loop : Fin 128)
  /-- LOOP_OUTPUT_INSTANT (R193): At the output instant, final outputs are delivered to their destinations and the lane link; an unfinished sample is late. -/
  | loopOutputInstant (loop : Fin 128) (lateA lateB : Bool)
  /-- INJ_START (R209): START in CTL_INJ_CMD begins an injection at the loop's next sample, or is refused. -/
  | injStart (src : Src) (key : Half) (loop : Fin 128)
  /-- INJ_STOP (R211): STOP in CTL_INJ_CMD ends the injection with STOPPED. -/
  | injStop (src : Src) (key : Half) (loop : Fin 128)
  /-- CAP_ARM (R213): ARM starts a capture unit in state PRE. -/
  | capArm (src : Src) (key : Half) (unit : Fin 4)
  /-- CAP_ABORT (R214): ABORT ends a capture unit ABORTED. -/
  | capAbort (src : Src) (key : Half) (unit : Fin 4)
  /-- PROFILE_PERIOD (R228): Every 100 µs each axis generator re-plans and advances, and sends its setpoint to the field die. -/
  | profilePeriod
  /-- SETPOINT_LATE (R229): A period setpoint that has not arrived 50 µs after the period's end freezes the position and sets SP_LATE. -/
  | setpointLate (axis : Fin 16)
  /-- HOLD_CURRENT_DELAY (R223): After HOLD_DELAY ms at rest, the axis current drops to HOLD_I. -/
  | holdCurrentDelay (axis : Fin 16)
  /-- STALL_WINDOW_END (R232): A 1 ms load-angle window ends and is counted toward a stall declaration. -/
  | stallWindowEnd (axis : Fin 16) (delta emf : Half)
  /-- BRIDGE_FAULT (R225): AX_FLT_N low for 10 µs de-energises the axis and sets BRIDGE_FAULT and UNCERTAIN. -/
  | bridgeFault (axis : Fin 16)
  /-- AXIS_REF (R234): The REF command starts referencing in SPEED mode, or is refused. -/
  | axisRef (src : Src) (key : Half) (axis : Fin 16)
  /-- AXIS_STOP (R234): The STOP command ends referencing with REF_FAIL. -/
  | axisStop (src : Src) (key : Half) (axis : Fin 16)
  /-- AXIS_SET_POS (R234): SET_POS sets p to AXS_REF_POS at rest and clears UNCERTAIN, in STOP only. -/
  | axisSetPos (src : Src) (key : Half) (axis : Fin 16)
  /-- AXIS_TARGET_WRITE (R226): A target register write from the bound task is kept for its publish instant; a write from any other requester is refused. -/
  | axisTargetWrite (src : Src) (axis : Fin 16) (speed : Bool) (data : Word)
  /-- CYCLE_START (R246): At a grid instant a task cycle starts: inputs are latched and engines released or pre-empted, or the start is skipped as a slip. -/
  | cycleStart (task : Fin 8) (saveFault : Option (LaneId × Fin 16))
  /-- CYCLE_FINISH (R249): The last engine of a task returns; outputs are copied into the pending image, and a late cycle publishes within 1 µs. -/
  | cycleFinish (lane : LaneId) (task : Fin 8) (writes : List MemWrite)
  /-- ENGINE_TRAP (R238): A trap the runtime does not serve ends the engine's part of the cycle and marks the cycle FAULTED. -/
  | engineTrap (lane : LaneId) (engine : Fin 16) (cause epc tval : Word)
  /-- PUBLISH_INSTANT (R249): Pending images go out at the publish instant, to the pins from the active lane and to the comparators from the standby. -/
  | publishInstant
  /-- MIRROR_WINDOW_END (R302): A mirror window completes, and the next cycle may start. -/
  | mirrorWindowEnd (task : Fin 8)
  /-- OVERRUN_INSTANT (R251): A cycle unfinished or FAULTED at its overrun instant is stopped, nothing is published, and ACTION applies. -/
  | overrunInstant (task : Fin 8)
  /-- RT_INFO (R254): ECALL RT_INFO returns the extended t0 and the period. -/
  | rtInfo (lane : LaneId) (engine : Fin 16)
  /-- RT_NOW (R254): ECALL RT_NOW returns tb32 now. -/
  | rtNow (lane : LaneId) (engine : Fin 16)
  /-- RT_TMR (R256): ECALL RT_TMR scans a TON, TOF or TP timer object. -/
  | rtTmr (lane : LaneId) (engine : Fin 16) (sym : Word) (input : Bool)
  /-- RT_EDGE (R258): ECALL RT_EDGE reports rising and falling edges and updates PREV. -/
  | rtEdge (lane : LaneId) (engine : Fin 16) (sym : Word) (input : Bool)
  /-- RT_HWT_START (R257): ECALL RT_HWT_START sets a hardware timer's expiry, or is refused for a duration out of range. -/
  | rtHwtStart (lane : LaneId) (engine : Fin 16) (timer : Word) (duration : DWord) (evt : Bool)
  /-- RT_HWT_STOP (R254): ECALL RT_HWT_STOP stops a hardware timer. -/
  | rtHwtStop (lane : LaneId) (engine : Fin 16) (timer : Word)
  /-- RT_HWT_QUERY (R257): ECALL RT_HWT_QUERY reports a timer's state as of the input latch, with its expiry. -/
  | rtHwtQuery (lane : LaneId) (engine : Fin 16) (timer : Word)
  /-- RT_FORCED (R254): ECALL RT_FORCED reports whether a symbol is forced. -/
  | rtForced (lane : LaneId) (engine : Fin 16) (sym : Word)
  /-- HWT_EXPIRY (R257): A hardware timer reaches E, becomes EXPIRED and raises EV_CYC_HWT when requested. -/
  | hwtExpiry (lane : LaneId) (timer : Fin 256)
  /-- TASK_RESTART (R252): CYC_TCMD RESTART restarts a STOPPED task at the first grid instant at least 1 ms later. -/
  | taskRestart (src : Src) (key : Half) (task : Fin 8)
  /-- TASK_STEP (R261): CYC_TCMD STEP runs exactly one cycle of a held task. -/
  | taskStep (src : Src) (key : Half) (task : Fin 8)
  /-- TASK_CLR_CNT (R252): CYC_TCMD CLR_CNT clears the task's counters and CYC_EXEC_MAX. -/
  | taskClrCnt (src : Src) (key : Half) (task : Fin 8)
  /-- DEBUG_HALT (R262): A debugger halts an engine, and the tasks that use it are suspended in DEBUG. -/
  | debugHalt (lane : LaneId) (engine : Fin 16)
  /-- DEBUG_RESUME (R262): A halted engine resumes, and the interrupted cycle runs to a late publish. -/
  | debugResume (lane : LaneId) (engine : Fin 16)
  /-- OLC_START (R266): START in TXN_OLC_CMD discards the fallback set and begins verification of the delta, or is refused. -/
  | olcStart (src : Src) (key : Half)
  /-- OLC_VERIFY_DONE (R267): A lane finishes checking and loading the delta and sends its result over the lane link. -/
  | olcVerifyDone (lane : LaneId)
  /-- OLC_PEER_RESULT (R268): The peer's verification result arrives; the change is scheduled or abandoned. -/
  | olcPeerResult (lane : LaneId)
  /-- OLC_PEER_TIMEOUT (R268): No peer result 500 ms after the lane's own result abandons the change with PEER. -/
  | olcPeerTimeout (lane : LaneId)
  /-- OLC_SWITCH (R271): At tS the replaced tasks switch code, MAP and carried symbols, or the switch is postponed. -/
  | olcSwitch
  /-- OLC_ABORT (R276): ABORT abandons a change in VERIFY, READY or SCHEDULED. -/
  | olcAbort (src : Src) (key : Half)
  /-- OLC_REVERT (R276): REVERT switches back to the fallback set. -/
  | olcRevert (src : Src) (key : Half)
  /-- OLC_RELEASE (R276): RELEASE frees the fallback set. -/
  | olcRelease (src : Src) (key : Half)
  /-- DMA_START (R288): START fetches the descriptor at DMA_CH_NEXT and sets the channel RUNNING. -/
  | dmaStart (src : Src) (key : Half) (ch : Fin 16)
  /-- DMA_RESUME (R292): RESUME repeats the failed step of a HALTED channel from the held descriptor. -/
  | dmaResume (src : Src) (key : Half) (ch : Fin 16)
  /-- DMA_ABORT (R288): ABORT stops the channel at the next piece boundary in state ABORTED. -/
  | dmaAbort (src : Src) (key : Half) (ch : Fin 16) (pieces : Nat)
  /-- DMA_DESC_COMPLETE (R287): A descriptor's writes are visible; STATUS, counters and events follow in order, and NEXT is fetched. -/
  | dmaDescComplete (lane : LaneId) (ch : Fin 16)
  /-- DMA_FAULT (R291): A piece meets a fault; the channel HALTS and records the fault. -/
  | dmaFault (lane : LaneId) (ch : Fin 16) (eccAt : Option Nat)
  /-- DMA_CHEST_CONFIRM (R290): The active lane's report of a Chest descriptor's completion releases the standby's held completion. -/
  | dmaChestConfirm (ch : Fin 16)
  /-- SCRUB_READ (R296): The background scrubber reads the next word or block of the lane's memories. -/
  | scrubRead (lane : LaneId) (engine : Fin 16) (addr : Word) (ecc : EccResult)
  /-- HEARTBEAT_SEND (R310): Every 1 µs a lane sends its heartbeat with its health word on both paths. -/
  | heartbeatSend (lane : LaneId)
  /-- HEARTBEAT_RECEIVED (R310): A peer heartbeat arrives and updates the peer health word. -/
  | heartbeatReceived (lane : LaneId) (viaLink : Bool)
  /-- HB_LOSS (R310): Neither path has delivered a heartbeat for 5 µs; HB_LOSS is declared and the decision table is evaluated. -/
  | hbLoss (lane : LaneId)
  /-- LANE_LINK_FAULT (R309): The lane link carries no valid traffic for 5 µs while the field-die path is alive; LINK is set and item 0x8 is evaluated. -/
  | laneLinkFault
  /-- HASH_TIMEOUT (R305): A standby frame hash that has not arrived 50 µs after the active frame counts as a mismatch. -/
  | hashTimeout (can : Bool) (index : Fin 8)
  /-- SUSPECT_WINDOW_EXPIRY (R313): A suspect mismatch older than the count window leaves the count. -/
  | suspectWindowExpiry
  /-- HITLESS_TAKEOVER (R315): At the switch point, the shared dies, the field die, the mirror windows and the link die move to the new active lane. -/
  | hitlessTakeover
  /-- RED_LANE_RESET (R318): At the first switch point after a condemnation, the surviving lane orders a lane reset of the condemned lane, subject to MAX_AUTO. -/
  | redLaneReset
  /-- RED_SWITCH (R322): RED_CMD SWITCH schedules a hitless role exchange at the next publish instant, or is refused. -/
  | redSwitch (src : Src) (key : Half)
  /-- RED_DROP (R311): RED_CMD DROP condemns the standby as under row 3, in RUN only. -/
  | redDrop (src : Src) (key : Half)
  /-- RED_CLR_CNT (R311): RED_CMD CLR_CNT clears RED_MIS. -/
  | redClrCnt (src : Src) (key : Half)
  /-- RESYNC_BOOT_END (R319): A joining lane ends BOOT with a matching digest and enters CHAIN, or holds in RESET while no lane runs. -/
  | resyncBootEnd
  /-- RESYNC_CHAIN_END (R319): The delta chain and the fallback set have been applied, and BULK begins. -/
  | resyncChainEnd
  /-- RESYNC_BULK_END (R319): The bulk copy is complete, and DIRTY passes begin. -/
  | resyncBulkEnd
  /-- RESYNC_DIRTY_PASS_END (R319): A dirty pass ends; DIRTY converges into WAIT, runs another pass, or fails after 8 passes. -/
  | resyncDirtyPassEnd (pendingKiB : Nat)
  /-- RESYNC_FINAL (R321): At tJ, when no blocking condition holds, FINAL copies the unit state, and the lane rejoins as standby in RUN. -/
  | resyncFinal
  /-- RESYNC_TIMEOUT (R321): A resynchronisation phase exceeds its bound, and the attempt fails. -/
  | resyncTimeout
  /-- RESYNC_RETRY (R321): One second after a failed attempt the lane retries from BOOT, up to three attempts. -/
  | resyncRetry
  /-- ETH_FRAME_RECEIVED (R326): A frame arrives on an Ethernet port; ARP, neighbour discovery and echo are answered, and other frames are dispatched or dropped. -/
  | ethFrameReceived (port : Fin 3) (frame : Bytes) (fcsOk : Bool)
  /-- ETH_LINK_CHANGE (R325): A port's link goes up or down, and EV_ETH_LINK is raised. -/
  | ethLinkChange (port : Fin 3) (up : Bool) (speed : Fin 4)
  /-- PRP_SUPERVISION_SEND (R327): Every LIFE_MS a PRP supervision frame is sent. -/
  | prpSupervisionSend
  /-- PRP_LAN_SILENT (R327): A LAN silent for 3 × LIFE_MS raises EV_ETH_PRP_LAN. -/
  | prpLanSilent (lanB : Bool)
  /-- MST_DATAGRAM_RECEIVED (R335): The link die stamps an MST datagram and admits it through the token bucket to both lanes' queues, or drops it. -/
  | mstDatagramReceived (port : Fin 3) (vid : Nat) (source : Bytes) (payload : Bytes)
  /-- MST_TELEGRAM_PROCESS (R337): A lane takes the next queued telegram, checks it and applies its records. -/
  | mstTelegramProcess (lane : LaneId)
  /-- MST_VALUES_VISIBLE (R340): At the first tick at least 250 µs after both lanes have processed a telegram, its changes become visible. -/
  | mstValuesVisible
  /-- MST_SUB_TIMEOUT (R341): A substation silent for SUB_TO seconds goes offline. -/
  | mstSubTimeout (sub : Fin 4096)
  /-- MST_SETPOINT_EVAL (R344): At a publish instant, or at a tick in STOP, substations are evaluated and setpoint telegrams are emitted. -/
  | mstSetpointEval
  /-- MST_ACK_TIMEOUT (R346): A setpoint telegram unacknowledged after ACK_TO ms is retried, or sets ACK_FAIL after the last retry. -/
  | mstAckTimeout (sub : Fin 4096)
  /-- MST_SEND (R344): MST_CMD SEND makes a substation due for a setpoint telegram. -/
  | mstSend (src : Src) (key : Half) (sub : Fin 4096)
  /-- MST_RESUME (R348): MST_CMD RESUME restarts the state-array writes after a fault. -/
  | mstResume (src : Src) (key : Half)
  /-- MST_EPOCH (R333): MST_CMD EPOCH moves a substation to epoch E + 1 at once. -/
  | mstEpoch (src : Src) (key : Half) (sub : Fin 4096)
  /-- CAN_FRAME_RECEIVED (R357): A valid received frame is filtered and stored in a buffer or the FIFO, or discarded. -/
  | canFrameReceived (ch : Fin 8) (frame : CanFrame) (sof : Word)
  /-- CAN_REQ (R363): REQ puts a transmit buffer in PENDING with its counters reset, or is refused. -/
  | canReq (src : Src) (ch : Fin 8) (buf : Fin 64)
  /-- CAN_ABORT (R363): ABORT ends a PENDING buffer at once, or an ACTIVE one after its attempt. -/
  | canAbort (src : Src) (ch : Fin 8) (buf : Fin 64)
  /-- CAN_TX_ATTEMPT_START (R362): At an arbitration opportunity the controller offers the PENDING buffer with the lowest identifier, and the frames are compared. -/
  | canTxAttemptStart (ch : Fin 8)
  /-- CAN_TX_SUCCESS (R363): An attempt succeeds; the buffer becomes SENT and is stamped. -/
  | canTxSuccess (ch : Fin 8)
  /-- CAN_ARB_LOST (R364): An attempt loses arbitration; ARB_CNT increments and may end the buffer ARB_EXHAUSTED. -/
  | canArbLost (ch : Fin 8)
  /-- CAN_TX_ERROR (R364): An attempt ends in an error; ERR_CNT and the fault-confinement counters update, possibly to bus-off. -/
  | canTxError (ch : Fin 8) (lec : Fin 7)
  /-- CAN_BUSOFF_RECOVERY (R366): After 128 sequences of 11 recessive bits, the channel returns to error active. -/
  | canBusoffRecovery (ch : Fin 8)
  /-- CAN_PEER_TX_EVENT (R368): The standby applies a transmit event forwarded from the active controller. -/
  | canPeerTxEvent (ch : Fin 8)
  /-- CAN_FIFO_POP (R358): A write of CAN_FIFO_POP removes the oldest FIFO record. -/
  | canFifoPop (src : Src) (ch : Fin 8) (data : Word)
  /-- TB_NOW_LO_READ (R373): A read of TB_NOW_LO returns tb32 and captures the whole count for the requester. -/
  | tbNowLoRead (src : Src)
  /-- TB_NOW_HI_READ (R373): A read of TB_NOW_HI returns the high word of the requester's capture, or of the present count. -/
  | tbNowHiRead (src : Src)
  /-- TB_WRAP (R373): tb32 carries out, and EV_TB_WRAP is raised. -/
  | tbWrap
  /-- TB_RATE_WRITE (R376): A TB_RATE write changes the count rate from the next tick. -/
  | tbRateWrite (src : Src) (data : Word)
  /-- TB_STEP (R377): TB_CMD STEP accepts the single permitted step for the next tick, or refuses it with USED, MODE or RANGE. -/
  | tbStep (src : Src) (key : Half)
  /-- TB_STEP_APPLY (R377): At the next 250 µs tick the count becomes t + STEP, and running timers move with it. -/
  | tbStepApply
  /-- PPS_OUT (R381): PTP time reaches a whole second, and a PPS pulse of WIDTH ms is driven. -/
  | ppsOut
  /-- PPS_IN_EDGE (R381): A selected PPS-in edge is stamped to TB_PPS_IN. -/
  | ppsInEdge (falling : Bool)
  /-- REF10_COUNT_END (R381): At each whole second the 10 MHz edge count is written and checked for validity. -/
  | ref10CountEnd (count : BitVec 24)
  /-- PTP_RX (R384): A received PTP message is stamped and queued, or dropped when the queue is full. -/
  | ptpRx (port : Fin 3) (transport : Fin 3) (vlan : Bool) (mac ip msg : Bytes)
  /-- PTP_RX_POP (R384): POP removes the head of the PTP receive queue. -/
  | ptpRxPop (src : Src)
  /-- PTP_SEND (R385): SEND queues a PTP frame from TB_PTP_TX_BUF, held to its plan with ONE_STEP, or is refused. -/
  | ptpSend (src : Src) (key : Half) (tag : Byte) (oneStep : Bool)
  /-- PTP_TX_DEPART (R385): A PTP frame departs, with its correction and checksum updated, and a status entry is written. -/
  | ptpTxDepart (linkUp : Bool)
  /-- PTP_TX_LATE (R385): A frame that cannot leave by plan + 1 ms is dropped LATE. -/
  | ptpTxLate
  /-- PTP_TXS_POP (R385): POP removes the head transmit status entry. -/
  | ptpTxsPop (src : Src)
  /-- RTC_TIME_READ (R388): A read of an RTC time register freezes the lane's shadow, or releases it on RTC_YEAR. -/
  | rtcTimeRead (src : Src) (reg : Fin 7)
  /-- RTC_FREEZE_TIMEOUT (R388): 2 ms after a freeze, the shadow is released. -/
  | rtcFreezeTimeout (lane : LaneId)
  /-- RTC_GO (R389): GO checks the staged time and date, and rejects an invalid set with BADSET. -/
  | rtcGo (src : Src) (key : Half)
  /-- RTC_SET_APPLY (R389): A valid set applies at the next RTC edge, ending recorder periods and adjusting alarms. -/
  | rtcSetApply
  /-- RTC_OSC_STOP (R390): The crystal stops for 4 or more periods, and OSF is set. -/
  | rtcOscStop
  /-- RTC_SECOND (R393): At each whole second the calendar advances, alarms are compared, and the year rollover is handled. -/
  | rtcSecond
  /-- RTC_WAKE (R392): Every N × 2⁻¹⁰ s, EV_RTC_WAKE is raised. -/
  | rtcWake
  /-- RTC_WAKE_WRITE (R392): A write of RTC_WAKE sets N and restarts the wake count. -/
  | rtcWakeWrite (src : Src) (n : Word)
  /-- MTR_INTERVAL_END (R400): An 80-sample metering interval ends; powers, RMS values and energy registers update. -/
  | mtrIntervalEnd (point : Fin 8) (raw : List (List (BitVec 24)))
  /-- MTR_MOD_FAULT (R397): A data line stuck for 1,024 modulator clocks puts its channel in MOD_FAULT. -/
  | mtrModFault (ch : Fin 48)
  /-- MTR_MOD_OK (R397): 8,000 samples without a new fault clear MOD_FAULT. -/
  | mtrModOk (ch : Fin 48)
  /-- MTR_ZERO_CROSSING (R403): A rising crossing is confirmed, stamped, and the frequency is updated. -/
  | mtrZeroCrossing (point : Fin 8) (phase : Fin 3) (vals : List F64)
  /-- MTR_ZC_TIMEOUT (R404): No confirmed crossing for ZC_TO ms invalidates the channel's frequency. -/
  | mtrZcTimeout (point : Fin 8) (phase : Fin 3)
  /-- THQ_INSTANT (R406): At each 100 ms instant every accumulator latches its sources and integrates energy. -/
  | thqInstant
  /-- MTR_SAVE (R412): MTR_CMD SAVE writes the MTR counter pair record. -/
  | mtrSave (src : Src) (key : Half)
  /-- THQ_SAVE (R412): THQ_CMD SAVE writes both THQ pair records. -/
  | thqSave (src : Src) (key : Half)
  /-- COUNTER_SAVE_PERIOD (R412): Every SAVE_S seconds, the counter pair records are written. -/
  | counterSavePeriod (thq : Bool)
  /-- COUNTER_LO_READ (R410): A read of an MTR or THQ _LO word captures its _HI word for the requester. -/
  | counterLoRead (src : Src) (addr : Word)
  /-- DI_FILTER_CHANGE (R418): An input's filter counter reaches an end and F changes; the change is stamped, counted and may raise EV_DIO_EDGE. -/
  | diFilterChange (ch : Fin 64) (level : Bool)
  /-- DI_WIRE_BREAK (R420): Input current below WB_THR for 10 ms puts the channel in wire break. -/
  | diWireBreak (ch : Fin 64)
  /-- DI_WIRE_BREAK_END (R420): Current at or above WB_THR for 10 ms ends the wire break, and F takes the filtered value. -/
  | diWireBreakEnd (ch : Fin 64)
  /-- DQ_SWITCH_ON_SLOT (R423): Every 250 µs the first 8 queued channels switch on. -/
  | dqSwitchOnSlot
  /-- LPLUS_LOW (R421): A group's L+ falls below 16 V; its outputs cannot drive and leave the queue. -/
  | lplusLow (group : Fin 4)
  /-- LPLUS_RETURN (R421): L+ returns to 16 V or above, and the group's targeted channels rejoin the queue. -/
  | lplusReturn (group : Fin 4)
  /-- DQ_OVERLOAD (R422): A channel held at the 1.2 A limit for 100 µs sets OVERLOAD. -/
  | dqOverload (ch : Fin 32)
  /-- DQ_OVERTEMP (R422): A channel's junction reaches 150 °C, and the channel shuts down. -/
  | dqOvertemp (ch : Fin 32)
  /-- DQ_COOLED (R422): The junction falls below 130 °C; an auto-restart or held CLEAR releases the channel into the queue. -/
  | dqCooled (ch : Fin 32)
  /-- DQ_OPEN_WIRE (R422): An open-wire condition lasts 10 ms and sets OPEN_OFF or OPEN_ON. -/
  | dqOpenWire (ch : Fin 32)
  /-- DQ_OPEN_WIRE_CLEAR (R422): 10 ms without the open-wire condition clears it. -/
  | dqOpenWireClear (ch : Fin 32)
  /-- DQ_CLEAR (R422): DIO_CMD CLEAR releases a latched OVERTEMP, at once or once the junction has cooled. -/
  | dqClear (src : Src) (key : Half) (ch : Byte)
  /-- DI_CLR_CNT (R419): DIO_CMD CLR_CNT sets an input's edge count to 0. -/
  | diClrCnt (src : Src) (key : Half) (ch : Byte)
  /-- CHEST_STORE_CMD (R428): CHS_CMD STORE adds the banks of MASK to the pending store set. -/
  | chestStoreCmd (src : Src) (key : Half) (mask : Byte)
  /-- CHEST_BANK_STORE_END (R428): A bank store ends; held writes to the bank are released and the next pending bank starts. -/
  | chestBankStoreEnd
  /-- CHEST_MARGIN_READ (R436): A background margin read of a page finds it sound or weak, and a weak page schedules a refresh. -/
  | chestMarginRead (bank : Fin 8) (page : Fin 512) (weak : Bool)
  /-- CHEST_PROT_WRITE (R434): A write of CHS_PROT.PROT sets bank protection, unless LOCK is set. -/
  | chestProtWrite (src : Src) (prot : Fin 4)
  /-- CHEST_LOCK (R435): Writing 1 to LOCK locks PROT until the next full reset. -/
  | chestLock (src : Src)
  /-- CHEST_GROUP_OPEN (R437): OPEN starts buffering engine writes into a group's range, or is refused. -/
  | chestGroupOpen (src : Src) (key : Half) (group : Fin 8) (words : Nat) (owner : Fin 16)
  /-- CHEST_GROUP_CLOSE (R438): CLOSE sends the buffered bytes to the Chest die as one commit. -/
  | chestGroupClose (src : Src) (key : Half) (group : Fin 8)
  /-- CHEST_GROUP_DISCARD (R438): DISCARD drops the group's buffer. -/
  | chestGroupDiscard (src : Src) (key : Half) (group : Fin 8)
  /-- CHEST_GROUP_COMMIT_APPLIED (R438): The Chest die applies a group commit in one step, or refuses it for a protected bank; the group returns to CLOSED. -/
  | chestGroupCommitApplied (lane : LaneId)
  /-- PAIR_RECORD_WRITE (R440): The pair unit writes LEN bytes into the older or invalid copy of a pair record. -/
  | pairRecordWrite (src : Src) (key : Half)
  /-- PAIR_RECORD_READ (R441): The pair unit selects the newest valid copy and copies it to CHS_PAIR_BUF. -/
  | pairRecordRead (src : Src) (key : Half)
  /-- PAIR_UNIT_DONE (R442): A pair-unit operation ends, and its RESULT, COPY and SEQ are reported. -/
  | pairUnitDone (lane : LaneId)
  /-- REC_WATCH_SAMPLE (R447): A watch point samples its source and bins the value, or counts it as missed. -/
  | recWatchSample (watch : Fin 1024)
  /-- REC_PERIOD_END (R448): A watch period ends at a calendar multiple, and its record is queued. -/
  | recPeriodEnd (watch : Fin 1024)
  /-- REC_RAISE (R449): A write of REC_RAISE counts an occurrence of a code with the requester's latched value. -/
  | recRaise (src : Src) (key : Half) (code : Fin 1024)
  /-- REC_RAISE_VAL (R449): A write of REC_RAISE_VAL fills the writing requester's own value latch. -/
  | recRaiseVal (src : Src) (data : Word)
  /-- REC_TALLY_REWRITE_DUE (R450): RATE ms after a tally's last rewrite, its suppressed live change is queued for writing. -/
  | recTallyRewriteDue (code : Fin 1024)
  /-- REC_RECORD_WRITE (R452): The next queued record is written to a chosen slot under the SEQ protocol, or dropped. -/
  | recRecordWrite (lane : LaneId)
  /-- REC_SCAN_END (R454): The region scan after entry to STOP ends, tallies are restored, and recording begins. -/
  | recScanEnd (lane : LaneId)
  /-- REC_CLEAR (R454): REC_CMD CLEAR frees every slot and zeroes every live tally, in STOP only. -/
  | recClear (src : Src) (key : Half)
  /-- REC_CLR_CNT (R454): REC_CMD CLR_CNT clears REC_CNT. -/
  | recClrCnt (src : Src) (key : Half)
  /-- KEY_WRITE (R459): KEY_CMD WRITE stores the staged value and attributes in a slot with its tag, or is refused. -/
  | keyWrite (src : Src) (key : Half) (slot : Fin 32)
  /-- KEY_ERASE (R459): KEY_CMD ERASE empties a slot, subject to LOCK. -/
  | keyErase (src : Src) (key : Half) (slot : Fin 32)
  /-- KEY_DERIVE (R465): KEY_CMD DERIVE computes a KMAC256 output into a slot or KEY_OUT. -/
  | keyDerive (src : Src) (key : Half) (slot : Fin 32)
  /-- KEY_CMD_DONE (R459): A key command completes; the slot state and KEY_RESULT are updated and the staged words are cleared. -/
  | keyCmdDone (lane : LaneId)
  /-- KEY_FORWARDED_OP (R462): The standby applies a slot write or erase forwarded by the active lane. -/
  | keyForwardedOp (lane : LaneId)
  /-- KEY_SCRUB (R460): The key-check unit verifies the tag of each VALID slot, marking a failing slot BAD. -/
  | keyScrub (lane : LaneId) (slot : Fin 32) (tagOk : Bool)
  /-- ATTEST (R472): ATT_CMD ATTEST starts a signed attestation statement, or is refused. -/
  | attest (src : Src) (key : Half)
  /-- ATTEST_DONE (R472): The statement is written to ATT_OUT, or ends SIGN_LIMIT, and EV_ATT_DONE is raised. -/
  | attestDone (lane : LaneId)
  /-- SEED_SET (R468): ATT_CMD SEED_SET stores ROOT_SEED, erases every slot and runs KeyGen, in CONFIGURE with the latch set. -/
  | seedSet (src : Src) (key : Half)
  /-- ANCHOR_PROGRAM (R469): KPR_OTP_CMD PROGRAM burns the staged digest into a blank anchor. -/
  | anchorProgram (src : Src) (key : Half) (anchor : Fin 4)
  /-- ANCHOR_REVOKE (R469): KPR_OTP_CMD REVOKE burns an anchor's revoked bit. -/
  | anchorRevoke (src : Src) (key : Half) (anchor : Fin 4)
  /-- ANCHOR_BURN_DONE (R469): An OTP burn completes, and EV_ATT_ANCHOR is raised. -/
  | anchorBurnDone
  /-- HC_HELLO (R477): A HELLO is answered with a CHALLENGE and a new session number, or refused with BUSY. -/
  | hcHello (dg : HcDatagram)
  /-- HC_OPEN (R477): An OPEN whose tag verifies opens the session and is answered with OPEN_ACK. -/
  | hcOpen (dg : HcDatagram)
  /-- HC_CHALLENGE_TIMEOUT (R477): A CHALLENGE whose OPEN has not arrived within 2 s is forgotten. -/
  | hcChallengeTimeout
  /-- HC_REQUEST (R479): A REQUEST is decrypted and executed, or its cached response is resent, or it is dropped as a replay. -/
  | hcRequest (dg : HcDatagram)
  /-- HC_RESPONSE_CONFIRM (R481): The standby confirms receipt of a RESPONSE or EVENT frame, and the active lane sends it. -/
  | hcResponseConfirm
  /-- HC_EVENT_FRAME_SEND (R483): With no frame outstanding, the active lane builds an EVENT frame from its queue and passes it to the standby. -/
  | hcEventFrameSend
  /-- HC_EVENT_RESEND (R483): An unacknowledged EVENT frame is sent again every 200 ms. -/
  | hcEventResend
  /-- UART_FRAME (R485): A service-UART frame with a good CRC is executed in clear text while the latch is set, and answered. -/
  | uartFrame (frame : Bytes)
  /-- IND_DATA_READ (R489): A read of IND_DATA reads the slow register at IND_ADDR, stalling until the data returns. -/
  | indDataRead (src : Src)
  /-- IND_DATA_WRITE (R489): A write of IND_DATA posts a slow-register write and sets BUSY. -/
  | indDataWrite (src : Src) (data : Word)
  /-- IND_WRITE_APPLIED (R489): The target applies a posted IND write, or ends it with IND error status, and BUSY clears. -/
  | indWriteApplied (src : Src)
  /-- TV_SCRUB (R488): The ·TV scrub repairs a differing copy, or sets REG_FATAL when all three differ. -/
  | tvScrub (lane : LaneId) (addr c0 c1 c2 : Word)
  /-- SNAP_TAKE (R490): SNAP_CMD TAKE requests a snapshot at the next 250 µs tick. -/
  | snapTake (src : Src) (key : Half)
  /-- SNAP_CAPTURE (R490): At the tick, counters and the extended count are copied to the holding registers, and SNAP_SEQ increments. -/
  | snapCapture
  /-- FR_CMD_STOP (R491): Forerunner FR_CMD STOP is carried out as SYS_MODE_CMD STOP. -/
  | frCmdStop (src : Src) (word : Word)
  /-- FR_CMD_RUN (R491): Forerunner FR_CMD RUN is carried out as SYS_MODE_CMD RUN. -/
  | frCmdRun (src : Src) (word : Word)
  /-- FR_CMD_SAFE (R491): Forerunner FR_CMD SAFE is carried out as SYS_MODE_CMD SAFE. -/
  | frCmdSafe (src : Src) (word : Word)
  /-- FR_SNAP (R491): A write of FR_SNAP requests a snapshot. -/
  | frSnap (src : Src) (word : Word)
  /-- EVT_Q_POP (R497): A write of EVT_Q_POP removes the head record of an engine's event queue. -/
  | evtQPop (src : Src) (engine : Fin 16) (data : Word)
  /-- SPRINT_ENTER (R506): PMU_SPRINT_CMD ENTER is accepted when the back plate and the budget allow, or is refused. -/
  | sprintEnter (src : Src) (key : Half)
  /-- SPRINT_LEAVE (R508): PMU_SPRINT_CMD LEAVE starts the step-down of both lanes. -/
  | sprintLeave (src : Src) (key : Half)
  /-- SPRINT_POINT_REACHED (R506): A lane reaches the sprint point at its tick, sets SPRINT and raises EV_PACE_SPRINT_START. -/
  | sprintPointReached (lane : LaneId)
  /-- SPRINT_BUDGET_BIN (R507): A 1 s budget bin ends; the budget is updated, and a spent budget ends the sprint. -/
  | sprintBudgetBin (lane : LaneId)
  /-- JUNCTION_LIMIT (R508): A lane's junction reaches 105 °C, which ends its sprint. -/
  | junctionLimit (lane : LaneId) (tenths : Half)
  /-- BACKPLATE_LIMIT (R508): The back plate rises above 60 °C, which ends the sprint of both lanes. -/
  | backplateLimit (tenths : Half)
  /-- SPRINT_STEP_DOWN (R508): Each 1 ms the core steps down toward 0.78 V; at the last step SPRINT clears. -/
  | sprintStepDown (lane : LaneId)
  /-- BACKPLATE_WARN_CROSS (R509): The back plate crosses WARN, or WARN − 2 °C, and TEMP_HIGH toggles with EV_PMU_THERMAL. -/
  | backplateWarnCross (tenths : Half)
  /-- CAN_BUS_INTEGRATED (R353): A CAN controller that is off or integrating sees 11 consecutive recessive bits and joins the bus as error active. -/
  | canBusIntegrated (ch : Fin 8)
  /-- CAN_RX_ERROR (R366): A bus error detected while receiving a frame raises the receive error counter and can make the channel error passive. -/
  | canRxError (ch : Fin 8) (lec : Fin 7) (by8 : Bool)
  /-- AX_FLT_N_HIGH (R225): AX_FLT_N of an axis returns high after a bridge fault, so that REF and SET_POS are accepted again. -/
  | axFltNHigh (axis : Fin 16)
  /-- HOLDUP_BANK_SPENT (R505): With the feeds not recovered, the hold-up bank is spent and the module loses power, leaving RETAIN or a stopped boot. -/
  | holdupBankSpent
  /-- CHEST_WRITE (R429): An engine write to the Chest marks its bank dirty, and is held during a store of that bank, logged from the standby port, buffered by an open group or refused in a protected bank. -/
  | chestWrite (lane : LaneId) (engine : Fin 16) (addr : Word) (data : Bytes)
  /-- AUTO_RESET_AGE_OUT (R318): An automatic lane reset leaves the 24 h count, and RED_STAT.AUTO decreases. -/
  | autoResetAgeOut
  /-- KEYGEN_DONE (R468): ML-DSA-65 KeyGen after an accepted SEED_SET completes, the identity key becomes available and EV_ATT_SEED is raised. -/
  | keygenDone (lane : LaneId)
deriving DecidableEq, Repr

end Sys2Proof
end

