-- ==== Sys2Proof/Decode.lean ====
section
/-! DEFINITION. Decode.lean: the command a word spells by the bits of spec/opcode_table.json. The module is a block and no
row of the table gives bits (every row's field list is empty), so no word spells a command. -/
namespace Sys2Proof

/-- The command whose table bits are `w`: none, since no row of the table gives bits. -/
def decodeTableWord (_nbits _w : Nat) : Option Instr := none

end Sys2Proof
end

