-- ==== Sys2Proof/Machine/Bits.lean ====
section
/-! DEFINITION. Machine/Bits.lean: bit fields, byte order, saturation and signed differences, the helpers every block
shares. Little-endian throughout (R40); tb32 values compare by signed 32-bit difference (R11). -/
namespace Sys2Proof.Machine

/-- Bits [lo + n - 1 : lo] of a register word, as a number. -/
def fieldOf (w : Word) (lo n : Nat) : Nat := (w.toNat >>> lo) % 2 ^ n

/-- The mask of bits [lo + n - 1 : lo]. -/
def maskOf (lo n : Nat) : Word := BitVec.ofNat 32 ((2 ^ n - 1) <<< lo)

/-- `w` with bits [lo + n - 1 : lo] replaced by `v` (modulo 2^n). -/
def withField (w : Word) (lo n v : Nat) : Word :=
  (w &&& ~~~ maskOf lo n) ||| BitVec.ofNat 32 ((v % 2 ^ n) <<< lo)

/-- Bit `i` of a word. -/
def bitOf (w : Word) (i : Nat) : Bool := w.getLsbD i

/-- A saturating count of `bits` bits, one more. -/
def satInc (bits v : Nat) : Nat := if v + 1 < 2 ^ bits then v + 1 else 2 ^ bits - 1

/-- A saturating count of `bits` bits, `k` more. -/
def satAdd (bits v k : Nat) : Nat := if v + k < 2 ^ bits then v + k else 2 ^ bits - 1

/-- Truth as a bit. -/
def bit (b : Bool) : Nat := if b then 1 else 0

/-- The signed value of the low `n` bits of `v` (two's complement). -/
def signed (n v : Nat) : Int :=
  if v % 2 ^ n < 2 ^ (n - 1) then (v % 2 ^ n : Nat) else (v % 2 ^ n : Nat) - (2 ^ n : Nat)

/-- The low `n` bits that encode an integer (two's complement). -/
def unsignedOf (n : Nat) (v : Int) : Nat := (v % (2 ^ n : Nat)).toNat

/-- The signed 32-bit difference value - now (R11). -/
def diff32 (value now : Nat) : Int := signed 32 (value + 2 ^ 32 - now % 2 ^ 32)

/-- Byte `i` of a string of bytes; bytes beyond its end read 0. -/
def byteAt (bs : Bytes) (i : Nat) : Nat := (bs.getD i 0).toNat

/-- The little-endian value of bytes [off, off + n) (R40). -/
def leAt (bs : Bytes) (off : Nat) : Nat → Nat
  | 0 => 0
  | n + 1 => leAt bs off n + byteAt bs (off + n) * 2 ^ (8 * n)

/-- The value of a whole string of bytes, little-endian. -/
def leVal : Bytes → Nat
  | [] => 0
  | b :: bs => b.toNat + 256 * leVal bs

def u8At (bs : Bytes) (off : Nat) : Nat := byteAt bs off
def u16At (bs : Bytes) (off : Nat) : Nat := leAt bs off 2
def u32At (bs : Bytes) (off : Nat) : Nat := leAt bs off 4
def u64At (bs : Bytes) (off : Nat) : Nat := leAt bs off 8
def i16At (bs : Bytes) (off : Nat) : Int := signed 16 (leAt bs off 2)
def i32At (bs : Bytes) (off : Nat) : Int := signed 32 (leAt bs off 4)
def f32At (bs : Bytes) (off : Nat) : F32 := BitVec.ofNat 32 (leAt bs off 4)
def f64At (bs : Bytes) (off : Nat) : F64 := BitVec.ofNat 64 (leAt bs off 8)

/-- `n` bytes of a number, the least significant first (R40). -/
def leBytes : Nat → Nat → Bytes
  | 0, _ => []
  | n + 1, v => BitVec.ofNat 8 v :: leBytes n (v / 256)

/-- `n` bytes of a number, the most significant first (PTP and wire order, R41). -/
def beBytes (n v : Nat) : Bytes := (leBytes n v).reverse

/-- The big-endian value of bytes [off, off + n) (R41). -/
def beAt (bs : Bytes) (off : Nat) : Nat → Nat
  | 0 => 0
  | n + 1 => beAt bs off n * 256 + byteAt bs (off + n)

/-- Bytes [off, off + n), padded with zeros beyond the end. -/
def slice (bs : Bytes) (off n : Nat) : Bytes :=
  let t := (bs.drop off).take n
  t ++ List.replicate (n - t.length) 0

/-- `bs` with the bytes from `off` on replaced by `new`; bytes beyond the end of `bs` are dropped. -/
def splice (bs : Bytes) (off : Nat) (new : Bytes) : Bytes :=
  (bs.take off ++ new ++ bs.drop (off + new.length)).take bs.length

/-- Every byte of [off, off + n) is `v`. -/
def allAt (bs : Bytes) (off n : Nat) (v : Byte) : Bool := (slice bs off n).all (· == v)

/-- A string of `n` zero bytes. -/
def zeros (n : Nat) : Bytes := List.replicate n 0

/-- Rounded-up division. -/
def ceilDiv (a b : Nat) : Nat := (a + b - 1) / b

/-- Integer square root, by 128 steps of bitwise descent. -/
def isqrtAux (n : Nat) : Nat → Nat → Nat
  | 0, r => r
  | k + 1, r => let c := r + 2 ^ k; isqrtAux n k (if c * c ≤ n then c else r)

/-- The largest `r` below 2^128 with r^2 ≤ n. -/
def isqrt (n : Nat) : Nat := isqrtAux n 128 0

/-- Number of significant bits of a number, by descent over at most 4,096 bits. -/
def bitLen (n : Nat) : Nat := if n = 0 then 0 else Nat.log2 n + 1

/-- Set bits of a word. -/
def popCount (w : Word) : Nat := (List.range 32).countP (fun i => w.getLsbD i)

/-- The indices below `n` at which a mask has its bit set, ascending. -/
def bitsOf (n mask : Nat) : List Nat := (List.range n).filter (fun i => mask.testBit i)

end Sys2Proof.Machine
end

