-- ==== Sys2Proof/Machine/Fp.lean ====
section
/-! DEFINITION. Machine/Fp.lean: IEEE 754 binary32 and binary64 arithmetic, round to nearest with ties to even (R141,
R199: the arithmetic of the Bench and of the control engine is IEEE 754 in round-to-nearest-even). An operation is
computed exactly on dyadic numbers and rounded once. A NaN result is the quiet NaN 0x7FC0_0000 (R404 names that
encoding for FP32; for FP64 the corresponding 0x7FF8_0000_0000_0000). -/
namespace Sys2Proof.Machine

/-- A floating value taken apart. A finite value is ± m × 2^e. -/
inductive Fp where
  | nan
  | inf (neg : Bool)
  | fin (neg : Bool) (m : Nat) (e : Int)
deriving DecidableEq, Repr

/-- The two formats: mantissa bits with the hidden one, exponent bits. -/
structure FpFmt where
  p : Nat
  w : Nat
deriving DecidableEq, Repr

def fmt32 : FpFmt := ⟨24, 8⟩
def fmt64 : FpFmt := ⟨53, 11⟩

def FpFmt.bias (f : FpFmt) : Nat := 2 ^ (f.w - 1) - 1
/-- Exponent of the least significant bit of a subnormal number. -/
def FpFmt.emin (f : FpFmt) : Int := 2 - (f.bias : Int) - (f.p : Int)
def FpFmt.maxE (f : FpFmt) : Nat := 2 ^ f.w - 1

/-- Take an encoding apart. -/
def unpackN (f : FpFmt) (b : Nat) : Fp :=
  let frac := b % 2 ^ (f.p - 1)
  let ex := (b / 2 ^ (f.p - 1)) % 2 ^ f.w
  let neg := (b / 2 ^ (f.p - 1 + f.w)) % 2 == 1
  if ex = f.maxE then (if frac = 0 then .inf neg else .nan)
  else if ex = 0 then .fin neg frac f.emin
  else .fin neg (frac + 2 ^ (f.p - 1)) (f.emin + ((ex : Int) - 1))

/-- Round a nonnegative dyadic m × 2^e to an integer count of units of 2^q, ties to even. -/
def roundUnits (m : Nat) (e q : Int) : Nat :=
  if q ≤ e then m <<< (e - q).toNat
  else
    let s := (q - e).toNat
    let d := m >>> s
    let r := m - (d <<< s)
    let half := 1 <<< (s - 1)
    if half < r ∨ (r = half ∧ d % 2 = 1) then d + 1 else d

/-- Encode a value, rounding to nearest, ties to even; overflow gives infinity. -/
def packN (f : FpFmt) : Fp → Nat
  | .nan => (f.maxE * 2 + 1) * 2 ^ (f.p - 2)
  | .inf neg => (bit neg * 2 ^ f.w + f.maxE) * 2 ^ (f.p - 1)
  | .fin neg m e =>
    let s := bit neg * 2 ^ (f.w + f.p - 1)
    if m = 0 then s
    else
      let top : Int := e + (bitLen m : Int)
      let q : Int := max f.emin (top - f.p)
      let d := roundUnits m e q
      -- d counts units of 2^q; a carry to 2^p moves to the next exponent by itself
      let ex := (q - f.emin).toNat
      let enc := if d < 2 ^ (f.p - 1) then d else ex * 2 ^ (f.p - 1) + d
      if f.maxE * 2 ^ (f.p - 1) ≤ enc then s + f.maxE * 2 ^ (f.p - 1) else s + enc

def unpack64 (x : F64) : Fp := unpackN fmt64 x.toNat
def pack64 (v : Fp) : F64 := BitVec.ofNat 64 (packN fmt64 v)
def unpack32 (x : F32) : Fp := unpackN fmt32 x.toNat
def pack32 (v : Fp) : F32 := BitVec.ofNat 32 (packN fmt32 v)

/-- Exact value of a signed dyadic integer. -/
def Fp.ofInt (v : Int) (e : Int) : Fp := .fin (decide (v < 0)) v.natAbs e

def signedM (neg : Bool) (m : Nat) : Int := if neg then -(m : Int) else m

/-- Exact sum (before rounding). An exact zero sum of opposite signs is +0. -/
def Fp.add : Fp → Fp → Fp
  | .nan, _ => .nan
  | _, .nan => .nan
  | .inf a, .inf b => if a = b then .inf a else .nan
  | .inf a, _ => .inf a
  | _, .inf b => .inf b
  | .fin a m e, .fin b n k =>
    if m = 0 ∧ n = 0 then .fin (a && b) 0 0
    else
      let q := min e k
      let v := signedM a (m <<< (e - q).toNat) + signedM b (n <<< (k - q).toNat)
      .ofInt v q

def Fp.neg : Fp → Fp
  | .nan => .nan
  | .inf a => .inf (!a)
  | .fin a m e => .fin (!a) m e

/-- Exact product (before rounding). -/
def Fp.mul : Fp → Fp → Fp
  | .nan, _ => .nan
  | _, .nan => .nan
  | .inf a, .inf b => .inf (a != b)
  | .inf a, .fin b n _ => if n = 0 then .nan else .inf (a != b)
  | .fin a m _, .inf b => if m = 0 then .nan else .inf (a != b)
  | .fin a m e, .fin b n k => .fin (a != b) (m * n) (e + k)

/-- Quotient with enough bits and a sticky bit for one correct rounding. -/
def Fp.div : Fp → Fp → Fp
  | .nan, _ => .nan
  | _, .nan => .nan
  | .inf _, .inf _ => .nan
  | .inf a, .fin b _ _ => .inf (a != b)
  | .fin a _ _, .inf b => .fin (a != b) 0 0
  | .fin a m e, .fin b n k =>
    if n = 0 then (if m = 0 then .nan else .inf (a != b))
    else if m = 0 then .fin (a != b) 0 0
    else
      let s := 66 + bitLen n
      let q := (m <<< s) / n
      let r := (m <<< s) % n
      .fin (a != b) (2 * q + (if r = 0 then 0 else 1)) (e - k - s - 1)

/-- Square root with a sticky bit for one correct rounding. -/
def Fp.sqrt : Fp → Fp
  | .nan => .nan
  | .inf neg => if neg then .nan else .inf false
  | .fin neg m e =>
    if m = 0 then .fin neg 0 0
    else if neg then .nan
    else
      let s : Nat := 130
      let odd := ((e - s) % 2).toNat
      let n := m <<< (s + odd)
      let r := isqrt n
      .fin false (2 * r + (if r * r = n then 0 else 1)) ((e - s - odd) / 2 - 1)

def fadd (a b : F64) : F64 := pack64 ((unpack64 a).add (unpack64 b))
def fneg (a : F64) : F64 := a ^^^ BitVec.ofNat 64 (2 ^ 63)
def fsub (a b : F64) : F64 := fadd a (fneg b)
def fmul (a b : F64) : F64 := pack64 ((unpack64 a).mul (unpack64 b))
def fdiv (a b : F64) : F64 := pack64 ((unpack64 a).div (unpack64 b))
def fsqrt (a : F64) : F64 := pack64 (unpack64 a).sqrt
/-- Fused multiply-add: a × b + c with one rounding. -/
def ffma (a b c : F64) : F64 := pack64 (((unpack64 a).mul (unpack64 b)).add (unpack64 c))
def fabs (a : F64) : F64 := a &&& BitVec.ofNat 64 (2 ^ 63 - 1)

/-- FP32 value widened to FP64 (exact). -/
def f32to64 (a : F32) : F64 := pack64 (unpack32 a)
/-- FP64 value rounded to FP32. -/
def f64to32 (a : F64) : F32 := pack32 (unpack64 a)

def isNaN64 (a : F64) : Bool := match unpack64 a with | .nan => true | _ => false
def isFinite64 (a : F64) : Bool := match unpack64 a with | .fin _ _ _ => true | _ => false
def isNaN32 (a : F32) : Bool := match unpack32 a with | .nan => true | _ => false
def isFinite32 (a : F32) : Bool := match unpack32 a with | .fin _ _ _ => true | _ => false

/-- Order of two finite or infinite values; false with a NaN. -/
def Fp.lt : Fp → Fp → Bool
  | .nan, _ => false
  | _, .nan => false
  | .inf a, .inf b => a && !b
  | .inf a, .fin _ _ _ => a
  | .fin _ _ _, .inf b => !b
  | .fin a m e, .fin b n k =>
    let q := min e k
    decide (signedM a (m <<< (e - q).toNat) < signedM b (n <<< (k - q).toNat))

def flt (a b : F64) : Bool := (unpack64 a).lt (unpack64 b)
def fle (a b : F64) : Bool := !isNaN64 a && !isNaN64 b && !flt b a
def feq (a b : F64) : Bool := !isNaN64 a && !isNaN64 b && !flt b a && !flt a b
def flt32 (a b : F32) : Bool := (unpack32 a).lt (unpack32 b)
def fle32 (a b : F32) : Bool := !isNaN32 a && !isNaN32 b && !flt32 b a
def fmin (a b : F64) : F64 := if flt b a then b else a
def fmax (a b : F64) : F64 := if flt a b then b else a

def fOfInt (v : Int) : F64 := pack64 (.ofInt v 0)
def fOfNat (v : Nat) : F64 := pack64 (.fin false v 0)
/-- The FP64 nearest the fraction n / d. -/
def fRat (n : Int) (d : Nat) : F64 := pack64 ((Fp.ofInt n 0).div (.fin false d 0))
def f32Rat (n : Int) (d : Nat) : F32 := pack32 ((Fp.ofInt n 0).div (.fin false d 0))
def f0 : F64 := 0
def f1 : F64 := fOfNat 1
def fNaN : F64 := pack64 .nan
def fNaN32 : F32 := pack32 .nan

def isNeg64 (a : F64) : Bool := a.getLsbD 63

/-- The value as a count of 2^q, rounded to nearest, ties to even (R401: counts of 2^-32 of a unit); none when not finite. -/
def fToUnits (a : F64) (q : Int) : Option Int :=
  match unpack64 a with
  | .fin neg m e => some (signedM neg (roundUnits m e q))
  | _ => none

/-- The value truncated toward zero to an integer; 0 when not finite. -/
def fTrunc (a : F64) : Int :=
  match unpack64 a with
  | .fin neg m e => signedM neg (if 0 ≤ e then m <<< e.toNat else m >>> (-e).toNat)
  | _ => 0

/-- The greatest integer not above the value; 0 when not finite. -/
def fFloor (a : F64) : Int :=
  match unpack64 a with
  | .fin neg m e =>
    let v := signedM neg m
    if 0 ≤ e then v * (2 ^ e.toNat : Nat) else v / (2 ^ (-e).toNat : Nat)
  | _ => 0

/-- The value rounded to the nearest integer, ties to even; 0 when not finite. -/
def fRound (a : F64) : Int := (fToUnits a 0).getD 0

/-- Sum of a list, in order, starting at +0. -/
def fsum (xs : List F64) : F64 := xs.foldl fadd f0

end Sys2Proof.Machine
end

