-- ==== Sys2Proof/Machine/Elem.lean ====
section
/-! DEFINITION. Machine/Elem.lean: the elementary functions that the spec's formulas name (06: phase 8 of R174; 07: R207, R210) on
FP64. Each is computed on integers scaled by 2^320 to far more than FP64's precision and rounded to nearest; the spec states
the functions and no rounding of them (DESIGN CHOICE, log 54). -/
namespace Sys2Proof.Machine

/-- Bits behind the point. -/
def elP : Nat := 320
def elOne : Int := 2 ^ elP
/-- A finite dyadic value scaled by 2^p. -/
def scaled (p : Nat) (neg : Bool) (m : Nat) (e : Int) : Int :=
  let q := e + p
  signedM neg (if 0 ≤ q then m <<< q.toNat else m >>> (-q).toNat)

/-- Sum of `n` terms, each made from its number and the term before it. -/
def elSeries (step : Nat → Int → Int) (first : Int) (n : Nat) : Int :=
  ((List.range n).foldl (fun (p : Int × Int) k =>
    let t := step k p.2
    (p.1 + t, t)) (first, first)).1

/-- 2 artanh t for |t| at most 1/3, scaled. -/
def elArtanh2 (t : Int) : Int :=
  let t2 := t * t / elOne
  2 * ((List.range 110).foldl (fun (p : Int × Int) k => (p.1 + p.2 / (2 * k + 1 : Nat), p.2 * t2 / elOne)) (0, t)).1
def elLn2 : Int := elArtanh2 (elOne / 3)

/-- Arcus tangent of 1/k, scaled by 2^p. -/
def elAtanInv (p k : Nat) : Int :=
  ((List.range (p / 2 + 2)).foldl (fun (a : Int × Int) j =>
    (a.1 + (if j % 2 = 0 then a.2 / (2 * j + 1 : Nat) else -(a.2 / (2 * j + 1 : Nat))), a.2 / (k * k : Nat))) (0, (2 ^ p : Int) / k)).1
/-- π scaled by 2^p, by Machin's formula. -/
def elPi (p : Nat) : Int := 16 * elAtanInv p 5 - 4 * elAtanInv p 239

/-- e^x of a scaled x: mantissa behind 2^320 and binary exponent. -/
def elExp (x : Int) : Int × Int :=
  let k := x / elLn2
  let r := x - k * elLn2
  (elSeries (fun n t => t * r / elOne / (n + 1 : Nat)) elOne 90, k)
/-- The FP64 value of e^x for a scaled x; out of every range it is infinite or zero. -/
def elExp64 (x : Int) : F64 :=
  if 1100 * elOne < x then pack64 (.inf false)
  else if x < -1200 * elOne then f0
  else
    let r := elExp x
    pack64 (.ofInt r.1 (r.2 - elP))
/-- ln of a positive dyadic value, scaled. -/
def elLn (m : Nat) (e : Int) : Int :=
  let h := bitLen m - 1
  let one : Nat := 2 ^ h
  (e + h) * elLn2 + elArtanh2 (((m - one : Nat) : Int) * elOne / (m + one : Nat))

/-- Sine and cosine of a scaled value from 0 to π/2. -/
def elSinCos (r : Int) : Int × Int :=
  let r2 := r * r / elOne
  (elSeries (fun n t => -(t * r2 / elOne / ((2 * n + 2) * (2 * n + 3) : Nat))) r 50,
   elSeries (fun n t => -(t * r2 / elOne / ((2 * n + 1) * (2 * n + 2) : Nat))) elOne 50)
/-- Sine and cosine of a finite value, scaled. -/
def elTrig (neg : Bool) (m : Nat) (e : Int) : Int × Int :=
  let p := elP + (max 0 (e + bitLen m)).toNat
  let half := elPi p / 2
  let x := scaled p false m e
  let (s, c) := elSinCos ((x % half) / 2 ^ (p - elP))
  let (s', c') := match (x / half) % 4 with
    | 0 => (s, c)
    | 1 => (c, -s)
    | 2 => (-s, -c)
    | _ => (-c, s)
  (if neg then -s' else s', c')

/-- A value so small that its sine and tangent round to itself. -/
def elTiny (m : Nat) (e : Int) : Bool := m == 0 || decide (e + (bitLen m : Int) < -27)

def fexp (x : F64) : F64 := match unpack64 x with
  | .nan => pack64 .nan
  | .inf neg => if neg then f0 else x
  | .fin neg m e => if 12 < e + (bitLen m : Int) ∧ m ≠ 0 then (if neg then f0 else pack64 (.inf false)) else elExp64 (scaled elP neg m e)
def fln (x : F64) : F64 := match unpack64 x with
  | .nan => pack64 .nan
  | .inf neg => if neg then pack64 .nan else x
  | .fin neg m e => if m = 0 then pack64 (.inf true) else if neg then pack64 .nan else pack64 (.ofInt (elLn m e) (-elP))
def fsin (x : F64) : F64 := match unpack64 x with
  | .fin neg m e => if elTiny m e then x else pack64 (.ofInt (elTrig neg m e).1 (-elP))
  | _ => pack64 .nan
def fcos (x : F64) : F64 := match unpack64 x with
  | .fin neg m e => pack64 (.ofInt (elTrig neg m e).2 (-elP))
  | _ => pack64 .nan
def ftan (x : F64) : F64 := match unpack64 x with
  | .fin neg m e =>
    if elTiny m e then x
    else
      let r := elTrig neg m e
      pack64 ((Fp.ofInt r.1 (-elP)).div (Fp.ofInt r.2 (-elP)))
  | _ => pack64 .nan
/-- x^y for a positive x: e^(y ln x). A base of 0 or below, or an operand that is not finite, gives a NaN: no formula of the spec
has one. -/
def fpow (x y : F64) : F64 := match unpack64 x, unpack64 y with
  | .fin nx m e, .fin ny k j =>
    if m = 0 ∨ nx then pack64 .nan
    else
      let v := signedM ny k * elLn m e
      elExp64 (if 0 ≤ j then v * 2 ^ j.toNat else v / 2 ^ (-j).toNat)
  | _, _ => pack64 .nan

/-- π to the nearest FP64. -/
def fPi : F64 := 0x400921FB54442D18

end Sys2Proof.Machine
end

