-- ==== Sys2Proof/Machine/Sparse.lean ====
section
/-! DEFINITION. Machine/Sparse.lean: finite maps from addresses to bytes or words in ONE canonical form (keys strictly
rising, no entry equal to what an unlisted key reads as), so that equal memories are equal data. `dflt` is what an
unlisted key reads as. Used for every memory of the module and for the register file of each lane. -/
namespace Sys2Proof.Machine

variable {β : Type} [DecidableEq β]

/-- The value at key `a`. -/
def spGet (dflt : Nat → β) (m : List (Nat × β)) (a : Nat) : β :=
  match m with
  | [] => dflt a
  | (k, v) :: t => if a = k then v else if a < k then dflt a else spGet dflt t a

/-- Insert without regard to the default: the cons of an entry that differs from the default. -/
def spCons (dflt : Nat → β) (a : Nat) (v : β) (t : List (Nat × β)) : List (Nat × β) :=
  if v = dflt a then t else (a, v) :: t

/-- The map with key `a` set to `v`; writing the default removes the entry. -/
def spSet (dflt : Nat → β) (m : List (Nat × β)) (a : Nat) (v : β) : List (Nat × β) :=
  match m with
  | [] => spCons dflt a v []
  | (k, w) :: t =>
    if a = k then spCons dflt a v t
    else if a < k then spCons dflt a v ((k, w) :: t)
    else (k, w) :: spSet dflt t a v

/-- Keys strictly rising from above `lo`, no entry equal to the default. -/
def spWf (dflt : Nat → β) : Option Nat → List (Nat × β) → Bool
  | _, [] => true
  | lo, (k, v) :: t =>
    (match lo with | none => true | some l => decide (l < k)) && decide (v ≠ dflt k) && spWf dflt (some k) t

/-- Byte memories read 0 where nothing is listed (log 5) ... -/
def zeroByte : Nat → Byte := fun _ => 0
/-- ... but the image flash, whose erased byte is 0xFF (R66). -/
def flashByte : Nat → Byte := fun _ => 0xFF

/-- A byte memory: a list of cells in canonical form. -/
abbrev Mem := List Host.Cell

def Mem.wf (m : Mem) : Bool := spWf zeroByte none m
def Mem.flashWf (m : Mem) : Bool := spWf flashByte none m

def memGet (m : Mem) (a : Nat) : Byte := spGet zeroByte m a
def memSet (m : Mem) (a : Nat) (v : Byte) : Mem := spSet zeroByte m a v

/-- `n` bytes from address `a` on. -/
def memRead (m : Mem) (a : Nat) : Nat → Bytes
  | 0 => []
  | n + 1 => memGet m a :: memRead m (a + 1) n

/-- Store a string of bytes from address `a` on. -/
def memWrite (m : Mem) (a : Nat) : Bytes → Mem
  | [] => m
  | b :: bs => memWrite (memSet m a b) (a + 1) bs

/-- The map without the keys of [lo, hi): those bytes read the default again. -/
def spErase (m : List (Nat × β)) (lo hi : Nat) : List (Nat × β) :=
  m.filter (fun c => decide (c.1 < lo) || decide (hi ≤ c.1))

/-- The entries of [lo, hi) only. -/
def spPart (m : List (Nat × β)) (lo hi : Nat) : List (Nat × β) :=
  m.filter (fun c => decide (lo ≤ c.1) && decide (c.1 < hi))

/-- The entries of [lo, hi) of `src` in place of those of `m` (both canonical over one default). -/
def spCopy (m src : List (Nat × β)) (lo hi : Nat) : List (Nat × β) :=
  spPart m 0 lo ++ spPart src lo hi ++ m.filter (fun c => decide (hi ≤ c.1))

end Sys2Proof.Machine
end

