-- ==== Sys2Proof/Machine/StTypes.lean ====
section
/-! DEFINITION. Machine/StTypes.lean: the records the state is made of, block by block. Registers that software reads or
writes live in the register file of their lane at their address (Map.lean gives each one's reset value); these records
hold what lies behind the registers: queues, engines of blocks, staged work, shared dies. Instants are counts of the time
base in units of 2^-40 ns (R372); "elapsed" instants are on the count without steps (R376, R378). -/
namespace Sys2Proof.Machine

/-- The eight modes (R42). -/
inductive Mode where
  | reset | configure | stop | run | single | hold | safe | retain
deriving DecidableEq, Repr, Inhabited

/-- Where a lane stands between reset and running (R58, R59, R319). `leftOut` missed the flash broadcast, `failed` holds
in RESET until a lane or full reset, `gaveUp` stays in RESET (R57, R318, R321), `resync` is joining, `up` runs. -/
inductive LanePhase where
  | off | booting | ready | leftOut | failed | gaveUp | resync | up
deriving DecidableEq, Repr, Inhabited

/-- An event record (R483, R496): 16 bytes as delivered. -/
structure EvtRec where
  id : Nat
  lane : LaneId
  prio : Nat
  seq : Word
  tb : Word
  data : Word
deriving DecidableEq, Repr, Inhabited

/-- The event controller of a lane (R494-R498): engine queues in delivery order, the flag that EV_EVT_OVF was raised
while the queue stays full, and the HC stream of 1,024 records. -/
structure EvtUnit where
  q : Vector (List EvtRec) 16
  ovf : BitVec 16
  hcq : List EvtRec
deriving DecidableEq, Repr, Inhabited

/-- A staged write of the journal (R85). -/
structure Staged where
  addr : Nat
  value : Word
deriving DecidableEq, Repr, Inhabited

/-- A staged pair member (R93). -/
structure PairStage where
  addr : Nat
  value : Word
  req : Requester
  at_ : Nat
deriving DecidableEq, Repr, Inhabited

/-- The journal that the active lane sent over the lane link when it sealed (R90), with its owner, token and instant, while this
lane's own transaction is not sealed. -/
structure TxnSent where
  owner : Nat
  token : Half
  journal : List Staged
  sealedAt : Nat
deriving DecidableEq, Repr, Inhabited

/-- The transaction unit of a lane beside its registers (R84-R92). -/
structure TxnUnit where
  journal : List Staged
  token : Half
  grants : Half
  lastAct : Nat
  sealedAt : Option Nat
  sent : Option TxnSent
  pairs : List PairStage
deriving DecidableEq, Repr, Inhabited

/-- A loaded drawer (R67): its bytes are the content after decryption. `source` is 0 for the full image or the position
of the delta in the applied chain (R471). -/
structure Drawer where
  typ : Nat
  inst : Nat
  flags : Nat
  source : Nat
  digest : Big
  bytes : Bytes
deriving DecidableEq, Repr, Inhabited

/-- The image a lane has loaded (R71, R82); `fresh` until the first entry to STOP after the boot or the LOAD. -/
structure LoadedImg where
  slot : Fin 2
  digest : Big
  anchor : Nat
  autoRun : Bool
  fallback : Bool
  skipped : Nat
  fresh : Bool
  drawers : List Drawer
deriving DecidableEq, Repr, Inhabited

/-- A delta (R264, R276, R277): its Cabinet digest, the tasks it replaces, its drawers, and what they replace: the drawers
and the running digest before it. -/
structure Delta where
  digest : Big
  tasks : Byte
  drawers : List Drawer
  olds : List Drawer
  oldDigest : Big
deriving DecidableEq, Repr, Inhabited

/-- Online program change of a lane (R264-R277) beside its registers: the running digest, the delta being applied, the
lane's own result, the same on its way to the peer, and the peer's result (RESULT codes, SWITCHED for success) with the elapsed
instant of the own one, whether the
change is a revert, the applied chain, the delta whose replaced drawers are held, the scheduled instant in ns. -/
structure OlcUnit where
  runDigest : Big
  pendDelta : Option Delta
  own : Option Nat
  sent : Option Nat
  peer : Option Nat
  ownAt : Nat
  revert : Bool
  chain : List Delta
  fallback : Option Delta
  ts : Option Nat
deriving DecidableEq, Repr, Inhabited

/-- An output value of a pending image (R240): the destination kind and index of the binding, and its bytes. -/
structure OutVal where
  kind : Nat
  idx : Nat
  sym : Nat
  bytes : Bytes
deriving DecidableEq, Repr, Inhabited

/-- A task of a lane beside its registers (R246-R253). Instants are extended counts in ns; `slotOld`: the mirror window runs
and the lane's slot still holds the previous cycle's set (R303). -/
structure Task where
  gridK : Nat
  curK : Nat
  t0 : Nat
  pubAt : Nat
  ovrAt : Nat
  running : BitVec 16
  finished : Option Nat
  faulted : Bool
  image : List OutVal
  windowEnd : Option Nat
  restartAt : Option Nat
  stepReq : Bool
  suspended : Bool
  debugFrom : Nat
  entryFree : Nat
  slotOld : Bool
  axisWr : List (Nat × Bool × Word)
  snapshot : Bytes
deriving DecidableEq, Repr, Inhabited

/-- The registers of an engine that make up a context (R236, R247): x0 to x31, f0 to f31, fcsr, pc. -/
structure EngRegs where
  x : Vector Word 32
  f : Vector DWord 32
  fcsr : Word
  pc : Word
deriving DecidableEq, Repr, Inhabited

/-- Machine-mode CSRs of an engine (R236). -/
structure EngCsr where
  mstatus : Word
  mtvec : Word
  mscratch : Word
  mepc : Word
  mcause : Word
  mtval : Word
deriving DecidableEq, Repr, Inhabited

/-- A PMP entry: pmpcfg and pmpaddr (R236, R278). -/
structure PmpEntry where
  cfg : Byte
  addr : Word
deriving DecidableEq, Repr, Inhabited

/-- An engine beside the ENG block (R236, R247, R254, R262, R278): the task it runs, pre-empted tasks (the latest first) and
waiting ones, whether it has just taken up a saved context, its registers and the context saved of each task, the counters cycle and instret, the PMP entries, and of its
debug module the halt, dpc and the four triggers (tdata1, tdata2). -/
structure Engine where
  cur : Option (Fin 8)
  stack : List (Fin 8)
  waiting : List (Fin 8)
  locked : Bool
  restored : Bool
  regs : EngRegs
  saved : Vector EngRegs 8
  csr : EngCsr
  cycle : DWord
  instret : DWord
  pmp : Vector PmpEntry 16
  halted : Bool
  dpc : Word
  triggers : Vector (Word × Word) 4
deriving DecidableEq, Repr, Inhabited

/-- A descriptor held by a DMA channel (R285, R292). -/
structure DmaDesc where
  ctrl : Nat
  len : Nat
  src : Nat
  dst : Nat
  next : Nat
deriving DecidableEq, Repr, Inhabited

/-- A DMA channel beside its registers (R287-R292): the held copy of its descriptor, the bytes completed of it, whether only
what follows the copy is left, the DMA_CH_DONE count last reported by the active lane for a Chest descriptor (R290), and the
window table of the descriptor's start where a commit has come since (R89). -/
structure DmaCh where
  desc : Option DmaDesc
  done : Nat
  copied : Bool
  confirmed : Nat
  wins : Option (List (Nat × Word))
deriving DecidableEq, Repr, Inhabited

/-- The redundancy unit of a lane beside its registers (R309-R313): elapsed instants of the last heartbeats received, by
path, and of the last one sent. -/
structure RedLane where
  hbLink : Nat
  hbField : Nat
  lastSent : Nat
deriving DecidableEq, Repr, Inhabited

/-- What a hitless takeover is pending for (R54, R311, R322). -/
inductive TakeReason where
  | condemned (row : Nat)
  | laneReset
  | switch
deriving DecidableEq, Repr, Inhabited

/-- A resynchronisation in progress (R319, R321): its phase as RED_RESYNC codes it, the elapsed instant at which the phase
began, the attempt, the dirty passes so far, the instant of the retry after a failure, and whether the lane holds at the end
of BOOT because no lane runs. -/
structure Resync where
  lane : LaneId
  phase : Nat
  phaseAt : Nat
  tries : Nat
  passes : Nat
  retryAt : Option Nat
  held : Bool
deriving DecidableEq, Repr, Inhabited

/-- The redundancy manager, module-wide (R311-R322). `suspects` are the elapsed instants of unresolved mismatches,
`autoResets` those of automatic lane resets, `condemned` a condemned lane whose reset is still to be ordered, with whether the
condemnation is in force, `takeover` what the next switch point hands the role over for, `resetReq` the lane to be reset then,
`misAt` the instant of the last mismatch, `dies` the instants at which the field, link, Chest and keeper dies last saw a heartbeat
on the port of lane A and of lane B (R310). -/
structure RedUnit where
  suspects : List Nat
  autoResets : List Nat
  condemned : Option (LaneId × Bool)
  takeover : Option TakeReason
  resetReq : Option LaneId
  resync : Option Resync
  failsafe : Bool
  misAt : Option Nat
  dies : Vector (Nat × Nat) 4
deriving DecidableEq, Repr, Inhabited

/-- An accepted mode change (R50). -/
structure PendMode where
  target : Mode
  task : Fin 8
  due : Nat
  cmd : Bool
deriving DecidableEq, Repr, Inhabited

/-- The mode logic (R42-R51). `tR` is the instant of RUN in ns (R246). -/
structure ModeUnit where
  mode : Mode
  prev : Mode
  pend : Option PendMode
  active : Option LaneId
  held : Option (Fin 8)
  heldFrom : Mode
  tR : Option Nat
deriving DecidableEq, Repr, Inhabited

/-- A power-up sequence in progress (R58). -/
structure BootSt where
  facts : BootFacts
deriving DecidableEq, Repr, Inhabited

/-- Time base (R372-R381): one count for both lanes, where R27 lets the standby's strobes differ by up to 50 ns from the active
lane's (DESIGN CHOICE: that difference is always 0 here; log 41). The count and the count without steps in 2^-40 ns, the tb32 carries reported, an accepted
step with its tick, whether the step has been applied since the full reset, the instant (count without steps) until which
PPS out is high. -/
structure TimeBase where
  count : Nat
  run : Nat
  wraps : Nat
  step : Option (Nat × Int)
  used : Bool
  ppsEnd : Nat
deriving DecidableEq, Repr, Inhabited

/-- A queued PTP frame (R385). -/
structure PtpTx where
  entry : Bytes
  tag : Byte
  plan : Option Word
deriving DecidableEq, Repr, Inhabited

/-- A PTP transmit status entry (R385): 0 SENT, 1 LATE, 2 LINK_DOWN, 3 ABORTED. -/
structure PtpTxs where
  tag : Byte
  status : Nat
  depart : Word
deriving DecidableEq, Repr, Inhabited

structure PtpUnit where
  rxq : List Bytes
  txq : List PtpTx
  txs : List PtpTxs
  lastDropEv : Option Nat
deriving DecidableEq, Repr, Inhabited

/-- A calendar time (R387). -/
structure Cal where
  year : Nat
  month : Nat
  day : Nat
  hour : Nat
  min : Nat
  sec : Nat
  subsec : Nat
deriving DecidableEq, Repr, Inhabited

/-- The calendar clock in the keeper die beside its registers (R387-R393). `cal` is the running second, `cnt` the counts of
1/32,768 s of the divider at the elapsed instant `secAt`, `noRefire` of alarm k the closed interval of calendar seconds that
must not fire again. -/
structure Rtc where
  cal : Cal
  cnt : Nat
  secAt : Nat
  trimAcc : Nat
  setPend : Option (Cal × Nat)
  wakeAt : Option Nat
  noRefire : Vector (Option (Nat × Nat)) 4
deriving DecidableEq, Repr, Inhabited

/-- An anchor (R469). -/
structure Anchor where
  digest : Big
  programmed : Bool
  revoked : Bool
deriving DecidableEq, Repr, Inhabited

/-- The keeper die (R57, R64, R387, R467-R469): its registers by slow address, the calendar, the anchors, ROOT_SEED,
the provisioning latch, a burn in progress. -/
structure Keeper where
  slow : List (Nat × Word)
  rtc : Rtc
  anchors : Vector Anchor 4
  rootSeed : Option Big
  provLatch : Bool
  bootCfg : Word
  wdgA : Nat
  wdgB : Nat
  burn : Option (Bool × Fin 4)
  tv : List (Nat × Nat × Nat × Nat)
deriving DecidableEq, Repr, Inhabited

/-- A shadow plane of a Chest bank (R426). -/
structure Plane where
  data : Mem
  gen : Word
  good : Bool
deriving DecidableEq, Repr, Inhabited

/-- A Chest bank (R425-R428, R436); `stored`: a store has ended since the bank became weak. -/
structure Bank where
  p0 : Plane
  p1 : Plane
  dirty : Bool
  lost : Bool
  recallOld : Bool
  weak : Bool
  stored : Bool
  deferred : Bool
  stores : Nat
deriving DecidableEq, Repr, Inhabited

/-- A write held during a bank store (R429), or a logged standby write (R433). -/
structure ChestWr where
  lane : LaneId
  engine : Fin 16
  task : Nat
  cycle : Nat
  addr : Nat
  data : Bytes
deriving DecidableEq, Repr, Inhabited

/-- The Chest die (R425-R438): the array by offset, the banks, the pending set, the bank that is storing, held writes,
the standby log, protection. -/
structure Chest where
  array : Mem
  banks : Vector Bank 8
  pend : Byte
  storing : Option (Fin 8)
  held : List ChestWr
  log : List ChestWr
  logHeld : List ChestWr
  prot : Fin 4
  lock : Bool
  logStall : Bool
  recalled : Bool
  deferRefresh : Bool
deriving DecidableEq, Repr, Inhabited

/-- An atomic group of a lane (R437): the bytes written so far. -/
structure Grp where
  base : Nat
  words : Nat
  owner : Nat
  buf : List (Nat × Byte)
deriving DecidableEq, Repr, Inhabited

/-- A pair-unit operation in progress (R440-R442). -/
structure PairOp where
  write : Bool
  result : Nat
  copyB : Bool
  seq : Word
  tie : Bool
  data : Bytes
deriving DecidableEq, Repr, Inhabited

/-- A digital input at the field die (R416-R420). `volt` is the voltage of the last sample in steps of 0.125 V, `raw` its raw level,
`filt` is the filter's own state, `f` the state delivered. -/
structure DiCh where
  volt : Int
  raw : Bool
  c : Nat
  filt : Bool
  f : Bool
  wb : Bool
  cnt : Word
  stamp : Word
deriving DecidableEq, Repr, Inhabited

/-- A digital output at the field die (R421-R423). `pub` is the state last published, kept through STOP and SAFE (R415, R46). -/
structure DqCh where
  target : Bool
  on : Bool
  overload : Bool
  overtemp : Bool
  openOff : Bool
  openOn : Bool
  latched : Bool
  clearHeld : Bool
  cooled : Bool
  restarts : Nat
  lastChange : Nat
  pub : Bool
deriving DecidableEq, Repr, Inhabited

/-- The field-die half of an axis (R223-R232): the instant from which AX_EN is on (R63), fault and uncertainty, the current
level and the instant of rest, the counts of the load-angle windows and whether the window in progress has been below V_MIN,
the level of AX_FLT_N, a declared stall, the end positions between which the die interpolates (R229), the count at which their
period began, the velocity of the setpoint and the instant at which it was applied. -/
structure AxDie where
  enableAt : Option Nat
  faulted : Bool
  uncertain : Bool
  holdI : Bool
  restAt : Option Nat
  angleN : Nat
  collapseN : Nat
  slow : Bool
  fltLow : Bool
  stalled : Bool
  setpoint : F64
  prevSet : F64
  vel : F64
  setAt : Nat
  setRun : Nat
deriving DecidableEq, Repr, Inhabited

/-- The field die (R13): inputs, outputs, the switch-on queue and its slot grid, supply of the groups, axes, FAILSAFE. -/
structure FieldDie where
  di : Vector DiCh 64
  dq : Vector DqCh 32
  queue : List (Fin 32)
  slotAt : Option Nat
  lplusLow : BitVec 4
  ax : Vector AxDie 16
deriving DecidableEq, Repr, Inhabited

/-- A Bench ring beside its registers (R132, R133, R156): the next SEQ to grant, the SEQs posted and not started, the
halt, the instant (count without steps) from which the head slot has stood unposted. -/
structure BenRing where
  nextSeq : Nat
  posted : List Nat
  halted : Bool
  headAt : Nat
deriving DecidableEq, Repr, Inhabited

/-- A Bench job that runs (R134): its ring, SEQ, descriptor as read at the start, tb32 at the start, and the words of
BEN_CFG and of BEN_NET_ITER to BEN_NET_RHO latched there (R89, R120), and the window table of its start where a commit has
come since (R89). -/
structure BenRun where
  ring : Fin 2
  seq : Nat
  desc : Bytes
  tbStart : Nat
  tune : List Word
  wins : Option (List (Nat × Word))
deriving DecidableEq, Repr, Inhabited

/-- A decided job (R154, R157, R158): own status, flags, header as it will be written (empty where none is), the lane's
own scenario statuses, the flows to feed. `limit` is the instant (count without steps) of R158, `failed` says that a buffer
fault met the lane while it wrote (R156), `final` is what the completion entry carries once the status is agreed: status,
flags, tb32. Ring 2 stands for the parcel tracker's predictions. `wins` is the window table of the job's start where a commit has
come since (R89). -/
structure BenWait where
  ring : Nat
  seq : Nat
  op : Nat
  tag : Nat
  own : Nat
  flags : Nat
  header : Bytes
  resAddr : Nat
  scen : List Nat
  recSize : Nat
  feed : Option (Nat × List F64 × List F64 × List F64)
  limit : Nat
  failed : Bool
  final : Option (Nat × Nat × Nat)
  wins : Option (List (Nat × Word))
deriving DecidableEq, Repr, Inhabited

/-- A job status on its way from the peer lane, or arrived before the own one (R157). -/
structure BenPeer where
  ring : Nat
  seq : Nat
  status : Nat
  scen : List Nat
deriving DecidableEq, Repr, Inhabited

/-- The Bench of a lane beside its registers (R131-R158). `inbox` holds peer statuses on the lane link, `got` those
that have arrived for a job not yet decided. Ring 2 stands for the parcel tracker's predictions (R184). -/
structure BenUnit where
  rings : Vector BenRing 2
  run : Option BenRun
  lastRing : Fin 2
  wait : List BenWait
  inbox : List BenPeer
  got : List BenPeer
deriving DecidableEq, Repr, Inhabited

/-- The thermal state of the network (R174): parcels of each link from its FROM end (volume, temperature), mix
temperature of each node, nodes without inflow in the last step, layers of each store from the top. -/
structure PclState where
  parcels : List (List (F64 × F64))
  mix : List F64
  dry : List Bool
  layers : List (List F64)
deriving DecidableEq, Repr, Inhabited

/-- A set of flows fed by a network job (R167): link flows, SUB vector, QNODE vector, the job's tag, scenario and number
(ring × 65,536 + SEQ), and the instant (count) at which this lane completed it. -/
structure PclSet where
  flows : List F64
  subs : List F64
  qnodes : List F64
  tag : Nat
  scen : Nat
  seq : Nat
  doneAt : Nat
deriving DecidableEq, Repr, Inhabited

/-- A regular step between its start and its end (R172): everything it computes from the inputs latched at the start. -/
structure PclRun where
  after : PclState
  tb : Nat
  nsub : Nat
  courant : Nat
  imbal : Bool
  ret : List (F64 × Nat)
deriving DecidableEq, Repr, Inhabited

/-- A prediction that runs, or waits for its agreement (R180-R184). -/
structure PredRun where
  desc : Bytes
  from_ : PclState
  flows : List F64
  subs : List F64
  qnodes : List F64
  tin : List F64
  tfix : List F64
  tg : List F64
  ret : List (F64 × Nat)
  qfloor : F64
  itol : F64
  subMax : Nat
  tbStart : Nat
deriving DecidableEq, Repr, Inhabited

/-- The parcel tracker of a lane beside its registers (R163-R184). `nextAt` is the count of the next regular step, `dtQ`
the length of that step in units of 0.25 s (R172), `stale` the substations that
carry RET_STALE, `outAt` the address of output buffer 0, 0 while the tracker owns no area (R165). -/
structure PclUnit where
  live : Option PclState
  used : Option PclSet
  fed : List PclSet
  run : Option PclRun
  nextAt : Nat
  dtQ : Nat
  stale : List Nat
  pred : Option PredRun
  predSeq : Nat
  outAt : Nat
deriving DecidableEq, Repr, Inhabited

/-- The signals of a loop's latest completed sample (R212). -/
structure LoopVals where
  y : List F64
  g : List F64
  r : List F64
  uc : List F64
  us : List F64
  uf : List F64
  uff : List F64
  x : List F64
  innov : List F64
  s : F64
  tb : Nat
  injStart : Bool
  modeChange : Bool
deriving DecidableEq, Repr, Inhabited

/-- An injection that runs (R209-R211): samples since its first, LFSR, samples until the next LFSR step. -/
structure LoopInj where
  k : Nat
  lfsr : Nat
  hold : Nat
deriving DecidableEq, Repr, Inhabited

/-- The state of a loop that a sample changes (R196-R211): whether a first sample has initialised it, observer state of
each mode, u_a of the last sample, shaper (position, velocity) of each reference, notch states of each output, final
outputs, the blend's old mode with the samples since its first, an accepted START that waits for the next sample, the
injection that runs. -/
structure LoopCore where
  started : Bool
  x : Vector (List F64) 4
  ua : List F64
  shaper : List (F64 × F64)
  notch : List (F64 × F64 × F64 × F64)
  uPrev : List F64
  blend : Option (Nat × Nat)
  injReq : Bool
  inj : Option LoopInj
  vals : LoopVals
deriving DecidableEq, Repr, Inhabited

/-- What a sample has come to, before its output instant (R193): the core after it, the CTL_MAN words that R204 writes, the active
mode, saturated outputs and stale inputs; whether steps 4 to 11 ran, whether a value was not finite, whether a mode change took
effect or a blend ended, the reason for which an injection ended (0: none); whether an accepted START began in it; its tb32. -/
structure LoopPend where
  core : LoopCore
  man : List (Nat × Word)
  active : Nat
  sat : Nat
  stale : Nat
  ran : Bool
  bad : Bool
  changed : Bool
  blendEnd : Bool
  injCode : Nat
  begins : Bool
  tb : Nat
deriving DecidableEq, Repr, Inhabited

/-- A loop: `k` numbers its next sample, `out` is what the last output instant delivered and `outAt` that instant in ns, none
before the first since t_R (R195), `pend` the sample in progress (R193). `manNew`
are the outputs whose CTL_MAN a commit changed since the last sample (R218), `seen` the stamp of each input with the
instant in ns it stands for, none while the input has not been updated since the start of RUN (R200). -/
structure LoopSt where
  k : Nat
  core : LoopCore
  out : List F64
  outAt : Option Nat
  pend : Option LoopPend
  manNew : List Nat
  seen : List (Option Word × Option Nat)
deriving DecidableEq, Repr, Inhabited

/-- A capture unit beside its registers (R212-R214): rows written since ARM, rows still to write after the trigger,
clock samples until the next row, the previous value of the trigger channel. -/
structure CapSt where
  written : Nat
  left : Nat
  count : Nat
  prev : Option F64
deriving DecidableEq, Repr, Inhabited

/-- The control engine of a lane beside its registers (R187-R219). -/
structure CtlUnit where
  loops : Vector LoopSt 128
  caps : Vector CapSt 4
deriving DecidableEq, Repr, Inhabited

/-- The generator of one axis in a lane (R226-R234): its motion, what it does after a stop, the soft limit it runs to (R228),
the targets taken in the period and the motion mode and target words before them (R232), and of a referencing its travel, its
end positions with the newest first, and the position at the edge. -/
structure AxGen where
  p : F64
  v : F64
  a : F64
  decel : Bool
  freeAfter : Bool
  moveTo : Bool
  limit : Option Word
  taken : Nat
  before : Bool × Word × Word
  refTravel : F64
  trail : List F64
  refEdge : Option F64
deriving DecidableEq, Repr, Inhabited

/-- A forwarded CAN transmit event (R368). -/
inductive CanFwd where
  | start (buf : Fin 64)
  | success (buf : Fin 64) (stamp : Word)
  | arbLost (buf : Fin 64)
  | error (buf : Fin 64) (lec : Nat)
  | state (tec rec st : Nat)
deriving DecidableEq, Repr, Inhabited

/-- A buffer's private part (R360-R364, R369): its place in request order, whether an error other than an
acknowledgement error was counted, no retry after the attempt on the wire, already compared, stores so far. -/
structure CanBuf where
  order : Nat
  nonAck : Bool
  abortAfter : Bool
  compared : Bool
  stores : Nat
deriving DecidableEq, Repr, Inhabited

/-- The words of CAN_CFG and CAN_LIM that a frame on the bus keeps past a commit (R89, R353), and the commit's instant. -/
structure CanHeld where
  cfg : Word
  lim : Word
  at_ : Word
deriving DecidableEq, Repr, Inhabited

/-- A CAN controller of a lane beside its registers (R358-R370): the FIFO and the frames stored in it so far, the stamp of the attempt on the wire, events
on their way to the other lane, a committed timing that waits for the end of the frame, a frame that waits for the
standby's hash, and for each CAN_RX binding the stores seen at its last latch. -/
structure CanCh where
  fifo : List Bytes
  fifoN : Nat
  bufs : Vector CanBuf 64
  reqCount : Nat
  sof : Word
  fwd : List CanFwd
  reint : Bool
  held : Option CanHeld
  awaiting : Option (Bytes × Nat)
  marks : List (Nat × Nat)
deriving DecidableEq, Repr, Inhabited

/-- A frame that has gone out on the field Ethernet, without its FCS. -/
structure Sent where
  frame ::
  port : Nat
  bytes : Bytes
deriving DecidableEq, Repr, Inhabited

/-- A substation telegram as a UDP datagram: port, or 3 for the PRP pair, VID, destination address and UDP port (R328). -/
structure Telegram where
  port : Nat
  vid : Nat
  addr : Bytes
  udp : Nat
  payload : Bytes
deriving DecidableEq, Repr, Inhabited

/-- The link die: Ethernet, PRP and the admission of telegrams (R325-R327, R335). `neigh` are the resolved addresses (port,
address, MAC), `waiting` the telegrams whose address is being resolved (R326), `sent` the frames that have gone out, the
latest last. -/
structure LinkDie where
  neigh : List (Nat × Bytes × Bytes)
  waiting : List Telegram
  prpSeq : Half
  prpSeen : List (Bytes × Nat × Nat)
  lanAt : Vector Nat 2
  lanSilent : BitVec 2
  lifeAt : Nat
  tokens : Nat
  tokenAt : Nat
  admitted : Nat
  overEvAt : Option Nat
  sent : List Sent
deriving DecidableEq, Repr, Inhabited

/-- Values of a substation (R340, R342); `retAt` is the elapsed instant of the telegram that brought `tRet` (R170). -/
structure SubVals where
  heat : Nat
  volume : Nat
  flow : F32
  tSup : F32
  tRet : F32
  valve : F32
  dp : F32
  alarm : Word
  ackSeq : Word
  retAt : Nat
  stamps : Vector (Option Word) 9
deriving DecidableEq, Repr, Inhabited

/-- Where a setpoint telegram without an acknowledgement stands (R346): its ACK_TO runs, its retry is due, or it has been
retried or given up and only its GEN can still be acknowledged. -/
inductive TxWait where
  | timed
  | due
  | over
deriving DecidableEq, Repr, Inhabited

/-- A setpoint telegram without an acknowledgement (R346): its number, the elapsed instant at which it left, the GEN it
carried, how many retries led to it. -/
structure TxOut where
  seq : Word
  at_ : Nat
  gen : Option Word
  retry : Nat
  wait : TxWait
deriving DecidableEq, Repr, Inhabited

/-- A substation in a lane beside its register (R333-R348). `txSeq` is the next transmit number, `lastTx` the last one;
`genSent` and `genAcked` the schedule GEN last sent and last acknowledged; `pendAck` the telegrams without an
acknowledgement, the oldest first. -/
structure Sub where
  high : Word
  window : DWord
  started : Bool
  cur : SubVals
  vis : SubVals
  heatBase : Option (Nat × Nat)
  volBase : Option (Nat × Nat)
  lastAt : Nat
  rejectAt : Option Nat
  txSeq : Word
  lastTx : Word
  set : Vector (Option F64) 3
  lastSent : Vector (Option F32) 3
  genSent : Option Word
  genAcked : Option Word
  sentAt : Option Nat
  pendAck : List TxOut
  sendReq : Bool
  tsSec : Word
  rxStamp : Word
deriving DecidableEq, Repr, Inhabited

/-- An admitted telegram (R335); `at_` is the elapsed instant of its reception. -/
structure MstRx where
  no : Nat
  at_ : Nat
  stamp : Word
  port : Nat
  vid : Nat
  source : Bytes
  payload : Bytes
deriving DecidableEq, Repr, Inhabited

/-- Changes of an accepted telegram that wait to become visible (R340): the place in the order of admission, the
substation, its values, the elapsed instant at which this lane had processed it. -/
structure PendVis where
  no : Nat
  sub : Nat
  vals : SubVals
  at_ : Nat
deriving DecidableEq, Repr, Inhabited

/-- The MST unit of a lane (R335-R348). `backlog` are substations due at an instant whose 256 telegrams were taken,
`frames` emitted telegrams whose hash the other lane's has not met yet (port, elapsed instant, hashed bytes). -/
structure MstUnit where
  queue : List MstRx
  subs : Vector Sub 4096
  pendVis : List PendVis
  backlog : List Nat
  frames : List (Nat × Nat × Bytes)
deriving DecidableEq, Repr, Inhabited

/-- One metering channel of a lane (R396-R404): recent raw samples and corrected values, the latest first, the high-pass
filter's last input and output, confirmed crossings in ns of the extended count (the latest first), whether a timeout
stands, the elapsed instant of the last confirmed crossing. -/
structure MtrCh where
  raw : List Int
  hist : List F64
  hpfX : F64
  hpfY : F64
  crossings : List Nat
  timedOut : Bool
  zcAt : Nat
deriving DecidableEq, Repr, Inhabited

/-- The metering unit of a lane (R400-R402): energy counts of 96 bits (32 of them hidden) in the order of MTR_E, quantities
by index, the stamp of each point's values, the elapsed instant of the last periodic save. -/
structure MtrUnit where
  ch : Vector MtrCh 48
  e : Vector Nat 224
  val : Vector F64 256
  stampVal : Vector (Option Word) 8
  saveAt : Nat
deriving DecidableEq, Repr, Inhabited

/-- A heat accumulator (R406-R408): counts of 96 bits; flow, temperatures and power of the last valid instant with its
stamp; whether the last instant was valid; episodes; the direction of the last interval that counted. -/
structure ThqAcc where
  fwd : Nat
  rev : Nat
  v : F64
  ts : F64
  tr : F64
  p : F64
  stamp : Option Word
  valid : Bool
  staleEp : Bool
  rangeEp : Bool
  fwdLast : Bool
deriving DecidableEq, Repr, Inhabited

/-- The heat accumulators of a lane; `lastAt` is the last integration instant on the count. -/
structure ThqUnit where
  acc : Vector ThqAcc 256
  lastAt : Nat
  saveAt : Nat
deriving DecidableEq, Repr, Inhabited

/-- A live tally (R449, R450). -/
structure Tally where
  count : Nat
  firstRtc : Word
  firstTb : Word
  lastRtc : Word
  lastTb : Word
  maxVal : Option F32
  maxTb : Word
  suppressed : Nat
  slot : Option Nat
  lastWrite : Option Nat
  due : Bool
deriving DecidableEq, Repr, Inhabited

/-- A running watch period (R447, R448). -/
structure Watch where
  bins : Vector Nat 16
  minV : Option (F32 × Word × Word)
  maxV : Option (F32 × Word × Word)
  missed : Nat
  samples : Nat
  startRtc : Word
  startAt : Nat
  partial_ : Bool
  adjusted : Bool
deriving DecidableEq, Repr, Inhabited

/-- A queued record write (R451): a finished watch record, or the tally of a code as it stands when written. -/
inductive RecJob where
  | watch (w : Nat) (body : Bytes)
  | tally (c : Nat)
deriving DecidableEq, Repr, Inhabited

/-- A valid record as the recorder knows it (R446): kind 1 watch or 2 tally, severity, watch point or code, WSEQ, WRTC. -/
structure RecSlot where
  kind : Nat
  sev : Nat
  id : Nat
  wseq : Word
  wrtc : Word
deriving DecidableEq, Repr, Inhabited

/-- The statistics recorder of a lane (R444-R455): live tallies, running periods, queued writes, value latches; `slots` are
the valid records by slot, none before the scan that follows a load (R454). `sampled` holds, of each watch point that has sampled, the count at its last sample. -/
structure RecUnit where
  tallies : List (Nat × Tally)
  watches : List (Nat × Watch)
  queue : List RecJob
  latches : List (Requester × F32)
  slots : Option (List (Nat × RecSlot))
  dropEvAt : Option Nat
  sampled : List (Nat × Nat)
deriving DecidableEq, Repr, Inhabited

/-- State of a key slot (R457): 0 EMPTY, 1 VALID, 2 BAD. -/
structure KeySlot where
  value : Big
  attr : Half
  tag : DWord
  state : Fin 3
deriving DecidableEq, Repr, Inhabited

/-- A key command in progress, or forwarded (R459, R462, R465): op 1 WRITE, 2 ERASE, 3 DERIVE to KEY_OUT, with the operands it
holds; `effective` says that it changes the slot, `forward` that the other lane applies it as well. -/
structure KeyCmd where
  op : Nat
  slot : Fin 32
  value : Big
  attr : Half
  effective : Bool
  forward : Bool
deriving DecidableEq, Repr, Inhabited

/-- The key store and attestation units of a lane (R457-R473). -/
structure KeyUnit where
  slots : Vector KeySlot 32
  val : Vector Word 8
  cmd : Option KeyCmd
  fwd : List KeyCmd
  attBusy : Bool
  keygen : Bool
  pub : Bytes
  att : Bytes
  nonce : Big
  attTb : Word
  attHc : Bool
  seed : Vector Word 8
deriving DecidableEq, Repr, Inhabited

/-- An open HC session (R477). -/
structure HcSess where
  ip : Bytes
  port : Half
  nH : Bytes
  nD : Bytes
  slot : Fin 32
  lastAt : Nat
deriving DecidableEq, Repr, Inhabited

/-- A challenge waiting for its OPEN (R477). -/
structure HcChal where
  session : Half
  ip : Bytes
  port : Half
  nH : Bytes
  nD : Bytes
  slot : Fin 32
  at_ : Nat
deriving DecidableEq, Repr, Inhabited

/-- The host channel of a lane (R475-R483). `cache` is the cached RESPONSE (SEQ, plain text), `confirm` a frame that
waits for the standby's receipt (true: an EVENT frame), `evFrame` the EVENT frame not yet acknowledged (SEQ,
XINFO, records). -/
structure HcUnit where
  chal : Option HcChal
  sess : Option HcSess
  cache : Option (Word × Bytes)
  confirm : List (Bool × Word × Bytes)
  evFrame : Option (Word × Word × Bytes)
  evSentAt : Nat
  evSeq : Word
  dropped : Nat
  authEvAt : Option Nat
  dropEvAt : Option Nat
  closing : Bool
deriving DecidableEq, Repr, Inhabited

/-- The IND window of one requester (R489). -/
structure IndSt where
  req : Requester
  addr : Word
  busy : Option (Nat × Word)
  err : Nat
deriving DecidableEq, Repr, Inhabited

/-- Sprint state of a lane (R506-R508): the next instant of entry or of a step down, the bins of the last 600 s. -/
structure SprintUnit where
  entry : Option Nat
  step : Option (Nat × Nat × Nat)
  above : Bool
  touched : Bool
  bins : List Bool
  binAt : Nat
deriving DecidableEq, Repr, Inhabited

/-- The image loader (R80). -/
structure LoaderUnit where
  busy : Bool
  op : Nat
  slot : Fin 2
  lane : LaneId
deriving DecidableEq, Repr, Inhabited

/-- The image flash (R79). -/
structure Flash where
  cells : List Host.Cell
deriving DecidableEq, Repr, Inhabited

/-- Supply (R500-R505): feed and hold-up bank flags; `good` from power good to the next power-fail, `powerGoodAt` the elapsed
instant at which a power-up sequence began; in RETAIN, the store that has ended and the feeds that are back; `brownout` says
that a boot stopped by a power-fail awaits power good (R504), `pinReset` a reset input that awaits the end of the store
(R55). -/
structure Supply where
  paOk : Bool
  pbOk : Bool
  holdupOk : Bool
  good : Bool
  powerGoodAt : Nat
  storeDone : Bool
  feedsBack : Bool
  brownout : Bool
  pinReset : Option BootFacts
deriving DecidableEq, Repr, Inhabited

/-- How the last access completed, as its requester sees it (R486): done with data, a bus error, IND error status, or
still waiting for its handshake. -/
inductive Reply where
  | none
  | ok (data : Word)
  | busError
  | indError
  | stall
deriving DecidableEq, Repr, Inhabited

end Sys2Proof.Machine
end

