-- ==== Sys2Proof/Machine/Cal.lean ====
section
/-! DEFINITION. Machine/Cal.lean: calendar arithmetic (15: R387), UTC from 2000 to 2199. -/
namespace Sys2Proof.Machine

def leap (y : Nat) : Bool := y % 4 == 0 && (y % 100 != 0 || y % 400 == 0)
def monthDays (y m : Nat) : Nat := if m = 2 then 28 + bit (leap y) else [31, 28, 31, 30, 31, 30, 31, 31, 30, 31, 30, 31].getD (m - 1) 31
/-- Days from 2000-01-01 to the first day of year `y`. -/
def yearStart (y : Nat) : Nat := ((List.range (y - 2000)).map fun i => 365 + bit (leap (2000 + i))).sum
def Cal.days (c : Cal) : Nat := yearStart c.year + ((List.range (c.month - 1)).map fun i => monthDays c.year (i + 1)).sum + (c.day - 1)
/-- Seconds since 2000-01-01 00:00:00. -/
def Cal.secs (c : Cal) : Nat := c.days * 86400 + c.hour * 3600 + c.min * 60 + c.sec
/-- 0 Monday to 6 Sunday; 2000-01-01 is 5. -/
def Cal.wday (c : Cal) : Nat := (c.days + 5) % 7
def Cal.ok (c : Cal) : Bool :=
  c.subsec ≤ 1023 && c.sec ≤ 59 && c.min ≤ 59 && c.hour ≤ 23 && 2000 ≤ c.year && c.year ≤ 2199 && 1 ≤ c.month && c.month ≤ 12 && 1 ≤ c.day &&
  c.day ≤ monthDays c.year c.month
/-- The next second; the last one of 2199 is followed by 2000-01-01 00:00:00. -/
def Cal.next (c : Cal) : Cal :=
  if c.sec < 59 then { c with sec := c.sec + 1 }
  else
    let c := { c with sec := 0 }
    if c.min < 59 then { c with min := c.min + 1 }
    else
      let c := { c with min := 0 }
      if c.hour < 23 then { c with hour := c.hour + 1 }
      else
        let c := { c with hour := 0 }
        if c.day < monthDays c.year c.month then { c with day := c.day + 1 }
        else
          let c := { c with day := 1 }
          if c.month < 12 then { c with month := c.month + 1 }
          else { c with month := 1, year := if c.year < 2199 then c.year + 1 else 2000 }

end Sys2Proof.Machine
end

