-- ==== Sys2Proof/Config.lean ====
section
/-! DEFINITION. Config.lean: what an implementation, a manufacture or an uninterpreted algorithm fixes. None of these
constants has a body, so no proof can see a value: a statement that holds, holds for every value. Each is named in the
assumption log. -/
namespace Sys2Proof.Config

/-- SYS_ID.GRADE (R1): true for grade E. Per module. -/
opaque gradeE : Bool
/-- SYS_ID.REV, lane die revision (02). -/
opaque laneRev : Byte
/-- PMIC_ID and CHSD_ID die revisions (R508 registers, 18). -/
opaque pmicRev : Byte
opaque chestRev : Byte
/-- Module serial number, 16 bytes, set at manufacture (20). -/
opaque serial : Nat → Byte
/-- Factory MAC address of port p, byte i (13). -/
opaque factoryMac : Nat → Nat → Byte
/-- Contents of the boot ROM (R29), by address. -/
opaque bootRom : Nat → Byte
/-- The free value read or stored where the spec leaves a value undefined, by a running number of the place. -/
opaque freeValue : Nat → DWord

/-- What a program has put into register i of an engine where the spec leaves it open (R236, R254), by the free-value counter. -/
opaque engValue : Nat → Nat → DWord
/-- The address of the return stub in the boot ROM (R254). -/
opaque rtStub : Word

/-- What an undefined byte of Bench SRAM reads as (R142, R166), by the free-value counter and the address. -/
opaque workByte : Nat → Nat → Byte

/-- SHAKE256 with 256-bit output (R67, R70, R71). -/
opaque shake256 : Bytes → Big
/-- KMAC256 of NIST SP 800-185 (R464): key, data, output bits, customisation string. The value is taken modulo
2^(output bits). -/
opaque kmac256 : Big → Bytes → Nat → String → Nat
/-- ML-DSA-65 verification (R70): public key, context string, message, signature. -/
opaque mldsaVerify : Bytes → String → Bytes → Bytes → Bool
/-- ML-DSA-65 KeyGen from the seed (R468): the public key. -/
opaque mldsaPublic : Big → Bytes
/-- ML-DSA-65 deterministic signature (R471): seed, context string, message; with the attempts A of the rejection loop. -/
opaque mldsaSign : Big → String → Bytes → Bytes
opaque mldsaAttempts : Big → Bytes → Nat
/-- AES-256-GCM opening (R76, R476): key, 12-byte nonce, additional data, cipher text, tag; none when the tag fails. -/
opaque gcmOpen : Big → Bytes → Bytes → Bytes → Bytes → Option Bytes
/-- AES-256-GCM sealing: cipher text and tag. -/
opaque gcmSeal : Big → Bytes → Bytes → Bytes → Bytes
/-- The random bit generator of R477: the 32-byte nonce of the n-th HELLO. -/
opaque randomNonce : Nat → Bytes
/-- The session number the module chooses (R475): of the n-th HELLO. -/
opaque sessionNumber : Nat → Half

/-- Taps of the 127-tap Hilbert filter (R400), stated by its accuracy only. -/
opaque hilbertTap : Nat → F64
/-- Coefficients of the first-order high-pass filter with a 0.5 Hz corner (R399): y = b0 x + b1 x' + a1 y'. -/
opaque hpfB0 : F64
opaque hpfB1 : F64
opaque hpfA1 : F64
/-- The IAPWS-IF97 tables of 151 points at 0.6 MPa (R407): density and heat capacity at i degrees. -/
opaque rhoTable : Nat → F64
opaque cpTable : Nat → F64

end Sys2Proof.Config
end

