-- ==== Sys2Proof/Machine/Map.lean ====
section
/-! DEFINITION. Machine/Map.lean: the register map (R34 and the register tables of each chapter): every register with
its address, its instances, its reset value and, bit by bit, its access codes (R9): RW, W1C, W1S, WO; every other bit is
RO or reserved. `t` holds the ·T bits, `tv` the ·TV bits, `pair` says whether the register is the lower or upper member of
a ·P pair (every pair of the module stands in two adjacent words), `side` whether a read has a side effect (R486). -/
namespace Sys2Proof.Machine

/-- Pair membership (R93): none, lower word (partner at + 4), upper word (partner at - 4). -/
inductive PairRole where
  | none | lo | hi
deriving DecidableEq, Repr

/-- One register of a block, with its instances. -/
structure RegRow where
  name : String
  base : Nat
  n : Nat := 1
  stride : Nat := 4
  n2 : Nat := 1
  stride2 : Nat := 4
  reset : Nat := 0
  rw : Nat := 0
  w1c : Nat := 0
  w1s : Nat := 0
  wo : Nat := 0
  t : Nat := 0
  tv : Nat := 0
  pair : PairRole := .none
  side : Bool := false
deriving DecidableEq, Repr

def allOnes : Nat := 0xFFFFFFFF

/-- A read-only register. -/
def ro (name : String) (base : Nat) (n stride : Nat := 1) (reset : Nat := 0) : RegRow :=
  { name := name, base := base, n := n, stride := stride, reset := reset }
/-- A register of RW·T bits. -/
def rwT (name : String) (base mask : Nat) (n stride : Nat := 1) (reset : Nat := 0) : RegRow :=
  { name := name, base := base, n := n, stride := stride, reset := reset, rw := mask, t := mask }
/-- A register of RW bits without ·T. -/
def rwP (name : String) (base mask : Nat) (n stride : Nat := 1) (reset : Nat := 0) : RegRow :=
  { name := name, base := base, n := n, stride := stride, reset := reset, rw := mask }
/-- A command register. -/
def woR (name : String) (base : Nat) (n stride : Nat := 1) : RegRow :=
  { name := name, base := base, n := n, stride := stride, wo := allOnes }

/-- Block 0x00, SYS (01, 02). -/
def mapSys : List RegRow := [
  ro "SYS_ID" 0x40000000 (reset := 0x10000000),
  { name := "SYS_MODE", base := 0x40000004, w1c := 0x100, tv := 0xF },
  woR "SYS_MODE_CMD" 0x40000008,
  { name := "SYS_RST_CAUSE", base := 0x4000000C, reset := 1, w1c := 0x7F },
  ro "SYS_BOOT_STAT" 0x40000010,
  { name := "SYS_BOOT_CFG", base := 0x40000014, rw := 7, tv := 7 },
  woR "SYS_RESET_CMD" 0x40000018,
  ro "SYS_PACE_NOW" 0x40000040,
  ro "SYS_PACE_FLOOR" 0x40000044 (reset := 0x258),
  { name := "SYS_PACE_STAT", base := 0x40000048, w1c := 1, wo := 8, tv := 1 },
  ro "SYS_PACE_MIN" 0x4000004C (reset := 0xFFFF) ]

/-- Block 0x01, EVT (22). -/
def mapEvt : List RegRow := [
  rwT "EVT_SRC_CFG" 0x40010100 0x8F01FFFF 256 4 0x88010000,
  ro "EVT_SRC_SEQ" 0x40010500 256 4,
  { name := "EVT_Q_HEAD", base := 0x40011000, n := 16, stride := 0x20, n2 := 4, stride2 := 4 },
  ro "EVT_Q_STAT" 0x40011010 16 0x20,
  woR "EVT_Q_POP" 0x40011014 16 0x20 ]

/-- Block 0x02, CYC (09). -/
def mapCyc : List RegRow := [
  ro "CYC_STAT" 0x40020000,
  woR "CYC_TCMD" 0x40020004,
  { name := "CYC_DBG_CFG", base := 0x40020008, rw := 1, tv := 1 },
  { name := "CYC_TSTAT", base := 0x40020100, n := 8, stride := 0x40, w1c := 0xF00 },
  rwT "CYC_TCFG" 0x40020104 0x03FFFFFF 8 0x40,
  rwT "CYC_PUB" 0x40020108 0x3FF 8 0x40,
  ro "CYC_CNT_A" 0x4002010C 8 0x40,
  ro "CYC_CNT_B" 0x40020110 8 0x40,
  ro "CYC_CYCLE" 0x40020114 8 0x40,
  ro "CYC_T0" 0x40020118 8 0x40,
  ro "CYC_EXEC_LAST" 0x4002011C 8 0x40,
  ro "CYC_EXEC_MAX" 0x40020120 8 0x40,
  ro "CYC_HWT_STAT" 0x40021000 256 0x10,
  ro "CYC_HWT_EXP_LO" 0x40021004 256 0x10,
  ro "CYC_HWT_EXP_HI" 0x40021008 256 0x10,
  rwT "CYC_FRC_CTL" 0x40024000 0x31 256 0x10,
  rwT "CYC_FRC_ID" 0x40024004 allOnes 256 0x10,
  { name := "CYC_FRC_LO", base := 0x40024008, n := 256, stride := 0x10, rw := allOnes, t := allOnes, pair := .lo },
  { name := "CYC_FRC_HI", base := 0x4002400C, n := 256, stride := 0x10, rw := allOnes, t := allOnes, pair := .hi } ]

/-- Block 0x03, ENG (09). -/
def mapEng : List RegRow := [
  ro "ENG_STAT" 0x40030100 16 0x20,
  ro "ENG_CAUSE" 0x40030104 16 0x20,
  ro "ENG_EPC" 0x40030108 16 0x20,
  ro "ENG_TVAL" 0x4003010C 16 0x20,
  ro "ENG_PREEMPT" 0x40030110 16 0x20 ]

/-- Block 0x04, DMA (11). -/
def mapDma : List RegRow := [
  ro "DMA_SUMMARY" 0x40040000,
  woR "DMA_CH_CMD" 0x40040100 16 0x40,
  rwT "DMA_CH_CFG" 0x40040104 0xF 16 0x40 0xF,
  rwP "DMA_CH_NEXT" 0x40040108 0xFFFFFFE0 16 0x40,
  ro "DMA_CH_STAT" 0x4004010C 16 0x40,
  ro "DMA_CH_CUR" 0x40040110 16 0x40,
  ro "DMA_CH_FDESC" 0x40040114 16 0x40,
  ro "DMA_CH_FDONE" 0x40040118 16 0x40,
  ro "DMA_CH_FADDR" 0x4004011C 16 0x40,
  ro "DMA_CH_DONE" 0x40040120 16 0x40 ]

/-- Block 0x05, WIN (11). -/
def mapWin : List RegRow := [
  { name := "WIN_FSTAT", base := 0x40050000, w1c := 0x101 },
  ro "WIN_FADDR" 0x40050004,
  ro "WIN_FCNT" 0x40050008,
  ro "WIN_ECC_CNT" 0x40050010,
  ro "WIN_ECC_ADDR" 0x40050014,
  rwT "WIN_WBASE" 0x40051000 0xFFFFF000 256 0x20,
  rwT "WIN_SIZE" 0x40051004 0x1FFFFF 256 0x20,
  rwT "WIN_TBASE" 0x40051008 0xFFFFF000 256 0x20,
  rwT "WIN_CTL" 0x4005100C 0xFF03 256 0x20,
  rwT "WIN_MASK" 0x40051010 0xFFFFFF 256 0x20 ]

/-- Block 0x06, TXN (03, 10). -/
def mapTxn : List RegRow := [
  { name := "TXN_BEGIN", base := 0x40060000, side := true },
  woR "TXN_CMD" 0x40060004,
  ro "TXN_STAT" 0x40060008 (reset := 0xFF000000),
  rwP "TXN_CFG" 0x4006000C 0x3FF (reset := 0x1E),
  ro "TXN_SEQ" 0x40060010,
  ro "TXN_COMMIT_TB" 0x40060014,
  ro "TXN_CNT" 0x40060018,
  woR "TXN_IMG_CMD" 0x40060100,
  rwP "TXN_IMG_SRC" 0x40060104 0xFFFFFFC0 (reset := 0x80000000),
  ro "TXN_IMG_STAT" 0x40060108,
  ro "TXN_IMG_DIGEST" 0x40060120 8 4,
  rwP "TXN_OLC_SRC" 0x40060200 0xFFFFFFC0 (reset := 0x80000000),
  woR "TXN_OLC_CMD" 0x40060204,
  { name := "TXN_OLC_STAT", base := 0x40060208, w1c := 0x20000 },
  ro "TXN_OLC_TS_LO" 0x4006020C,
  ro "TXN_OLC_TS_HI" 0x40060210,
  ro "TXN_OLC_GAP" 0x40060214,
  ro "TXN_OLC_SEQ" 0x40060218,
  ro "TXN_OLC_KEPT" 0x4006021C,
  ro "TXN_OLC_INIT" 0x40060220,
  ro "TXN_OLC_DIGEST" 0x40060240 8 4 ]

/-- Blocks 0x07 IND, 0x08 SNAP, 0x15 HCH (21). -/
def mapInd : List RegRow := [
  rwP "IND_ADDR" 0x40070000 0x80FFFFFF,
  { name := "IND_DATA", base := 0x40070004, rw := allOnes, side := true },
  ro "IND_STAT" 0x40070008,
  ro "IND_REG_FIX" 0x4007000C ]
def mapSnap : List RegRow := [
  woR "SNAP_CMD" 0x40080000,
  ro "SNAP_SEQ" 0x40080004,
  ro "SNAP_TB_LO" 0x40080008,
  ro "SNAP_TB_HI" 0x4008000C,
  ro "SNAP_DI_CNT" 0x40080100 64 4 ]
def mapHch : List RegRow := [
  rwT "HCH_CFG" 0x40150000 0x0FFF1F01 (reset := 0x000A0001),
  ro "HCH_STAT" 0x40150004,
  ro "HCH_SEQ" 0x40150008,
  ro "HCH_CNT" 0x4015000C,
  ro "HCH_PEER" 0x40150010 5 4 ]

/-- Block 0x09, RED (12). -/
def mapRed : List RegRow := [
  { name := "RED_STAT", base := 0x40090000, w1c := 0x40000, tv := 5 },
  { name := "RED_HEALTH", base := 0x40090004, tv := 0x3F1F },
  woR "RED_CMD" 0x40090008,
  rwT "RED_CFG" 0x4009000C 0x00FFF300 (reset := 0x000A3300),
  ro "RED_MIS" 0x40090010,
  ro "RED_LAST" 0x40090014,
  ro "RED_LAST_TB" 0x40090018,
  ro "RED_TAKE_TB" 0x4009001C,
  ro "RED_TAKE_CNT" 0x40090020,
  ro "RED_RESYNC" 0x40090024,
  ro "RED_MIRROR" 0x40090040 8 4 ]

/-- Block 0x0A, BEN (04, 05). -/
def mapBen : List RegRow := [
  ro "BEN_STAT" 0x400A0000,
  rwT "BEN_CFG" 0x400A0004 0xFF00FF (reset := 0x000A0028),
  ro "BEN_AGREE" 0x400A0008,
  rwP "BEN_RING_BASE" 0x400A0100 0xFFFFFFC0 2 0x40,
  rwP "BEN_RING_LEN" 0x400A0104 0x1FF 2 0x40,
  rwP "BEN_CPL_BASE" 0x400A0108 0xFFFFFFC0 2 0x40,
  { name := "BEN_RESV", base := 0x400A010C, n := 2, stride := 0x40, side := true },
  woR "BEN_POST" 0x400A0110 2 0x40,
  ro "BEN_CONS" 0x400A0114 2 0x40,
  ro "BEN_CNT" 0x400A0118 2 0x40,
  ro "BEN_NET_STAT" 0x400A0800, ro "BEN_NET_SIZE0" 0x400A0804, ro "BEN_NET_SIZE1" 0x400A0808,
  ro "BEN_NET_SIZE2" 0x400A080C, ro "BEN_NET_TOPO_ID" 0x400A0810,
  rwT "BEN_NET_ITER" 0x400A0820 0x0FFFFFFF (reset := 0x0401F41E),
  rwT "BEN_NET_QTOL" 0x400A0824 allOnes (reset := 0x33D6BF95),
  rwT "BEN_NET_ITOL" 0x400A0828 allOnes (reset := 0x358637BD),
  rwT "BEN_NET_QFLOOR" 0x400A082C allOnes (reset := 0x358637BD),
  rwT "BEN_NET_PCGTOL" 0x400A0830 allOnes (reset := 0x2EDBE6FF),
  rwT "BEN_NET_RHO" 0x400A0834 allOnes (reset := 0x4472F333) ]

/-- Block 0x0B, PCL (06). -/
def mapPcl : List RegRow := [
  ro "PCL_STAT" 0x400B0000,
  rwT "PCL_CFG" 0x400B0004 0xFFFF3F (reset := 0x003C1004),
  ro "PCL_STEP_SEQ" 0x400B0008, ro "PCL_FLOW" 0x400B000C,
  ro "PCL_AREA_BASE" 0x400B0010 (reset := 0x32800000), ro "PCL_AREA_LEN" 0x400B0014,
  ro "PCL_OUT" 0x400B0018, ro "PCL_CNT" 0x400B001C,
  rwT "PCL_TG" 0x400B0040 allOnes 16 4 0x41200000,
  rwT "PCL_TFIX" 0x400B0080 allOnes 16 4 0x42200000,
  rwT "PCL_TIN" 0x400B0100 allOnes 256 4 0x428C0000,
  rwP "PCL_PRED_ADDR" 0x400B0500 0xFFFFFFC0,
  woR "PCL_PRED_CMD" 0x400B0504,
  ro "PCL_PRED_STAT" 0x400B0508 ]

/-- Block 0x0C, CTL (07). -/
def mapCtl : List RegRow := [
  ro "CTL_STAT" 0x400C0000, ro "CTL_LOAD" 0x400C0004, ro "CTL_CNT" 0x400C0008,
  woR "CTL_INJ_CMD" 0x400C000C,
  rwP "CTL_CAP_CFG" 0x400C0100 0xFFFF000F 4 0x40 0x01000000,
  rwP "CTL_CAP_ADDR" 0x400C0104 0xFFFFFFC0 4 0x40,
  rwP "CTL_CAP_LEN" 0x400C0108 0x1FFFF 4 0x40,
  rwP "CTL_CAP_PRE" 0x400C010C 0x1FFFF 4 0x40,
  { name := "CTL_CAP_CH", base := 0x400C0110, n := 4, stride := 0x40, n2 := 4, stride2 := 4, rw := 0x7FFF7FFF },
  rwP "CTL_CAP_TRIG" 0x400C0120 0x77 4 0x40,
  rwP "CTL_CAP_LEVEL" 0x400C0124 allOnes 4 0x40,
  woR "CTL_CAP_CMD" 0x400C0128 4 0x40,
  { name := "CTL_CAP_STAT", base := 0x400C012C, n := 4, stride := 0x40, w1c := 0x10000000 },
  ro "CTL_CAP_ROWS" 0x400C0130 4 0x40,
  { name := "CTL_LSTAT", base := 0x400C1000, n := 128, stride := 0x20, w1c := 0x600 },
  rwT "CTL_MODE_SEL" 0x400C1004 3 128 0x20,
  rwT "CTL_BLEND" 0x400C1008 0xFFFF 128 0x20,
  rwT "CTL_INJ_CFG" 0x400C100C 0xFF1FFF 128 0x20 0x00010700,
  rwT "CTL_INJ_AMP" 0x400C1010 allOnes 128 0x20,
  rwT "CTL_INJ_F1" 0x400C1014 allOnes 128 0x20,
  rwT "CTL_INJ_F2" 0x400C1018 allOnes 128 0x20,
  rwT "CTL_INJ_DUR" 0x400C101C allOnes 128 0x20,
  { name := "CTL_REF_LO", base := 0x400C2000, n := 1024, stride := 0x10, rw := allOnes, t := allOnes, pair := .lo },
  { name := "CTL_REF_HI", base := 0x400C2004, n := 1024, stride := 0x10, rw := allOnes, t := allOnes, pair := .hi },
  rwT "CTL_RLIM" 0x400C2008 allOnes 1024 0x10,
  rwT "CTL_ALIM" 0x400C200C allOnes 1024 0x10,
  { name := "CTL_UMIN", base := 0x400C6000, n := 1024, stride := 0x20, rw := allOnes, t := allOnes, pair := .lo },
  { name := "CTL_UMAX", base := 0x400C6004, n := 1024, stride := 0x20, rw := allOnes, t := allOnes, pair := .hi },
  rwT "CTL_URATE" 0x400C6008 allOnes 1024 0x20,
  rwT "CTL_MAN" 0x400C600C allOnes 1024 0x20,
  { name := "CTL_N0F", base := 0x400C6010, n := 1024, stride := 0x20, rw := allOnes, t := allOnes, pair := .lo },
  { name := "CTL_N0DW", base := 0x400C6014, n := 1024, stride := 0x20, rw := allOnes, t := allOnes, pair := .hi },
  { name := "CTL_N1F", base := 0x400C6018, n := 1024, stride := 0x20, rw := allOnes, t := allOnes, pair := .lo },
  { name := "CTL_N1DW", base := 0x400C601C, n := 1024, stride := 0x20, rw := allOnes, t := allOnes, pair := .hi },
  ro "CTL_OUT" 0x400CE000 1024 4 ]

/-- Block 0x0D, AXS (08). -/
def mapAxs : List RegRow := [
  ro "AXS_SUMMARY" 0x400D0000,
  woR "AXS_CMD" 0x400D0100 16 0x40,
  { name := "AXS_STAT", base := 0x400D0104, n := 16, stride := 0x40, w1c := 0x346, tv := 8 },
  rwP "AXS_TGT_POS" 0x400D0108 allOnes 16 0x40,
  rwP "AXS_TGT_SPD" 0x400D010C allOnes 16 0x40,
  ro "AXS_POS" 0x400D0110 16 0x40,
  ro "AXS_VEL" 0x400D0114 16 0x40,
  rwT "AXS_VMAX" 0x400D0118 allOnes 16 0x40,
  rwT "AXS_AMAX" 0x400D011C allOnes 16 0x40,
  rwT "AXS_JMAX" 0x400D0120 allOnes 16 0x40,
  rwT "AXS_VMIN" 0x400D0124 allOnes 16 0x40,
  { name := "AXS_SMIN", base := 0x400D0128, n := 16, stride := 0x40, rw := allOnes, t := allOnes, pair := .lo },
  { name := "AXS_SMAX", base := 0x400D012C, n := 16, stride := 0x40, rw := allOnes, t := allOnes, pair := .hi },
  rwT "AXS_CUR" 0x400D0130 allOnes 16 0x40,
  rwT "AXS_STALL_CFG" 0x400D0134 0xFFFF 16 0x40,
  ro "AXS_LOAD" 0x400D0138 16 0x40,
  rwT "AXS_REF_POS" 0x400D013C allOnes 16 0x40 ]

/-- Block 0x0E, DIO (17). -/
def mapDio : List RegRow := [
  ro "DIO_DI_STATE_LO" 0x400E0000, ro "DIO_DI_STATE_HI" 0x400E0004,
  ro "DIO_DI_WB_LO" 0x400E0008, ro "DIO_DI_WB_HI" 0x400E000C,
  ro "DIO_DQ_CMD_STATE" 0x400E0010, ro "DIO_DQ_OUT" 0x400E0014, ro "DIO_DQ_FAULT" 0x400E0018,
  ro "DIO_GRP_STAT" 0x400E001C,
  woR "DIO_CMD" 0x400E0020,
  rwT "DIO_DI_CFG" 0x400E0100 0xFFFF1FFF 64 0x10,
  rwT "DIO_DI_LIMIT" 0x400E0104 0xFFFF 64 0x10,
  ro "DIO_DI_CNT" 0x400E0108 64 0x10,
  ro "DIO_DI_STAMP" 0x400E010C 64 0x10,
  rwT "DIO_DQ_CFG" 0x400E0800 0x707 32 0x10,
  ro "DIO_DQ_DIAG" 0x400E0804 32 0x10,
  ro "DIO_DQ_CUR" 0x400E0808 32 0x10 ]

/-- Block 0x0F, MTR (16). -/
def mapMtr : List RegRow := [
  ro "MTR_STAT" 0x400F0000,
  woR "MTR_CMD" 0x400F0004,
  { name := "MTR_PT_STAT", base := 0x400F0100, n := 8, stride := 0x20, w1c := 0xF000 },
  rwT "MTR_ZC_CFG" 0x400F0104 0xFFFF01FF 8 0x20,
  ro "MTR_PT_MISS" 0x400F0108 8 0x20,
  { name := "MTR_FREQ", base := 0x400F010C, n := 8, stride := 0x20, n2 := 3, stride2 := 4 },
  { name := "MTR_ZC_TB", base := 0x400F0118, n := 8, stride := 0x20, n2 := 2, stride2 := 4 },
  ro "MTR_ZC_TB2" 0x400F0300 8 4,
  rwT "MTR_CH_GAIN" 0x400F0400 allOnes 48 0x10,
  rwT "MTR_CH_DELAY" 0x400F0404 0xFFFF 48 0x10,
  rwT "MTR_CH_CFG" 0x400F0408 3 48 0x10,
  ro "MTR_VAL" 0x400F0800 256 4,
  { name := "MTR_E_LO", base := 0x400F1000, n := 32, stride := 0x40, n2 := 7, stride2 := 8, side := true },
  { name := "MTR_E_HI", base := 0x400F1004, n := 32, stride := 0x40, n2 := 7, stride2 := 8 },
  { name := "MTR_H_LO", base := 0x400F2000, n := 32, stride := 0x40, n2 := 7, stride2 := 8 },
  { name := "MTR_H_HI", base := 0x400F2004, n := 32, stride := 0x40, n2 := 7, stride2 := 8 } ]

/-- Block 0x10, THQ (16). -/
def mapThq : List RegRow := [
  ro "THQ_STAT" 0x40100000,
  woR "THQ_CMD" 0x40100004,
  { name := "THQ_ACC_STAT", base := 0x40100100, n := 256, stride := 4, w1c := 0x1C },
  rwT "THQ_MAX_AGE" 0x40100500 0xFFFF 256 4,
  ro "THQ_VAL" 0x40100900 1024 4,
  { name := "THQ_FWD_LO", base := 0x40102000, n := 256, stride := 0x10, side := true },
  ro "THQ_FWD_HI" 0x40102004 256 0x10,
  { name := "THQ_REV_LO", base := 0x40102008, n := 256, stride := 0x10, side := true },
  ro "THQ_REV_HI" 0x4010200C 256 0x10,
  { name := "THQ_HOLD", base := 0x40103000, n := 256, stride := 0x10, n2 := 4, stride2 := 4 } ]

/-- Block 0x11, CAN (14). -/
def mapCan : List RegRow := [
  ro "CAN_SUMMARY" 0x40110000,
  rwT "CAN_CFG" 0x40111000 0x7E 8 0x1C00,
  rwT "CAN_NBT" 0x40111004 allOnes 8 0x1C00,
  rwT "CAN_DBT" 0x40111008 0xFFFFFFC0 8 0x1C00,
  rwT "CAN_LIM" 0x4011100C 0xFF0F 8 0x1C00,
  { name := "CAN_STAT", base := 0x40111010, n := 8, stride := 0x1C00, reset := 3, w1c := 0x30 },
  ro "CAN_CNT" 0x40111014 8 0x1C00,
  ro "CAN_CNT2" 0x40111018 8 0x1C00,
  ro "CAN_FIFO_STAT" 0x4011101C 8 0x1C00,
  woR "CAN_FIFO_POP" 0x40111020 8 0x1C00,
  ro "CAN_ND_LO" 0x40111024 8 0x1C00,
  ro "CAN_ND_HI" 0x40111028 8 0x1C00,
  { name := "CAN_FLT_ID", base := 0x40111100, n := 8, stride := 0x1C00, n2 := 32, stride2 := 0x10, rw := allOnes, t := allOnes },
  { name := "CAN_FLT_MASK", base := 0x40111104, n := 8, stride := 0x1C00, n2 := 32, stride2 := 0x10, rw := 0x1FFFFFFF, t := 0x1FFFFFFF },
  { name := "CAN_FLT_BUF", base := 0x40111108, n := 8, stride := 0x1C00, n2 := 32, stride2 := 0x10, rw := 0x3F, t := 0x3F },
  { name := "CAN_FIFO_HEAD", base := 0x40111300, n := 8, stride := 0x1C00, n2 := 20, stride2 := 4 },
  { name := "CAN_BUF_CFG", base := 0x40111400, n := 8, stride := 0x1C00, n2 := 64, stride2 := 4 },
  { name := "CAN_BUF_ID", base := 0x40111500, n := 8, stride := 0x1C00, n2 := 64, stride2 := 0x50, rw := 0x3FFFFFFF },
  { name := "CAN_BUF_CTRL", base := 0x40111504, n := 8, stride := 0x1C00, n2 := 64, stride2 := 0x50, rw := 0x1EF, w1c := 0x600, w1s := 0xC000 },
  { name := "CAN_BUF_STAMP", base := 0x40111508, n := 8, stride := 0x1C00, n2 := 64, stride2 := 0x50 },
  { name := "CAN_BUF_CNT", base := 0x4011150C, n := 8, stride := 0x1C00, n2 := 64, stride2 := 0x50 } ] ++
  (List.range 16).map fun w =>
    { name := "CAN_BUF_DATA", base := 0x40111510 + 4 * w, n := 8, stride := 0x1C00, n2 := 64, stride2 := 0x50, rw := allOnes }

/-- Block 0x12, ETH (13). -/
def mapEth : List RegRow := [
  rwT "ETH_PRP_CFG" 0x40120010 0xFFFF0001 (reset := 0x07D00000),
  ro "ETH_PRP_DUP" 0x40120014, ro "ETH_PRP_WRONG" 0x40120018,
  rwT "ETH_CFG" 0x40120100 0x0FFF0039 3 0x40 1,
  ro "ETH_STAT" 0x40120104 3 0x40,
  { name := "ETH_MAC_LO", base := 0x40120108, n := 3, stride := 0x40, rw := allOnes, t := allOnes, pair := .lo },
  { name := "ETH_MAC_HI", base := 0x4012010C, n := 3, stride := 0x40, rw := 0xFFFF, t := 0xFFFF, pair := .hi },
  { name := "ETH_IP4", base := 0x40120110, n := 3, stride := 0x40, rw := allOnes, t := allOnes, pair := .lo },
  { name := "ETH_IP4_MASK", base := 0x40120114, n := 3, stride := 0x40, rw := allOnes, t := allOnes, pair := .hi },
  rwT "ETH_GW4" 0x40120118 allOnes 3 0x40,
  { name := "ETH_IP6", base := 0x40120120, n := 3, stride := 0x40, n2 := 4, stride2 := 4, rw := allOnes, t := allOnes },
  ro "ETH_CNT_RX" 0x40120130 3 0x40,
  ro "ETH_CNT_TX" 0x40120134 3 0x40,
  ro "ETH_CNT_ERR" 0x40120138 3 0x40 ]

/-- Block 0x13, TB (15). -/
def mapTb : List RegRow := [
  { name := "TB_NOW_LO", base := 0x40130000, side := true },
  ro "TB_NOW_HI" 0x40130004,
  ro "TB_STAT" 0x40130008,
  rwP "TB_RATE" 0x4013000C allOnes,
  { name := "TB_STEP_LO", base := 0x40130010, rw := allOnes, pair := .lo },
  { name := "TB_STEP_HI", base := 0x40130014, rw := allOnes, pair := .hi },
  { name := "TB_EPOCH_LO", base := 0x40130018, rw := allOnes, pair := .lo },
  { name := "TB_EPOCH_HI", base := 0x4013001C, rw := allOnes, pair := .hi },
  woR "TB_CMD" 0x40130020,
  rwT "TB_PPS_CFG" 0x40130024 0x01FF0007 (reset := 0x00640002),
  ro "TB_PPS_IN" 0x40130028,
  ro "TB_REF10" 0x4013002C,
  rwT "TB_PTP_CFG" 0x40130100 0x3F,
  rwT "TB_PTP_LAT" 0x40130110 allOnes 3 4,
  { name := "TB_PTP_RXQ", base := 0x40130120, wo := 0x80000000 },
  ro "TB_PTP_CNT" 0x40130124,
  rwP "TB_PTP_TX_PLAN" 0x40130128 allOnes,
  woR "TB_PTP_TX_CMD" 0x4013012C,
  { name := "TB_PTP_TXS", base := 0x40130130, wo := 0x80000000 },
  ro "TB_PTP_TXS_TB" 0x40130134,
  ro "TB_PTP_RX_HEAD" 0x40130200 40 4,
  rwP "TB_PTP_TX_BUF" 0x40130300 allOnes 40 4 ]

/-- Block 0x14, MST (13). -/
def mapMst : List RegRow := [
  ro "MST_STAT" 0x40140000,
  rwT "MST_CFG" 0x40140004 allOnes,
  rwT "MST_CFG2" 0x40140008 0xFFFF000F,
  woR "MST_CMD" 0x4014000C,
  rwT "MST_STATE_BASE" 0x40140010 0xFFFFFFC0,
  rwT "MST_SCHED_BASE" 0x40140014 0xFFFFFFC0,
  ro "MST_CNT_RX" 0x40140020, ro "MST_CNT_TX" 0x40140024,
  ro "MST_DROP0" 0x40140028, ro "MST_DROP1" 0x4014002C, ro "MST_DROP2" 0x40140030, ro "MST_RESETS" 0x40140034,
  { name := "MST_SUB_STAT", base := 0x40141000, n := 4096, stride := 4, w1c := 0xE } ]

/-- Block 0x16, CHS (18). -/
def mapChs : List RegRow := [
  { name := "CHS_STAT", base := 0x40160000, w1c := 4 },
  woR "CHS_CMD" 0x40160004,
  rwT "CHS_CFG" 0x40160008 1,
  { name := "CHS_PROT", base := 0x4016000C, rw := 3, w1s := 0x80000000, tv := 0x80000003 },
  { name := "CHS_BANK", base := 0x40160020, n := 8, stride := 4, w1c := 0xC0000000 },
  rwP "CHS_GRP_BASE" 0x40160100 0xFFFFFFFC 8 0x10,
  woR "CHS_GRP_CMD" 0x40160104 8 0x10,
  ro "CHS_GRP_STAT" 0x40160108 8 0x10,
  rwP "CHS_PAIR_ADDR" 0x40160200 0xFFFFFFC0,
  rwP "CHS_PAIR_BUF" 0x40160204 0xFFFFFFFC,
  rwP "CHS_PAIR_LEN" 0x40160208 0x1FFF,
  woR "CHS_PAIR_CMD" 0x4016020C,
  { name := "CHS_PAIR_STAT", base := 0x40160210, w1c := 0x100 },
  ro "CHS_PAIR_SEQ" 0x40160214 ]

/-- Block 0x17, REC (19). -/
def mapRec : List RegRow := [
  { name := "REC_STAT", base := 0x40170000, w1c := 0x10000 },
  woR "REC_CMD" 0x40170004,
  ro "REC_CNT" 0x40170008, ro "REC_WSEQ" 0x4017000C, ro "REC_LAST_SLOT" 0x40170010, ro "REC_QUEUE" 0x40170014,
  rwP "REC_RAISE_VAL" 0x40170020 allOnes,
  woR "REC_RAISE" 0x40170024,
  ro "REC_T_COUNT" 0x40171000 1024 4,
  ro "REC_T_SLOT" 0x40172000 1024 4 0xFFFFFFFF,
  ro "REC_W_STAT" 0x40173000 1024 4 ]

/-- Block 0x18, KEY (20). -/
def mapKey : List RegRow := [
  { name := "KEY_STAT", base := 0x40180000, w1c := 2 },
  ro "KEY_GEN" 0x40180004, ro "KEY_USABLE" 0x40180008, ro "KEY_BAD" 0x4018000C, ro "KEY_REF_STAT" 0x40180010,
  woR "KEY_VAL" 0x40180020 8 4,
  rwP "KEY_ATTR" 0x40180040 0xFFFF,
  woR "KEY_CMD" 0x40180044,
  rwP "KEY_DRV" 0x40180048 0xFF3F801F,
  rwP "KEY_CTX_ADDR" 0x4018004C 0xFFFFFFFC,
  ro "KEY_RESULT" 0x40180050,
  ro "KEY_OUT" 0x40180060 8 4,
  ro "KEY_SLOT_STAT" 0x40180100 32 4 ]

/-- Block 0x19, ATT (20). -/
def mapAtt : List RegRow := [
  ro "ATT_STAT" 0x40190000, ro "ATT_LEN" 0x40190004, woR "ATT_CMD" 0x40190008,
  rwP "ATT_NONCE" 0x40190020 allOnes 8 4,
  woR "ATT_SEED" 0x40190040 8 4,
  ro "ATT_PUBKEY" 0x40190200 488 4,
  ro "ATT_OUT" 0x40191000 15360 4 ]

/-- Block 0x1A, PMU (22). -/
def mapPmu : List RegRow := [
  ro "PMU_STAT" 0x401A0000 (reset := 0x78000000),
  ro "PMU_FEED" 0x401A0004, ro "PMU_TEMP" 0x401A0008, ro "PMU_POWER" 0x401A000C,
  woR "PMU_SPRINT_CMD" 0x401A0010,
  rwT "PMU_CFG" 0x401A0014 0xFF,
  ro "PMU_CNT" 0x401A0018 ]

/-- Keeper domain, slow addresses 0x01_0000 on (15, 20); PMIC_ID (22) and CHSD_ID (18). -/
def mapSlow : List RegRow := [
  ro "RTC_SUBSEC" 0x010000, ro "RTC_SEC" 0x010004, ro "RTC_MIN" 0x010008, ro "RTC_HOUR" 0x01000C,
  ro "RTC_DAY" 0x010010, ro "RTC_MONTH" 0x010014, ro "RTC_YEAR" 0x010018,
  rwP "RTC_SET_TIME" 0x010020 0x07FFFFFF,
  rwP "RTC_SET_DATE" 0x010024 0x0FFF0F1F (reset := 0x07D00101),
  woR "RTC_CMD" 0x010028,
  { name := "RTC_STAT", base := 0x01002C, w1c := 6, tv := 5 },
  rwP "RTC_TRIM" 0x010030 0x3FFF,
  rwP "RTC_WAKE" 0x010034 0x3FFFFFF,
  rwP "RTC_ALM_TIME" 0x010040 0x07FFFC00 4 0x10,
  rwP "RTC_ALM_DATE" 0x010044 0x0FFF0F1F 4 0x10 0x07D00101,
  rwP "RTC_ALM_CFG" 0x010048 0x17F 4 0x10,
  { name := "RTC_ALM_STAT", base := 0x01004C, n := 4, stride := 0x10, w1c := 3 },
  ro "KPR_PROV" 0x010100,
  { name := "KPR_ANCHOR_STAT", base := 0x010104, tv := 0xF0F },
  woR "KPR_OTP_CMD" 0x010108, ro "KPR_OTP_STAT" 0x01010C, ro "KPR_SEED_STAT" 0x010110,
  rwP "KPR_ANCHOR_STAGE" 0x010120 allOnes 8 4,
  { name := "KPR_ANCHOR", base := 0x010200, n := 4, stride := 0x20, n2 := 8, stride2 := 4 },
  ro "KPR_SERIAL" 0x010300 4 4,
  ro "PMIC_ID" 0x020000, ro "PMIC_ID" 0x030000, ro "CHSD_ID" 0x040000 ]

/-- IDs that no chapter assigns: they read 0, take no write and are never raised (R494). -/
def evtReserved (id : Nat) : Bool :=
  !((id ≤ 0x0D) || (0x10 ≤ id && id ≤ 0x1A) || (0x20 ≤ id && id ≤ 0x29) || (0x30 ≤ id && id ≤ 0x3A) || (0x40 ≤ id && id ≤ 0x47) ||
    (0x50 ≤ id && id ≤ 0x62) || (0x70 ≤ id && id ≤ 0x76) || (0x80 ≤ id && id ≤ 0x88) || (0x90 ≤ id && id ≤ 0x96) ||
    (0x98 ≤ id && id ≤ 0x9D) || (0xA0 ≤ id && id ≤ 0xCC) || (0xD0 ≤ id && id ≤ 0xDE) || (0xE0 ≤ id && id ≤ 0xFF))

/-- The instance indices at which an address falls on a register, if it does. -/
def RegRow.hit (r : RegRow) (a : Nat) : Option (Nat × Nat) :=
  if a < r.base then none
  else
    let off := a - r.base
    let i := off / r.stride
    let rest := off % r.stride
    let j := rest / r.stride2
    if i < r.n ∧ j < r.n2 ∧ rest % r.stride2 = 0 then some (i, j) else none

/-- The register at an address, in a list of rows. -/
def findIn (a : Nat) : List RegRow → Option (RegRow × Nat × Nat)
  | [] => none
  | r :: t => match r.hit a with
    | some (i, j) => some (r, i, j)
    | none => findIn a t

end Sys2Proof.Machine
end

