-- ==== Sys2Proof/Machine/State.lean ====
section
/-! DEFINITION. Machine/State.lean: everything the spec gives the module, as plain data; the two reason types; and the
state after reset. Two lanes hold their register file, memories and units; the shared dies, the mode logic and the queue
of waiting commands stand beside them. -/
namespace Sys2Proof.Machine

/-- Reasons to stop with a fault. No command of this module stops it: a refused or failed command leaves a next state
(bus error, status, event), so no meaning raises this reason; it stands here because the interface asks for a type. Safe. -/
inductive Fault where
  /-- Raised by no command. Safe. -/
  | none
deriving DecidableEq, Repr

/-- Reasons to refuse a command. -/
inductive Refusal where
  /-- The command has no meaning in this model yet; raised by its arm of `exec`. Safe: nothing is claimed of it. -/
  | notModelled (mnemonic : String)
deriving DecidableEq, Repr

/-- What a register word reads as where the register file lists nothing: its reset value (Map.lean). -/
def blockMap (a : Nat) : List RegRow :=
  match a / 0x10000 with
  | 0x4000 => mapSys
  | 0x4001 => mapEvt
  | 0x4002 => mapCyc
  | 0x4003 => mapEng
  | 0x4004 => mapDma
  | 0x4005 => mapWin
  | 0x4006 => mapTxn
  | 0x4007 => mapInd
  | 0x4008 => mapSnap
  | 0x4009 => mapRed
  | 0x400A => mapBen
  | 0x400B => mapPcl
  | 0x400C => mapCtl
  | 0x400D => mapAxs
  | 0x400E => mapDio
  | 0x400F => mapMtr
  | 0x4010 => mapThq
  | 0x4011 => mapCan
  | 0x4012 => mapEth
  | 0x4013 => mapTb
  | 0x4014 => mapMst
  | 0x4015 => mapHch
  | 0x4016 => mapChs
  | 0x4017 => mapRec
  | 0x4018 => mapKey
  | 0x4019 => mapAtt
  | 0x401A => mapPmu
  | 0x1 => mapSlow
  | 0x2 => mapSlow
  | 0x3 => mapSlow
  | 0x4 => mapSlow
  | _ => []

/-- The register at an address of the normal region, or at a slow address. -/
def regAt (a : Nat) : Option (RegRow × Nat × Nat) := findIn a (blockMap a)

/-- Reset value of the register word at an address (R9; the register tables). -/
def resetWord (a : Nat) : Word :=
  if 0x40010100 ≤ a ∧ a < 0x40010500 ∧ evtReserved ((a - 0x40010100) / 4) = true then 0
  else if 0x40120108 ≤ a ∧ a < 0x401201C8 ∧ (a - 0x40120108) % 0x40 ≤ 4 ∧ a % 4 = 0 then
    let p := (a - 0x40120108) / 0x40
    if (a - 0x40120108) % 0x40 = 0 then
      Config.factoryMac p 3 ++ Config.factoryMac p 2 ++ Config.factoryMac p 1 ++ Config.factoryMac p 0
    else (0 : Half) ++ Config.factoryMac p 5 ++ Config.factoryMac p 4
  else if a = 0x401A0014 then (if Config.gradeE then 0x46 else 0x3C)
  else match regAt a with
  | some (r, _, _) => BitVec.ofNat 32 r.reset
  | none => 0

/-- One compute lane (R13): phase, register file, memory, units. `mem` holds, by address of R29, lane SRAM, Bench SRAM and
DRAM, and from 2^32 on the engines' TCMs (2^21 bytes of key space per engine); `mirror` is the mirror store of R302, a
1 MiB slot per task; `badWords` are the words with an uncorrectable error (R295); `tv` holds what a read of a ·TV field
returns (address, lowest bit, width, value) where its three copies have been found to differ from what the unit wrote (R488);
`bootAt` is the elapsed instant of the release of the lane's reset (R57), `snapAt` the count of the 250 us tick at which a requested snapshot
is taken (R490). -/
structure Lane where
  phase : LanePhase
  bootAt : Nat
  rf : List (Nat × Word)
  tv : List (Nat × Nat × Nat × Nat)
  mem : Mem
  mirror : Mem
  badWords : List Nat
  evt : EvtUnit
  txn : TxnUnit
  img : Option LoadedImg
  olc : OlcUnit
  tasks : Vector Task 8
  engines : Vector Engine 16
  published : List (Nat × Bytes × Word)
  dma : Vector DmaCh 16
  red : RedLane
  ptp : PtpUnit
  tbCap : List (Requester × DWord)
  hiCap : List (Requester × Nat × Word)
  rtcFrozen : Option (Cal × Nat)
  grps : Vector Grp 8
  commits : List (Fin 8)
  pairOp : Option PairOp
  ben : BenUnit
  pcl : PclUnit
  ctl : CtlUnit
  axes : Vector AxGen 16
  can : Vector CanCh 8
  mst : MstUnit
  mtr : MtrUnit
  thq : ThqUnit
  recU : RecUnit
  keys : KeyUnit
  hc : HcUnit
  ind : List IndSt
  sprint : SprintUnit
  lowWindows : Nat
  eccCeAt : Option Nat
  snapAt : Option Nat
deriving DecidableEq, Repr

/-- The module. `free` counts the free values used (the model's own field: a plain counter). `reply` is the completion of
the last access as its requester sees it, `peerReply` that of the standby lane where an access acted in both (R481). `hello` counts
HELLOs answered, `hcOut` are host-channel datagrams sent (address, UDP port, payload), `uartOut` frames sent on the service UART. `twins` are commands of one lane's engine that await the twin write of the other
lane (R531). -/
structure State where
  pending : List Instr
  tb : TimeBase
  mode : ModeUnit
  boot : Option BootSt
  laneA : Lane
  laneB : Lane
  field : FieldDie
  link : LinkDie
  chest : Chest
  keeper : Keeper
  flash : Flash
  loader : LoaderUnit
  supply : Supply
  red : RedUnit
  twins : List (LaneId × Fin 16 × Nat × Word × Reply)
  hello : Nat
  hcOut : List (Bytes × Half × Bytes)
  uartOut : List Bytes
  reply : Reply
  peerReply : Reply
  free : Nat
deriving DecidableEq, Repr

def EvtUnit.init : EvtUnit := { q := Vector.replicate 16 [], ovf := 0, hcq := [] }
def TxnUnit.init : TxnUnit := { journal := [], token := 0, grants := 0, lastAct := 0, sealedAt := none, sent := none, pairs := [] }
def OlcUnit.init : OlcUnit :=
  { runDigest := 0, pendDelta := none, own := none, sent := none, peer := none, ownAt := 0, revert := false, chain := [], fallback := none, ts := none }
def Task.init : Task :=
  { gridK := 0, curK := 0, t0 := 0, pubAt := 0, ovrAt := 0, running := 0, finished := none, faulted := false, image := [],
    windowEnd := none, restartAt := none, stepReq := false, suspended := false, debugFrom := 0, entryFree := 0, slotOld := false, axisWr := [], snapshot := [] }
def EngRegs.init : EngRegs := { x := Vector.replicate 32 0, f := Vector.replicate 32 0, fcsr := 0, pc := 0 }
def EngCsr.init : EngCsr := { mstatus := 0, mtvec := 0, mscratch := 0, mepc := 0, mcause := 0, mtval := 0 }
def Engine.init : Engine :=
  { cur := none, stack := [], waiting := [], locked := false, restored := false, regs := EngRegs.init, saved := Vector.replicate 8 EngRegs.init,
    csr := EngCsr.init, cycle := 0, instret := 0, pmp := Vector.replicate 16 { cfg := 0, addr := 0 }, halted := false, dpc := 0,
    triggers := Vector.replicate 4 (0, 0) }
def DmaCh.init : DmaCh := { desc := none, done := 0, copied := false, confirmed := 0, wins := none }
def RedLane.init : RedLane := { hbLink := 0, hbField := 0, lastSent := 0 }
def PtpUnit.init : PtpUnit := { rxq := [], txq := [], txs := [], lastDropEv := none }
def Grp.init : Grp := { base := 0, words := 0, owner := 0xF, buf := [] }
def BenUnit.init : BenUnit :=
  { rings := Vector.replicate 2 { nextSeq := 0, posted := [], halted := false, headAt := 0 }, run := none, lastRing := 1, wait := [],
    inbox := [], got := [] }
def PclUnit.init : PclUnit :=
  { live := none, used := none, fed := [], run := none, nextAt := 0, dtQ := 4, stale := [], pred := none, predSeq := 0, outAt := 0 }
def LoopVals.init : LoopVals :=
  { y := [], g := [], r := [], uc := [], us := [], uf := [], uff := [], x := [], innov := [], s := 0, tb := 0, injStart := false,
    modeChange := false }
def LoopCore.init : LoopCore :=
  { started := false, x := Vector.replicate 4 [], ua := [], shaper := [], notch := [], uPrev := [], blend := none, injReq := false,
    inj := none, vals := LoopVals.init }
def LoopSt.init : LoopSt := { k := 0, core := LoopCore.init, out := [], outAt := none, pend := none, manNew := [], seen := [] }
def CtlUnit.init : CtlUnit :=
  { loops := Vector.replicate 128 LoopSt.init, caps := Vector.replicate 4 { written := 0, left := 0, count := 0, prev := none } }
def AxGen.init : AxGen :=
  { p := 0, v := 0, a := 0, decel := false, freeAfter := false, moveTo := false, limit := none, taken := 0, before := (false, 0, 0),
    refTravel := 0, trail := [], refEdge := none }
def CanBuf.init : CanBuf := { order := 0, nonAck := false, abortAfter := false, compared := false, stores := 0 }
def CanCh.init : CanCh :=
  { fifo := [], fifoN := 0, bufs := Vector.replicate 64 CanBuf.init, reqCount := 0, sof := 0, fwd := [], reint := false, held := none, awaiting := none, marks := [] }
def SubVals.init : SubVals :=
  { heat := 0, volume := 0, flow := 0, tSup := 0, tRet := 0, valve := 0, dp := 0, alarm := 0, ackSeq := 0, retAt := 0, stamps := Vector.replicate 9 none }
def Sub.init : Sub :=
  { high := 0, window := 0, started := false, cur := SubVals.init, vis := SubVals.init, heatBase := none, volBase := none,
    lastAt := 0, rejectAt := none, txSeq := 1, lastTx := 0, set := Vector.replicate 3 none, lastSent := Vector.replicate 3 none,
    genSent := none, genAcked := none, sentAt := none, pendAck := [], sendReq := false,
    tsSec := 0, rxStamp := 0 }
def MstUnit.init : MstUnit :=
  { queue := [], subs := Vector.replicate 4096 Sub.init, pendVis := [], backlog := [], frames := [] }
def MtrCh.init : MtrCh := { raw := [], hist := [], hpfX := 0, hpfY := 0, crossings := [], timedOut := false, zcAt := 0 }
def MtrUnit.init : MtrUnit :=
  { ch := Vector.replicate 48 MtrCh.init, e := Vector.replicate 224 0, val := Vector.replicate 256 0,
    stampVal := Vector.replicate 8 none, saveAt := 0 }
def ThqAcc.init : ThqAcc :=
  { fwd := 0, rev := 0, v := 0, ts := 0, tr := 0, p := 0, stamp := none, valid := false, staleEp := false, rangeEp := false, fwdLast := false }
def ThqUnit.init : ThqUnit := { acc := Vector.replicate 256 ThqAcc.init, lastAt := 0, saveAt := 0 }
def RecUnit.init : RecUnit := { tallies := [], watches := [], queue := [], latches := [], slots := none, dropEvAt := none, sampled := [] }
/-- An empty key slot (R457): what a new store holds (log 13). -/
def KeySlot.init : KeySlot := { value := 0, attr := 0, tag := 0, state := 0 }
def KeyUnit.init : KeyUnit :=
  { slots := Vector.replicate 32 KeySlot.init, val := Vector.replicate 8 0, cmd := none, fwd := [], attBusy := false, keygen := false,
    pub := [], att := [], nonce := 0, attTb := 0, attHc := false, seed := Vector.replicate 8 0 }
def HcUnit.init : HcUnit :=
  { chal := none, sess := none, cache := none, confirm := [], evFrame := none, evSentAt := 0, evSeq := 1, dropped := 0,
    authEvAt := none, dropEvAt := none, closing := false }
def SprintUnit.init : SprintUnit := { entry := none, step := none, above := false, touched := false, bins := [], binAt := 0 }

/-- A lane without power: every register at its reset value, every memory unlisted, every unit idle. -/
def Lane.init : Lane :=
  { phase := .off, bootAt := 0, rf := [], tv := [], mem := [], mirror := [], badWords := [], evt := EvtUnit.init, txn := TxnUnit.init, img := none,
    olc := OlcUnit.init, tasks := Vector.replicate 8 Task.init, engines := Vector.replicate 16 Engine.init, published := [],
    dma := Vector.replicate 16 DmaCh.init, red := RedLane.init, ptp := PtpUnit.init, tbCap := [], hiCap := [], rtcFrozen := none,
    grps := Vector.replicate 8 Grp.init, commits := [], pairOp := none, ben := BenUnit.init, pcl := PclUnit.init, ctl := CtlUnit.init, axes := Vector.replicate 16 AxGen.init,
    can := Vector.replicate 8 CanCh.init, mst := MstUnit.init, mtr := MtrUnit.init, thq := ThqUnit.init, recU := RecUnit.init,
    keys := KeyUnit.init, hc := HcUnit.init, ind := [], sprint := SprintUnit.init, lowWindows := 0, eccCeAt := none, snapAt := none }

def TimeBase.init : TimeBase :=
  { count := 0, run := 0, wraps := 0, step := none, used := false, ppsEnd := 0 }
def ModeUnit.init : ModeUnit :=
  { mode := .reset, prev := .reset, pend := none, active := none, held := none, heldFrom := .run, tR := none }
/-- Calendar at the first power-up of the keeper: OSF is 1 and the fields are not meaningful (R390); log 6. -/
def Cal.init : Cal := { year := 2000, month := 1, day := 1, hour := 0, min := 0, sec := 0, subsec := 0 }
def Rtc.init : Rtc :=
  { cal := Cal.init, cnt := 0, secAt := 0, trimAcc := 0, setPend := none, wakeAt := none, noRefire := Vector.replicate 4 none }
/-- The keeper die as new: anchors blank, no ROOT_SEED, OSF set (R390, R457, R469; log 13). -/
def Keeper.init : Keeper :=
  { slow := [(0x01002C, 1)], rtc := Rtc.init, anchors := Vector.replicate 4 { digest := 0, programmed := false, revoked := false },
    rootSeed := none, provLatch := false, bootCfg := 0, wdgA := 0, wdgB := 0, burn := none, tv := [] }
/-- A bank as delivered: one good plane of zeros, STORES 1 (R427). -/
def Bank.init : Bank :=
  { p0 := { data := [], gen := 1, good := true }, p1 := { data := [], gen := 0, good := false }, dirty := false, lost := false,
    recallOld := false, weak := false, stored := false, deferred := false, stores := 1 }
def Chest.init : Chest :=
  { array := [], banks := Vector.replicate 8 Bank.init, pend := 0, storing := none, held := [], log := [], logHeld := [],
    prot := 0, lock := false, logStall := false, recalled := false, deferRefresh := false }
def DiCh.init : DiCh := { volt := 0, raw := false, c := 0, filt := false, f := false, wb := false, cnt := 0, stamp := 0 }
def DqCh.init : DqCh :=
  { target := false, on := false, overload := false, overtemp := false, openOff := false, openOn := false, latched := false,
    clearHeld := false, cooled := false, restarts := 0, lastChange := 0, pub := false }
def AxDie.init : AxDie :=
  { enableAt := none, faulted := false, uncertain := false, holdI := false, restAt := none, angleN := 0, collapseN := 0,
    slow := false, fltLow := false, stalled := false, setpoint := 0, prevSet := 0, vel := 0, setAt := 0, setRun := 0 }
def FieldDie.init : FieldDie :=
  { di := Vector.replicate 64 DiCh.init, dq := Vector.replicate 32 DqCh.init, queue := [], slotAt := none, lplusLow := 0,
    ax := Vector.replicate 16 AxDie.init }
/-- The token bucket starts full (R335; log 14): 16,384 tokens, each the time in which one comes in, 1/4,096 s. -/
def LinkDie.init : LinkDie :=
  { neigh := [], waiting := [], prpSeq := 0, prpSeen := [], lanAt := Vector.replicate 2 0, lanSilent := 0, lifeAt := 0, tokens := 4 * 1000000000 * 2 ^ 40, tokenAt := 0, admitted := 0,
    overEvAt := none, sent := [] }
def Flash.init : Flash := { cells := [] }
def LoaderUnit.init : LoaderUnit := { busy := false, op := 0, slot := 0, lane := .a }
def Supply.init : Supply :=
  { paOk := false, pbOk := false, holdupOk := false, good := false, powerGoodAt := 0, storeDone := false, feedsBack := false,
    brownout := false, pinReset := none }
def RedUnit.init : RedUnit :=
  { suspects := [], autoResets := [], condemned := none, takeover := none, resetReq := none, resync := none, failsafe := false,
    misAt := none, dies := Vector.replicate 4 (0, 0) }

/-- The module right after reset: a power-on reset before power good (R45, R56, R58). Mode RESET, no lane runs, no image,
every register at its reset value, the Chest as delivered, the flash blank, the keeper as new. -/
def State.reset : State :=
  { pending := [], tb := TimeBase.init, mode := ModeUnit.init, boot := none, laneA := Lane.init, laneB := Lane.init,
    field := FieldDie.init, link := LinkDie.init, chest := Chest.init, keeper := Keeper.init, flash := Flash.init,
    loader := LoaderUnit.init, supply := Supply.init, red := RedUnit.init, twins := [], hello := 0, hcOut := [], uartOut := [],
    reply := .none, peerReply := .none, free := 0 }

end Sys2Proof.Machine
end

