-- ==== Sys2Proof/Machine/Ops.lean ====
section
/-! DEFINITION. Machine/Ops.lean: the named operations every meaning is built from: lanes, the register file, the clock,
events, completions and free values. -/
namespace Sys2Proof.Machine

/-- How a meaning answers: always a next state. -/
abbrev Out := Host.Outcome State Fault Refusal

/-- The other lane. -/
def other : LaneId → LaneId
  | .a => .b
  | .b => .a

def laneNo : LaneId → Nat
  | .a => 0
  | .b => 1

def laneOf (n : Nat) : LaneId := if n % 2 = 0 then .a else .b

def State.lane (s : State) : LaneId → Lane
  | .a => s.laneA
  | .b => s.laneB

def State.setLane (s : State) (l : LaneId) (L : Lane) : State :=
  match l with
  | .a => { s with laneA := L }
  | .b => { s with laneB := L }

/-- Change one lane. -/
def State.upd (s : State) (l : LaneId) (f : Lane → Lane) : State := s.setLane l (f (s.lane l))

/-- Change both lanes. -/
def State.updBoth (s : State) (f : Lane → Lane) : State := (s.upd .a f).upd .b f

/-- Run an operation for each lane of a list, in order. -/
def State.each (s : State) (ls : List LaneId) (f : LaneId → State → State) : State := ls.foldl (fun s l => f l s) s

/-- A lane that runs: booted, joined, not held in RESET. -/
def State.isUp (s : State) (l : LaneId) : Bool := (s.lane l).phase == .up

/-- The lanes that run, lane A first. -/
def State.ups (s : State) : List LaneId := [LaneId.a, .b].filter s.isUp

def State.bothUp (s : State) : Bool := s.isUp .a && s.isUp .b

/-- Register word of the lane's file. -/
def Lane.get (L : Lane) (a : Nat) : Word := spGet resetWord L.rf a
def Lane.put (L : Lane) (a : Nat) (w : Word) : Lane := { L with rf := spSet resetWord L.rf a w }
/-- A field of a register. -/
def Lane.fld (L : Lane) (a lo n : Nat) : Nat := fieldOf (L.get a) lo n
def Lane.setFld (L : Lane) (a lo n v : Nat) : Lane := L.put a (withField (L.get a) lo n v)
/-- One bit of a register. -/
def Lane.flag (L : Lane) (a i : Nat) : Bool := bitOf (L.get a) i
def Lane.setFlag (L : Lane) (a i : Nat) (v : Bool) : Lane := L.setFld a i 1 (bit v)
/-- A saturating count in a field, one more. -/
def Lane.incFld (L : Lane) (a lo n : Nat) : Lane := L.setFld a lo n (satInc n (L.fld a lo n))
/-- A count modulo the width of its field, one more. -/
def Lane.wrapFld (L : Lane) (a lo n : Nat) : Lane := L.setFld a lo n (L.fld a lo n + 1)
def Lane.putN (L : Lane) (a v : Nat) : Lane := L.put a (BitVec.ofNat 32 v)
def Lane.getN (L : Lane) (a : Nat) : Nat := (L.get a).toNat
/-- Put back the reset value of a register. -/
def Lane.clr (L : Lane) (a : Nat) : Lane := L.put a (resetWord a)
/-- A ·TV field of the register is written: its three copies are equal again (R488). -/
def Lane.tvClear (L : Lane) (a : Nat) : Lane := { L with tv := L.tv.filter fun x => x.1 != a }
/-- Consecutive words from address `a` on. -/
def Lane.putWords (L : Lane) (a : Nat) : List Word → Lane
  | [] => L
  | w :: ws => (L.put a w).putWords (a + 4) ws
def Lane.getWords (L : Lane) (a n : Nat) : List Word := (List.range n).map fun i => L.get (a + 4 * i)

/-- The slow registers of the keeper die, by slow address. -/
def Keeper.get (k : Keeper) (a : Nat) : Word := spGet resetWord k.slow a
def Keeper.put (k : Keeper) (a : Nat) (w : Word) : Keeper := { k with slow := spSet resetWord k.slow a w }
def Keeper.fld (k : Keeper) (a lo n : Nat) : Nat := fieldOf (k.get a) lo n
def Keeper.setFld (k : Keeper) (a lo n v : Nat) : Keeper := k.put a (withField (k.get a) lo n v)

/-- The keeper's ·TV fields of a register take their word as written: their three copies agree. -/
def Keeper.tvClear (k : Keeper) (a : Nat) : Keeper := { k with tv := k.tv.filter fun x => x.1 != a }
/-- A word with its ·TV fields as the copies of `tv` vote (R488). -/
def tvVoted (tv : List (Nat × Nat × Nat × Nat)) (a : Nat) (w : Word) : Word :=
  (tv.filter fun t => t.1 == a).foldl (fun w t => withField w t.2.1 t.2.2.1 t.2.2.2) w
/-- The copies of one field after a vote: listed where the vote differs from the stored word. -/
def tvShow (tv : List (Nat × Nat × Nat × Nat)) (a lo n stored v : Nat) : List (Nat × Nat × Nat × Nat) :=
  (tv.filter fun t => !(t.1 == a && t.2.1 == lo)) ++ (if v = stored then [] else [(a, lo, n, v)])

/-- The lane that holds the active role; lane A, or the lane that runs, while none does (R48). -/
def State.act (s : State) : LaneId :=
  match s.mode.active with
  | some l => l
  | none => if s.isUp .a || !s.isUp .b then .a else .b

/-- The lane is the active one. -/
def State.isAct (s : State) (l : LaneId) : Bool := s.mode.active == some l

/-- The module runs the plant with a task program: RUN, SINGLE and HOLD. -/
def State.running (s : State) : Bool := s.mode.mode == .run || s.mode.mode == .single || s.mode.mode == .hold

/-- RUN, or HOLD entered from RUN with both lanes (R54, R531). -/
def State.dualRun (s : State) : Bool :=
  (s.mode.mode == .run || (s.mode.mode == .hold && s.mode.heldFrom == .run)) && s.bothUp

/-- A condemnation is decided and its lane is still to leave (R311, R312). -/
def State.condemning (s : State) : Bool :=
  s.red.condemned.isSome || (match s.red.takeover with
    | some (.condemned _) => true
    | _ => false)
/-- Two lanes take part in comparison: a condemned lane takes no further part (R305, R318). -/
def State.compares (s : State) : Bool := s.dualRun && !s.condemning
/-- Two lanes take part in agreement (R158, R318). -/
def State.agrees (s : State) : Bool := s.bothUp && !s.condemning

/-- The mode is one of RUN, SINGLE, HOLD, SAFE, in which the shared dies take writes from the active lane only (R16). -/
def State.roleMode (s : State) : Bool := s.running || s.mode.mode == .safe

/-- Codes of the modes (R42). -/
def Mode.code : Mode → Nat
  | .reset => 0
  | .configure => 1
  | .stop => 2
  | .run => 3
  | .single => 4
  | .hold => 5
  | .safe => 6
  | .retain => 7

/-! Clock (R372-R378). -/

/-- Units of 2^-40 ns in n nanoseconds. -/
def nsU (n : Nat) : Nat := n * 2 ^ 40
def usU (n : Nat) : Nat := nsU (n * 1000)
def msU (n : Nat) : Nat := nsU (n * 1000000)
def sU (n : Nat) : Nat := nsU (n * 1000000000)

/-- TB_RATE in force: that of the active lane. -/
def State.rate (s : State) : Int := signed 32 ((s.lane s.act).getN 0x4013000C)

/-- Units added by one tick of 250 MHz (R376). -/
def State.tickU (s : State) : Nat := (4 * ((2 ^ 40 : Int) + s.rate)).toNat

/-- `n` ticks pass. -/
def State.ticks (s : State) (n : Nat) : State :=
  { s with tb := { s.tb with count := s.tb.count + n * s.tickU, run := s.tb.run + n * s.tickU } }

/-- Bring the count to an instant: whole ticks, none when it has passed. -/
def State.advTo (s : State) (due : Nat) : State :=
  if due ≤ s.tb.count then s else s.ticks (ceilDiv (due - s.tb.count) s.tickU)

/-- Bring the count without steps to an instant (elapsed supervisions, R376, R378). -/
def State.advRun (s : State) (due : Nat) : State :=
  if due ≤ s.tb.run then s else s.ticks (ceilDiv (due - s.tb.run) s.tickU)

/-- Nanoseconds of the extended count, and its low 32 bits (R11, R372). -/
def State.ns (s : State) : Nat := s.tb.count / 2 ^ 40
def State.tb32 (s : State) : Nat := s.ns % 2 ^ 32
def State.tbW (s : State) : Word := BitVec.ofNat 32 s.ns

/-- The first 250 us tick at or after an instant of the count (R246). -/
def tick250 (c : Nat) : Nat := ceilDiv c (nsU 250000) * nsU 250000
/-- The next 250 us tick strictly after now. -/
def State.next250 (s : State) : Nat := (s.tb.count / nsU 250000 + 1) * nsU 250000

/-- The watchdog count of a lane, as its keeper die keeps it. -/
def wdgOf (k : Keeper) : LaneId → Nat
  | .a => k.wdgA
  | .b => k.wdgB
/-- SYS_BOOT_STAT of a lane, with the count and the giving up it shows (02). -/
def State.bootStatOf (s : State) (l : LaneId) : Word :=
  withField (withField ((s.lane l).get 0x40000010) 16 2 (wdgOf s.keeper l)) 18 1 (bit ((s.lane l).phase == .gaveUp && decide (3 ≤ wdgOf s.keeper l)))

/-- Seconds of the calendar since 2000-01-01 (R447, R347). -/
def State.rtcSecs (s : State) : Nat := s.keeper.rtc.cal.secs
def State.osf (s : State) : Bool := bitOf (s.keeper.get 0x01002C) 0
/-- RTC seconds as records and statements carry them: all ones while OSF is set (R446, R471). -/
def State.rtcW (s : State) : Word := if s.osf then 0xFFFFFFFF else BitVec.ofNat 32 s.rtcSecs

/-- The bytes of a loaded drawer; empty where it is absent, skipped or of zero length (R73). -/
def Lane.dr (L : Lane) (typ : Nat) (inst : Nat := 0) : Bytes :=
  match L.img with
  | none => []
  | some g => match g.drawers.find? fun d => d.typ == typ && d.inst == inst with
    | some d => d.bytes
    | none => []

/-! Live tallies of the statistics recorder (R449-R451): events are occurrences. -/

/-- Entry of code `c` in the REC drawer (R444). -/
def Lane.tallyE (L : Lane) (c : Nat) : Bytes := let d := L.dr 0x10; slice d (32 + 32 * u16At d 0 + 16 * c) 16
def Lane.tallyN (L : Lane) : Nat := if (L.dr 0x10).isEmpty then 0 else u16At (L.dr 0x10) 2
def Lane.tallyOn (L : Lane) (c : Nat) : Bool := c < L.tallyN && (u8At (L.tallyE c) 0).testBit 0
/-- The code counts an event rather than REC_RAISE. -/
def Lane.tallyEvt (L : Lane) (c : Nat) : Bool := (u8At (L.tallyE c) 0).testBit 1
def Tally.init : Tally :=
  { count := 0, firstRtc := 0, firstTb := 0, lastRtc := 0, lastTb := 0, maxVal := none, maxTb := 0, suppressed := 0, slot := none,
    lastWrite := none, due := false }
def Lane.tally (L : Lane) (c : Nat) : Tally := match L.recU.tallies.find? fun p => p.1 == c with
  | some p => p.2
  | none => Tally.init
def Lane.setTally (L : Lane) (c : Nat) (t : Tally) : Lane :=
  { L with recU := { L.recU with tallies := (L.recU.tallies.filter fun p => p.1 != c) ++ [(c, t)] } }
/-- The recorder records (REC_STAT.RUN). -/
def Lane.recRuns (L : Lane) : Bool := L.flag 0x40170000 1

/-- A dropped record counts; true when EV_REC_DROP is raised, at most once per second (R451, R456). -/
def Lane.recDrop (L : Lane) (run : Nat) : Lane × Bool :=
  let L1 := L.incFld 0x40170008 16 16
  let due := match L.recU.dropEvAt with
    | none => true
    | some t => decide (t + sU 1 ≤ run)
  (if due then { L1 with recU := { L1.recU with dropEvAt := some run } } else L1, due)

/-- A record write joins the queue of 2,048 entries (R451). -/
def Lane.recQueue (L : Lane) (run : Nat) (j : RecJob) : Lane × Bool :=
  if L.recU.queue.length < 2048 then ({ L with recU := { L.recU with queue := L.recU.queue ++ [j] } }, false)
  else L.recDrop run

/-- One occurrence of code `c` with its value (R449, R450). -/
def Lane.recOccur (L : Lane) (tb rtc : Word) (run c : Nat) (v : F32) : Lane × Bool :=
  let t := L.tally c
  let first := t.count == 0
  let above := isFinite32 v && (match t.maxVal with
    | none => true
    | some m => flt32 m v)
  let t1 := { t with count := satInc 32 t.count, lastRtc := rtc, lastTb := tb, firstRtc := if first then rtc else t.firstRtc,
                     firstTb := if first then tb else t.firstTb, maxVal := if above then some v else t.maxVal,
                     maxTb := if above then tb else t.maxTb }
  let free := first || (match t.lastWrite with
    | none => true
    | some w => decide (w + msU (u16At (L.tallyE c) 4) ≤ run))
  if free then (L.setTally c { t1 with lastWrite := some run, due := false }).recQueue run (.tally c)
  else ((L.setTally c { t1 with suppressed := satInc 32 t1.suppressed, due := true }).incFld 0x40170008 0 16, false)

/-- Occurrences of the codes that count an event. -/
def Lane.recEvent (L : Lane) (tb rtc : Word) (run id : Nat) : Lane × Bool :=
  if !L.recRuns then (L, false)
  else ((List.range L.tallyN).filter fun c => L.tallyOn c && L.tallyEvt c && u8At (L.tallyE c) 2 == id).foldl (fun p c =>
    let (L1, d) := p.1.recOccur tb rtc run c 0; (L1, p.2 || d)) (L, false)

/-! Events (R494-R499). -/

def aEvtCfg (id : Nat) : Nat := 0x40010100 + 4 * id
def aEvtSeq (id : Nat) : Nat := 0x40010500 + 4 * id
def aEvtQ (e : Nat) : Nat := 0x40011000 + 0x20 * e

/-- Place a record by priority, after those raised before it (R497); never before one of its own source, whose PRIO may have been
lower (R297 promise 3). -/
def evtInsert (r : EvtRec) : List EvtRec → List EvtRec
  | [] => [r]
  | h :: t => if h.prio < r.prio && (h :: t).all (fun q => q.id != r.id) then r :: h :: t else h :: evtInsert r t

/-- Place a record in the queue of engine `e`; a full queue drops it and reports the overflow once (R497). -/
def Lane.evtEngine (L : Lane) (r : EvtRec) (e : Fin 16) : Lane × List Nat :=
  let q := L.evt.q[e]
  if q.length < 64 then ({ L with evt := { L.evt with q := L.evt.q.set e (evtInsert r q) } }, [])
  else
    let L1 := L.incFld (aEvtQ e + 0x10) 16 16
    if L.evt.ovf.getLsbD e then (L1, [])
    else ({ L1 with evt := { L1.evt with ovf := L1.evt.ovf ||| BitVec.ofNat 16 (2 ^ e.val) } }, [e.val])

/-- Place a record in the HC stream; a full stream drops it (R483). The answer says whether it was dropped. -/
def Lane.evtHc (L : Lane) (r : EvtRec) : Lane × Bool :=
  if L.evt.hcq.length < 1024 then ({ L with evt := { L.evt with hcq := evtInsert r L.evt.hcq } }, false)
  else ({ L with hc := { L.hc with dropped := satInc 32 L.hc.dropped } }, true)

/-- Deliver one event of a lane: tallies, sequence, stamp, route (R449, R496). The answers are the events that follow from
drops: EV_EVT_OVF with its engine, EV_HC_EVT_DROP and EV_REC_DROP at most once per second. -/
def Lane.evtOne (L : Lane) (l : LaneId) (tb rtc : Word) (run : Nat) (id idx sub : Nat) : Lane × List (Nat × Nat) :=
  let (L0, recDrop) := L.recEvent tb rtc run id
  let follow0 := if recDrop then [(0xED, 0)] else []
  let cfg := L0.get (aEvtCfg id)
  if !bitOf cfg 31 then (L0, follow0)
  else
    let L1 := L0.putN (aEvtSeq id) (L0.getN (aEvtSeq id) + 1)
    let r : EvtRec := { id := id, lane := l, prio := fieldOf cfg 24 4, seq := L1.get (aEvtSeq id), tb := tb,
                        data := BitVec.ofNat 32 (idx % 2 ^ 16 + sub % 2 ^ 8 * 2 ^ 16) }
    let (L2, ovf) := (List.finRange 16).foldl (fun (p : Lane × List Nat) (e : Fin 16) =>
      if bitOf cfg e.val then let (L', o) := p.1.evtEngine r e; (L', p.2 ++ o) else p) (L1, [])
    let follow := follow0 ++ ovf.map fun e => (0x0C, e)
    if bitOf cfg 16 then
      let (L3, dropped) := L2.evtHc r
      let due := match L3.hc.dropEvAt with
        | none => true
        | some t => decide (t + sU 1 ≤ run)
      if dropped && due then ({ L3 with hc := { L3.hc with dropEvAt := some run } }, follow ++ [(0xDD, 0)])
      else (L3, follow)
    else (L2, follow)

/-- Deliver a list of events in order: the lane, and what follows from drops. -/
def Lane.evtRound (L : Lane) (l : LaneId) (tb rtc : Word) (run : Nat) (evs : List (Nat × Nat × Nat)) : Lane × List (Nat × Nat) :=
  evs.foldl (fun (p : Lane × List (Nat × Nat)) e =>
    let r := p.1.evtOne l tb rtc run e.1 e.2.1 e.2.2
    (r.1, p.2 ++ r.2)) (L, [])

/-- Deliver events and what follows from them. Each round reports an engine's overflow, a dropped HC record and a dropped
recorder record at most once, so 20 rounds are enough. -/
def Lane.evtAll (l : LaneId) (tb rtc : Word) (run : Nat) : Nat → Lane → List (Nat × Nat × Nat) → Lane
  | 0, L, _ => L
  | fuel + 1, L, evs =>
    let r := L.evtRound l tb rtc run evs
    if r.2.isEmpty then r.1 else evtAll l tb rtc run fuel r.1 (r.2.map fun p => (p.1, p.2, 0))

/-- A lane raises an event: from the end of its boot, in every mode but RETAIN (R498). -/
def State.raise (s : State) (l : LaneId) (id : Nat) (idx sub : Nat := 0) : State :=
  if s.isUp l && s.mode.mode != .retain && s.mode.mode != .reset then
    s.upd l fun L => Lane.evtAll l s.tbW s.rtcW s.tb.run 20 L [(id, idx, sub)]
  else s

/-- Every lane that runs raises the event. -/
def State.raiseUp (s : State) (id : Nat) (idx sub : Nat := 0) : State := s.each s.ups fun l s => s.raise l id idx sub

/-! Completions (R486). -/

def State.ok (s : State) (w : Word := 0) : State := { s with reply := .ok w }
def State.busErr (s : State) : State := { s with reply := .busError }

/-- A refused write: no effect, a bus error, and the block's CFG event in the lane. -/
def State.refuse (s : State) (l : LaneId) (ev : Nat) (idx : Nat := 0) : State := (s.raise l ev idx).busErr

/-- A free value: nothing constrains it; the counter makes each one a fresh one (log 4). -/
def State.fresh (s : State) : DWord × State := (Config.freeValue s.free, { s with free := s.free + 1 })

/-- `n` free bytes. -/
def State.freshBytes (s : State) (n : Nat) : Bytes × State :=
  ((List.range n).map fun i => (Config.freeValue (s.free + i)).truncate 8, { s with free := s.free + n })

/-- What a debugger may do in a lane through system-bus access (R262), `wr` for a write: nothing while CYC_DBG_CFG.EN is 0; in STOP
and CONFIGURE reads and writes; in RUN and HOLD from RUN reads; in SINGLE and HOLD from SINGLE everything. -/
def State.debugMay (s : State) (l : LaneId) (wr : Bool) : Bool :=
  (s.lane l).flag 0x40020008 0 && (s.mode.mode == .stop || s.mode.mode == .configure || (s.running && !(wr && s.dualRun)))

/-- The lanes that an access of a source reaches: HC both, the UART lane A or the active lane (R481, R485), an engine, a debugger
or a DMA channel its own. Lanes without power or in boot take no access. -/
def State.reached (s : State) (src : Src) (wr : Bool) : List LaneId :=
  (match src.req with
  | .hc => [LaneId.a, .b]
  | .hcBulk => [LaneId.a, .b]
  | .uart => [s.act]
  | .debugger => [src.lane].filter fun l => s.debugMay l wr
  | _ => [src.lane]).filter s.isUp
/-- The lanes in which a write or a command of a source acts, and those in which a read does. -/
def State.lanesOf (s : State) (src : Src) : List LaneId := s.reached src true
def State.readersOf (s : State) (src : Src) : List LaneId := s.reached src false

/-- The lane whose data answers a read of a source. -/
def State.readLane (s : State) (src : Src) : LaneId :=
  match src.req with
  | .hc => s.act
  | .hcBulk => s.act
  | .uart => s.act
  | _ => src.lane

/-- A read of a source reaches the lane that answers it. -/
def State.reads (s : State) (src : Src) : Bool := (s.readersOf src).contains (s.readLane src)

/-- Run a per-lane operation in the lanes an access reaches; the completion is the active lane's (R481). -/
def State.perLaneIn (s : State) (ls : List LaneId) (f : LaneId → State → State) : State :=
  match ls with
  | [] => s.busErr
  | [l] => f l s
  | _ =>
    let act := s.act
    let s1 := s.each (ls.filter (· != act)) f
    if ls.contains act then { f act s1 with peerReply := s1.reply } else s1
/-- A write or a command of a source, and a read. -/
def State.perLane (s : State) (src : Src) (f : LaneId → State → State) : State := s.perLaneIn (s.lanesOf src) f
def State.perLaneRead (s : State) (src : Src) (f : LaneId → State → State) : State := s.perLaneIn (s.readersOf src) f

/-- A command of a unit that acts for the whole module (R531). An HC write is one command; of two identical writes of
twin engines in dual running the first arrival is the command, and the second is joined to it and completes alike. -/
def State.joined (s : State) (src : Src) (addr : Nat) (word : Word) (f : State → State) : State :=
  match src.req with
  | .engine e =>
    if s.dualRun then
      match s.twins.find? fun t => t.1 == other src.lane && t.2.1 == e && t.2.2.1 == addr && t.2.2.2.1 == word with
      | some t => { s with twins := s.twins.erase t, reply := t.2.2.2.2 }
      | none =>
        let s1 := f s
        { s1 with twins := s1.twins ++ [(src.lane, e, addr, word, s1.reply)] }
    else f s
  | _ => f s

/-! IND state of a requester (R489). -/

def Lane.indOf (L : Lane) (req : Requester) : IndSt := match L.ind.find? fun i => i.req == req with
  | some i => i
  | none => { req := req, addr := 0, busy := none, err := 0 }
def Lane.setInd (L : Lane) (i : IndSt) : Lane := { L with ind := (L.ind.filter fun j => j.req != i.req) ++ [i] }

/-- An access through one lane ends with IND error status: ERR of its requester and EV_IND_ERR there. -/
def State.indFailIn (s : State) (l : LaneId) (req : Requester) (err : Nat) : State :=
  { (s.upd l fun L => L.setInd { L.indOf req with err := err }).raise l 0x08 with reply := .indError }
/-- The same in every lane the source acts in. -/
def State.indFail (s : State) (src : Src) (err : Nat) : State :=
  let s1 := s.each (s.lanesOf src) fun l s => s.indFailIn l src.req err
  { s1 with reply := .indError }

/-- TXN owner code of a requester (03, TXN_STAT.OWNER). -/
def reqCode : Requester → Nat
  | .engine e => e.val
  | .hc => 0x80
  | .uart => 0x81
  | .debugger => 0x82
  | .dma c => 0x40 + c.val
  | .hcBulk => 0x83
  | .unit q => 0x60 + q.val

end Sys2Proof.Machine
end

