-- ==== Sys2Proof/Machine/Operands.lean ====
section
/-! DEFINITION. Machine/Operands.lean: where an address points (R29), how memory is read and written behind it, and how
the configuration of a lane is read from its drawers. -/
namespace Sys2Proof.Machine

/-- The offset of a Chest address (R29: 0x2000_0000 to 0x20FF_FFFF) from the start of the Chest. -/
def chestOff (a : Nat) : Nat := a % 0x20000000

/-- The regions of the address map (R29). -/
inductive Region where
  | rom | itcm | dtcm | sram | chest | bench | reg | aliasSet | aliasClr | aliasTgl | fr | dram | unmapped
deriving DecidableEq, Repr

def regionOf (a : Nat) : Region :=
  if a ≤ 0x0003FFFF then .rom
  else if 0x08000000 ≤ a ∧ a ≤ 0x0803FFFF then .itcm
  else if 0x08100000 ≤ a ∧ a ≤ 0x0813FFFF then .dtcm
  else if 0x10000000 ≤ a ∧ a ≤ 0x107FFFFF then .sram
  else if 0x20000000 ≤ a ∧ a ≤ 0x20FFFFFF then .chest
  else if 0x30000000 ≤ a ∧ a ≤ 0x33FFFFFF then .bench
  else if 0x40000000 ≤ a ∧ a ≤ 0x401BFFFF then .reg
  else if 0x41000000 ≤ a ∧ a ≤ 0x411AFFFF then .aliasSet
  else if 0x42000000 ≤ a ∧ a ≤ 0x421AFFFF then .aliasClr
  else if 0x43000000 ≤ a ∧ a ≤ 0x431AFFFF then .aliasTgl
  else if 0x4F000000 ≤ a ∧ a ≤ 0x4F00FFFF then .fr
  else if 0x80000000 ≤ a ∧ a ≤ 0xFFFFFFFF then .dram
  else .unmapped

/-- Memory that holds bytes of its own (not register space). -/
def Region.isMem : Region → Bool
  | .rom => true
  | .itcm => true
  | .dtcm => true
  | .sram => true
  | .chest => true
  | .bench => true
  | .dram => true
  | _ => false

/-- Every byte of [a, a + n) lies in the region of its first byte. -/
def inOneRegion (a n : Nat) : Bool := n = 0 || (regionOf a == regionOf (a + n - 1) && n ≤ 2 ^ 32)

/-- Key of a lane-private byte: the TCMs of engine `e` stand from 2^32 + e × 2^21 on (R30, R33). -/
def memKey (e a : Nat) : Nat := if regionOf a = .itcm ∨ regionOf a = .dtcm then 2 ^ 32 + e * 2 ^ 21 + (a - 0x08000000) else a

/-- The Bench working area, whose contents are undefined to every reader (R142). -/
def inBenchWork (a : Nat) : Bool := 0x32800000 ≤ a && a ≤ 0x33FFFFFF

/-- The tracker area (R165, R166): its state blocks are undefined to readers, its output buffers are not. -/
def Lane.inTracker (L : Lane) (a : Nat) : Bool := L.pcl.outAt != 0 && L.getN 0x400B0010 ≤ a && a < 0x32800000
def Lane.benchUndef (L : Lane) (a : Nat) : Bool := inBenchWork a || (L.inTracker a && a < L.pcl.outAt)

/-- `n` bytes as lane `l` (engine `e` for the TCMs) reads them from address `a` on, within one region. -/
def State.rdMem (s : State) (l : LaneId) (e a n : Nat) : Bytes :=
  match regionOf a with
  | .rom => (List.range n).map fun i => Config.bootRom (a + i)
  | .chest => memRead s.chest.array (chestOff a) n
  | .itcm => memRead (s.lane l).mem (memKey e a) n
  | .dtcm => memRead (s.lane l).mem (memKey e a) n
  | .sram => memRead (s.lane l).mem a n
  | .bench => (List.range n).map fun i =>
      if (s.lane l).benchUndef (a + i) then Config.workByte s.free (a + i) else memGet (s.lane l).mem (a + i)
  | .dram => memRead (s.lane l).mem a n
  | _ => zeros n

/-- Words with an uncorrectable error that a store covers in full are sound again (R295); DRAM counts in blocks of 32. -/
def eccGrain (k : Nat) : Nat := if 0x80000000 ≤ k ∧ k < 2 ^ 32 then 32 else 8
def Lane.eccHeal (L : Lane) (k n : Nat) : Lane :=
  if L.badWords.isEmpty then L else { L with badWords := L.badWords.filter fun w => !(k ≤ w && w + eccGrain w ≤ k + n) }
/-- A word with an uncorrectable error lies in [k, k + n). -/
def Lane.eccBad (L : Lane) (k n : Nat) : Bool := L.badWords.any fun w => w < k + n && k < w + eccGrain w

/-- Store bytes in the lane's private memory; the boot ROM and the Chest are not stored to here (R29, R425). -/
def Lane.wrMem (L : Lane) (e a : Nat) (bs : Bytes) : Lane :=
  let put (k : Nat) : Lane := { L.eccHeal k bs.length with mem := memWrite L.mem k bs }
  match regionOf a with
  | .itcm => put (memKey e a)
  | .dtcm => put (memKey e a)
  | .sram => put a
  | .bench => put a
  | .dram => put a
  | _ => L

/-- The same on a list of drawers that is being checked. -/
def drOf (ds : List Drawer) (typ : Nat) (inst : Nat := 0) : Bytes :=
  match ds.find? fun d => d.typ == typ && d.inst == inst with
  | some d => d.bytes
  | none => []

/-- All indices below `n` satisfy `f`. -/
def allBelow (n : Nat) (f : Nat → Bool) : Bool := (List.range n).all f
/-- Some index below `n` satisfies `f`. -/
def anyBelow (n : Nat) (f : Nat → Bool) : Bool := (List.range n).any f

/-- The indices below `n` at which `f` has a value, each value once: no two indices share one. -/
def distinctBelow (n : Nat) (f : Nat → Nat) : Bool := ((List.range n).map f).Nodup

/-- The first position of the largest step: position of the first element that satisfies a test. -/
def indexOf (p : α → Bool) (xs : List α) : Option Nat :=
  let i := xs.findIdx p
  if i < xs.length then some i else none

/-- Replace element `i` of a list. -/
def setAt (xs : List α) (i : Nat) (v : α) : List α := xs.set i v

/-- Element `i` of a list of floating values, 0 beyond its end. -/
def fAt (xs : List F64) (i : Nat) : F64 := xs.getD i 0

/-- FP32 words as FP64 values. -/
def wF (w : Word) : F64 := f32to64 w

end Sys2Proof.Machine
end

