-- ==== Sys2Proof/Machine/RedCore.lean ====
section
/-! DEFINITION. Machine/RedCore.lean: health words, the decision table and its outcomes (12: R309-R314), mode refusals and
the pending mode change they share (02: R49-R51). -/
namespace Sys2Proof.Machine

def aModeReg : Nat := 0x40000004
def aHealth : Nat := 0x40090004

/-- A refused mode command or SYS_BOOT_CFG write (R51, R64): REFUSED and its code in both lanes, one event in each. -/
def State.modeRefused (s : State) (code : Nat) : State :=
  let s1 := s.each s.ups fun l s => s.upd l fun L => (L.setFlag aModeReg 8 true).setFld aModeReg 12 4 code
  s1.raiseUp 0x01 0 code

/-- A pending change is dropped (R49): one that a mode command asked for is reported as refused with BUSY, an auto-run or a
SAFE of another source goes without effect. -/
def State.dropPend (s : State) : State :=
  match s.mode.pend with
  | none => s
  | some p =>
    let s1 := { s with mode := { s.mode with pend := none } }
    if p.cmd then s1.modeRefused 2 else s1

/-- Ask for SAFE (R45, R50), by a command (`cmd`) or another source: it replaces a pending change; due at the next 250 us
tick. A SAFE that is already pending stays with its instant, and a further SAFE joins it without report: DESIGN CHOICE, the
spec does not say whether it replaces the first (log 42). -/
def State.askSafe (s : State) (cmd : Bool) : State :=
  if s.mode.pend.any fun p => p.target == .safe then s
  else
    let s1 := s.dropPend
    { s1 with mode := { s1.mode with pend := some { target := .safe, task := 0, due := s1.next250, cmd := cmd } } }

def aAx (a off : Nat) : Nat := 0x400D0100 + 0x40 * a + off
def Lane.axStat (L : Lane) (a i : Nat) : Bool := L.flag (aAx a 4) i
def State.axDie (s : State) (a : Fin 16) (f : AxDie → AxDie) : State :=
  { s with field := { s.field with ax := s.field.ax.set a (f s.field.ax[a]) } }
def State.axGen (s : State) (l : LaneId) (a : Fin 16) (f : AxGen → AxGen) : State :=
  s.upd l fun L => { L with axes := L.axes.set a (f L.axes[a]) }

/-- Referencing ends without success (R234). -/
def State.axRefFail (s : State) (l : LaneId) (a : Fin 16) : State :=
  if (s.lane l).axStat a 7 then
    let s1 := s.upd l fun L => (L.setFlag (aAx a 4) 7 false).setFlag (aAx a 4) 8 true
    ((s1.axGen l a fun g => { g with decel := true, refEdge := none, trail := [] }).axDie a fun d => { d with uncertain := true }).raise l 0x72 a
  else s

/-- A mode takes effect: MODE, PREV, EV_SYS_MODE (R42, R51). Every change of mode ends referencing (R234). -/
def State.setMode (s : State) (m : Mode) : State :=
  let s1 := (({ s with mode := { s.mode with mode := m, prev := s.mode.mode } }).updBoth (·.tvClear aModeReg)).raiseUp 0x00
  s1.each s1.ups fun l s => (List.finRange 16).foldl (fun s a => s.axRefFail l a) s

/-- Health word of a lane (R309). -/
def State.health (s : State) (l : LaneId) : Nat := (s.lane l).fld aHealth 0 5
/-- Its bits other than LINK. -/
def State.sick (s : State) (l : LaneId) : Bool := s.health l % 16 != 0

/-- The table works for two lanes (R311): RUN, or HOLD entered from RUN, and no lane of the two condemned as standby. -/
def State.tableDual (s : State) : Bool := s.dualRun && s.red.condemned.isNone
/-- It works for one lane: SINGLE, or HOLD entered from SINGLE, or a standby condemned before. -/
def State.tableSingle (s : State) : Bool := s.running && !s.tableDual

/-- The row of the decision table (R311): `lost` is the active lane's heartbeat, `mis` a mismatch; the active lane holds the HB_LOSS
bit of the standby in its peer half. 0 where no row holds. -/
def State.tableRow (s : State) (lost mis eA eS : Bool) : Nat :=
  let hA := s.sick s.act
  let hS := s.sick (other s.act) || (!lost && (s.lane s.act).flag aHealth 13)
  if s.tableDual then
    if lost then (if hS then 10 else 8)
    else if hA && hS then 9
    else if hA then 7
    else if hS then 6
    else if mis then (match eA, eS with
      | false, false => 2
      | false, true => 3
      | true, false => 4
      | true, true => 5)
    else 1
  else if s.tableSingle then (if lost then 13 else if hA then 12 else 11)
  else 0

/-- A lane event outranks a mode command that is due at the same instant: the command is dropped (R49). -/
def State.outrank (s : State) : State :=
  match s.mode.pend with
  | some p => if p.due ≤ s.tb.count then s.dropPend else s
  | none => s

/-- The module loses one lane of two: RUN becomes SINGLE at once; in HOLD the return goes to SINGLE (R45). -/
def State.toSingle (s : State) : State :=
  if s.mode.mode == .run then s.outrank.setMode .single
  else if s.mode.mode == .hold then { s with mode := { s.mode with heldFrom := .single } }
  else s

/-- A condemnation takes effect: the lane takes no further part (R318) and the module is in SINGLE. -/
def State.dropLane (s : State) (l : LaneId) : State :=
  let s1 := s.upd l fun L => { L with phase := .failed }
  let s2 := { s1 with red := { s1.red with condemned := some (l, true), suspects := [] } }
  if s.dualRun then s2.toSingle else s2

/-- The standby is condemned or dropped (rows 3 and 6, R313, DROP): at once, or at the next switch point for an item
already delivered (R312). -/
def State.condemnStandby (s : State) (atOnce : Bool) : State :=
  let s1 := s.raiseUp 0x13
  let sb := other s1.act
  if atOnce then s1.dropLane sb else { s1 with red := { s1.red with condemned := some (sb, false) } }

/-- FAILSAFE: the field die commands itself, the link die is silent (R314). -/
def State.enterFailsafe (s : State) : State := { s with red := { s.red with failsafe := true } }

/-- Count window of R313 in units of the time base: WINDOW periods of the shortest task, 250 us without one. -/
def suspectWindow (L : Lane) (shortest : Option Nat) : Nat := L.fld 0x4009000C 16 8 * nsU (shortest.getD 250000)

/-- PERIOD of the shortest task in ns, from the TASK drawer: task entries of 32 bytes behind a 16-byte header (09: R246). -/
def shortestPeriod (d : Bytes) : Option Nat :=
  let ns := (List.range (u8At d 0)).map fun i => u16At d (0x10 + 0x20 * i + 2) * 250000
  (ns.filter (· != 0)).min?

/-- One more unresolved mismatch of the standby (R313): mismatches of one instant count once. At LIMIT it is dropped as under row
3. -/
def State.addSuspect (s : State) (atOnce : Bool) : State :=
  let L := s.lane s.act
  let win := suspectWindow L (shortestPeriod (L.dr 3))
  let kept := s.red.suspects.filter fun t => s.tb.run ≤ t + win
  let now := if kept.contains s.tb.run then kept else kept ++ [s.tb.run]
  let s1 := { s with red := { s.red with suspects := now } }
  let s2 := (s1.each s1.ups fun l s => s.upd l fun L => L.incFld 0x40090010 0 16).raiseUp 0x12
  if L.fld 0x4009000C 12 4 ≤ now.length then s2.condemnStandby atOnce else s2

/-- The outcome of a row (R311). `atOnce`: a condemnation of the standby acts at this instant and not at the next switch point
(R312). Hard takeover (row 8) is carried out by its own event. -/
def State.redApply (s : State) (row : Nat) (atOnce : Bool) : State :=
  match row with
  | 2 => s.addSuspect atOnce
  | 5 => s.addSuspect atOnce
  | 3 => s.condemnStandby atOnce
  | 6 => s.condemnStandby atOnce
  | 4 => { s with red := { s.red with takeover := some (.condemned 4) } }
  | 7 => { s with red := { s.red with takeover := some (.condemned 7) } }
  | 9 => s.askSafe false
  | 12 => s.askSafe false
  | 10 => s.enterFailsafe
  | 13 => s.enterFailsafe
  | _ => s

/-- The last trigger, recorded in both lanes: item, row, index, instant. -/
def State.redRecord (s : State) (item row idx : Nat) : State :=
  s.each s.ups fun l s => s.upd l fun L => (((L.setFld 0x40090014 28 4 item).setFld 0x40090014 24 4 row).setFld 0x40090014 0 16 idx).put 0x40090018 s.tbW

/-- A mismatch instant: counted and raised once, whatever number of items (R324, RED_MIS). -/
def State.redMismatch (s : State) (idx : Nat) : State :=
  if s.red.misAt = some s.tb.run then s
  else
    let s1 := (s.each s.ups fun l s => s.upd l fun L => L.incFld 0x40090010 16 16).raiseUp 0x11 idx
    { s1 with red := { s1.red with misAt := some s1.tb.run } }

/-- One trigger of the decision table (R311): the code and index of the first item, whether it is a mismatch, and the envelope
results over all items of the instant. -/
def State.redTrigger (s : State) (item idx : Nat) (mis eA eS : Bool) : State :=
  let row := s.tableRow false mis eA eS
  if row = 0 ∨ row = 1 ∨ row = 11 then s
  else
    let s1 := s.redRecord item row idx
    (if mis then s1.redMismatch idx else s1).redApply row (item = 1 ∨ item = 2 ∨ item = 9)

/-! Resynchronisation: what both lanes show, and failure (R319, R321). -/

/-- RED_RESYNC: PHASE, FAIL, TRY, PENDING. -/
def State.resyncShow (s : State) (phase fail try_ pending : Nat) : State :=
  s.updBoth (·.putN 0x40090024 (phase * 2 ^ 28 + fail * 2 ^ 24 + try_ * 2 ^ 22 + pending))

/-- A lane is given up (R318, R321): it stays in RESET. -/
def State.giveUp (s : State) (l : LaneId) : State :=
  ((s.upd l fun L => { L with phase := .gaveUp }).upd (other l) (·.setFlag 0x40090000 19 true)).raise (other l) 0x1A

/-- An attempt fails (R321): it is repeated after 1 s, but for a DIGEST failure and after the third. The failed attempts
together count as one automatic reset. -/
def State.resyncFail (s : State) (code : Nat) : State :=
  match s.red.resync with
  | none => s
  | some r =>
    if r.retryAt.isSome then s
    else
      let s1 := (s.resyncShow 7 code r.tries 0).raise (other r.lane) 0x18
      if code = 1 ∨ 3 ≤ r.tries then
        let s2 := s1.giveUp r.lane
        { s2 with red := { s2.red with resync := none, autoResets := s2.red.autoResets ++ [s2.tb.run] } }
      else { s1 with red := { s1.red with resync := some { r with phase := 7, retryAt := some (s1.tb.run + sU 1) } } }

/-- The attempt of a lane fails where it is the joining one. -/
def State.resyncFailOf (s : State) (l : LaneId) (code : Nat) : State :=
  match s.red.resync with
  | some r => if r.lane = l then s.resyncFail code else s
  | none => s

/-- A lane sets a bit of its health word (R309): cleared only by its reset. A new bit raises EV_RED_HEALTH; the lane that
runs alone evaluates the table at once, two lanes when the heartbeat has carried the word over (R311). -/
def State.setHealth (s : State) (l : LaneId) (i : Nat) : State :=
  if (s.lane l).flag aHealth i then s
  else
    let s1 := ((s.upd l fun L => (L.setFlag aHealth i true).tvClear aHealth).raise l 0x14).resyncFailOf l 5
    if s1.tableSingle && s1.isUp l then s1.redTrigger 9 0 false false false else s1

end Sys2Proof.Machine
end

