-- ==== Sys2Proof/Machine/Txn.lean ====
section
/-! DEFINITION. Machine/Txn.lean: transactions and paired fields (03: R84-R95, R529). The state of a transaction stands in
TXN_STAT of its lane; the journal behind it in `Lane.txn`. -/
namespace Sys2Proof.Machine

def aTxnStat : Nat := 0x40060008
def aTxnCnt : Nat := 0x40060018

/-- TXN_STAT.STATE: 0 CLOSED, 1 OPEN, 2 SEALED, 3 ABORTED. -/
def Lane.txnState (L : Lane) : Nat := L.fld aTxnStat 13 2
def Lane.txnOwner (L : Lane) : Nat := L.fld aTxnStat 24 8
def Lane.txnLast (L : Lane) (code : Nat) : Lane := L.setFld aTxnStat 20 4 code

/-- Close the transaction, discard the journal, set LAST. -/
def Lane.txnClose (L : Lane) (last : Nat) : Lane :=
  let L1 := ((L.setFld aTxnStat 13 2 0).setFld aTxnStat 24 8 0xFF).setFld aTxnStat 0 13 0
  { L1.txnLast last with txn := { L1.txn with journal := [], sealedAt := none, sent := none } }

/-- TXN event with its sub-code (R495): 1 COMMIT, 2 ABORT, 3 BUSY, 4 DIVERGE, 5 PAIR_TIMEOUT. -/
def State.txnEvent (s : State) (l : LaneId) (sub : Nat) : State := s.raise l 0xFB 0 sub

/-- A ·T or ·P write refused with LAST = `last` (9 TXN_BUSY, 10 PAIR_BUSY): counted, EV_TXN_BUSY for TXN_BUSY (R86, R94). -/
def State.txnRefuse (s : State) (l : LaneId) (last : Nat) : State :=
  let s1 := s.upd l fun L => (L.incFld aTxnCnt 16 16).txnLast last
  (if last = 9 then s1.txnEvent l 3 else s1).busErr

/-- TXN_BEGIN in one lane (R84): a grant counts, skips 0 and opens; a transaction in any other state answers 0 and LAST
BEGIN_BUSY. A requester that cannot own one meets a bus error and nothing else. -/
def State.txnBegin (s : State) (l : LaneId) (req : Requester) : State :=
  let mayOwn := match req with
    | .engine _ => true
    | .hc => true
    | _ => false
  let L := s.lane l
  if !mayOwn then s.busErr
  else if L.txnState ≠ 0 then (s.upd l (·.txnLast 8)).ok 0
  else
    let tok := if L.txn.token = 0xFFFF then 1 else L.txn.token + 1
    let s1 := s.upd l fun L =>
      let L1 := ((L.setFld aTxnStat 13 2 1).setFld aTxnStat 24 8 (reqCode req)).setFld aTxnStat 0 13 0
      { L1 with txn := { L1.txn with token := tok, journal := [], lastAct := s.tb.run, sealedAt := none, sent := none } }
    s1.ok (BitVec.ofNat 32 (0x10000 + tok.toNat))

def execTxnBegin (src : Src) (s : State) : Out := .next (s.perLane src fun l s => s.txnBegin l src.req)

/-- The owner with the right token. -/
def Lane.txnMine (L : Lane) (req : Requester) (token : Half) : Bool :=
  L.txnOwner == (reqCode req) && L.txn.token == token && L.txnState != 0

/-- A command of the owner restarts the idle limit, whatever comes of it (R92). -/
def Lane.txnTouch (L : Lane) (req : Requester) (run : Nat) : Lane :=
  if L.txnState ≠ 0 ∧ L.txnOwner = reqCode req then { L with txn := { L.txn with lastAct := run } } else L

/-- The standby's own journal against the active lane's (R90): a difference is a mismatch that condemns neither. -/
def State.txnCompare (s : State) (sb : LaneId) (own j : List Staged) : State :=
  if own ≠ j && s.compares then (s.txnEvent sb 4).redTrigger 7 0 true false false else s

/-- The active lane has sealed in dual running (R90): its journal and its instant go to the standby, which takes them if it has
sealed, and keeps them beside its own transaction if it has not. -/
def State.txnSend (s : State) : State :=
  let L := s.lane s.act
  let sb := other s.act
  let at_ := L.txn.sealedAt.getD s.tb.run
  if (s.lane sb).txnState = 2 then
    (s.upd sb fun P => { P with txn := { P.txn with journal := L.txn.journal, sealedAt := some at_ } }).txnCompare sb (s.lane sb).txn.journal L.txn.journal
  else s.upd sb fun P => { P with txn := { P.txn with
    sent := some { owner := L.txnOwner, token := L.txn.token, journal := L.txn.journal, sealedAt := at_ } } }

/-- The lane holds the active lane's journal as its own sealed one (R90). -/
def Lane.txnTake (L : Lane) (x : TxnSent) : Lane :=
  let L1 := ((L.setFld aTxnStat 13 2 2).setFld aTxnStat 24 8 x.owner).setFld aTxnStat 0 13 x.journal.length
  { L1 with txn := { L1.txn with token := x.token, journal := x.journal, sealedAt := some x.sealedAt, sent := none } }
/-- A standby that held a sent journal goes on with it (R90: a takeover leaves the commit instant unchanged). -/
def Lane.txnTakeSent (L : Lane) : Lane := match L.txn.sent with
  | some x => L.txnTake x
  | none => L

/-- COMMIT in one lane (R88, R91): OPEN becomes SEALED. In dual running both lanes commit the active lane's journal (R90). -/
def State.txnCommit (s0 : State) (l : LaneId) (req : Requester) (token : Half) : State :=
  let s := s0.upd l fun L => L.txnTouch req s0.tb.run
  let L := s.lane l
  if !L.txnMine req token then (s.upd l (·.txnLast 6)).ok
  else if L.txnState ≠ 1 then (s.upd l (·.txnLast 7)).ok
  else
    let s1 := s.upd l fun L => { L.setFld aTxnStat 13 2 2 with txn := { L.txn with sealedAt := some s.tb.run } }
    if !s.dualRun then s1.ok
    else if l = s.act then s1.txnSend.ok
    else match L.txn.sent with
      | some x => ((s1.upd l fun L => L.txnTake x).txnCompare l L.txn.journal x.journal).ok
      | none => s1.ok

def execTxnCommit (src : Src) (token : Half) (s : State) : Out :=
  .next (s.perLane src fun l s => s.txnCommit l src.req token)

/-- ROLLBACK in one lane (R91): OPEN or ABORTED closes; SEALED is BAD_STATE. -/
def State.txnRollback (s0 : State) (l : LaneId) (req : Requester) (token : Half) : State :=
  let s := s0.upd l fun L => L.txnTouch req s0.tb.run
  let L := s.lane l
  if !L.txnMine req token then (s.upd l (·.txnLast 6)).ok
  else if L.txnState = 2 then (s.upd l (·.txnLast 7)).ok
  else (s.upd l (·.txnClose 2)).ok

def execTxnRollback (src : Src) (token : Half) (s : State) : Out :=
  .next (s.perLane src fun l s => s.txnRollback l src.req token)

/-- CLR_CNT sets both TXN_CNT fields to 0, whatever the token. -/
def State.txnClrCnt (s : State) (l : LaneId) (req : Requester) : State :=
  (s.upd l fun L => (L.txnTouch req s.tb.run).put aTxnCnt 0).ok
def execTxnClrCnt (src : Src) (s : State) : Out := .next (s.perLane src fun l s => s.txnClrCnt l src.req)

/-- Idle limit (R92): an OPEN or ABORTED transaction with nothing staged and no command for TXN_CFG.IDLE s is rolled
back. -/
def execTxnIdleTimeout (lane : LaneId) (s : State) : Out :=
  let L := s.lane lane
  let idle := L.fld 0x4006000C 0 10
  if (L.txnState = 1 ∨ L.txnState = 3) ∧ idle ≠ 0 then
    .next (((s.advRun (L.txn.lastAct + sU idle)).upd lane (·.txnClose 5)).txnEvent lane 2)
  else .next s

/-- Pair limit (R94): 10 ms after the first staged write the staged member is discarded. -/
def execPairTimeout (lane : LaneId) (addr : Word) (s : State) : Out :=
  match (s.lane lane).txn.pairs.find? fun p => p.addr == addr.toNat with
  | none => .next s
  | some p =>
    let s1 := s.advRun (p.at_ + msU 10)
    let s2 := s1.upd lane fun L => { L.incFld aTxnCnt 0 16 with txn := { L.txn with pairs := L.txn.pairs.filter fun q => q.addr != p.addr } }
    .next (s2.txnEvent lane 5)

/-- At entry to CONFIGURE or RETAIN and at a lane reset a transaction that is not CLOSED is discarded, with
EV_TXN_ABORT where the lane keeps running outside RETAIN; staged pair members are discarded without an event (R92, R95). -/
def State.txnDiscard (s : State) (l : LaneId) : State :=
  let s0 := s.upd l fun L => { L with txn := { L.txn with pairs := [] } }
  if (s.lane l).txnState = 0 then s0 else (s0.upd l (·.txnClose 4)).txnEvent l 2

/-- The value a register will have once the owner's journal applies: the value last staged for it, or its applied value
(R85, R529). -/
def Lane.stagedOf (L : Lane) (a : Nat) : Word :=
  match L.txn.journal.reverse.find? fun e => e.addr == a with
  | some e => e.value
  | none => L.get a

/-- The value of a register that a check against `a` sees (R216, R529): inside the requester's open transaction the
staged value, outside it the staged pair member, and otherwise the applied value. -/
def Lane.viewOf (L : Lane) (req : Requester) (a : Nat) : Word :=
  if L.txnState = 1 ∧ L.txnOwner = reqCode req then L.stagedOf a
  else match L.txn.pairs.find? fun p => p.addr == a with
    | some p => p.value
    | none => L.get a

/-- The same for a register of a lane: REFRESH_DEFER of CHS_CFG stands in the Chest die (18). -/
def State.baseOf (s : State) (l : LaneId) (req : Requester) (a : Nat) : Word :=
  (if a = 0x40160008 then (s.lane l).put a (BitVec.ofNat 32 (bit s.chest.deferRefresh)) else s.lane l).viewOf req a

/-- The stored word a write produces in a register: RW bits take the data, bits written with 1 to W1C clear, bits
written with 1 to W1S set, the rest stay (R9). -/
def RegRow.merge (r : RegRow) (old data : Word) : Word :=
  let m := BitVec.ofNat 32 r.rw
  let c := BitVec.ofNat 32 r.w1c
  let k := BitVec.ofNat 32 r.w1s
  (((old &&& ~~~ m) ||| (data &&& m)) &&& ~~~ (data &&& c)) ||| (data &&& k)

/-- Stage a ·T write in the open transaction of its owner; the 4,097th aborts it (R85, R87) and completes with a bus error (DESIGN
CHOICE, R87 does not say how it completes; log 47). -/
def State.txnStage (s : State) (l : LaneId) (a : Nat) (v : Word) : State :=
  let L := s.lane l
  if L.fld aTxnStat 0 13 < 4096 then
    (s.upd l fun L => { L.setFld aTxnStat 0 13 (L.fld aTxnStat 0 13 + 1) with
      txn := { L.txn with journal := L.txn.journal ++ [{ addr := a, value := v }], lastAct := s.tb.run } }).ok
  else
    ((s.upd l fun L => { ((L.setFld aTxnStat 13 2 3).setFld aTxnStat 0 13 0).txnLast 3 with
      txn := { L.txn with journal := [], lastAct := s.tb.run } }).txnEvent l 2).busErr

/-- Write one member of a pair outside a transaction (R93, R94): the first write is staged, the partner's write by the
same requester applies both, another requester is refused with PAIR_BUSY. `apply` is what the block does with an applied
register. -/
def State.pairWrite (s : State) (l : LaneId) (req : Requester) (a partner : Nat) (v : Word)
    (apply : Nat → Word → State → State) : State :=
  let ps := (s.lane l).txn.pairs
  let setPairs (s : State) (qs : List PairStage) : State := s.upd l fun L => { L with txn := { L.txn with pairs := qs } }
  match ps.find? fun p => p.addr == a || p.addr == partner with
  | none => (setPairs s (ps ++ [{ addr := a, value := v, req := req, at_ := s.tb.run }])).ok
  | some p =>
    if p.req ≠ req then s.txnRefuse l 10
    else if p.addr = a then
      (setPairs s (ps.map fun q => if q.addr == a then { q with value := v } else q)).ok
    else
      let s1 := setPairs s (ps.filter fun q => q.addr != partner)
      (apply a v (apply partner p.value s1)).ok

end Sys2Proof.Machine
end

