-- ==== Sys2Proof/Machine/Axs.lean ====
section
/-! DEFINITION. Machine/Axs.lean: valve actuator axes (08: R221-R235): the jerk-limited profile, the field die's half,
stalls, referencing and the commands. The order of the single floating operations inside the plan is log 20. -/
namespace Sys2Proof.Machine

/-- Entry `a` of the AXIS drawer (R221). -/
def Lane.axE (L : Lane) (a : Nat) : Bytes := slice (L.dr 0x0A) (32 + 96 * a) 96
def Lane.axEn (L : Lane) (a : Nat) : Bool := (u8At (L.axE a) 0).testBit 0

/-! The plan (R228): segments are (jerk, duration). -/

abbrev Seg := F64 × F64
/-- Position, velocity, acceleration. -/
abbrev Kin := F64 × F64 × F64

/-- Advance along one segment for a time t. -/
def kinStep (k : Kin) (j t : F64) : Kin :=
  let (p, v, a) := k
  let t2 := fmul t t
  let p' := fadd p (fadd (fmul v t) (fadd (fmul (fmul a t2) (fRat 1 2)) (fmul (fmul j (fmul t2 t)) (fRat 1 6))))
  let v' := fadd v (fadd (fmul a t) (fmul (fmul j t2) (fRat 1 2)))
  (p', v', fadd a (fmul j t))

def kinAll (k : Kin) (segs : List Seg) : Kin := segs.foldl (fun k s => kinStep k s.1 s.2) k

/-- Advance for one period; where the plan ends within it, also the time that is left. -/
def kinFor : Kin → F64 → List Seg → Kin × Option F64
  | k, t, [] => (k, some t)
  | k, t, (j, d) :: rest => if flt t d then (kinStep k j t, none) else kinFor (kinStep k j d) (fsub t d) rest

def fSign (x : F64) : F64 := if flt f0 x then f1 else if flt x f0 then fneg f1 else f0

/-- Bring (v, a) to (v1, 0) under |a| ≤ am with jerk jm: up to 3 segments. -/
def velPlan (v a v1 am jm : F64) : List Seg :=
  let va := fadd v (fdiv (fmul a (fabs a)) (fmul (fOfNat 2) jm))
  let dir := fSign (fsub v1 va)
  if feq dir f0 then [(fneg (fmul (fSign a) jm), fdiv (fabs a) jm)]
  else
    let a0 := fmul dir a
    let dv := fmul dir (fsub v1 v)
    let ap0 := fsqrt (fadd (fmul (fmul a0 a0) (fRat 1 2)) (fmul jm dv))
    let ap := fmin ap0 am
    let t1 := fdiv (fabs (fsub ap a0)) jm
    let dv1 := fmul (fmul (fadd a0 ap) (fRat 1 2)) t1
    let dv3 := fdiv (fmul ap ap) (fmul (fOfNat 2) jm)
    let rest := fdiv (fsub dv (fadd dv1 dv3)) ap
    let th := if flt am ap0 && flt f0 rest then rest else f0
    [(fmul dir (fmul (fSign (fsub ap a0)) jm), t1), (f0, th), (fneg (fmul dir jm), fdiv ap jm)]

/-- Distance covered by bringing (v, a) to (v1, 0). -/
def velDist (v a v1 am jm : F64) : F64 := (kinAll (f0, v, a) (velPlan v a v1 am jm)).1

/-- Distance of (v, a) → (σw, 0) → (0, 0). -/
def pathDist (v a sw am jm : F64) : F64 := fadd (velDist v a sw am jm) (velDist sw f0 f0 am jm)

/-- 32 bisection steps for the largest w whose path covers at most σd. -/
def bisectW (v a sg d am jm : F64) : Nat → F64 → F64 → F64
  | 0, lo, _ => lo
  | n + 1, lo, hi =>
    let mid := fmul (fadd lo hi) (fRat 1 2)
    if fle (fmul sg (pathDist v a (fmul sg mid) am jm)) (fmul sg d) then bisectW v a sg d am jm n mid hi
    else bisectW v a sg d am jm n lo mid

/-- The plan towards position g; none at rest. -/
def posPlan (k : Kin) (g vmax am jm : F64) : Option (List Seg) :=
  let (p, v, a) := k
  let d := fsub g p
  let stop := velDist v a f0 am jm
  let sg0 := fSign (fsub d stop)
  let sg := if feq sg0 f0 then fSign v else sg0
  if feq sg f0 && feq d f0 && feq a f0 then none
  else
    let fits := fle (fmul sg (pathDist v a (fmul sg vmax) am jm)) (fmul sg d)
    let w := if fits then vmax else bisectW v a sg d am jm 32 f0 vmax
    let sw := fmul sg w
    let rest := fsub (fmul sg d) (fmul sg (pathDist v a sw am jm))
    let cruise := if flt f0 w && flt f0 rest then fdiv rest w else f0
    some (velPlan v a sw am jm ++ [(f0, cruise)] ++ velPlan sw f0 f0 am jm)

def period : F64 := fRat 1 10000

/-- A profile period of 100 us towards a position: the plan's end within it gives p = g, v = 0, a = 0. -/
def advPos (k : Kin) (g vmax am jm : F64) : Kin :=
  match posPlan k g vmax am jm with
  | none => k
  | some segs => let (k', left) := kinFor k period segs; if left.isSome then (g, f0, f0) else k'

/-- A profile period towards a speed: reached, the axis moves on at it. -/
def advSpeed (k : Kin) (vt am jm : F64) : Kin :=
  match kinFor k period (velPlan k.2.1 k.2.2 vt am jm) with
  | (k', some left) => (fadd k'.1 (fmul vt left), vt, f0)
  | (k', none) => k'

def fClamp (x lo hi : F64) : F64 := fmin (fmax x lo) hi

/-! State of an axis. -/

def Lane.axVal (L : Lane) (a off : Nat) : F64 := f32to64 (L.get (aAx a off))
def Lane.axInt (L : Lane) (a off : Nat) : F64 := fOfInt (signed 32 (L.getN (aAx a off)))

/-! The field die's half (R223, R229). -/

/-- AX_EN: the bridge is enabled and energised (R63, R224). -/
def State.axLive (s : State) (a : Fin 16) : Bool := s.field.ax[a].enableAt.any (· ≤ s.tb.run)

/-- Field samples of the die since its period began, and the count at the latest (R229): every 10 us. -/
def State.axSamples (s : State) (a : Fin 16) : Nat := (s.tb.count - s.field.ax[a].setAt) / nsU 10000
def State.axSampleNs (s : State) : Nat := s.tb.count / nsU 10000 * nsU 10000 / nsU 1

/-- Where the die stands after k samples of a period: between the end positions of two periods, then on at the last velocity
for up to 50 us (R229). -/
def AxDie.at (d : AxDie) (k : Nat) : F64 :=
  if k ≤ 10 then fadd d.prevSet (fmul (fsub d.setpoint d.prevSet) (fRat k 10))
  else fadd d.setpoint (fmul d.vel (fRat (min (k - 10) 5) 100000))

/-- The commanded microstep n: the nearest at the latest field sample, ties to even (R223, R229). -/
def State.axStep (s : State) (a : Fin 16) : Int := fRound (s.field.ax[a].at (s.axSamples a))

/-- The current amplitude I in mA: HOLD_I at rest, else RUN_I; none with the bridge off (R223). -/
def State.axAmp (s : State) (a : Fin 16) : Nat :=
  if !s.axLive a then 0 else (s.lane s.act).fld (aAx a 0x30) (if s.field.ax[a].holdI then 0 else 16) 16

/-- The currents i_A and i_B that the die sets in the windings, in mA (R223): INVERT negates i_B. -/
def State.axCurrents (s : State) (a : Fin 16) : F64 × F64 :=
  let amp := fOfNat (s.axAmp a)
  let angle := fmul fPi (fRat (s.axStep a % 1024) 512)
  let iB := fmul amp (fsin angle)
  (fmul amp (fcos angle), if (u8At ((s.lane s.act).axE a) 0).testBit 1 then fneg iB else iB)

/-- Gains k_p and k_i of the current loops (R224): f_bw is PWM_KHZ × 100 Hz. -/
def axGains (e : Bytes) : F64 × F64 :=
  let w := fmul (fmul (fOfNat 2) fPi) (fOfNat (100 * u8At e 5))
  (fmul w (f32to64 (f32At e 0xC)), fmul w (f32to64 (f32At e 8)))

/-- The induced voltage of one winding at a field sample (R231): u = DIV × the sensed voltage, di/dt from the sample before. -/
def axEmf (e : Bytes) (sensed i iBefore : F64) : F64 :=
  fsub (fsub (fmul (f32to64 (f32At e 0x14)) sensed) (fmul (f32to64 (f32At e 8)) i))
    (fmul (f32to64 (f32At e 0xC)) (fdiv (fsub i iBefore) (fRat 1 100000)))
/-- |x| of a vector with components A and B. -/
def vecLen (x : F64 × F64) : F64 := fsqrt (fadd (fmul x.1 x.1) (fmul x.2 x.2))
/-- Arcus cosine by halving [0, π]. -/
def acosIn (c : F64) : Nat → F64 → F64 → F64
  | 0, lo, hi => fmul (fadd lo hi) (fRat 1 2)
  | n + 1, lo, hi =>
    let mid := fmul (fadd lo hi) (fRat 1 2)
    if flt c (fcos mid) then acosIn c n mid hi else acosIn c n lo mid
/-- The load angle δ in degrees, from 0 to 180 (R231): the angle between e and i. -/
def axDelta (e i : F64 × F64) : F64 :=
  let dot := fadd (fmul e.1 i.1) (fmul e.2 i.2)
  fdiv (fmul (acosIn (fdiv dot (fmul (vecLen e) (vecLen i))) 60 f0 fPi) (fOfNat 180)) fPi
/-- The mean over a window's samples (R231). -/
def axMean (xs : List F64) : F64 := fdiv (fsum xs) (fOfNat xs.length)

/-- The die keeps the position at which it stands (R229, R232). -/
def State.axFreeze (s : State) (a : Fin 16) : State :=
  let n := fOfInt (s.axStep a)
  s.axDie a fun d => { d with prevSet := n, setpoint := n, vel := f0 }
/-- The bridge is enabled from now on where it is off (R225, R234). -/
def State.axEnable (s : State) (a : Fin 16) : State :=
  if s.field.ax[a].enableAt.isSome then s else (s.axFreeze a).axDie a fun d => { d with enableAt := some s.tb.run }
/-- The bridge is off. -/
def State.axDisable (s : State) (a : Fin 16) : State := (s.axFreeze a).axDie a fun d => { d with enableAt := none }

/-! Targets and stalls. -/

/-- A target is ignored (R226). -/
def State.axIgnore (s : State) (l : LaneId) (a : Fin 16) : State := (s.upd l (·.incFld (aAx a 4) 16 16)).raise l 0x75 a

/-- A target takes effect (R226), or is ignored in STOP, SAFE and RETAIN, while UNCERTAIN or stalled (R232) and while
referencing. -/
def State.axTarget (s : State) (l : LaneId) (a : Fin 16) (speed : Bool) (w : Word) : State :=
  let m := s.mode.mode
  let d := s.field.ax[a]
  if m == .stop || m == .safe || m == .retain || d.uncertain || d.stalled || (s.lane l).axStat a 7 then s.axIgnore l a
  else
    (s.upd l fun L => (L.put (aAx a (if speed then 0xC else 8)) w).setFlag (aAx a 4) 0 speed).axGen l a fun g =>
      { g with decel := false, limit := none, taken := g.taken + 1 }

/-- Referencing succeeds with a position (R234). -/
def State.axRefDone (s : State) (l : LaneId) (a : Fin 16) (p : F64) : State :=
  let s1 := s.upd l fun L => (L.setFlag (aAx a 4) 7 false).setFlag (aAx a 4) 4 false
  ((s1.axGen l a fun g => { g with p := p, v := f0, a := f0, refEdge := none, trail := [], decel := true }).axDie a fun d =>
    { d with uncertain := false, setpoint := p, prevSet := p, vel := f0 }).raise l 0x71 a

/-- The generator takes a position, a speed and an acceleration. -/
def State.axKin (s : State) (l : LaneId) (a : Fin 16) (k : Kin) : State := s.axGen l a fun g => { g with p := k.1, v := k.2.1, a := k.2.2 }

/-- Targets taken in the period of a stall are ignored: the stall wins (R232). -/
def State.axStallWins (s : State) (l : LaneId) (a : Fin 16) : State :=
  let g := (s.lane l).axes[a]
  if g.taken = 0 then s
  else
    let s1 := s.upd l fun L => ((L.put (aAx a 8) g.before.2.1).put (aAx a 0xC) g.before.2.2).setFlag (aAx a 4) 0 g.before.1
    (List.range g.taken).foldl (fun s _ => s.axIgnore l a) s1

/-- A declared stall reaches a lane at its profile period (R232): p at the frozen position, at rest; STALL, UNCERTAIN and the
event. In SAFE the axis goes on to STOP_FREE (R43, R233). A stall is the success of STALL referencing, and ends another
referencing without success (R234; DESIGN CHOICE, log 57). -/
def State.axStall (s : State) (l : LaneId) (a : Fin 16) : State :=
  let ref := (s.lane l).axStat a 7 && u8At ((s.lane l).axE a) 3 == 1
  let s1 := (s.axStallWins l a).axKin l a (s.field.ax[a].setpoint, f0, f0)
  let s2 := ((s1.upd l (·.setFlag (aAx a 4) 4 true)).axDie a fun d => { d with uncertain := true }).raise l 0x70 a
  if ref then s2.axRefDone l a ((s2.lane l).axInt a 0x3C)
  else (s2.axRefFail l a).axGen l a fun g => { g with decel := true, moveTo := false, freeAfter := g.freeAfter || s.mode.mode == .safe }

/-- One period of referencing. -/
def State.axRefPeriod (s : State) (l : LaneId) (a : Fin 16) : State :=
  let L := s.lane l
  let e := L.axE a
  let g := L.axes[a]
  let sp := f32to64 (f32At e 0x3C)
  let vt := if (u8At e 0).testBit 3 then sp else fneg sp
  let k := advSpeed (g.p, g.v, g.a) (if g.refEdge.isSome then f0 else vt) (L.axVal a 0x1C) (L.axVal a 0x20)
  let travel := fadd g.refTravel (fabs (fsub k.1 g.p))
  let s1 := (s.axKin l a k).axGen l a fun g => { g with refTravel := travel, trail := (k.1 :: g.trail).take 6600 }
  match g.refEdge with
  | some pe => if feq k.2.1 f0 && feq k.2.2 f0 then s1.axRefDone l a (fadd (L.axInt a 0x3C) (fsub k.1 pe)) else s1
  | none => if fle (fOfNat (u32At e 0x40)) travel then s1.axRefFail l a else s1
/-- One period in SPEED: at the point from which it would pass a soft limit the axis runs to that limit. -/
def State.axSpeedPeriod (s : State) (l : LaneId) (a : Fin 16) : State :=
  let L := s.lane l
  let g := L.axes[a]
  let vmax := L.axVal a 0x18
  let am := L.axVal a 0x1C
  let jm := L.axVal a 0x20
  let smin := L.axInt a 0x28
  let smax := L.axInt a 0x2C
  let vt := fClamp (L.axVal a 0xC) (fneg vmax) vmax
  let stop := fadd g.p (velDist g.v g.a f0 am jm)
  let atMax := flt smax stop
  if atMax || flt stop smin then
    let lim := L.get (aAx a (if atMax then 0x2C else 0x28))
    let s1 := (s.upd l fun L => (L.setFlag (aAx a 4) 0 false).setFlag (aAx a 4) 1 true).axGen l a fun g => { g with limit := some lim }
    (s1.axKin l a (advPos (g.p, g.v, g.a) (if atMax then smax else smin) vmax am jm)).raise l 0x74 a
  else s.axKin l a (advSpeed (g.p, g.v, g.a) vt am jm)
/-- One period in POSITION: the target, or the limit at which SPEED ended, clamped to the soft limits. -/
def State.axPosPeriod (s : State) (l : LaneId) (a : Fin 16) : State :=
  let L := s.lane l
  let g := L.axes[a]
  let t := match g.limit with
    | some w => fOfInt (signed 32 w.toNat)
    | none => L.axInt a 8
  let gp := fClamp t (L.axInt a 0x28) (L.axInt a 0x2C)
  let s1 := if feq gp t || L.axStat a 2 then s else (s.upd l (·.setFlag (aAx a 4) 2 true)).raise l 0x74 a
  s1.axKin l a (advPos (g.p, g.v, g.a) gp (L.axVal a 0x18) (L.axVal a 0x1C) (L.axVal a 0x20))

/-- One period of one axis in one lane (R228, R232, R234): the declared stall first, then referencing, then the mode's
motion. -/
def State.axPeriod (s : State) (l : LaneId) (a : Fin 16) : State :=
  let L := s.lane l
  let g := L.axes[a]
  if s.field.ax[a].stalled then s.axStall l a
  else if !s.axLive a then s.axKin l a (g.p, f0, f0)
  else if L.axStat a 7 then s.axRefPeriod l a
  else if g.moveTo then s.axKin l a (advPos (g.p, g.v, g.a) (fOfInt (i32At (L.axE a) 0x38)) (L.axVal a 0x18) (L.axVal a 0x1C) (L.axVal a 0x20))
  else if g.decel || !s.running then s.axKin l a (advSpeed (g.p, g.v, g.a) f0 (L.axVal a 0x1C) (L.axVal a 0x20))
  else if L.axStat a 0 then s.axSpeedPeriod l a
  else s.axPosPeriod l a

/-- The period is done: the targets from now on belong to the next. -/
def State.axPeriodEnd (s : State) (l : LaneId) (a : Fin 16) : State :=
  let L := s.lane l
  s.axGen l a fun g => { g with taken := 0, before := (L.axStat a 0, L.get (aAx a 8), L.get (aAx a 0xC)) }

/-- Registers that show the generator (AXS_POS, AXS_VEL). -/
def State.axShow (s : State) (l : LaneId) (a : Fin 16) : State :=
  s.upd l fun L =>
    let g := L.axes[a]
    (L.putN (aAx a 0x10) (unsignedOf 32 (fRound g.p))).put (aAx a 0x14) (f64to32 g.v)

/-- An entry of the CMP drawer (R307) for an item. -/
def Lane.cmpEntry (L : Lane) (kind idx : Nat) : Option Bytes :=
  let d := L.dr 0x11
  ((List.range (u16At d 0)).map fun i => slice d (32 + 32 * i) 32).find? fun e => u8At e 0 == kind && u16At e 2 == idx

/-- The axis setpoint lies outside its envelope (R308): below LO, above HI, or too far from the one last applied for the time
since. -/
def State.axOutside (s : State) (a : Fin 16) (x : F64) : Bool :=
  let L := s.lane s.act
  let d := s.field.ax[a]
  let (lo, hi, rate) := match L.cmpEntry 2 a with
    | some e => (f32to64 (f32At e 0xC), f32to64 (f32At e 0x10), f32to64 (f32At e 0x14))
    | none => (L.axInt a 0x28, L.axInt a 0x2C, L.axVal a 0x18)
  flt x lo || flt hi x || flt (fmul rate (fRat (s.tb.run - d.setRun) (sU 1))) (fabs (fsub x d.setpoint))

/-- The setpoint of a lane for the period. -/
def State.axSet (s : State) (l : LaneId) (a : Fin 16) : F64 := (s.lane l).axes[a].p

/-- The field die takes the setpoint of a lane for a period (R223, R229). -/
def State.axApply (s : State) (l : LaneId) (a : Fin 16) : State :=
  let g := (s.lane l).axes[a]
  let rest := feq g.v f0
  let slow := flt (fabs g.v) ((s.lane l).axVal a 0x24)
  s.axDie a fun d =>
    if s.axLive a then
      { d with prevSet := d.setpoint, setpoint := g.p, vel := g.v, setAt := s.tb.count, setRun := s.tb.run, slow := d.slow || slow,
               holdI := d.holdI && rest, restAt := if rest then (if d.restAt.isSome then d.restAt else some s.tb.run) else none }
    else { d with slow := true }

/-- In FAILSAFE an axis holds its position at HOLD_I (R314). -/
def State.axHold (s : State) (a : Fin 16) : State := (s.axFreeze a).axDie a fun d => { d with holdI := true }

/-- After a stop that ends in freedom the bridge is de-energised at rest (R43). -/
def State.axFree (s : State) (a : Fin 16) : State :=
  let g := (s.lane s.act).axes[a]
  if g.freeAfter && feq g.v f0 && feq g.a f0 then (s.each s.ups fun l s => s.axGen l a fun g => { g with freeAfter := false }).axDisable a
  else s

/-- The die takes the period's setpoints of all axes (R227, R305, R308, R312): those of the active lane, but for the standby's
where row 4 of the table holds for the axes that differ, and until its takeover's switch point (log 58). -/
def State.axesApply (s : State) (axes : List (Fin 16)) : State :=
  let act := s.act
  let sb := other act
  let diff := if s.compares then axes.filter fun a => s.axSet act a != s.axSet sb a else []
  let eA := diff.any fun a => s.axOutside a (s.axSet act a)
  let eS := diff.any fun a => s.axOutside a (s.axSet sb a)
  let gone := match s.red.takeover with
    | some (.condemned 4) => s.bothUp
    | _ => false
  let l := if gone || (!diff.isEmpty && s.tableRow false true eA eS == 4) then sb else act
  let s1 := axes.foldl (fun (s : State) a => (s.axApply l a).axFree a) s
  match diff with
  | a :: _ => s1.redTrigger 2 a true eA eS
  | [] => s1

/-- A profile period of every axis, in both lanes, on the 100 us grid (R227, R228). -/
def rowProfilePeriod (s : State) : Out :=
  let s0 := s.advTo ((s.tb.count / nsU 100000 + 1) * nsU 100000)
  let axes := (List.finRange 16).filter fun (a : Fin 16) => (s0.lane s0.act).axEn a
  let s1 := axes.foldl (fun (s : State) (a : Fin 16) =>
    (s.each s.ups fun l s => ((s.axPeriod l a).axShow l a).axPeriodEnd l a).axDie a fun d => { d with stalled := false }) s0
  .next (if s1.red.failsafe then axes.foldl (fun s a => s.axHold a) s1 else s1.axesApply axes)

/-- 50 us after a period's end without a setpoint (R229): the die, which stepped on at the last velocity, holds the position;
SP_LATE. In FAILSAFE it holds at HOLD_I (R314). -/
def execSetpointLate (axis : Fin 16) (s : State) : Out :=
  if (s.lane s.act).axEn axis then
    let s0 := s.advTo (s.field.ax[axis].setAt + nsU 150000)
    let s1 := s0.each s0.ups fun l s => s.upd l (·.setFlag (aAx axis 4) 9 true)
    .next (if s1.red.failsafe then s1.axHold axis else s1.axFreeze axis)
  else .next s

/-- HOLD_DELAY at rest is over (R223): the current falls to HOLD_I. -/
def execHoldCurrentDelay (axis : Fin 16) (s : State) : Out :=
  let d := s.field.ax[axis]
  match d.restAt with
  | some t =>
    if d.enableAt.isSome then
      .next ((s.advRun (t + msU (u16At ((s.lane s.act).axE axis) 0x1C))).axDie axis fun d => { d with holdI := true })
    else .next s
  | none => .next s

/-- A 1 ms load-angle window ends (R231, R232): its operands are the means of `axDelta` in 0.01° and of |e| in mV. Valid where
the commanded speed was V_MIN or more in the whole window; f_el is taken of the speed at its end (DESIGN CHOICE, log 59). -/
def execStallWindowEnd (axis : Fin 16) (delta emf : Half) (s : State) : Out :=
  let L := s.lane s.act
  let e := L.axE axis
  let v := fabs L.axes[axis].v
  if !L.axEn axis then .next s
  else if s.field.ax[axis].slow || flt v (L.axVal axis 0x24) then
    .next ((s.each s.ups fun l s => s.upd l fun L => (L.setFlag (aAx axis 4) 5 true).putN (aAx axis 0x38) (emf.toNat * 0x10000)).axDie axis
      fun d => { d with angleN := 0, collapseN := 0, slow := false })
  else
    let s1 := s.each s.ups fun l s => s.upd l fun L =>
      (L.setFlag (aAx axis 4) 5 false).putN (aAx axis 0x38) (emf.toNat * 0x10000 + delta.toNat)
    let thr := L.fld (aAx axis 0x34) 0 8
    let col := L.fld (aAx axis 0x34) 8 8
    let angle := thr * 100 < delta.toNat
    let floor := fmul (fmul (fRat col 100) (f32to64 (f32At e 0x10))) (fdiv v (fOfNat 1024))
    let weak := flt (fRat emf.toNat 1000) floor
    let d := s.field.ax[axis]
    let n1 := if angle then d.angleN + 1 else 0
    let n2 := if weak then d.collapseN + 1 else 0
    if 8 ≤ n1 ∨ 2 ≤ n2 then .next ((s1.axFreeze axis).axDie axis fun d => { d with angleN := 0, collapseN := 0, stalled := true, holdI := true })
    else .next (s1.axDie axis fun d => { d with angleN := n1, collapseN := n2 })

/-- AX_FLT_N is low for 10 us (R225). -/
def execBridgeFault (axis : Fin 16) (s : State) : Out :=
  let s1 := (s.axDisable axis).axDie axis fun d => { d with faulted := true, uncertain := true, fltLow := true }
  if (s.lane s.act).axEn axis then
    .next (s1.each s1.ups fun l s => (s.upd l (·.setFlag (aAx axis 4) 6 true)).raise l 0x73 axis)
  else .next s1

/-- AX_FLT_N returns high (R225). -/
def execAxFltNHigh (axis : Fin 16) (s : State) : Out := .next (s.axDie axis fun d => { d with fltLow := false })

/-- A command of an axis in one lane: nothing with a wrong key, a bus error on an axis that is not enabled. -/
def State.axCmd (s : State) (l : LaneId) (key : Half) (a : Fin 16) (f : State → State) : State :=
  if !(s.lane l).axEn a then s.busErr else if key ≠ 0x4158 then s.ok else f s

/-- Field-die writes of a lane take effect from the active lane in RUN, SINGLE, HOLD and SAFE (R16). -/
def State.portOpen (s : State) (l : LaneId) : Bool := !s.roleMode || s.isAct l

/-- REF (R234). -/
def State.axRef (s : State) (l : LaneId) (key : Half) (a : Fin 16) : State :=
  s.axCmd l key a fun s =>
    let m := s.mode.mode
    let okMode := m == .stop || s.running
    if !okMode || s.field.ax[a].fltLow || u8At ((s.lane l).axE a) 3 == 0 || (s.lane l).axStat a 7 then s.refuse l 0x76 a
    else
      let s1 := (s.upd l fun L => (L.setFlag (aAx a 4) 7 true).setFlag (aAx a 4) 0 true).axGen l a fun g =>
        { g with refTravel := f0, refEdge := none, trail := [g.p], decel := false, moveTo := false, limit := none }
      (if s.portOpen l then (s1.axEnable a).axDie a fun d => { d with faulted := false, angleN := 0, collapseN := 0, stalled := false } else s1).ok
def execAxisRef (src : Src) (key : Half) (axis : Fin 16) (s : State) : Out := .next (s.perLane src fun l s => s.axRef l key axis)

/-- STOP ends referencing as failed (R234). -/
def execAxisStop (src : Src) (key : Half) (axis : Fin 16) (s : State) : Out :=
  .next (s.perLane src fun l s => s.axCmd l key axis fun s => (s.axRefFail l axis).ok)

/-- SET_POS (R234): in STOP with AX_FLT_N high. -/
def State.axSetPos (s : State) (l : LaneId) (key : Half) (a : Fin 16) : State :=
  s.axCmd l key a fun s =>
    if s.mode.mode ≠ .stop ∨ s.field.ax[a].fltLow then s.refuse l 0x76 a
    else
      let p := (s.lane l).axInt a 0x3C
      let s1 := s.upd l fun L => (L.setFlag (aAx a 4) 4 false).setFlag (aAx a 4) 7 false
      let s2 := (s1.axGen l a fun g => { g with p := p, v := f0, a := f0, decel := true, limit := none, refEdge := none, trail := [] }).axShow l a
      let off := s.field.ax[a].enableAt.isNone
      ((s2.axEnable a).axDie a fun d =>
        { d with holdI := d.holdI || off, faulted := false, uncertain := false, stalled := false, setpoint := p, prevSet := p, vel := f0 }).ok
def execAxisSetPos (src : Src) (key : Half) (axis : Fin 16) (s : State) : Out :=
  .next (s.perLane src fun l s => s.axSetPos l key axis)

/-- A write of a target register (R226): by the bound task only; the last one to each register in a cycle takes effect at the
publish. -/
def State.axTargetWrite (s : State) (l : LaneId) (req : Requester) (a : Fin 16) (speed : Bool) (data : Word) : State :=
  let L := s.lane l
  let e := L.axE a
  let t := u8At e 1
  let bound := match req with
    | .engine en => !(u8At e 0).testBit 2 && L.engines[en].cur.any (·.val == t)
    | _ => false
  if !L.axEn a then s.busErr
  else if !bound || (speed && !isFinite32 data) then s.refuse l 0x76 a
  else
    (s.upd l fun L =>
      let T := L.tasks.getD t Task.init
      { L with tasks := L.tasks.setIfInBounds t { T with axisWr := (T.axisWr.filter fun w => !(w.1 == a.val && w.2.1 == speed)) ++ [(a.val, speed, data)] } }).ok
def execAxisTargetWrite (src : Src) (axis : Fin 16) (speed : Bool) (data : Word) (s : State) : Out :=
  .next (s.perLane src fun l s => s.axTargetWrite l src.req axis speed data)

/-- The generator's position `back` ns before the end of the newest period: between the two end positions around it. -/
def trailAt (trail : List F64) (back : Nat) : F64 :=
  let last := trail.getLastD f0
  let p1 := trail.getD (back / 100000) last
  let p0 := trail.getD (back / 100000 + 1) last
  fsub p1 (fmul (fsub p1 p0) (fRat (back % 100000) 100000))

/-- An edge of a referencing input (R234): the generator notes where it stood at the stamp and comes to rest. -/
def State.axDiEdge (s : State) (ch : Nat) (level : Bool) (stamp : Nat) : State :=
  s.each s.ups fun l s => (List.finRange 16).foldl (fun (s : State) (a : Fin 16) =>
    let L := s.lane l
    let e := L.axE a
    let di := u8At e 4
    if L.axStat a 7 && u8At e 3 == 2 && di % 64 == ch && di.testBit 7 != level && L.axes[a].refEdge.isNone then
      let back := ((s.tb.count / nsU 100000 + 1) * 100000 + 2 ^ 32 - stamp % 2 ^ 32) % 2 ^ 32
      s.axGen l a fun g => { g with refEdge := some (trailAt g.trail back) }
    else s) s

/-- STOP (R42, R63): every axis decelerates; a bridge that is off and not faulted is enabled, axis n after 5 × n ms. -/
def State.axStop (s : State) (a : Fin 16) : State :=
  let s1 := s.each s.ups fun l s => s.axGen l a fun g => { g with decel := true, moveTo := false, freeAfter := false }
  let d := s1.field.ax[a]
  if d.enableAt.isSome || d.faulted || !(s1.lane s1.act).axEn a then s1
  else (s1.axFreeze a).axDie a fun d => { d with enableAt := some (s1.tb.run + msU (5 * a)) }

/-- SAFE (R43): the safe action, STOP_FREE where the position is uncertain. -/
def State.axSafe (s : State) (a : Fin 16) : State :=
  s.each s.ups fun l s =>
    let act := if s.field.ax[a].uncertain then 1 else u8At ((s.lane l).axE a) 2
    s.axGen l a fun g => { g with decel := act != 2, moveTo := act == 2, freeAfter := act == 1 }

/-- RESET, CONFIGURE and RETAIN (R42): the bridge is off. -/
def State.axOff (s : State) (a : Fin 16) : State :=
  ((s.each [.a, .b] fun l s => s.axGen l a fun g => { g with v := f0, a := f0, decel := true, moveTo := false, freeAfter := false }).axDisable a).axDie a
    fun d => { d with holdI := false, restAt := none, angleN := 0, collapseN := 0, stalled := false }

/-- Every axis on a mode change (R42, R43). After STOP an axis rests until a new target takes effect. Referencing has ended
with the change itself (`setMode`, R234). -/
def State.axMode (s : State) (m : Mode) : State :=
  (List.finRange 16).foldl (fun (s : State) (a : Fin 16) =>
    match m with
    | .stop => s.axStop a
    | .safe => s.axSafe a
    | .run => s
    | .single => s
    | .hold => s
    | _ => s.axOff a) s

/-- The dies of the axes after a reset or without power: position uncertain and bridge faults stay, and so does the level of
AX_FLT_N (R225, R233). -/
def AxDie.kept (d : AxDie) : AxDie := { AxDie.init with uncertain := d.uncertain, faulted := d.faulted, fltLow := d.fltLow }

/-- Registers of an axis from its drawer entry, at load (R221). -/
def Lane.axLoad (L : Lane) : Lane :=
  (List.range 16).foldl (fun L a =>
    let e := L.axE a
    if !L.axEn a then L
    else
      let w (off : Nat) : Word := BitVec.ofNat 32 (u32At e off)
      ((((((((((L.put (aAx a 0x18) (w 0x20)).put (aAx a 0x1C) (w 0x24)).put (aAx a 0x20) (w 0x28)).put (aAx a 0x24) (w 0x2C)).put
        (aAx a 0x28) (w 0x30)).put (aAx a 0x2C) (w 0x34)).putN (aAx a 0x30) (u16At e 0x18 * 0x10000 + u16At e 0x1A)).putN
        (aAx a 0x34) (u8At e 0x1F * 0x100 + u8At e 0x1E)).put (aAx a 0x3C) (w 0x44)))) L

/-- Cross-checks of the AXIS drawer (R221, R222). `loopNames a` counts the loop outputs that name the axis. -/
def axisDrawerOk (d : Bytes) (taskDefined : Nat → Bool) (loopNames : Nat → Nat) : Bool :=
  if d.isEmpty then true
  else d.length == 1568 && allAt d 0 32 0 && allBelow 16 fun a =>
    let e := slice d (32 + 96 * a) 96
    let fl := u8At e 0
    let f32In (off : Nat) (lo hi : F64) : Bool :=
      isFinite32 (f32At e off) && fle lo (f32to64 (f32At e off)) && fle (f32to64 (f32At e off)) hi
    let pos (off : Nat) : Bool := isFinite32 (f32At e off) && flt f0 (f32to64 (f32At e off))
    if !fl.testBit 0 then allAt e 1 95 0 && fl < 16
    else
      fl < 16 && u8At e 2 ≤ 2 && u8At e 3 ≤ 2 && !(u8At e 4).testBit 6 && 20 ≤ u8At e 5 && u8At e 5 ≤ 50 &&
      10 ≤ u16At e 6 && u16At e 6 ≤ 1000 && f32In 8 (fRat 1 10) (fOfNat 100) && f32In 0xC (fRat 1 10000) (fRat 1 2) &&
      pos 0x10 && f32In 0x14 f1 (fOfNat 100) && u16At e 0x18 * u16At e 6 ≤ 250000 && u16At e 0x1A ≤ u16At e 0x18 &&
      u16At e 0x1C ≤ 10000 && 30 ≤ u8At e 0x1E && u8At e 0x1E ≤ 150 && 5 ≤ u8At e 0x1F && u8At e 0x1F ≤ 90 &&
      pos 0x20 && pos 0x24 && pos 0x28 && isFinite32 (f32At e 0x2C) && decide (i32At e 0x30 < i32At e 0x34) &&
      decide (i32At e 0x30 ≤ i32At e 0x38) && decide (i32At e 0x38 ≤ i32At e 0x34) &&
      isFinite32 (f32At e 0x3C) && flt32 (f32At e 0x2C) (f32At e 0x3C) && fle32 (f32At e 0x3C) (f32At e 0x20) && 1 ≤ u32At e 0x40 && u32At e 0x40 < 2 ^ 31 && allAt e 0x48 24 0 &&
      (if fl.testBit 2 then u8At e 1 == 0 && loopNames a == 1 else taskDefined (u8At e 1) && loopNames a == 0)

/-- Value checks of AXS registers (R219-style refusal: bus error and EV_AXS_CFG). -/
def Lane.axCheck (L : Lane) (req : Requester) (name : String) (a : Nat) (v : Word) : Bool :=
  let e := L.axE a
  let posOk := isFinite32 v && flt32 0 v
  match name with
  | "AXS_VMAX" => posOk
  | "AXS_AMAX" => posOk
  | "AXS_JMAX" => posOk
  | "AXS_VMIN" => isFinite32 v
  | "AXS_SMIN" => decide (signed 32 v.toNat < signed 32 (L.viewOf req (aAx a 0x2C)).toNat)
  | "AXS_SMAX" => decide (signed 32 (L.viewOf req (aAx a 0x28)).toNat < signed 32 v.toNat)
  | "AXS_CUR" => fieldOf v 16 16 * u16At e 6 ≤ 250000 && fieldOf v 0 16 ≤ fieldOf v 16 16
  | "AXS_STALL_CFG" => 5 ≤ fieldOf v 8 8 && fieldOf v 8 8 ≤ 90 && 30 ≤ fieldOf v 0 8 && fieldOf v 0 8 ≤ 150
  | _ => true

end Sys2Proof.Machine
end

