-- ==== Sys2Proof/Machine/Chest.lean ====
section
/-! DEFINITION. Machine/Chest.lean: the Chest retained memory (18: R425-R443): banks and planes, stores, writes of the two
lanes, protection, atomic groups and pair records. Offsets count from 0x2000_0000. -/
namespace Sys2Proof.Machine

def chestBankOf (off : Nat) : Nat := off / 0x200000
/-- Banks protected by a PROT code (R434). -/
def protBank (prot b : Nat) : Bool :=
  match prot with
  | 0 => false
  | 1 => decide (6 ≤ b)
  | 2 => decide (4 ≤ b)
  | _ => true
def State.chestProt (s : State) (off : Nat) : Bool := protBank s.chest.prot.val (chestBankOf off)

def Chest.bankUpd (c : Chest) (b : Nat) (f : Bank → Bank) : Chest :=
  if h : b < 8 then { c with banks := c.banks.set b (f c.banks[b]) } else c

/-- Bytes enter the array; their bank is dirty (R426). -/
def State.chestPut (s : State) (off : Nat) (bs : Bytes) : State :=
  if bs.isEmpty then s
  else
    let c := { s.chest with array := memWrite s.chest.array off bs }
    { s with chest := (c.bankUpd (chestBankOf off) fun b => { b with dirty := true }).bankUpd (chestBankOf (off + bs.length - 1)) fun b => { b with dirty := true } }

/-- A plain write at a lane's port (R16, R429, R432, R434): the Bool is false when protection refuses it; a write to a
bank that is storing is held until the store ends. -/
def State.chestPlain (s : State) (l : LaneId) (off : Nat) (bs : Bytes) : State × Bool :=
  if s.chestProt off || s.chestProt (off + bs.length - 1) then (s.raise l 0xEC (chestBankOf off), false)
  else if !s.portOpen l then (s, true)
  else if (s.chest.storing.map (·.val)) == some (chestBankOf off) then
    ({ s with chest := { s.chest with held := s.chest.held ++ [{ lane := l, engine := 0, task := 15, cycle := 0, addr := off, data := bs }] } }, true)
  else (s.chestPut off bs, true)

/-- The port whose group commits and pair writes take effect (R432): the active lane's, or lane A's while no lane holds
the role. -/
def State.chestPort (s : State) : LaneId := s.mode.active.getD .a

/-! Atomic groups (R437, R438). -/

def aGrp (g off : Nat) : Nat := 0x40160100 + 0x10 * g + off
def Lane.grpState (L : Lane) (g : Nat) : Nat := L.fld (aGrp g 8) 0 2
/-- Byte offset of a group's range in the Chest. -/
def Grp.off (g : Grp) : Nat := chestOff g.base
/-- The open group of a lane whose range holds the byte at a Chest offset. -/
def Lane.grpAt (L : Lane) (off : Nat) : Option (Fin 8) :=
  (List.finRange 8).find? fun (g : Fin 8) =>
    let G := L.grps[g]
    L.grpState g == 1 && decide (G.off ≤ off ∧ off < G.off + 4 * G.words)

/-- Write bytes into a group's buffer. -/
def Grp.store (g : Grp) (off : Nat) (bs : Bytes) : Grp := { g with buf := memWrite' g.buf off bs }
where
  /-- Replace or add the entries of the bytes. -/
  memWrite' (buf : List (Nat × Byte)) (off : Nat) : Bytes → List (Nat × Byte)
    | [] => buf
    | b :: bs => memWrite' ((buf.filter fun p => p.1 != off) ++ [(off, b)]) (off + 1) bs

/-- What an engine of a lane reads: buffered bytes of open groups, and the array elsewhere (R437). -/
def State.chestSeen (s : State) (l : LaneId) (off n : Nat) : Bytes :=
  (List.range n).map fun i =>
    match (s.lane l).grpAt (off + i) with
    | some g => match (s.lane l).grps[g].buf.find? fun p => p.1 == off + i with
      | some p => p.2
      | none => memGet s.chest.array (off + i)
    | none => memGet s.chest.array (off + i)

/-- The range of [off, off + n) touches an open group of the lane. -/
def Lane.grpTouch (L : Lane) (off n : Nat) : Bool :=
  (List.finRange 8).any fun (g : Fin 8) =>
    let G := L.grps[g]
    L.grpState g == 1 && decide (G.off < off + n ∧ off < G.off + 4 * G.words)

/-- Close a group and forget its buffer. -/
def Lane.grpDrop (L : Lane) (g : Fin 8) : Lane :=
  { L.setFld (aGrp g 8) 0 2 0 with grps := L.grps.set g { L.grps[g] with buf := [] } }

/-- Discard the open groups of a lane that satisfy a test. -/
def Lane.grpDropIf (L : Lane) (p : Grp → Bool) : Lane :=
  (List.finRange 8).foldl (fun (L : Lane) (g : Fin 8) => if L.grpState g == 1 && p L.grps[g] then L.grpDrop g else L) L

/-- Groups owned by a task whose cycle overran or was cut are discarded in both lanes (R438). -/
def State.grpDiscardTask (s : State) (t : Fin 8) : State := s.updBoth (·.grpDropIf fun g => g.owner == t.val)

/-- A group command: nothing with a wrong key. -/
def State.grpCmd (s : State) (key : Half) (f : State → State) : State := if key ≠ 0x4752 then s.ok else f s

/-- OPEN (R437). -/
def State.grpOpen (s : State) (l : LaneId) (g : Fin 8) (words owner : Nat) : State :=
  let L := s.lane l
  let base := L.getN (aGrp g 0)
  let off := chestOff base
  let n := 4 * words
  let bad := L.grpState g != 0 || words == 0 || 64 < words || (8 ≤ owner && owner != 15) || regionOf base != .chest ||
    chestBankOf off != chestBankOf (off + n - 1) || s.chestProt off || L.grpTouch off n
  if bad then s.refuse l 0xEC g
  else (s.upd l fun L => { L.setFld (aGrp g 8) 0 2 1 with grps := L.grps.set g { base := base, words := words, owner := owner, buf := [] } }).ok
def execChestGroupOpen (src : Src) (key : Half) (group : Fin 8) (words : Nat) (owner : Fin 16) (s : State) : Out :=
  .next (s.perLane src fun l s => s.grpCmd key fun s => s.grpOpen l group words owner)

/-- CLOSE sends the buffer as one commit, in the order of the commands (R438). -/
def State.grpClose (s : State) (l : LaneId) (g : Fin 8) : State :=
  if (s.lane l).grpState g ≠ 1 then s.ok
  else (s.upd l fun L => { L.setFld (aGrp g 8) 0 2 2 with commits := L.commits ++ [g] }).ok
def execChestGroupClose (src : Src) (key : Half) (group : Fin 8) (s : State) : Out :=
  .next (s.perLane src fun l s => s.grpCmd key fun s => s.grpClose l group)

/-- DISCARD (R438). -/
def State.grpDiscard (s : State) (l : LaneId) (g : Fin 8) : State :=
  if (s.lane l).grpState g ≠ 1 then s.ok else (s.upd l (·.grpDrop g)).ok
def execChestGroupDiscard (src : Src) (key : Half) (group : Fin 8) (s : State) : Out :=
  .next (s.perLane src fun l s => s.grpCmd key fun s => s.grpDiscard l group)

/-- While two lanes run the plant, what the other lane's port does for both of them is still under way there (R432). -/
def State.portBehind (s : State) (l : LaneId) (p : Lane → Bool) : Bool := s.dualRun && s.chestPort != l && p (s.lane s.chestPort)
/-- A commit waits while its bank is storing (R429); that of the other lane until the port's own one is through, so that a takeover
finds it not completed (R438). -/
def State.grpWaits (s : State) (l : LaneId) (g : Fin 8) : Bool :=
  (s.chest.storing.map (·.val)) == some (chestBankOf ((s.lane l).grps[g]).off) || s.portBehind l fun P =>
    P.grpState g != 0 && decide (signed 16 (P.fld (aGrp g 8) 16 16 + 65536 - (s.lane l).fld (aGrp g 8) 16 16) ≤ 0)
/-- The oldest commit of a lane is applied in one step, or refused by protection (R438). Of the two lanes' identical commits that of
one port has the effect (R432). -/
def State.grpApply (s : State) (l : LaneId) : State :=
  match (s.lane l).commits with
  | [] => s
  | g :: rest =>
    let G := (s.lane l).grps[g]
    if s.grpWaits l g then s
    else
      let done (s : State) (k : Nat) : State :=
        s.upd l fun L => { (L.grpDrop g).setFld (aGrp g 8) 16 16 (L.fld (aGrp g 8) 16 16 + k) with commits := rest }
      if s.chestProt G.off then done (s.raise l 0xEC g) 0
      else
        let s1 := if s.chestPort = l then G.buf.foldl (fun (s : State) p => s.chestPut p.1 [p.2]) s else s
        done s1 1
def execChestGroupCommitApplied (lane : LaneId) (s : State) : Out := .next (s.grpApply lane)

/-! Engine writes (R16, R425, R429, R433, R437). -/

/-- A word of an engine's write. The log of the standby's writes holds 65,536 entries. -/
def State.chestWord (s : State) (l : LaneId) (e : Fin 16) (off : Nat) (bs : Bytes) : State :=
  let L := s.lane l
  match L.grpAt off with
  | some g => (s.upd l fun L => { L with grps := L.grps.set g (L.grps[g].store off bs) }).ok
  | none =>
    let t := L.engines[e].cur
    let w : ChestWr := { lane := l, engine := e, task := (t.map (·.val)).getD 15,
                         cycle := (t.map fun t => L.getN (0x40020114 + 0x40 * t)).getD 0, addr := off, data := bs }
    if s.chestProt off then s.refuse l 0xEC (chestBankOf off)
    else if (s.chest.storing.map (·.val)) == some (chestBankOf off) && s.portOpen l then
      { s with chest := { s.chest with held := s.chest.held ++ [w] }, reply := .stall }
    else if s.portOpen l then (s.chestPut off bs).ok
    else if s.dualRun then
      if s.chest.log.length < 65536 then { s with chest := { s.chest with log := s.chest.log ++ [w] }, reply := .ok 0 }
      else { s with chest := { s.chest with logHeld := s.chest.logHeld ++ [w], logStall := true }, reply := .stall }
    else s.ok

/-- An engine write of 1 to 8 bytes: one step up to 32 bits, words in ascending order when wider (R425). -/
def State.chestEng (s : State) (l : LaneId) (e : Fin 16) (off : Nat) (bs : Bytes) : State :=
  if bs.length ≤ 4 then s.chestWord l e off bs
  else (s.chestWord l e off (bs.take 4)).chestWord l e (off + 4) (bs.drop 4)

def execChestWrite (lane : LaneId) (engine : Fin 16) (addr : Word) (data : Bytes) (s : State) : Out :=
  if !s.isUp lane || data.isEmpty then .next s
  else if regionOf addr.toNat ≠ .chest ∨ 8 < data.length ∨ regionOf (addr.toNat + data.length - 1) ≠ .chest then .next s.busErr
  else .next (s.chestEng lane engine (chestOff addr.toNat) data)

/-- The active lane has published a cycle: its entries leave the log, and writes held for space enter it (R433). -/
def State.chestPublished (s : State) (t cycle : Nat) : State :=
  let keep := s.chest.log.filter fun w => !(w.task == t && w.cycle ≤ cycle)
  let room := 65536 - keep.length
  { s with chest := { s.chest with log := keep ++ s.chest.logHeld.take room, logHeld := s.chest.logHeld.drop room } }

/-- A cycle of a lane is stopped: its held writes are dropped (R433). -/
def State.chestStopped (s : State) (l : LaneId) (t : Nat) : State :=
  let keep (w : ChestWr) : Bool := !(w.lane == l && w.task == t)
  { s with chest := { s.chest with held := s.chest.held.filter keep, logHeld := s.chest.logHeld.filter keep } }

/-- At a takeover the logged writes are applied in log order, then the write of the new active lane that the full log held (R433). -/
def State.chestTakeover (s : State) : State :=
  let s1 := (s.chest.log ++ s.chest.logHeld).foldl (fun (s : State) w => if s.chestProt w.addr then s else s.chestPut w.addr w.data) s
  { s1 with chest := { s1.chest with log := [], logHeld := [] } }

/-! Stores (R426-R429, R436). -/

/-- Begin the store of the lowest pending bank, when none runs; its dirtiness ends here (R426, R428). -/
def Chest.startNext (c : Chest) : Chest :=
  match c.storing with
  | some _ => c
  | none => match (List.finRange 8).find? fun (b : Fin 8) => c.pend.getLsbD b with
    | none => c
    | some b => { c.bankUpd b fun k => { k with dirty := false, deferred := false } with
        storing := some b, pend := c.pend &&& ~~~ BitVec.ofNat 8 (2 ^ b.val) }

/-- Banks join the pending set; one that is storing is not stored twice for the request. -/
def Chest.addPend (c : Chest) (mask : Byte) : Chest :=
  let m := match c.storing with
    | some b => mask &&& ~~~ BitVec.ofNat 8 (2 ^ b.val)
    | none => mask
  ({ c with pend := c.pend ||| m }).startNext

/-- Write a bank into the plane of lower GEN (R426). -/
def Chest.storeBank (c : Chest) (b : Nat) : Chest :=
  let data := spPart c.array (0x200000 * b) (0x200000 * (b + 1))
  c.bankUpd b fun k =>
    let lower0 := decide (signed 32 (k.p0.gen.toNat + 2 ^ 32 - k.p1.gen.toNat) < 0)
    let k1 := if lower0 then { k with p0 := { data := data, gen := k.p1.gen + 1, good := true } }
      else { k with p1 := { data := data, gen := k.p0.gen + 1, good := true } }
    { k1 with stores := satInc 24 k1.stores, stored := true }

/-- A store of a bank is cut: its plane is invalid, the other one stays newest (R426). -/
def Chest.cutBank (c : Chest) (b : Nat) : Chest :=
  c.bankUpd b fun k =>
    if signed 32 (k.p0.gen.toNat + 2 ^ 32 - k.p1.gen.toNat) < 0 then { k with p0 := { k.p0 with good := false } }
    else { k with p1 := { k.p1 with good := false } }

/-- STORE at a lane's port. -/
def State.chestStore (s : State) (l : LaneId) (key : Half) (mask : Byte) : State :=
  if key ≠ 0x4353 ∨ !s.portOpen l then s.ok
  else { s with chest := s.chest.addPend mask, reply := .ok 0 }
def execChestStoreCmd (src : Src) (key : Half) (mask : Byte) (s : State) : Out :=
  .next (s.perLane src fun l s => s.chestStore l key mask)

/-- The store of a bank ends: held writes to it go on, the next pending bank begins, EV_CHS_STORE when none is left. -/
def execChestBankStoreEnd (s : State) : Out :=
  match s.chest.storing with
  | none => .next s
  | some b =>
    let c1 := { s.chest.storeBank b with storing := none }
    let held := c1.held
    let s1 := held.foldl (fun (s : State) w => if s.chestProt w.addr then s else s.chestPut w.addr w.data) { s with chest := { c1 with held := [] } }
    let s2 := { s1 with chest := s1.chest.startNext }
    .next (if s2.chest.storing.isNone then s2.raiseUp 0xE8 else s2)

/-- A margin read of a page (R436). WEAK clears at a passing read after a store has ended. -/
def execChestMarginRead (bank : Fin 8) (page : Fin 512) (weak : Bool) (s : State) : Out :=
  let _ := page
  let k := s.chest.banks[bank]
  if weak then
    let c1 := s.chest.bankUpd bank fun k => { k with weak := true, stored := false, deferred := k.deferred || s.chest.deferRefresh }
    let c2 := if s.chest.deferRefresh then c1 else c1.addPend (BitVec.ofNat 8 (2 ^ bank.val))
    .next ({ s with chest := c2 }.raiseUp 0xEA bank)
  else if k.weak && k.stored then .next { s with chest := s.chest.bankUpd bank fun k => { k with weak := false } }
  else .next s

/-- Recall of every bank (R427): the newest good plane, or zeros. -/
def Chest.recall (c : Chest) : Chest :=
  (List.range 8).foldl (fun c b =>
    let k := c.banks.getD b Bank.init
    let newer0 := decide (0 ≤ signed 32 (k.p0.gen.toNat + 2 ^ 32 - k.p1.gen.toNat))
    let new := if newer0 then k.p0 else k.p1
    let old := if newer0 then k.p1 else k.p0
    let put (c : Chest) (data : Mem) : Chest := { c with array := spCopy c.array data (0x200000 * b) (0x200000 * (b + 1)) }
    let c1 := if new.good then put c new.data
      else if old.good then (put c old.data).bankUpd b fun k => { k with recallOld := true }
      else (put c []).bankUpd b fun k => { k with lost := true }
    c1.bankUpd b fun k => { k with dirty := false }) { c with recalled := true }

/-- Banks a recall found bad (R427): raised once events are. -/
def Chest.badRecall (c : Chest) : List Nat :=
  (List.range 8).filter fun b => !(let k := c.banks.getD b Bank.init
    if 0 ≤ signed 32 (k.p0.gen.toNat + 2 ^ 32 - k.p1.gen.toNat) then k.p0.good else k.p1.good)

/-- Power-fail, steps 4 and 5 (R430): pending stores dropped, a running one cut and its bank stored again, every dirty
bank and every deferred refresh stored. `upTo` is how many of them complete. -/
def Chest.failBanks (c : Chest) : List Nat :=
  (List.range 8).filter fun b =>
    let k := c.banks.getD b Bank.init
    k.dirty || k.deferred || (c.storing.map (·.val)) == some b
def Chest.failStore (c : Chest) (banks : List Nat) : Chest :=
  banks.foldl (fun c b => (c.storeBank b).bankUpd b fun k => { k with dirty := false, deferred := false }) c

/-! Protection (R434, R435). -/

/-- A write of PROT at a lane's port; while locked a change is refused. -/
def State.chestSetProt (s : State) (l : LaneId) (prot : Fin 4) : State :=
  if s.chest.lock && s.chest.prot != prot then s.refuse l 0xEC
  else if s.portOpen l then { s.updBoth (·.tvClear 0x4016000C) with chest := { s.chest with prot := prot }, reply := .ok 0 }
  else s.ok
def execChestProtWrite (src : Src) (prot : Fin 4) (s : State) : Out := .next (s.perLane src fun l s => s.chestSetProt l prot)

def State.chestLockIt (s : State) (l : LaneId) : State :=
  if s.portOpen l then { s with chest := { s.chest with lock := true }, reply := .ok 0 } else s.ok
def execChestLock (src : Src) (s : State) : Out := .next (s.perLane src fun l s => s.chestLockIt l)

/-! Pair records (R439-R442). -/

/-- CRC-32C, bitwise: polynomial 0x1EDC6F41 reflected, initial value and final inversion all ones. -/
def crcBits : Nat → BitVec 32 → BitVec 32
  | 0, c => c
  | n + 1, c => crcBits n (if c.getLsbD 0 then (c >>> 1) ^^^ 0x82F63B78 else c >>> 1)
def crc32c (bs : Bytes) : BitVec 32 := ~~~ bs.foldl (fun c b => crcBits 8 (c ^^^ b.zeroExtend 32)) 0xFFFFFFFF

def pairStep (len : Nat) : Nat := 64 * ceilDiv (16 + len) 64
/-- Header of a copy. -/
def pairHeader (seq : Word) (data : Bytes) : Bytes :=
  let h := leBytes 4 seq.toNat ++ leBytes 4 data.length
  h ++ leBytes 4 (crc32c (h ++ data)).toNat ++ zeros 4
/-- The copy at an offset, when it is valid: SEQ and data. -/
def State.pairCopy (s : State) (off len : Nat) : Option (Word × Bytes) :=
  let h := memRead s.chest.array off 16
  let d := memRead s.chest.array (off + 16) len
  if u32At h 4 = len ∧ u32At h 8 = (crc32c (h.take 8 ++ d)).toNat then some (BitVec.ofNat 32 (u32At h 0), d) else none

/-- Target copy (true: B) and SEQ of a write (R440). -/
def pairTarget (x y : Option (Word × Bytes)) : Bool × Word :=
  match x, y with
  | none, none => (false, 1)
  | some (a, _), none => (true, a + 1)
  | none, some (b, _) => (false, b + 1)
  | some (a, _), some (b, _) =>
    let d := signed 32 (b.toNat + 2 ^ 32 - a.toNat)
    if d = 0 then (true, a + 1) else if 0 < d then (false, b + 1) else (true, a + 1)

/-- The newest copy of a read (R441): copy, SEQ, data, tie. -/
def pairNewest (x y : Option (Word × Bytes)) : Option (Bool × Word × Bytes × Bool) :=
  match x, y with
  | none, none => none
  | some (a, x), none => some (false, a, x, false)
  | none, some (b, y) => some (true, b, y, false)
  | some (a, x), some (b, y) =>
    let d := signed 32 (b.toNat + 2 ^ 32 - a.toNat)
    if 0 < d then some (true, b, y, false) else if d = 0 then some (false, a, x, x != y) else some (false, a, x, false)

/-- Both choices for the copies that stand at an offset. -/
def State.pairTarget (s : State) (off len : Nat) : Bool × Word := Sys2Proof.Machine.pairTarget (s.pairCopy off len) (s.pairCopy (off + pairStep len) len)
def State.pairNewest (s : State) (off len : Nat) : Option (Bool × Word × Bytes × Bool) :=
  Sys2Proof.Machine.pairNewest (s.pairCopy off len) (s.pairCopy (off + pairStep len) len)

/-- Write a pair record whole, as its unit leaves it. -/
def State.pairPut (s : State) (off : Nat) (copyB : Bool) (seq : Word) (data : Bytes) : State :=
  let o := if copyB then off + pairStep data.length else off
  (s.chestPut (o + 16) data).chestPut o (pairHeader seq data)

def aPair (off : Nat) : Nat := 0x40160200 + off
def Lane.pairBusy (L : Lane) : Bool := L.flag (aPair 0x10) 31
def Lane.pairOff (L : Lane) : Nat := chestOff (L.getN (aPair 0))
def Lane.pairLen (L : Lane) : Nat := L.fld (aPair 8) 0 13

/-- The checks before an operation starts (R442). -/
def Lane.pairArgsOk (L : Lane) : Bool :=
  let len := L.pairLen
  let a := L.getN (aPair 0)
  let buf := L.getN (aPair 4)
  1 ≤ len && len ≤ 4096 && regionOf a == .chest && chestBankOf (chestOff a) == chestBankOf (chestOff a + 2 * pairStep len - 1) &&
  regionOf buf == .sram && inOneRegion buf len

/-- End of an operation in the registers. -/
def Lane.pairEnd (L : Lane) (result : Nat) : Lane :=
  { (L.setFlag (aPair 0x10) 31 false).setFld (aPair 0x10) 12 4 result with pairOp := none }

/-- A READ, from the newest copy (R441). -/
def pairReadOp : Option (Bool × Word × Bytes × Bool) → PairOp
  | none => { write := false, result := 2, copyB := false, seq := 0, tie := false, data := [] }
  | some (b, q, d, tie) => { write := false, result := 1, copyB := b, seq := q, tie := tie, data := d }
/-- What an operation will do, taken when it starts (R440-R442). -/
def State.pairPlan (s : State) (l : LaneId) (write : Bool) : PairOp :=
  let L := s.lane l
  let off := L.pairOff
  let len := L.pairLen
  if write then
    if s.chestProt off then { write := true, result := 3, copyB := false, seq := 0, tie := false, data := [] }
    else { write := true, result := 1, copyB := (s.pairTarget off len).1, seq := (s.pairTarget off len).2, tie := false,
           data := memRead L.mem (L.getN (aPair 4)) len }
  else pairReadOp (s.pairNewest off len)

/-- A command of a lane's pair unit: nothing with a wrong key; while BUSY refused. -/
def State.pairCmd (s : State) (l : LaneId) (key : Half) (write : Bool) : State :=
  let L := s.lane l
  if key ≠ 0x5052 then s.ok
  else if L.pairBusy then s.refuse l 0xEC
  else if !L.pairArgsOk then (s.upd l (·.pairEnd 4)).refuse l 0xEC
  else (s.upd l fun L => { L.setFlag (aPair 0x10) 31 true with pairOp := some (s.pairPlan l write) }).ok
def execPairRecordWrite (src : Src) (key : Half) (s : State) : Out := .next (s.perLane src fun l s => s.pairCmd l key true)
def execPairRecordRead (src : Src) (key : Half) (s : State) : Out := .next (s.perLane src fun l s => s.pairCmd l key false)

/-- An operation as it ends: a WRITE finds its bank protected by then (R434). -/
def State.pairNow (s : State) (l : LaneId) (op : PairOp) : PairOp :=
  if op.write && op.result = 1 && s.chestProt (s.lane l).pairOff then { op with result := 3 } else op
/-- What an operation moves at its end: a WRITE takes effect from one port (R432); into a protected bank it raises EV_CHS_CFG (R434). -/
def State.pairMove (s : State) (l : LaneId) (op : PairOp) : State :=
  let L := s.lane l
  if op.result = 3 then s.raise l 0xEC (chestBankOf L.pairOff)
  else if op.result ≠ 1 then s
  else if op.write then (if s.chestPort = l then s.pairPut L.pairOff op.copyB op.seq op.data else s)
  else s.upd l (·.wrMem 0 (L.getN (aPair 4)) op.data)
/-- What its registers show. -/
def Lane.pairShow (L : Lane) (op : PairOp) : Lane :=
  let L1 := L.pairEnd op.result
  if op.result ≠ 1 then L1
  else
    let L2 := (L1.setFlag (aPair 0x10) 0 op.copyB).put (aPair 0x14) op.seq
    if op.tie then L2.setFlag (aPair 0x10) 8 true else L2

/-- A WRITE waits while its bank is storing (R429); that of the other lane until the port's own one is through, so that a takeover
repeats it (R442). -/
def State.pairWaits (s : State) (l : LaneId) (op : PairOp) : Bool :=
  op.write && op.result == 1 &&
    ((s.chest.storing.map (·.val)) == some (chestBankOf (s.lane l).pairOff) || s.portBehind l fun P => P.pairOp.any (·.write))
/-- The operation of a lane's pair unit ends (R440-R442). -/
def execPairUnitDone (lane : LaneId) (s : State) : Out :=
  match (s.lane lane).pairOp with
  | none => .next s
  | some op0 =>
    if s.pairWaits lane op0 then .next s
    else
      let op := s.pairNow lane op0
      let s1 := (s.pairMove lane op).upd lane (·.pairShow op)
      .next (if op.tie then s1.raise lane 0xEB else s1)

/-- A running operation is cut by entry to RETAIN (R431, R442): part of the data of a WRITE may be in place, its header is
not. -/
def State.pairCut (s : State) (l : LaneId) : State :=
  match (s.lane l).pairOp with
  | none => s
  | some op =>
    let L := s.lane l
    let s1 :=
      if op.write && op.result = 1 && s.chestPort = l then
        let (v, s1) := s.fresh
        let o := if op.copyB then L.pairOff + pairStep op.data.length else L.pairOff
        s1.chestPut (o + 16) (op.data.take (v.toNat % (op.data.length + 1)))
      else s
    s1.upd l (·.pairEnd 5)

/-- Entry to RETAIN (R430 steps 1 and 2): commits already received complete, a store that runs or not (its plane is abandoned at step
4), and open groups are discarded. -/
def State.chestPowerFail (s : State) : State :=
  let free := { s with chest := { s.chest with storing := none } }
  let s0 := (List.range 8).foldl (fun (s : State) _ => (s.grpApply s.chestPort).grpApply (other s.chestPort)) free
  let s1 := { s0 with chest := { s0.chest with storing := s.chest.storing } }
  s1.updBoth fun L => { (L.grpDropIf fun _ => true) with commits := [] }

/-- At a takeover the new active lane resends every commit whose completion it has not received, in order (R438); its
pair unit repeats a cut WRITE: both stand in its own state. -/
def State.chestDiscardLane (s : State) (l : LaneId) : State :=
  s.upd l fun L => { ((L.grpDropIf fun _ => true).pairEnd (L.fld (aPair 0x10) 12 4)) with commits := [] }

/-- Registers of the block that stand in the Chest die. -/
def State.chsView (s : State) (L : Lane) (a : Nat) : Word :=
  let c := s.chest
  let pend := c.pend ||| (match c.storing with | some b => BitVec.ofNat 8 (2 ^ b.val) | none => 0)
  if a = 0x40160000 then
    let dirty := (List.range 8).foldl (fun n b => n + bit (c.banks.getD b Bank.init).dirty * 2 ^ b) 0
    BitVec.ofNat 32 (dirty * 2 ^ 24 + pend.toNat * 2 ^ 16 + bit c.logStall * 4 + bit c.storing.isSome * 2 + bit c.recalled)
  else if a = 0x40160008 then BitVec.ofNat 32 (bit c.deferRefresh)
  else if a = 0x4016000C then BitVec.ofNat 32 (bit c.lock * 2 ^ 31 + c.prot.val)
  else if 0x40160020 ≤ a ∧ a < 0x40160040 then
    let b := (a - 0x40160020) / 4
    let k := c.banks.getD b Bank.init
    BitVec.ofNat 32 (bit k.lost * 2 ^ 31 + bit k.recallOld * 2 ^ 30 + bit k.weak * 2 ^ 29 + bit (protBank c.prot.val b) * 2 ^ 28 + k.stores)
  else L.get a

/-- Writes of the shared registers other than CHS_CMD and CHS_PROT at a lane's port: CHS_CFG and the W1C bits. -/
def State.chsWrite (s : State) (l : LaneId) (a : Nat) (v : Word) : State :=
  if !s.portOpen l then s
  else if a = 0x40160000 then { s with chest := { s.chest with logStall := s.chest.logStall && !bitOf v 2 } }
  else if a = 0x40160008 then { s with chest := { s.chest with deferRefresh := bitOf v 0 } }
  else if 0x40160020 ≤ a ∧ a < 0x40160040 then
    { s with chest := s.chest.bankUpd ((a - 0x40160020) / 4) fun k =>
        { k with lost := k.lost && !bitOf v 31, recallOld := k.recallOld && !bitOf v 30 } }
  else s

/-- Value checks of the lane's own CHS registers (R437, R442). -/
def Lane.chsCheck (L : Lane) (name : String) (i : Nat) : Bool :=
  match name with
  | "CHS_GRP_BASE" => L.grpState i == 0
  | "CHS_PAIR_ADDR" => !L.pairBusy
  | "CHS_PAIR_BUF" => !L.pairBusy
  | "CHS_PAIR_LEN" => !L.pairBusy
  | _ => true

end Sys2Proof.Machine
end

