-- ==== Sys2Proof/Machine/Dio.lean ====
section
/-! DEFINITION. Machine/Dio.lean: digital inputs and outputs (17: R415-R424) and the force table they pass through (R260). -/
namespace Sys2Proof.Machine

/-- Entries of the DIO drawer (R415). -/
def Lane.diE (L : Lane) (i : Nat) : Bytes := slice (L.dr 0x0B) (32 + 8 * i) 8
def Lane.dqE (L : Lane) (j : Nat) : Bytes := slice (L.dr 0x0B) (544 + 8 * j) 8
def Lane.diEn (L : Lane) (i : Nat) : Bool := (u8At (L.diE i) 0).testBit 0
def Lane.dqEn (L : Lane) (j : Nat) : Bool := (u8At (L.dqE j) 0).testBit 0
def aDi (i : Nat) : Nat := 0x400E0100 + 0x10 * i
def aDq (j : Nat) : Nat := 0x400E0800 + 0x10 * j

/-! Forces (R260). -/

def aFrc (f : Nat) : Nat := 0x40024000 + 0x10 * f

/-- The forced value of a target of a kind (0 symbol, 1 DI, 2 DQ): the enabled entry of the highest number wins, as
entries apply in ascending order. An ORPHAN entry applies as before (R275). -/
def Lane.forced (L : Lane) (kind id : Nat) : Option DWord :=
  match (List.range 256).reverse.find? fun f =>
    L.flag (aFrc f) 0 && L.fld (aFrc f) 4 2 == kind && L.getN (aFrc f + 4) == id with
  | some f => some (BitVec.ofNat 64 (L.getN (aFrc f + 8) + L.getN (aFrc f + 12) * 2 ^ 32))
  | none => none

/-- Forces apply in RUN, SINGLE and HOLD. -/
def State.force (s : State) (l : LaneId) (kind id : Nat) : Option DWord := if s.running then (s.lane l).forced kind id else none

/-- The state of an input as bindings, loops and referencing see it (R260, R418). -/
def State.diSeen (s : State) (l : LaneId) (i : Fin 64) : Bool :=
  match s.force l 1 i with
  | some v => v.getLsbD 0
  | none => s.field.di[i].f

/-! Inputs. -/

def State.diUpd (s : State) (i : Fin 64) (f : DiCh → DiCh) : State :=
  { s with field := { s.field with di := s.field.di.set i (f s.field.di[i]) } }

/-- The field die samples inputs for the lanes (R42). -/
def State.sampling (s : State) : Bool := s.running || s.mode.mode == .stop || s.mode.mode == .safe

/-- The delivered state changes, with its stamp: event, count, referencing edge (R418-R420, R234). -/
def State.diEdge (s : State) (i : Fin 64) (level : Bool) (stamp : Nat) : State :=
  let L := s.lane s.act
  let cfg := L.get (aDi i)
  let counts := bitOf cfg 17 && (bitOf cfg 18 != level)
  let s1 := s.diUpd i fun d => { d with f := level, stamp := BitVec.ofNat 32 stamp, cnt := if counts then d.cnt + 1 else d.cnt }
  let s2 := if bitOf cfg 19 then s1.raiseUp 0x80 i else s1
  if (s2.force s2.act 1 i).isSome then s2 else s2.axDiEdge i level stamp

/-- The raw level of a sample (R416), voltages in steps of 0.125 V: between the thresholds it keeps the previous level. -/
def diRaw (thr hys : Nat) (prev : Bool) (v : Int) : Bool :=
  if (thr : Int) ≤ v then true else if v ≤ (thr : Int) - hys then false else prev
/-- SINK in 0.01 mA (R415). -/
def diSink (code : Nat) : Nat := if code = 0 then 50 else if code = 1 then 150 else if code = 2 then 250 else 600
/-- The current an input sinks, in 0.01 mA ÷ 40 (R416): SINK × V ÷ 5 V up to 5 V, SINK above; below 0 V nothing is stated but a
bound (R517), taken as none. -/
def diCurrent (sink : Nat) (v : Int) : Nat := diSink sink * min v.toNat 40
/-- The current reaches WB_THR (R420). -/
def diDraws (sink wbThr : Nat) (v : Int) : Bool := 40 * wbThr ≤ diCurrent sink v
/-- The least voltage at which it does. -/
def diWbVolt (sink wbThr : Nat) : Nat := ceilDiv (40 * wbThr) (diSink sink)

/-- A sample of an input at a voltage (R416). -/
def State.diSample (s : State) (i : Fin 64) (v : Int) : State :=
  let cfg := (s.lane s.act).get (aDi i)
  s.diUpd i fun d => { d with volt := v, raw := diRaw (fieldOf cfg 0 8) (fieldOf cfg 8 5) d.raw v }

/-- The deciding sample of a level: its voltage is free on that side of the threshold (log 4). -/
def State.diSampleAt (s : State) (i : Fin 64) (level : Bool) : State :=
  let cfg := (s.lane s.act).get (aDi i)
  let (x, s1) := s.fresh
  s1.diSample i (if level then (fieldOf cfg 0 8 + x.toNat % 64 : Nat) else ((fieldOf cfg 0 8 : Nat) : Int) - fieldOf cfg 8 5 - (x.toNat % 64 : Nat))

/-- The last sample of 10 ms on one side of WB_THR (R420): its voltage is free there, none where SINK does not reach WB_THR. -/
def State.diSampleWb (s : State) (i : Fin 64) (draws : Bool) : Option State :=
  let cfg := (s.lane s.act).get (aDi i)
  let sink := fieldOf cfg 20 2
  let least := diWbVolt sink (fieldOf cfg 24 8)
  let (x, s1) := s.fresh
  if draws then if 40 < least then none else some (s1.diSample i ((least + x.toNat % 64 : Nat) : Int))
  else some (s1.diSample i ((x.toNat % (if 40 < least then 241 else max 1 least) : Nat) : Int))

/-- The filter reaches an end of its range at a sample (R417): samples stand at multiples of 10 us. -/
def execDiFilterChange (ch : Fin 64) (level : Bool) (s : State) : Out :=
  let L := s.lane s.act
  let d := s.field.di[ch]
  if !s.sampling || !L.diEn ch || d.filt == level then .next s
  else
    let s1 := (s.advTo (ceilDiv s.tb.count (nsU 10000) * nsU 10000)).diSampleAt ch level
    let lim := L.fld (aDi ch + 4) 0 16
    let stamp := (s1.ns + 2 ^ 32 - (lim - 1) * 10000) % 2 ^ 32
    let s2 := s1.diUpd ch fun d => { d with c := if level then lim else 0, filt := level }
    if d.wb && L.fld (aDi ch) 22 2 != 0 then .next s2
    else if d.f == level then .next s2
    else .next (s2.diEdge ch level stamp)

/-- Wire break begins (R420): F is replaced as WB_ACT says, without an edge. -/
def execDiWireBreak (ch : Fin 64) (s : State) : Out :=
  let L := s.lane s.act
  if !s.sampling || !L.diEn ch || !L.flag (aDi ch) 16 || s.field.di[ch].wb then .next s
  else
    let act := L.fld (aDi ch) 22 2
    let s0 := (s.diSampleWb ch false).getD s
    let s1 := s0.diUpd ch fun d => { d with wb := true, f := if act = 1 then false else if act = 2 then true else d.f }
    .next (s1.raiseUp 0x81 ch)

/-- Wire break ends (R420): F takes the filtered value; a change is an edge stamped with this sample. -/
def execDiWireBreakEnd (ch : Fin 64) (s : State) : Out :=
  let d := s.field.di[ch]
  let o := (s.advTo (ceilDiv s.tb.count (nsU 10000) * nsU 10000)).diSampleWb ch true
  if !d.wb || !s.sampling || o.isNone then .next s
  else
    let s1 := o.getD s
    let s2 := (s1.diUpd ch fun d => { d with wb := false }).raiseUp 0x82 ch
    .next (if d.f == d.filt then s2 else s2.diEdge ch d.filt s2.tb32)

/-- CLR_CNT of DIO_CMD (R419): a channel that does not exist or is disabled is refused. -/
def State.diClrCnt (s : State) (l : LaneId) (key : Half) (ch : Byte) : State :=
  if key ≠ 0x4451 then s.ok
  else if h : ch.toNat < 64 then
    if (s.lane l).diEn ch.toNat then (if s.portOpen l then s.diUpd ⟨ch.toNat, h⟩ fun d => { d with cnt := 0 } else s).ok
    else s.refuse l 0x88 ch.toNat
  else s.refuse l 0x88 ch.toNat
def execDiClrCnt (src : Src) (key : Half) (ch : Byte) (s : State) : Out := .next (s.perLane src fun l s => s.diClrCnt l key ch)

/-- The field die begins to sample: filters and states at 0, without an edge (R417). -/
def State.diStart (s : State) : State :=
  (List.finRange 64).foldl (fun (s : State) (i : Fin 64) => s.diUpd i fun d => { d with c := 0, filt := false, f := false, raw := false, wb := false }) s

/-! Outputs. -/

def State.dqUpd (s : State) (j : Fin 32) (f : DqCh → DqCh) : State :=
  { s with field := { s.field with dq := s.field.dq.set j (f s.field.dq[j]) } }

def State.lplusIsLow (s : State) (j : Fin 32) : Bool := s.field.lplusLow.getLsbD (j.val / 8)

/-- The channel may switch on: target 1, off, supplied, not off through OVERTEMP. -/
def State.dqWants (s : State) (j : Fin 32) : Bool :=
  let d := s.field.dq[j]
  d.target && !d.on && !d.overtemp && !s.lplusIsLow j

/-- Channels join the back of the switch-on queue in ascending order, none twice (R423). -/
def State.dqJoin (s : State) (js : List (Fin 32)) : State :=
  let add := js.filter fun j => s.dqWants j && !s.field.queue.contains j
  { s with field := { s.field with queue := s.field.queue ++ add } }

def State.dqLeave (s : State) (p : Fin 32 → Bool) : State :=
  { s with field := { s.field with queue := s.field.queue.filter fun j => !p j } }

/-- A slot: the first 8 queued channels switch on (R423). -/
def State.dqSlot (s : State) : State :=
  let now := s.field.queue.take 8
  let s1 := { s with field := { s.field with queue := s.field.queue.drop 8, slotAt := some (s.tb.run + nsU 250000) } }
  now.foldl (fun (s : State) (j : Fin 32) => s.dqUpd j fun d => { d with on := true }) s1

/-- Channels join outside a publish: with no slot grid the first slot is now. -/
def State.dqRejoin (s : State) (js : List (Fin 32)) : State :=
  let empty := s.field.queue.isEmpty
  let s1 := s.dqJoin js
  if empty && !s1.field.queue.isEmpty then
    match s1.field.slotAt with
    | some t =>
      let due := if s1.tb.run ≤ t then t else t + ceilDiv (s1.tb.run - t) (nsU 250000) * nsU 250000
      { s1 with field := { s1.field with slotAt := some due } }
    | none => s1.dqSlot
  else s1

/-- An image becomes the target state of every enabled channel (R423): switch-offs at once, switch-ons through the queue;
a publish that finds the queue empty opens a slot at once. -/
def State.dqApply (s : State) (img : Word) : State :=
  let L := s.lane s.act
  let empty := s.field.queue.isEmpty
  let s1 := (List.finRange 32).foldl (fun (s : State) (j : Fin 32) =>
    let t := bitOf img j && L.dqEn j
    s.dqUpd j fun d => { d with target := t, on := d.on && t, lastChange := if d.target == t then d.lastChange else s.tb.run }) s
  let s2 := (s1.dqLeave fun j => !s1.field.dq[j].target).dqJoin (List.finRange 32)
  if empty && !s2.field.queue.isEmpty then s2.dqSlot else s2

/-- The target states of every channel as a word. -/
def State.dqTargets (s : State) : Word :=
  BitVec.ofNat 32 ((List.finRange 32).foldl (fun (n : Nat) (j : Fin 32) => n + bit s.field.dq[j].target * 2 ^ j.val) 0)

/-- A run ends: the published states are kept for channels that hold them (R46). -/
def State.dqKeepPub (s : State) (ran : Bool) : State :=
  if ran then (List.finRange 32).foldl (fun (s : State) (j : Fin 32) => s.dqUpd j fun d => { d with pub := d.target }) s else s

/-- STOP states (R42, R46): off, on, or hold last published. -/
def State.dqStopImage (s : State) : Word :=
  let L := s.lane s.act
  BitVec.ofNat 32 ((List.finRange 32).foldl (fun (n : Nat) (j : Fin 32) =>
    let c := L.fld (aDq j) 8 2
    n + bit (c = 1 || (c = 2 && s.field.dq[j].pub)) * 2 ^ j.val) 0)

/-- Safe states (R42, R46). -/
def State.dqSafeImage (s : State) : Word :=
  let L := s.lane s.act
  BitVec.ofNat 32 ((List.finRange 32).foldl (fun (n : Nat) (j : Fin 32) => n + L.fld (aDq j) 10 1 * 2 ^ j.val) 0)

/-- Every channel off at once, the queue empty (RESET, CONFIGURE, RETAIN; R42, R503). -/
def State.dqAllOff (s : State) : State :=
  let s1 := (List.finRange 32).foldl (fun (s : State) (j : Fin 32) => s.dqUpd j fun d => { d with target := false, on := false, pub := false }) s
  { s1 with field := { s1.field with queue := [], slotAt := none } }

/-- FAILSAFE: the field die applies the safe states by itself (R314). -/
def State.dqFailsafe (s : State) : State := if s.red.failsafe then s.dqApply s.dqSafeImage else s

/-- A switch-on slot of the queue (R423). -/
def execDqSwitchOnSlot (s : State) : Out :=
  match s.field.slotAt with
  | some t => if s.field.queue.isEmpty then .next s else .next (s.advRun t).dqSlot
  | none => .next s

/-- L+ of a group falls below 16 V (R421). -/
def execLplusLow (group : Fin 4) (s : State) : Out :=
  let inG (j : Fin 32) : Bool := j.val / 8 == group.val
  let s1 := (List.finRange 32).foldl (fun (s : State) (j : Fin 32) => if inG j then s.dqUpd j fun d => { d with on := false } else s) s
  let s2 := { s1.dqLeave inG with field := { (s1.dqLeave inG).field with lplusLow := s.field.lplusLow ||| BitVec.ofNat 4 (2 ^ group.val) } }
  .next (if s.field.lplusLow.getLsbD group then s else s2.raiseUp 0x87 group)

/-- L+ of a group returns (R421): its channels with target 1 join the queue. -/
def execLplusReturn (group : Fin 4) (s : State) : Out :=
  if !s.field.lplusLow.getLsbD group then .next s
  else
    let s1 := { s with field := { s.field with lplusLow := s.field.lplusLow &&& ~~~ BitVec.ofNat 4 (2 ^ group.val) } }
    .next ((s1.raiseUp 0x87 group).dqRejoin ((List.finRange 32).filter fun (j : Fin 32) => j.val / 8 == group.val))

/-- 100 us at the current limit (R422). -/
def execDqOverload (ch : Fin 32) (s : State) : Out :=
  if s.field.dq[ch].on && !s.field.dq[ch].overload then .next ((s.dqUpd ch fun d => { d with overload := true }).raiseUp 0x83 ch) else .next s

/-- The channel's junction reaches 150 °C (R422): off; latched without AUTO_RESTART. -/
def execDqOvertemp (ch : Fin 32) (s : State) : Out :=
  if s.field.dq[ch].overtemp then .next s
  else
    let auto := (s.lane s.act).flag (aDq ch) 0
    let s1 := (s.dqUpd ch fun d => { d with overtemp := true, on := false, latched := !auto, cooled := false, clearHeld := false }).dqLeave (· == ch)
    .next (s1.raiseUp 0x84 ch)

/-- The channel is released: flags clear and it joins the queue if its target is 1 (R422, R423). -/
def State.dqRelease (s : State) (ch : Fin 32) : State :=
  (s.dqUpd ch fun d => { d with overtemp := false, overload := false, latched := false, clearHeld := false }).dqRejoin [ch]

/-- The junction falls below 130 °C (R422). -/
def execDqCooled (ch : Fin 32) (s : State) : Out :=
  let d := s.field.dq[ch]
  if !d.overtemp then .next s
  else
    let s1 := s.dqUpd ch fun d => { d with cooled := true }
    if !d.latched then
      .next (((s1.dqUpd ch fun d => { d with restarts := satInc 16 d.restarts }).raiseUp 0x85 ch).dqRelease ch)
    else if d.clearHeld then .next (s1.dqRelease ch)
    else .next s1

/-- An open wire is found for 10 ms (R422): OPEN_OFF while commanded off, OPEN_ON while commanded on. -/
def execDqOpenWire (ch : Fin 32) (s : State) : Out :=
  let d := s.field.dq[ch]
  let cfg := (s.lane s.act).get (aDq ch)
  if s.lplusIsLow ch then .next s
  else if !d.target && bitOf cfg 1 && !d.openOff then .next ((s.dqUpd ch fun d => { d with openOff := true }).raiseUp 0x86 ch)
  else if d.target && bitOf cfg 2 && !d.openOn then .next ((s.dqUpd ch fun d => { d with openOn := true }).raiseUp 0x86 ch)
  else .next s

/-- 10 ms without the condition (R422). -/
def execDqOpenWireClear (ch : Fin 32) (s : State) : Out :=
  if s.lplusIsLow ch then .next s else .next (s.dqUpd ch fun d => { d with openOff := false, openOn := false })

/-- CLEAR of DIO_CMD (R422): held while the junction is still at or above 130 °C. -/
def State.dqClear (s : State) (l : LaneId) (key : Half) (ch : Byte) : State :=
  if key ≠ 0x4451 then s.ok
  else if h : ch.toNat < 32 then
    let j : Fin 32 := ⟨ch.toNat, h⟩
    let d := s.field.dq[j]
    if !(s.lane l).dqEn j then s.refuse l 0x88 j
    else if !s.portOpen l || !d.latched then s.ok
    else if d.cooled then (s.dqRelease j).ok
    else (s.dqUpd j fun d => { d with clearHeld := true }).ok
  else s.refuse l 0x88 ch.toNat
def execDqClear (src : Src) (key : Half) (ch : Byte) (s : State) : Out := .next (s.perLane src fun l s => s.dqClear l key ch)

/-! Registers of the DIO block that show the field die. -/

def State.diWord (s : State) (hi : Bool) (f : DiCh → Bool) : Word :=
  BitVec.ofNat 32 ((List.finRange 64).foldl (fun (n : Nat) (i : Fin 64) =>
    if (hi && 32 ≤ i.val) || (!hi && i.val < 32) then n + bit (f s.field.di[i]) * 2 ^ (i.val % 32) else n) 0)
def State.dqWord (s : State) (f : DqCh → Bool) : Word :=
  BitVec.ofNat 32 ((List.finRange 32).foldl (fun (n : Nat) (j : Fin 32) => n + bit (f s.field.dq[j]) * 2 ^ j.val) 0)
def DqCh.faulty (d : DqCh) : Bool := d.overload || d.overtemp || d.openOff || d.openOn || d.latched
def DqCh.diag (d : DqCh) : Nat :=
  d.restarts * 0x10000 + bit d.latched * 16 + bit d.openOn * 8 + bit d.openOff * 4 + bit d.overtemp * 2 + bit d.overload

/-- Value checks of DIO registers (R415, 17). -/
def dioCheck (name : String) (v : Word) : Bool :=
  match name with
  | "DIO_DI_CFG" => 5 ≤ fieldOf v 24 8 && fieldOf v 24 8 ≤ 200 && fieldOf v 0 8 ≤ 240 && fieldOf v 8 5 ≤ 16 && fieldOf v 8 5 ≤ fieldOf v 0 8
  | "DIO_DI_LIMIT" => 1 ≤ fieldOf v 0 16
  | "DIO_DQ_CFG" => fieldOf v 8 2 != 3
  | _ => true

/-- Registers from the DIO drawer, at load (R415). -/
def Lane.dioLoad (L : Lane) : Lane :=
  let L1 := (List.range 64).foldl (fun L i =>
    let e := L.diE i
    if !L.diEn i then L
    else
      let f := u8At e 0
      let flags := bit (f.testBit 1) + 2 * bit (f.testBit 2) + 4 * bit (f.testBit 3) + 8 * bit (f.testBit 6)
      (L.putN (aDi i) (u8At e 6 * 2 ^ 24 + (f / 16 % 4) * 2 ^ 22 + u8At e 3 * 2 ^ 20 + flags * 2 ^ 16 + u8At e 2 * 2 ^ 8 + u8At e 1)).putN
        (aDi i + 4) (u16At e 4)) L
  (List.range 32).foldl (fun L j =>
    let e := L.dqE j
    if !L.dqEn j then L
    else L.putN (aDq j) (u8At e 2 * 2 ^ 10 + u8At e 1 * 2 ^ 8 + u8At e 0 / 2 % 8)) L1

/-- Cross-checks of the DIO drawer (R415). -/
def dioDrawerOk (d : Bytes) : Bool :=
  if d.isEmpty then true
  else d.length == 800 && allAt d 0 32 0 &&
    (allBelow 64 fun i =>
      let e := slice d (32 + 8 * i) 8
      if !(u8At e 0).testBit 0 then allAt e 0 8 0
      else !(u8At e 0).testBit 7 && u8At e 1 ≤ 240 && u8At e 2 ≤ 16 && u8At e 2 ≤ u8At e 1 && u8At e 3 ≤ 3 && 1 ≤ u16At e 4 &&
        5 ≤ u8At e 6 && u8At e 6 ≤ 200 && u8At e 7 == 0) &&
    (allBelow 32 fun j =>
      let e := slice d (544 + 8 * j) 8
      if !(u8At e 0).testBit 0 then allAt e 0 8 0
      else u8At e 0 < 16 && u8At e 1 ≤ 2 && u8At e 2 ≤ 1 && allAt e 3 5 0)

end Sys2Proof.Machine
end

