-- ==== Sys2Proof/Machine/Image.lean ====
section
/-! DEFINITION. Machine/Image.lean: the checks of a Cabinet image (03: R65-R70, R530 orders 1 to 6) and the digest of R71.
An image is read through `rd off n`, the `n` bytes at image offset `off`, from a slot of the flash or from DRAM. Answers
are slot result codes; 0x1 is valid. -/
namespace Sys2Proof.Machine

abbrev ImgRd := Nat → Nat → Bytes

def slotLen : Nat := 0x06000000

/-- A slot of the image flash (R79). -/
def State.slotRd (s : State) (slot : Fin 2) : ImgRd := fun off n =>
  (List.range n).map fun i => spGet flashByte s.flash.cells (slot.val * slotLen + off + i)

/-- Check 1: header fields in the order of R66. FLAGS bits [31:1] other than 0 are code 0x3: DESIGN CHOICE, R66 names no code for
them (log 50). -/
def headerCode (rd : ImgRd) (kind : Nat) : Nat :=
  let h := rd 0 256
  let n := u16At h 0x0C
  if u32At h 0 ≠ 0x42434B45 then (if (rd 0 4096).all (· == 0xFF) then 2 else 3)
  else if u16At h 4 ≠ 2 then 3
  else if 3 < u16At h 6 then 3
  else if u16At h 8 ≠ 0x1000 then 4
  else if u8At h 0xA ≠ 0 ∧ u8At h 0xA ≠ 0x53 ∧ u8At h 0xA ≠ 0x45 then 3
  else if u8At h 0xB ≠ kind then 3
  else if n = 0 then 8
  else if 1024 < n then 3
  else if u16At h 0xE ≠ 0 then 3
  else if u32At h 0x10 ≠ 256 then 3
  else if u32At h 0x14 ≠ 64 * n then 3
  else if u32At h 0x18 ≠ 256 + 64 * n then 3
  else if u32At h 0x1C ≠ 5280 then 3
  else if 100663296 < u32At h 0x20 then 3
  else if 1 < u32At h 0x24 then 3
  else if kind = 0 ∧ !allAt h 0x30 32 0 then 3
  else if !allAt h 0x58 168 0 then 3
  else 1

def imgCount (rd : ImgRd) : Nat := u16At (rd 0xC 2) 0
def imgLen (rd : ImgRd) : Nat := u32At (rd 0x20 4) 0
/-- Manifest entry `i` (R67). -/
def manEntry (rd : ImgRd) (i : Nat) : Bytes := rd (256 + 64 * i) 64
def manAll (rd : ImgRd) : List Bytes := (List.range (imgCount rd)).map (manEntry rd)

def entTyp (e : Bytes) : Nat := u8At e 0
def entInst (e : Bytes) : Nat := u8At e 1
def entFlags (e : Bytes) : Nat := u16At e 2
def entOfs (e : Bytes) : Nat := u32At e 4
def entLen (e : Bytes) : Nat := u32At e 8
def entFmt (e : Bytes) : Nat := u16At e 12
def entKey (e : Bytes) : Nat := u8At e 14
def entDigest (e : Bytes) : Big := BitVec.ofNat 256 (leAt e 0x10 32)
def entFlag (e : Bytes) (i : Nat) : Bool := (entFlags e).testBit i

/-- Types that have one instance per task (R72). -/
def perTask (t : Nat) : Bool := [1, 2, 4, 5].contains t

/-- One manifest entry by itself (R68). -/
def entOk (rd : ImgRd) (e : Bytes) : Bool :=
  let t := entTyp e
  let specOk := if entFlag e 2 then t == 0x13 else !entFlag e 3
  1 ≤ t && t ≤ 0x13 && entInst e ≤ (if perTask t then 7 else 0) &&
  (!entFlag e 1 || [1, 2, 4].contains t) && specOk && entFlags e < 32 && u8At e 15 == 0 && allAt e 0x30 16 0 &&
  entOfs e % 64 == 0 && 256 + 64 * imgCount rd + 5280 ≤ entOfs e && entOfs e + entLen e ≤ imgLen rd

/-- Two entries may stand in one manifest (R68). -/
def entPairOk (x y : Bytes) : Bool :=
  let same := entTyp x == entTyp y && entInst x == entInst y
  let twins := entFlag x 2 && entFlag y 2 && (entFlag x 3 != entFlag y 3)
  let apart := entLen x == 0 || entLen y == 0 || entOfs x + entLen x ≤ entOfs y || entOfs y + entLen y ≤ entOfs x
  (!same || twins) && apart

def pairsOk (f : Bytes → Bytes → Bool) : List Bytes → Bool
  | [] => true
  | e :: t => t.all (f e) && pairsOk f t

/-- Check 2: the manifest (R68). -/
def manifestOk (rd : ImgRd) : Bool := let m := manAll rd; m.all (entOk rd) && pairsOk entPairOk m

def sigOfs (rd : ImgRd) : Nat := 256 + 64 * imgCount rd

/-- Check 3: the signature block's fixed fields (R69). -/
def sigBlockOk (rd : ImgRd) : Bool :=
  let b := rd (sigOfs rd) 5280
  u32At b 0 == 0x47534B45 && u8At b 4 ≤ 3 && allAt b 5 3 0 && allAt b 0x149D 3 0

/-- The bytes that are signed, and whose digest is the Cabinet digest (R70, R71). -/
def signedPart (rd : ImgRd) : Bytes := rd 0 (sigOfs rd)
def cabinetDigest (rd : ImgRd) : Big := Config.shake256 (signedPart rd)

/-- Check 4: the anchor whose digest is that of the public key, tried from ANCHOR_HINT on, and the signature (R70).
The code, with the anchor that verified. -/
def State.sigCheck (s : State) (rd : ImgRd) : Nat × Nat :=
  let b := rd (sigOfs rd) 5280
  let pub := slice b 0x10 1952
  let d := Config.shake256 pub
  let order := (List.range 4).map fun i => (u8At b 4 + i) % 4
  let hit (rev : Bool) (i : Nat) : Bool :=
    let a := s.keeper.anchors.getD i { digest := 0, programmed := false, revoked := false }
    a.programmed && a.revoked == rev && a.digest == d
  match order.find? (hit false) with
  | some i => if Config.mldsaVerify pub "EMKOLE-CABINET" (signedPart rd) (slice b 0x7B0 3309) then (1, i) else (5, 0)
  | none => if order.any (hit true) then (6, 0) else (5, 0)

/-- Check 5: drawer digests, over the bytes as stored (R67). -/
def digestsOk (rd : ImgRd) : Bool := (manAll rd).all fun e => Config.shake256 (rd (entOfs e) (entLen e)) == entDigest e

/-- Check 6: a CODE drawer, none of zero length (R73). -/
def codeOk (rd : ImgRd) : Bool :=
  let cs := (manAll rd).filter fun e => entTyp e == 1
  !cs.isEmpty && cs.all fun e => entLen e != 0

/-- Checks 1 to 6 of R530 on a full image: the first that fails gives the code; with the anchor. -/
def State.imgCheck (s : State) (rd : ImgRd) : Nat × Nat :=
  let h := headerCode rd 0
  if h ≠ 1 then (h, 0)
  else if !manifestOk rd then (3, 0)
  else if !sigBlockOk rd then (3, 0)
  else
    let (c, a) := s.sigCheck rd
    if c ≠ 1 then (c, 0)
    else if !digestsOk rd then (7, 0)
    else if !codeOk rd then (8, 0)
    else (1, a)

/-- The value of a slot for a use that attribute `imgBit` permits: VALID with the attribute, and not being written (R76,
R457-R459). -/
def Lane.imgKey (L : Lane) (imgBit : Nat) (slot : Nat) : Option Big :=
  if slot < 32 then
    let k := L.keys.slots.getD slot KeySlot.init
    let busy := match L.keys.cmd with
      | some c => c.op != 3 && c.slot.val == slot && c.effective
      | none => false
    if k.state = 1 ∧ k.attr.getLsbD imgBit ∧ !busy then some k.value else none
  else none

/-- The content of a drawer: as stored, or decrypted under R76; none is code 0x7. An encrypted drawer of stored length 0 is the
empty drawer of R73, not the failed decryption of R76 (DESIGN CHOICE, the spec does not say which; log 45). -/
def Lane.drawerBytes (L : Lane) (imgBit : Nat) (rd : ImgRd) (e : Bytes) : Option Bytes :=
  let raw := rd (entOfs e) (entLen e)
  if !entFlag e 4 || entLen e == 0 then some raw
  else if entLen e < 28 then none
  else match L.imgKey imgBit (entKey e) with
    | none => none
    | some k => Config.gcmOpen k (raw.take 12) e ((raw.drop 12).take (entLen e - 28)) (raw.drop (entLen e - 16))

end Sys2Proof.Machine
end

