-- ==== Sys2Proof/Machine/Task.lean ====
section
/-! DEFINITION. Machine/Task.lean: the task table, bindings and symbols as the drawers give them, program loading, and the
engines' tables (09: R236-R247). -/
namespace Sys2Proof.Machine

def aT (t off : Nat) : Nat := 0x40020100 + 0x40 * t + off
def aEng (e off : Nat) : Nat := 0x40030100 + 0x20 * e + off

/-- The entry of task `t` in a TASK drawer (R239). -/
def taskEntryOf (d : Bytes) (t : Nat) : Option Bytes :=
  ((List.range (u8At d 0)).map fun i => slice d (16 + 32 * i) 32).find? fun e => u8At e 0 == t
def Lane.taskE (L : Lane) (t : Nat) : Option Bytes := taskEntryOf (L.dr 3) t
def Lane.taskDef (L : Lane) (t : Nat) : Bool := (L.taskE t).isSome
def Lane.taskRow (L : Lane) (t : Nat) : Bytes := (L.taskE t).getD (zeros 32)
def Lane.tPrio (L : Lane) (t : Nat) : Nat := u8At (L.taskRow t) 1
/-- PERIOD in units of 250 us. -/
def Lane.tPeriod (L : Lane) (t : Nat) : Nat := u16At (L.taskRow t) 2
def Lane.tPhase (L : Lane) (t : Nat) : Nat := u16At (L.taskRow t) 4
def Lane.tEngines (L : Lane) (t : Nat) : Nat := u16At (L.taskRow t) 8
def Lane.tPriv (L : Lane) (t : Nat) : Bool := (u8At (L.taskRow t) 0xB).testBit 0

/-- A binding (R240). -/
structure Binding where
  out : Bool
  kind : Nat
  sym : Nat
  idx : Nat
deriving DecidableEq, Repr

def bindingsOf (d : Bytes) (t : Nat) : List Binding :=
  match taskEntryOf d t with
  | none => []
  | some e => (List.range (u16At e 0x12)).map fun i =>
      let b := slice d (16 + 32 * u8At d 0 + 16 * (u16At e 0x10 + i)) 16
      { out := u8At b 0 == 1, kind := u8At b 1, sym := u32At b 4, idx := u32At b 8 }
def Lane.bindings (L : Lane) (t : Nat) : List Binding := bindingsOf (L.dr 3) t

/-- A symbol (R244). -/
structure Sym where
  id : Nat
  addr : Nat
  size : Nat
  typ : Nat
  attr : Nat
deriving DecidableEq, Repr

def symsOf (d : Bytes) : List Sym := (List.range (u32At d 0)).map fun i =>
  let e := slice d (16 + 16 * i) 16
  { id := u32At e 0, addr := u32At e 4, size := u32At e 8, typ := u8At e 12, attr := u8At e 13 }
def Lane.syms (L : Lane) (t : Nat) : List Sym := if (L.dr 4 t).isEmpty then [] else symsOf (L.dr 4 t)
def Lane.sym? (L : Lane) (t id : Nat) : Option Sym := (L.syms t).find? fun y => y.id == id
/-- A symbol of any task, with its task. -/
def Lane.symAny (L : Lane) (id : Nat) : Option (Nat × Sym) :=
  (List.range 8).findSome? fun t => (L.sym? t id).map fun y => (t, y)

/-- The lowest engine of a task's set: its TCM is the one a TCM symbol is read from (log 21). -/
def Lane.leadEng (L : Lane) (t : Nat) : Nat := ((bitsOf 16 (L.tEngines t)).head?).getD 0

/-- The value of a symbol. -/
def State.symRead (s : State) (l : LaneId) (t : Nat) (y : Sym) : Bytes := s.rdMem l ((s.lane l).leadEng t) y.addr y.size

/-- Write a symbol: in the TCM of every engine of the set where it lies in TCM; a Chest symbol is written by the active
lane only (R16, R259). -/
def State.symWrite (s : State) (l : LaneId) (t : Nat) (y : Sym) (bs : Bytes) : State :=
  let v := bs.take y.size
  if regionOf y.addr = .chest then
    (s.chestPlain l (chestOff y.addr) v).1
  else s.upd l fun L => (bitsOf 16 (L.tEngines t)).foldl (fun L e => L.wrMem e y.addr v) L

/-- The runtime on an engine reads and writes an object as the engine does (R254, R433, R437). -/
def State.objRead (s : State) (l : LaneId) (e : Fin 16) (y : Sym) (n : Nat) : Bytes :=
  if regionOf y.addr = .chest then s.chestSeen l (chestOff y.addr) n else s.rdMem l e y.addr n
def State.objWrite (s : State) (l : LaneId) (e : Fin 16) (y : Sym) (bs : Bytes) : State :=
  if regionOf y.addr = .chest then
    { (List.range (ceilDiv bs.length 4)).foldl (fun s i => s.chestWord l e (chestOff y.addr + 4 * i) ((bs.drop (4 * i)).take 4)) s with reply := s.reply }
  else s.upd l (·.wrMem e y.addr bs)

/-! Loading of programs (R242, R243, R245). -/

/-- Segments of a CODE or DATA drawer: (DEST, LEN, SRC, ENGINES). -/
def segsOf (d : Bytes) (code : Bool) : List (Nat × Nat × Nat × Nat) :=
  let base := if code then 16 + 128 else 16
  (List.range (u16At d 0)).map fun i =>
    let e := slice d (base + 16 * i) 16
    (u32At e 0, u32At e 4, u32At e 8, u16At e 12)

/-- Load a segment's bytes; Chest segments go to the array and only when asked for. -/
def State.loadSeg (s : State) (l : LaneId) (d : Bytes) (chestToo : Bool) (g : Nat × Nat × Nat × Nat) : State :=
  let (dest, len, src, eng) := g
  let bs := slice d src len
  match regionOf dest with
  | .chest => if chestToo then s.chestPut (chestOff dest) bs else s
  | .itcm => s.upd l fun L => (bitsOf 16 eng).foldl (fun L e => L.wrMem e dest bs) L
  | .dtcm => s.upd l fun L => (bitsOf 16 eng).foldl (fun L e => L.wrMem e dest bs) L
  | _ => s.upd l (·.wrMem 0 dest bs)

def State.loadDrawerSegs (s : State) (l : LaneId) (typ t : Nat) (chestToo : Bool) : State :=
  let d := (s.lane l).dr typ t
  if d.isEmpty then s else (segsOf d (typ == 1)).foldl (fun s g => s.loadSeg l d chestToo g) s

/-- Code and data of every task (R245): at a LOAD with the Chest's segments, at boot without them. -/
def State.loadPrograms (s : State) (l : LaneId) (chestToo : Bool) : State :=
  (List.range 8).foldl (fun s t => (s.loadDrawerSegs l 1 t chestToo).loadDrawerSegs l 2 t chestToo) s

/-- Data segments outside the Chest and hardware timers, at entry to RUN or SINGLE from STOP (R245). -/
def State.initPrograms (s : State) (l : LaneId) : State :=
  let s1 := (List.range 8).foldl (fun s t => s.loadDrawerSegs l 2 t false) s
  s1.upd l fun L => (List.range 256).foldl (fun L n => ((L.clr (0x40021000 + 0x10 * n)).clr (0x40021004 + 0x10 * n)).clr (0x40021008 + 0x10 * n)) L

/-! Mirror sets (R300-R303). -/

/-- Regions of a MIRROR drawer: (ADDR, LEN, ENGINES). -/
def mirrorRegs (d : Bytes) : List (Nat × Nat × Nat) := (List.range (u16At d 0)).map fun i =>
  let e := slice d (16 + 16 * i) 16
  (u32At e 0, u32At e 4, u16At e 8)
def Lane.mirRegs (L : Lane) (t : Nat) : List (Nat × Nat × Nat) := if (L.dr 5 t).isEmpty then [] else mirrorRegs (L.dr 5 t)

/-- The copies of a region: one per engine named, one where none is. -/
def regEngines (eng : Nat) : List Nat := if eng = 0 then [0] else bitsOf 16 eng

/-- Mirror-set size in bytes (R301, RED_MIRROR). -/
def mirrorBytes (rs : List (Nat × Nat × Nat)) : Nat := rs.foldl (fun n r => n + r.2.1 * (regEngines r.2.2).length) 0

/-- The mirror set of a task, in ascending region order. -/
def Lane.mirrorGet (L : Lane) (t : Nat) : Bytes :=
  (L.mirRegs t).foldl (fun bs r => bs ++ ((regEngines r.2.2).map fun e => memRead L.mem (memKey e r.1) r.2.1).flatten) []

/-- Put a mirror set back into memory. -/
def Lane.mirrorPut (L : Lane) (t : Nat) (bs : Bytes) : Lane :=
  ((L.mirRegs t).foldl (fun (p : Lane × Bytes) r =>
    (regEngines r.2.2).foldl (fun (p : Lane × Bytes) e => (p.1.wrMem e r.1 (p.2.take r.2.1), p.2.drop r.2.1)) p) (L, bs)).1

/-- Slot `t` of the mirror store. -/
def Lane.slotPut (L : Lane) (t : Nat) (bs : Bytes) : Lane := { L with mirror := memWrite L.mirror (t * 2 ^ 20) bs }
def Lane.slotGet (L : Lane) (t : Nat) : Bytes := memRead L.mirror (t * 2 ^ 20) (mirrorBytes (L.mirRegs t))

/-- Length of the mirror window in units of the time base: 0.125 ns per byte (R301). -/
def Lane.windowU (L : Lane) (t : Nat) : Nat := mirrorBytes (L.mirRegs t) * 2 ^ 37

def Lane.taskUpd (L : Lane) (t : Fin 8) (f : Task → Task) : Lane := { L with tasks := L.tasks.set t (f L.tasks[t]) }
/-- STATE of CYC_TSTAT: 0 UNDEFINED, 1 WAITING, 2 RUNNING, 3 FINISHED, 4 HELD, 5 STOPPED, 6 DEBUG. -/
def Lane.tState (L : Lane) (t : Nat) : Nat := L.fld (aT t 0) 0 3
def Lane.setTState (L : Lane) (t st : Nat) : Lane := L.setFld (aT t 0) 0 3 st

/-- A cycle of the task is in progress: started, not yet published or ended. -/
def Lane.tBusy (L : Lane) (t : Nat) : Bool := L.tState t == 2 || L.tState t == 3 || L.tState t == 6

/-- t0 of grid instant `k` of a task, in ns of the extended count (R246). -/
def State.gridNs (s : State) (l : LaneId) (t k : Nat) : Nat :=
  s.mode.tR.getD 0 + 250000 * ((s.lane l).tPhase t + k * (s.lane l).tPeriod t)

/-- Publish offset of a task in ns (R246): a multiple of 4 ns. -/
def Lane.pubOfs (L : Lane) (t : Nat) : Nat := (L.tPeriod t * 250000 * L.fld (aT t 8) 0 10 / 1000 / 4) * 4

/-! Checks of the drawers (R241-R244, R300, R301). -/

def taskDrawerOk (d : Bytes) : Bool :=
  if d.isEmpty then true
  else
    let n := u8At d 0
    let es := (List.range n).map fun i => slice d (16 + 32 * i) 32
    let nb := es.foldl (fun k e => k + u16At e 0x12) 0
    1 ≤ n && n ≤ 8 && allAt d 1 15 0 && d.length == 16 + 32 * n + 16 * nb &&
    (es.all fun e =>
      let p := u16At e 2
      u8At e 0 ≤ 7 && u8At e 1 ≤ 7 && 1 ≤ p && p ≤ 40000 && u16At e 4 < p && (u8At e 0 != 0 || u16At e 4 == 0) &&
      100 ≤ u16At e 6 && u16At e 6 ≤ 999 && u16At e 8 != 0 && u8At e 0xA ≤ 2 && u8At e 0xB ≤ 1 && u32At e 0xC ≤ p * 250 &&
      u16At e 0x12 ≤ 2048 && u16At e 0x10 + u16At e 0x12 ≤ nb && allAt e 0x14 12 0) &&
    (es.map fun e => u8At e 0).Nodup && (es.map fun e => u8At e 1).Nodup

/-- Size of a type (R244); BLOB 1 to 65,536. -/
def typeSizeOk (typ size : Nat) : Bool :=
  match typ with
  | 0x01 => size == 1
  | 0x02 => size == 1
  | 0x03 => size == 1
  | 0x04 => size == 2
  | 0x05 => size == 2
  | 0x06 => size == 4
  | 0x07 => size == 4
  | 0x08 => size == 8
  | 0x09 => size == 8
  | 0x0A => size == 4
  | 0x0B => size == 8
  | 0x10 => size == 32
  | 0x11 => size == 32
  | 0x12 => size == 32
  | 0x13 => size == 2
  | 0x20 => 1 ≤ size && size ≤ 65536
  | _ => false
def typeAlign (typ size : Nat) : Nat := if typ = 0x20 then 1 else if 8 ≤ size then 8 else size

def mapDrawerOk (d : Bytes) : Bool :=
  if d.isEmpty then true
  else u32At d 0 ≤ 262144 && allAt d 4 12 0 && d.length == 16 + 16 * u32At d 0 &&
    (symsOf d).all (fun y => 1 ≤ y.id && y.id ≤ 0xFFFFFFFE && typeSizeOk y.typ y.size && y.addr % typeAlign y.typ y.size == 0 &&
      y.attr < 8 && ((y.attr.testBit 0) == decide (regionOf y.addr = .chest)) && (!y.attr.testBit 2 || y.typ == 0x13) &&
      (regionOf y.addr).isMem && inOneRegion y.addr y.size) &&
    allBelow (u32At d 0) (fun i => allAt d (16 + 16 * i + 14) 2 0)

/-- SYM_ID unique across all MAP instances (R244). -/
def mapIdsOk (ds : List Drawer) : Bool := (((List.range 8).map fun t => (symsOf (drOf ds 4 t)).map (·.id)).flatten).Nodup

/-- A symbol fits a binding (R240). -/
def bindingFits (ds : List Drawer) (t : Nat) (b : Binding) (y : Sym) : Bool :=
  if b.out then match b.kind with
    | 0x01 => y.typ == 6 && b.idx < 16
    | 0x02 => y.typ == 0xA && b.idx < 16
    | 0x03 => y.typ == 0xB
    | 0x08 => y.typ == 1 && b.idx < 32
    | 0x0A => y.typ == 0x20 && b.idx < 512
    | _ => false
  else match b.kind with
    | 0x02 => (List.range 8).any fun u => u != t && (symsOf (drOf ds 4 u)).any fun z => z.id == b.idx && z.attr.testBit 1 && z.typ == y.typ && z.size == y.size
    | 0x03 => y.typ == 0xB
    | 0x04 => y.typ == 0xB
    | 0x05 => y.typ == 0xB
    | 0x06 => y.typ == 0xB
    | 0x07 => y.typ == 6 && b.idx < 16
    | 0x08 => y.typ == 1 && b.idx < 64
    | 0x09 => y.typ == 7 && b.idx < 64
    | 0x0A => y.typ == 0x20 && b.idx < 512
    | _ => false

/-- The type a binding requires (R240), and the ranges of its index. -/
def bindingOk (ds : List Drawer) (t : Nat) (b : Binding) : Bool :=
  ((symsOf (drOf ds 4 t)).find? fun y => y.id == b.sym).any (bindingFits ds t b)

/-- DIR is 0 or 1, and the reserved bytes of a binding are 0 (R240, R241). -/
def bindingBytesOk (d : Bytes) (t : Nat) : Bool :=
  match taskEntryOf d t with
  | none => true
  | some e => allBelow (u16At e 0x12) fun i =>
      let b := slice d (16 + 32 * u8At d 0 + 16 * (u16At e 0x10 + i)) 16
      u8At b 0 ≤ 1 && allAt b 2 2 0 && allAt b 12 4 0

/-- Segments of CODE and DATA (R242, R243). -/
def segOk (d : Bytes) (code : Bool) (engSet : Nat) (g : Nat × Nat × Nat × Nat) : Bool :=
  let (dest, len, src, eng) := g
  let r := regionOf dest
  let tcm := decide (r = .itcm ∨ r = .dtcm)
  src % 8 == 0 && src + len ≤ d.length && inOneRegion dest len &&
  (if tcm then eng != 0 && eng &&& engSet == eng else eng == 0) &&
  (if code then decide (r = .itcm ∨ r = .dtcm ∨ r = .sram ∨ r = .dram) else decide (r = .dtcm ∨ r = .sram ∨ r = .dram ∨ r = .chest)) &&
  (r != .dtcm || dest + len ≤ 0x0813F000)

def codeDrawerOk (d : Bytes) (engSet : Nat) : Bool :=
  allAt d 2 14 0 && 16 + 128 + 16 * u16At d 0 ≤ d.length &&
  (allBelow 16 fun e =>
    let entry := u32At d (16 + 8 * e)
    let sp := u32At d (20 + 8 * e)
    if engSet.testBit e then entry != 0 && decide (regionOf entry = .itcm ∨ regionOf entry = .sram ∨ regionOf entry = .dram) &&
      0x08100000 ≤ sp && sp ≤ 0x0813FFFF && sp % 16 == 0
    else entry == 0 && sp == 0) && (segsOf d true).all (segOk d true engSet) && allBelow (u16At d 0) fun i => allAt d (144 + 16 * i + 14) 2 0

def dataDrawerOk (d : Bytes) (engSet : Nat) : Bool :=
  if d.isEmpty then true
  else allAt d 2 14 0 && 16 + 16 * u16At d 0 ≤ d.length && (segsOf d false).all (segOk d false engSet) &&
    allBelow (u16At d 0) fun i => allAt d (16 + 16 * i + 14) 2 0

/-- No two segments overlap in the same engine or region (R243). -/
def segsApart (x y : Nat × Nat × Nat × Nat) : Bool :=
  x.1 + x.2.1 ≤ y.1 || y.1 + y.2.1 ≤ x.1 || (x.2.2.2 != 0 && y.2.2.2 != 0 && x.2.2.2 &&& y.2.2.2 == 0)

def allPairs (f : α → α → Bool) : List α → Bool
  | [] => true
  | x :: t => t.all (f x) && allPairs f t

/-! PMP regions (R278, R279). -/

/-- Segments outside TCM as (first address, end), in ascending order. -/
def insRun (r : Nat × Nat) : List (Nat × Nat) → List (Nat × Nat)
  | [] => [r]
  | q :: t => if r.1 ≤ q.1 then r :: q :: t else q :: insRun r t
/-- Neighbours that touch make one region. -/
def joinRuns : List (Nat × Nat) → List (Nat × Nat)
  | [] => []
  | r :: t => match joinRuns t with
    | [] => [r]
    | q :: u => if r.2 = q.1 then (r.1, q.2) :: u else r :: q :: u
/-- The regions of a drawer's segments outside TCM (R279). -/
def pmpRuns (d : Bytes) (code : Bool) : List (Nat × Nat) :=
  if d.isEmpty then []
  else joinRuns ((segsOf d code).foldl (fun rs g =>
    if g.2.1 = 0 || regionOf g.1 == .itcm || regionOf g.1 == .dtcm then rs else insRun (g.1, g.1 + g.2.1) rs) [])
/-- A region that one NAPOT entry covers: a power of two of bytes, at least 4, at a multiple of its size. -/
def napotFits (r : Nat × Nat) : Bool :=
  let n := r.2 - r.1
  4 ≤ n && n &&& (n - 1) == 0 && r.1 % n == 0
/-- PMP entries of a region: one for NAPOT, two for TOR. -/
def pmpNeed (rs : List (Nat × Nat)) : Nat := rs.foldl (fun k r => k + if napotFits r then 1 else 2) 0
/-- Load check of a task's segments (R279): at most six entries, and bounds that PMP can state, which are multiples of 4. -/
def pmpOk (code data : List (Nat × Nat)) : Bool :=
  pmpNeed code + pmpNeed data ≤ 6 && (code ++ data).all fun r => r.1 % 4 == 0 && r.2 % 4 == 0

/-- Mirror regions (R301), for task `t` with its engine set and its DATA segments. -/
def mirrorOk (d : Bytes) (engSet : Nat) (segs : List (Nat × Nat × Nat × Nat)) : Bool :=
  if d.isEmpty then true
  else u16At d 0 ≤ 64 && allAt d 2 14 0 && d.length == 16 + 16 * u16At d 0 && mirrorBytes (mirrorRegs d) ≤ 1048576 &&
    (allBelow (u16At d 0) fun i => allAt d (16 + 16 * i + 10) 6 0) &&
    (mirrorRegs d).all (fun (a, n, eng) =>
      a % 8 == 0 && n % 8 == 0 && 8 ≤ n && n ≤ 1048576 &&
      (if regionOf a = .dtcm then a + n ≤ 0x0813F000 && eng != 0 && eng &&& engSet == eng
       else eng == 0 && decide (regionOf a = .sram ∨ regionOf a = .dram) && inOneRegion a n) &&
      segs.any fun g => g.1 ≤ a && a + n ≤ g.1 + g.2.1)

/-- Window check of R241 for a publish offset: (1000 - PUB) × PERIOD × 0.25 us ≥ bytes × 0.125 ns + 10 us, in 1/8 ns. -/
def windowOk (pub period bytes : Nat) : Bool := bytes + 80000 ≤ (1000 - pub) * period * 2000

/-- The sets whose windows can be running or queued at the publish instant of a task (R301), as the TASK drawer gives them: two
publish instants of tasks t and u stand apart by every distance that is congruent to the difference of their offsets modulo the
greatest common divisor of the periods; a set is in where that distance can be shorter than its own windows take. `acc t` are
the sets found so far (DEDUCED, log 62). -/
def windowSets (pub per : Nat → Nat) (bytes : Nat → Nat) : Nat → (Nat → List Nat) → (Nat → List Nat)
  | 0, acc => acc
  | n + 1, acc =>
    let cost (u : Nat) : Nat := (acc u).foldl (fun k v => k + bytes v) 0
    let near (t u : Nat) : Bool :=
      let g := Nat.gcd (per t) (per u)
      g != 0 && (let d := (pub t + g * (pub u / g + 1) - pub u) % g; d = 0 || d * 8 < cost u)
    let rows := (List.range 8).map fun t => (List.range 8).filter fun u => u == t || near t u
    windowSets pub per bytes n fun t => rows.getD t []
/-- Window check of R301 of every task. -/
def windowsOk (td : Bytes) (bytes : Nat → Nat) : Bool :=
  let e (t : Nat) : Bytes := (taskEntryOf td t).getD []
  let per (t : Nat) : Nat := u16At (e t) 2 * 250000
  let pub (t : Nat) : Nat := u16At (e t) 4 * 250000 + per t * u16At (e t) 6 / 1000 / 4 * 4
  let sets := windowSets pub per bytes 56 fun t => [t]
  allBelow 8 fun t => (e t).isEmpty || windowOk (u16At (e t) 6) (u16At (e t) 2) ((sets t).foldl (fun k u => k + bytes u) 0)

/-- Registers of the tasks, at load (R239). -/
def Lane.taskLoad (L : Lane) : Lane :=
  (List.range 8).foldl (fun L t =>
    match L.taskE t with
    | none => L
    | some e => (((L.setTState t 1).putN (aT t 4) (u8At e 0xA * 2 ^ 24 + u32At e 0xC % 2 ^ 24)).putN (aT t 8) (u16At e 6)).putN
        (0x40090040 + 4 * t) (mirrorBytes (L.mirRegs t))) L

end Sys2Proof.Machine
end

