-- ==== Sys2Proof/Machine/Can.lean ====
section
/-! DEFINITION. Machine/Can.lean: the CAN channels (14: R350-R371). Buffer records stand in the register file; request
order, FIFO and forwarded events stand in `Lane.can`. -/
namespace Sys2Proof.Machine

def aCan (c off : Nat) : Nat := 0x40111000 + 0x1C00 * c + off
def aBuf (c b off : Nat) : Nat := aCan c (0x500 + 0x50 * b + off)
def aBufCfg (c b : Nat) : Nat := aCan c (0x400 + 4 * b)

def Lane.canEn (L : Lane) (c : Nat) : Bool := L.flag (aCan c 0) 0
/-- CAN_CFG and CAN_LIM as the frame on the bus at a commit keeps them (R89, R353). -/
def Lane.canCfg (L : Lane) (c : Fin 8) : Word := (L.can[c].held.map (·.cfg)).getD (L.get (aCan c 0))
def Lane.canLim (L : Lane) (c : Fin 8) : Word := (L.can[c].held.map (·.lim)).getD (L.get (aCan c 0xC))
/-- CAN_STAT.STATE: 0 error active, 1 error passive, 2 bus-off, 3 off or integrating. -/
def Lane.canState (L : Lane) (c : Nat) : Nat := L.fld (aCan c 0x10) 0 2
def Lane.canTec (L : Lane) (c : Nat) : Nat := L.fld (aCan c 0x10) 24 8
def Lane.canRec (L : Lane) (c : Nat) : Nat := L.fld (aCan c 0x10) 16 8
/-- TXS of a buffer: 0 IDLE, 1 PENDING, 2 ACTIVE, 3 SENT, 4 ARB_, 5 ERR_, 6 ACK_EXHAUSTED, 7 ABORTED. -/
def Lane.canTxs (L : Lane) (c b : Nat) : Nat := L.fld (aBuf c b 4) 28 4
def Lane.setTxs (L : Lane) (c b v : Nat) : Lane := L.setFld (aBuf c b 4) 28 4 v
/-- An enabled transmit or receive buffer. -/
def Lane.canIsTx (L : Lane) (c b : Nat) : Bool := L.fld (aBufCfg c b) 0 2 == 3
def Lane.canIsRx (L : Lane) (c b : Nat) : Bool := L.fld (aBufCfg c b) 0 2 == 1

def Lane.canUpd (L : Lane) (c : Fin 8) (f : CanCh → CanCh) : Lane := { L with can := L.can.set c (f L.can[c]) }
def Lane.bufUpd (L : Lane) (c : Fin 8) (b : Fin 64) (f : CanBuf → CanBuf) : Lane :=
  L.canUpd c fun k => { k with bufs := k.bufs.set b (f k.bufs[b]) }

/-- The controllers are on the bus in every mode but RESET, CONFIGURE and RETAIN (R367). -/
def State.canOn (s : State) : Bool := s.mode.mode != .reset && s.mode.mode != .configure && s.mode.mode != .retain

/-- A refused write or command of a channel (R363). -/
def State.canRefuse (s : State) (l : LaneId) (c : Nat) : State :=
  ((s.upd l (·.setFlag (aCan c 0x10) 5 true)).raise l (0xA2 + 4 * c) c).busErr

/-- A buffer reaches an end state (R363, R371). -/
def State.canEnd (s : State) (l : LaneId) (c : Nat) (b : Nat) (txs : Nat) : State :=
  (s.upd l (·.setTxs c b txs)).raise l (0xA1 + 4 * c) b

/-- Error counters and the state that follows from them (R365, R366): above 127 error passive, above 255 bus-off; a controller
that waits for 11 recessive bits goes on waiting (R353). Becoming error passive or bus-off raises EV_CAN_ERR; TEC reads 0xFF
in bus-off. -/
def State.canCounters (s : State) (l : LaneId) (c tec rcv : Nat) : State :=
  let was := (s.lane l).canState c
  let st := if 255 < tec then 2 else if was = 3 then 3 else if 127 < tec || 127 < rcv then 1 else 0
  let s1 := s.upd l fun L =>
    let L1 := ((L.setFld (aCan c 0x10) 24 8 (min tec 255)).setFld (aCan c 0x10) 16 8 (min rcv 255)).setFld (aCan c 0x10) 0 2 st
    if st = 2 ∧ was ≠ 2 then L1.incFld (aCan c 0x14) 16 16 else L1
  if st ≠ was ∧ st ≠ 0 then s1.raise l (0xA2 + 4 * c) c else s1

/-! Reception. -/

/-- Data length of a DLC (R356). -/
def canLen (fdf : Bool) (dlc : Nat) : Nat :=
  if dlc ≤ 8 then dlc
  else if !fdf then 8
  else match dlc with
    | 9 => 12
    | 10 => 16
    | 11 => 20
    | 12 => 24
    | 13 => 32
    | 14 => 48
    | _ => 64

def frIdWord (f : CanFrame) : Word := BitVec.ofNat 32 (bit f.ide * 2 ^ 29 + f.ident.toNat)
/-- Frame fields of CTRL. -/
def frCtrl (f : CanFrame) : Nat :=
  f.dlc.val + bit f.fdf * 2 ^ 5 + bit f.brs * 2 ^ 6 + bit f.esi * 2 ^ 7 + bit f.rtr * 2 ^ 8
/-- The 64 data bytes a store writes: zeros beyond the length, none of a remote frame (R356). -/
def frData64 (f : CanFrame) : Bytes := slice (if f.rtr then [] else f.data.take (canLen f.fdf f.dlc.val)) 0 64

/-- A frame this channel receives as valid: FD frames only where they are enabled (R350). -/
def Lane.canValid (L : Lane) (c : Fin 8) (f : CanFrame) : Bool :=
  (!f.fdf || bitOf (L.canCfg c) 3) && !(f.fdf && f.rtr) && (f.ide || decide (f.ident.toNat < 2048))

/-- The first enabled filter that matches: (action, buffer) (R357). -/
def Lane.canFilter (L : Lane) (c : Nat) (f : CanFrame) : Option (Nat × Nat) :=
  (List.range 32).findSome? fun i =>
    let id := L.get (aCan c (0x100 + 0x10 * i))
    let mask := L.getN (aCan c (0x104 + 0x10 * i)) % 2 ^ 29
    if fieldOf id 30 2 ≠ 0 && bitOf id 29 == f.ide && ((fieldOf id 0 29 ^^^ f.ident.toNat) &&& mask) == 0 then
      some (fieldOf id 30 2, L.fld (aCan c (0x108 + 0x10 * i)) 0 6)
    else none

/-- A buffer record as 80 bytes (R355). -/
def canRecord (id ctrl stamp cnt : Nat) (data : Bytes) : Bytes :=
  leBytes 4 id ++ leBytes 4 ctrl ++ leBytes 4 stamp ++ leBytes 4 cnt ++ slice data 0 64

/-- Store a frame in a receive buffer: the whole record, then ND; OVR when ND was set (R358). -/
def State.canStoreBuf (s : State) (l : LaneId) (c : Fin 8) (b : Fin 64) (f : CanFrame) (stamp : Word) : State :=
  let L := s.lane l
  let nd := L.flag (aBuf c b 4) 9
  let ovr := L.flag (aBuf c b 4) 10 || nd
  let s1 := s.upd l fun L =>
    let L1 := ((L.put (aBuf c b 0) (frIdWord f)).putN (aBuf c b 4) (frCtrl f + 2 ^ 9 + bit ovr * 2 ^ 10)).put (aBuf c b 8) stamp
    let L2 := L1.setFld (aBuf c b 0xC) 0 16 (L1.fld (aBuf c b 0xC) 0 16 + 1)
    let L3 := L2.putWords (aBuf c b 0x10) ((List.range 16).map fun w => BitVec.ofNat 32 (u32At (frData64 f) (4 * w)))
    let L4 := L3.bufUpd c b fun k => { k with stores := k.stores + 1 }
    if nd then L4.incFld (aCan c 0x18) 0 16 else L4
  let s2 := if nd then s1.raise l (0xA3 + 4 * c) b else s1
  if L.flag (aBufCfg c b) 2 then s2.raise l (0xA0 + 4 * c) b else s2

/-- Add a frame to the receive FIFO of 32 records (R358). CNT of its record counts the frames stored in the FIFO (DEDUCED from R355, log 115);
ND and OVR belong to buffers and are 0. -/
def State.canStoreFifo (s : State) (l : LaneId) (c : Fin 8) (f : CanFrame) (stamp : Word) : State :=
  let n := (s.lane l).can[c].fifo.length
  if 32 ≤ n then
    (s.upd l fun L => (L.setFlag (aCan c 0x10) 4 true).incFld (aCan c 0x18) 16 16).raise l (0xA3 + 4 * c) c
  else
    let s1 := s.upd l fun L => L.canUpd c fun k =>
      { k with fifo := k.fifo ++ [canRecord (frIdWord f).toNat (frCtrl f) stamp.toNat ((k.fifoN + 1) % 2 ^ 16) (frData64 f)], fifoN := k.fifoN + 1 }
    if n = 0 then s1.raise l (0xA0 + 4 * c) c else s1

/-- Filter and store a valid frame in one lane (R357). -/
def State.canReceive (s : State) (l : LaneId) (c : Fin 8) (f : CanFrame) (stamp : Word) : State :=
  match (s.lane l).canFilter c f with
  | some (1, _) => s.canStoreFifo l c f stamp
  | some (2, b) => s.canStoreBuf l c (Fin.ofNat 64 b) f stamp
  | some (_, _) => s
  | none =>
    if bitOf ((s.lane l).canCfg c) 5 then s.canStoreFifo l c f stamp
    else s.upd l (·.incFld (aCan c 0x14) 0 16)

/-- An event of the active controller goes to the other lane (R368). -/
def State.canForward (s : State) (c : Fin 8) (e : CanFwd) : State :=
  if s.bothUp then s.upd s.act fun L => L.canUpd c fun k => { k with fwd := k.fwd ++ [e] } else s

/-- Counters of the active controller, forwarded. -/
def State.canCountersFwd (s : State) (c : Fin 8) (tec rcv : Nat) : State :=
  let act := s.act
  let s1 := s.canCounters act c tec rcv
  s1.canForward c (.state tec rcv ((s1.lane act).canState c))

/-- A controller receives a frame that began at `sof`: it is on the bus, or it was when a committed change came into the middle
of this frame (R353). -/
def Lane.canHears (L : Lane) (c : Fin 8) (sof : Word) : Bool :=
  L.canEn c && (L.canState c < 2 || (L.canState c == 3 && L.can[c].held.any fun h => diff32 sof.toNat h.at_.toNat < 0))

/-- The frame in reception has ended: what a commit held for it is over. -/
def Lane.canHeard (L : Lane) (c : Fin 8) : Lane := if L.canState c = 3 then L.canUpd c fun k => { k with held := none } else L

/-- Both controllers see an error on the bus that they receive: LEC. -/
def State.canLec (s : State) (c : Fin 8) (lec : Nat) : State :=
  s.each s.ups fun l s => if (s.lane l).canEn c && decide ((s.lane l).canState c < 2) then s.upd l (·.setFld (aCan c 0x10) 8 4 lec) else s

/-- A recessive res bit (R350): with PEX a protocol exception, after which the controller waits for 11 recessive bits; else a form
error. -/
def State.canResBit (s : State) (c : Fin 8) (sof : Word) : State :=
  let act := s.act
  let L := s.lane act
  if bitOf (L.canCfg c) 6 then
    s.each s.ups fun l s => if (s.lane l).canHears c sof then s.upd l fun L => (L.canHeard c).setFld (aCan c 0x10) 0 2 3 else s
  else (s.canLec c 2).canCountersFwd c (L.canTec c) (min 255 (L.canRec c + 1))

/-- A frame ends on the bus. Both lanes' controllers receive it; the active lane's receive error counter goes down by 1,
from above 127 to a value of 119 to 127 that ISO 11898-1 leaves open. -/
def execCanFrameReceived (ch : Fin 8) (frame : CanFrame) (sof : Word) (s : State) : Out :=
  let L := s.lane s.act
  if !s.canOn || !L.canHears ch sof || !L.canValid ch frame then .next s
  else if frame.fdf && frame.res then .next (s.canResBit ch sof)
  else
    let s1 := s.each s.ups fun l s =>
      if (s.lane l).canHears ch sof then (s.canReceive l ch frame sof).upd l (·.canHeard ch) else s
    let r := L.canRec ch
    if r = 0 then .next s1
    else if r ≤ 127 then .next (s1.canCountersFwd ch (L.canTec ch) (r - 1))
    else
      let (v, s2) := s1.fresh
      .next (s2.canCountersFwd ch (L.canTec ch) (119 + v.toNat % 9))

/-- A bus error while receiving (R366): 1 or 8 more on REC, saturating. -/
def execCanRxError (ch : Fin 8) (lec : Fin 7) (by8 : Bool) (s : State) : Out :=
  let act := s.act
  let L := s.lane act
  if !s.canOn || !L.canEn ch || 2 ≤ L.canState ch || lec.val = 0 then .next s
  else
    .next ((s.canLec ch lec.val).canCountersFwd ch (L.canTec ch) (min 255 (L.canRec ch + (if by8 then 8 else 1))))

/-- CAN_FIFO_POP (R358). -/
def State.canFifoPop (s : State) (l : LaneId) (c : Fin 8) (data : Word) : State :=
  if !(s.lane l).canEn c then s.canRefuse l c
  else if bitOf data 0 then (s.upd l fun L => L.canUpd c fun k => { k with fifo := k.fifo.drop 1 }).ok
  else s.ok
def execCanFifoPop (src : Src) (ch : Fin 8) (data : Word) (s : State) : Out :=
  .next (s.perLane src fun l s => s.canFifoPop l ch data)

/-! Transmission. -/

/-- Frame fields a transmit buffer may hold: an FD frame only where CFG.FD is 1, no remote FD frame, a base identifier in
[10:0] (R350, R355). -/
def canFrameOk (cfg id ctrl : Word) : Bool :=
  (!bitOf ctrl 5 || bitOf cfg 3) && !(bitOf ctrl 5 && bitOf ctrl 8) && (bitOf id 29 || fieldOf id 11 18 == 0) && fieldOf id 30 2 == 0

/-- Place a transmit request (R362, R363). -/
def Lane.canRequest (L : Lane) (c : Fin 8) (b : Fin 64) : Lane :=
  let L1 := (L.setTxs c b 1).put (aBuf c b 0xC) 0
  let n := L1.can[c].reqCount
  (L1.bufUpd c b fun k => { k with order := n, nonAck := false, abortAfter := false, compared := false }).canUpd c
    fun k => { k with reqCount := n + 1 }

/-- REQ through a register write (R363, R367). -/
def State.canReq (s : State) (l : LaneId) (req : Requester) (c : Fin 8) (b : Fin 64) : State :=
  let L := s.lane l
  let quiet := s.mode.mode == .stop || s.mode.mode == .safe
  let host := req == .hc || req == .hcBulk
  let t := L.canTxs c b
  if !L.canEn c || !L.canIsTx c b || t = 1 || t = 2 || (quiet && !host) then s.canRefuse l c
  else (s.upd l (·.canRequest c b)).ok
def execCanReq (src : Src) (ch : Fin 8) (buf : Fin 64) (s : State) : Out := .next (s.perLane src fun l s => s.canReq l src.req ch buf)

/-- ABORT (R363). -/
def State.canAbort (s : State) (l : LaneId) (c : Fin 8) (b : Fin 64) : State :=
  let L := s.lane l
  if !L.canEn c then s.canRefuse l c
  else if L.canTxs c b = 1 then (s.canEnd l c b 7).ok
  else if L.canTxs c b = 2 then (s.upd l fun L => L.bufUpd c b fun k => { k with abortAfter := true }).ok
  else s.ok
def execCanAbort (src : Src) (ch : Fin 8) (buf : Fin 64) (s : State) : Out := .next (s.perLane src fun l s => s.canAbort l ch buf)

/-- A CAN_TX binding at publish (R240, R362): the record goes into the buffer and is requested when its request bit is
set; in STOP and SAFE nothing is published. -/
def State.canPublish (s : State) (l : LaneId) (idx : Nat) (bs : Bytes) : State :=
  let c : Fin 8 := Fin.ofNat 8 (idx / 64)
  let b : Fin 64 := Fin.ofNat 64 idx
  let id : Word := BitVec.ofNat 32 (u32At bs 0)
  let ctrl : Word := BitVec.ofNat 32 (u32At bs 4)
  let L := s.lane l
  if !bitOf ctrl 15 then s
  else
    let t := L.canTxs c b
    if !L.canEn c || !L.canIsTx c b || t = 1 || t = 2 || !canFrameOk (L.get (aCan c 0)) id ctrl then
      { s.canRefuse l c with reply := s.reply }
    else s.upd l fun L =>
      let L1 := (L.put (aBuf c b 0) id).putN (aBuf c b 4) (ctrl.toNat &&& 0x1EF)
      (L1.putWords (aBuf c b 0x10) ((List.range 16).map fun w => BitVec.ofNat 32 (u32At bs (16 + 4 * w)))).canRequest c b

/-- Arbitration key of a buffer (R362): base identifiers shifted left by 18, before an extended one of the same value. -/
def Lane.canKey (L : Lane) (c b : Nat) : Nat :=
  let id := L.get (aBuf c b 0)
  if bitOf id 29 then fieldOf id 0 29 * 2 + 1 else fieldOf id 0 11 * 2 ^ 18 * 2

/-- The PENDING buffer a controller offers (R362). -/
def Lane.canOffer (L : Lane) (c : Fin 8) : Option (Fin 64) :=
  ((List.finRange 64).filter fun (b : Fin 64) => L.canTxs c b == 1).foldl (fun (best : Option (Fin 64)) (b : Fin 64) =>
    match best with
    | none => some b
    | some o =>
      let kb := L.canKey c b
      let ko := L.canKey c o
      if kb < ko || (kb == ko && L.can[c].bufs[b].order < L.can[c].bufs[o].order) then some b else some o) none

/-- What the link die hashes of an outgoing frame (R305): the channel, the identifier and the payload; DLC and FDF only tell the
payload's length. -/
def Lane.canHashed (L : Lane) (c b : Nat) : Bytes :=
  let ctrl := L.get (aBuf c b 4)
  leBytes 1 c ++ leBytes 4 (L.getN (aBuf c b 0)) ++
    (((L.getWords (aBuf c b 0x10) 16).map fun w => leBytes 4 w.toNat).flatten).take (canLen (bitOf ctrl 5) (fieldOf ctrl 0 4))

/-- Equal 64-bit hashes (R305): the first 8 bytes of SHAKE256. -/
def sameHash (x y : Bytes) : Bool := x == y || (Config.shake256 x).toNat % 2 ^ 64 == (Config.shake256 y).toNat % 2 ^ 64

/-- Both controllers stamp the start of a frame (R361): the standby's own stamp serves where the active lane's is not forwarded (R370). -/
def State.canSof (s : State) (c : Fin 8) : State := s.each s.ups fun l s => s.upd l fun L => L.canUpd c fun k => { k with sof := s.tbW }

/-- An arbitration opportunity of the active controller (R362, R369), none in FAILSAFE (R314). The standby selects by the same rule; a frame it has
not selected yet is awaited for 50 us. -/
def rowCanTxAttemptStart (ch : Fin 8) (s : State) : Out :=
  let act := s.act
  let L := s.lane act
  let busy := (List.range 64).any fun b => L.canTxs ch b == 2
  if s.red.failsafe || !s.canOn || !s.isUp act || !L.canEn ch || 2 ≤ L.canState ch || L.fld (aCan ch 0) 1 2 = 1 || busy then .next s
  else match L.canOffer ch with
  | none => .next s
  | some b =>
    let fresh := !L.can[ch].bufs[b].compared
    let s1 := (s.canSof ch).upd act fun L => (L.setTxs ch b 2).bufUpd ch b fun k => { k with compared := true }
    let h := L.canHashed ch b
    let S := s.lane (other act)
    let s2 :=
      if s.compares && fresh then
        match S.canOffer ch with
        | some b' => if sameHash h (S.canHashed ch b') then s1 else s1.redTrigger 5 ch true false false
        | none => s1.upd act fun L => L.canUpd ch fun k => { k with awaiting := some (h, s.tb.run) }
      else s1
    .next (s2.canForward ch (.start b))

/-- Events of an attempt in one lane. -/
def State.canStartIn (s : State) (l : LaneId) (c : Fin 8) (b : Fin 64) : State := s.upd l (·.setTxs c b 2)
def State.canSuccessIn (s : State) (l : LaneId) (c : Fin 8) (b : Fin 64) (stamp : Word) : State :=
  (s.upd l (·.put (aBuf c b 8) stamp)).canEnd l c b 3

/-- After an attempt without success: exhausted, aborted, or PENDING again (R363, R364). -/
def State.canRetry (s : State) (l : LaneId) (c : Fin 8) (b : Fin 64) (exhausted : Option Nat) : State :=
  if (s.lane l).can[c].bufs[b].abortAfter then s.canEnd l c b 7
  else match exhausted with
    | some e => s.canEnd l c b e
    | none => s.upd l (·.setTxs c b 1)

def State.canArbLostIn (s : State) (l : LaneId) (c : Fin 8) (b : Fin 64) : State :=
  let L := s.lane l
  let n := min 256 (L.fld (aBuf c b 0xC) 16 9 + 1)
  let lim := fieldOf (L.canLim c) 8 8
  (s.upd l (·.setFld (aBuf c b 0xC) 16 9 n)).canRetry l c b (if lim ≠ 0 ∧ lim < n then some 4 else none)

def State.canErrorIn (s : State) (l : LaneId) (c : Fin 8) (b : Fin 64) (lec : Nat) : State :=
  let L := s.lane l
  let n := min 16 (L.fld (aBuf c b 0xC) 0 5 + 1)
  let lim := fieldOf (L.canLim c) 0 4
  let nonAck := L.can[c].bufs[b].nonAck || lec != 3
  let s1 := s.upd l fun L => ((L.setFld (aBuf c b 0xC) 0 5 n).setFld (aCan c 0x10) 8 4 lec).bufUpd c b fun k => { k with nonAck := nonAck }
  s1.canRetry l c b (if lim ≠ 0 ∧ lim < n then some (if nonAck then 5 else 6) else none)

/-- The frame on the wire has ended: committed values hold from here on, and a committed CAN_CFG, CAN_NBT or CAN_DBT makes the
controller integrate again (R89, R353). -/
def State.canFrameEnd (s : State) (c : Fin 8) : State :=
  s.each s.ups fun l s => s.upd l fun L =>
    (if L.can[c].reint then L.setFld (aCan c 0x10) 0 2 3 else L).canUpd c fun k => { k with reint := false, held := none }

/-- The buffer on the wire of the active controller. -/
def State.canOnWire (s : State) (c : Fin 8) : Option (Fin 64) :=
  if s.canOn then (List.finRange 64).find? fun (b : Fin 64) => (s.lane s.act).canTxs c b == 2 else none

/-- The frame a transmit buffer holds. -/
def Lane.canFrameOf (L : Lane) (c b : Nat) : CanFrame :=
  let id := L.get (aBuf c b 0)
  let ctrl := L.get (aBuf c b 4)
  { ide := bitOf id 29, ident := BitVec.ofNat 29 id.toNat, fdf := bitOf ctrl 5, brs := bitOf ctrl 6, esi := bitOf ctrl 7,
    res := false, rtr := bitOf ctrl 8, dlc := Fin.ofNat 16 (fieldOf ctrl 0 4),
    data := ((L.getWords (aBuf c b 0x10) 16).map fun w => leBytes 4 w.toNat).flatten }

/-- An attempt succeeds (R361, R363): SENT with the stamp of its start of frame; TEC goes down by 1 (R366). In LOOPBACK
the frame comes back into the lane's own filters (R367). -/
def execCanTxSuccess (ch : Fin 8) (s : State) : Out :=
  match s.canOnWire ch with
  | none => .next s
  | some b =>
    let act := s.act
    let L := s.lane act
    let stamp := L.can[ch].sof
    let s1 := (s.canSuccessIn act ch b stamp).canForward ch (.success b stamp)
    let s2 := if L.canTec ch = 0 then s1 else s1.canCountersFwd ch (L.canTec ch - 1) (L.canRec ch)
    let f := L.canFrameOf ch b
    let s3 := if fieldOf (L.canCfg ch) 1 2 = 2 then s2.each s2.ups fun l s => s.canReceive l ch f stamp else s2
    .next (s3.canFrameEnd ch)

def execCanArbLost (ch : Fin 8) (s : State) : Out :=
  match s.canOnWire ch with
  | none => .next s
  | some b => .next (((s.canArbLostIn s.act ch b).canForward ch (.arbLost b)).canFrameEnd ch)

/-- An attempt ends in an error (R364-R366): 8 more on TEC, but for an acknowledgement error while error passive. -/
def execCanTxError (ch : Fin 8) (lec : Fin 7) (s : State) : Out :=
  match s.canOnWire ch with
  | none => .next s
  | some b =>
    if lec.val = 0 then .next s
    else
      let act := s.act
      let L := s.lane act
      let s1 := (s.canErrorIn act ch b lec.val).canForward ch (.error b lec.val)
      let hold := lec.val == 3 && L.canState ch == 1
      let s2 := if hold then s1 else s1.canCountersFwd ch (L.canTec ch + 8) (L.canRec ch)
      .next (s2.canFrameEnd ch)

/-- 128 sequences of 11 recessive bits (R366). -/
def execCanBusoffRecovery (ch : Fin 8) (s : State) : Out :=
  let act := s.act
  if !s.canOn || (s.lane act).canState ch ≠ 2 then .next s
  else .next ((s.canCountersFwd ch 0 0).raise act (0xA2 + 4 * ch) ch)

/-- 11 recessive bits: a controller that is off or integrating joins the bus (R353, R367); its error state follows its
counters, which are 0 from the time it was off the bus. -/
def execCanBusIntegrated (ch : Fin 8) (s : State) : Out :=
  if !s.canOn then .next s
  else .next (s.each s.ups fun l s =>
    let L := s.lane l
    if L.canEn ch && L.canState ch == 3 then
      s.upd l fun L => (L.canHeard ch).setFld (aCan ch 0x10) 0 2 (if 127 < L.canTec ch || 127 < L.canRec ch then 1 else 0)
    else s)

/-- A forwarded event takes effect in the other lane (R368). -/
def State.canPeerApply (s : State) (sb : LaneId) (ch : Fin 8) (e : CanFwd) : State :=
  match e with
  | .start b => s.canStartIn sb ch b
  | .success b stamp => s.canSuccessIn sb ch b stamp
  | .arbLost b => s.canArbLostIn sb ch b
  | .error b lec => s.canErrorIn sb ch b lec
  | .state tec rcv st =>
    let was := (s.lane sb).canState ch
    let s1 := s.canCounters sb ch tec rcv
    if was = 2 ∧ st = 0 then s1.raise sb (0xA2 + 4 * ch) ch else s1

/-- The standby applies the oldest forwarded event to its own buffers and counters (R368). -/
def execCanPeerTxEvent (ch : Fin 8) (s : State) : Out :=
  let act := s.act
  let sb := other act
  match (s.lane act).can[ch].fwd with
  | [] => .next s
  | e :: rest =>
    let s1 := s.upd act fun L => L.canUpd ch fun k => { k with fwd := rest }
    .next (if s.isUp sb then s1.canPeerApply sb ch e else s1)

/-! Modes, takeover, load. -/

/-- Entry to a mode (R367). -/
def State.canMode (s : State) (m : Mode) : State :=
  s.each s.ups fun l s => (List.finRange 8).foldl (fun (s : State) (c : Fin 8) =>
    if !(s.lane l).canEn c then s
    else match m with
      | .run => s
      | .single => s
      | .hold => s
      | .stop => quiet l c s
      | .safe => quiet l c s
      | _ => (List.range 64).foldl (fun (s : State) (b : Nat) => if (s.lane l).canTxs c b = 2 then s.upd l (·.setTxs c b 1) else s)
          (s.upd l fun L => ((L.setFld (aCan c 0x10) 0 2 3).setFld (aCan c 0x10) 16 16 0).canUpd c fun k => { k with fwd := [], awaiting := none, reint := false, held := none })) s
where
  /-- PENDING buffers become ABORTED, an ACTIVE one is not retried. -/
  quiet (l : LaneId) (c : Fin 8) (s : State) : State :=
    (List.finRange 64).foldl (fun (s : State) (b : Fin 64) =>
      if (s.lane l).canTxs c b = 1 then s.canEnd l c b 7
      else if (s.lane l).canTxs c b = 2 then s.upd l fun L => L.bufUpd c b fun k => { k with abortAfter := true }
      else s) s

/-- A hitless takeover (R315): what the old active lane has forwarded of attempts reaches the new one, so that no frame is lost or
sent twice. -/
def State.canHandOver (s : State) : State :=
  let sb := other s.act
  (List.finRange 8).foldl (fun (s : State) (c : Fin 8) =>
    let q := (s.lane s.act).can[c].fwd
    let s1 := s.upd s.act fun L => L.canUpd c fun k => { k with fwd := [] }
    if s.isUp sb then q.foldl (fun s e => s.canPeerApply sb c e) s1 else s1) s

/-- A hard takeover (R370): in the new active lane an ACTIVE buffer without an outcome is PENDING again; what the old lane
had not yet passed on is lost. -/
def State.canHardTake (s : State) (newAct : LaneId) : State :=
  let s1 := s.upd (other newAct) fun L => (List.finRange 8).foldl (fun (L : Lane) (c : Fin 8) => L.canUpd c fun k => { k with fwd := [], awaiting := none }) L
  s1.upd newAct fun L => (List.range 8).foldl (fun L c => (List.range 64).foldl (fun L b => if L.canTxs c b = 2 then L.setTxs c b 1 else L) L) L

/-- A commit has changed the word `old` of CAN_CFG, CAN_NBT, CAN_DBT or CAN_LIM (R89, R353). A frame on the bus ends with the
values it began with; a change of the first three makes the controller integrate again, after the frame it sends if it sends
one. Whether a frame is being received shows in its start, when it ends. -/
def Lane.canChanged (L : Lane) (c : Fin 8) (off : Nat) (old tb : Word) : Lane :=
  let sends := (List.range 64).any fun b => L.canTxs c b == 2
  let timing := decide (off < 0xC)
  if (!sends && !timing) || L.canState c = 2 then L
  else
    let h : CanHeld := { cfg := if off = 0 then old else L.get (aCan c 0), lim := if off = 0xC then old else L.get (aCan c 0xC), at_ := tb }
    let L1 := L.canUpd c fun k => { k with held := k.held <|> some h, reint := k.reint || (timing && sends) }
    if sends then L1 else L1.setFld (aCan c 0x10) 0 2 3

/-- Timing of R352, from the words of CAN_CFG, CAN_NBT and CAN_DBT; rates over 80 MHz. -/
def canTimingOk (cfg nbt dbt : Word) : Bool :=
  let n := fieldOf nbt 22 10 + 1
  let t1 := fieldOf nbt 14 8 + 1
  let t2 := fieldOf nbt 7 7 + 1
  let q := 1 + t1 + t2
  let dn := fieldOf dbt 19 5 + 1
  let d1 := fieldOf dbt 14 5 + 1
  let d2 := fieldOf dbt 10 4 + 1
  let dq := 1 + d1 + d2
  2 ≤ t1 && n * q ≤ 8000 && 80 ≤ n * q && q ≤ 2 * (1 + t1) && 10 * (1 + t1) ≤ 9 * q &&
  fieldOf nbt 0 7 + 1 ≤ t2 && fieldOf dbt 6 4 + 1 ≤ d2 &&
  (!bitOf cfg 3 || (dn * dq ≤ n * q && 10 ≤ dn * dq && 5 ≤ dq && (80 ≤ dn * dq || bitOf dbt 31)))

/-- Every CAN_RX and CAN_TX binding names an enabled buffer of its kind (R354), `d` being the CAN drawer; with none, every channel
is disabled (R73). -/
def canBindsOk (ds : List Drawer) : Bool :=
  let d := drOf ds 0x0C
  let bufCfg (c b : Nat) : Nat := if d.isEmpty then 0 else u32At d (32 + 656 * c + 16 + 4 * b)
  let chOn (c : Nat) : Bool := !d.isEmpty && (u8At d (32 + 656 * c)).testBit 0
  allBelow 8 fun t => (bindingsOf (drOf ds 3) t).all fun b =>
    b.kind != 0xA || (chOn (b.idx / 64) && bufCfg (b.idx / 64) (b.idx % 64) % 4 == (if b.out then 3 else 1))

/-- The CAN drawer (R354) with the bindings that name its buffers. -/
def canDrawerOk (ds : List Drawer) : Bool :=
  let d := drOf ds 0x0C
  let bufCfg (c b : Nat) : Nat := if d.isEmpty then 0 else u32At d (32 + 656 * c + 16 + 4 * b)
  (d.isEmpty || (d.length == 5280 && allAt d 0 32 0 && allBelow 8 fun c =>
    let e := slice d (32 + 656 * c) 656
    let w (i : Nat) : Word := BitVec.ofNat 32 (u32At e (4 * i))
    if !(u8At e 0).testBit 0 then e.all (· == 0)
    else
      fieldOf (w 0) 7 25 == 0 && fieldOf (w 0) 1 2 != 3 && fieldOf (w 2) 0 6 == 0 && fieldOf (w 3) 16 16 == 0 && fieldOf (w 3) 4 4 == 0 &&
      canTimingOk (w 0) (w 1) (w 2) && (allBelow 64 fun b => u32At e (16 + 4 * b) < 8) &&
      allBelow 32 fun f =>
        let id : Word := BitVec.ofNat 32 (u32At e (272 + 12 * f))
        let b := u32At e (280 + 12 * f)
        u32At e (276 + 12 * f) < 2 ^ 29 && (bitOf id 29 || fieldOf id 11 18 == 0) &&
        (if fieldOf id 30 2 = 2 then b < 64 && bufCfg c b % 4 == 1 else b == 0))) &&
  canBindsOk ds

/-- Registers of the channels, at load (R354). -/
def Lane.canLoad (L : Lane) : Lane :=
  let d := L.dr 0x0C
  if d.isEmpty then L
  else (List.range 8).foldl (fun L c =>
    let o := 32 + 656 * c
    if !(u8At d o).testBit 0 then L
    else
      let w (i : Nat) : Word := BitVec.ofNat 32 (u32At d (o + 4 * i))
      let L1 := L.putWords (aCan c 0) [w 0, w 1, w 2, w 3]
      let L2 := L1.putWords (aBufCfg c 0) ((List.range 64).map fun b => w (4 + b))
      (List.range 32).foldl (fun L f => L.putWords (aCan c (0x100 + 0x10 * f)) [w (68 + 3 * f), w (69 + 3 * f), w (70 + 3 * f)]) L2) L

/-- Value checks of CAN registers (R352, R355, R367): channel i, index j, the value the write produces. -/
def State.canCheck (s : State) (l : LaneId) (req : Requester) (name : String) (i j : Nat) (v : Word) : Bool :=
  let L := s.lane l
  let view (off : Nat) : Word := L.viewOf req (aCan i off)
  let idle := L.canTxs i j ≠ 1 && L.canTxs i j ≠ 2
  L.canEn i && match name with
  | "CAN_CFG" => fieldOf v 1 2 != 3 && (fieldOf v 1 2 != 2 || s.mode.mode == .stop) && canTimingOk v (view 4) (view 8)
  | "CAN_NBT" => canTimingOk (view 0) v (view 8)
  | "CAN_DBT" => canTimingOk (view 0) (view 4) v
  | "CAN_FLT_ID" => (bitOf v 29 || fieldOf v 11 18 == 0) && (fieldOf v 30 2 != 2 || L.canIsRx i (fieldOf (view (0x108 + 0x10 * j)) 0 6))
  | "CAN_FLT_BUF" => fieldOf (view (0x100 + 0x10 * j)) 30 2 != 2 || L.canIsRx i (fieldOf v 0 6)
  | "CAN_BUF_ID" => L.canIsTx i j && idle && (bitOf v 29 || fieldOf v 11 18 == 0)
  | "CAN_BUF_DATA" => L.canIsTx i j && idle
  | _ => true

/-- The 80 bytes of a buffer as they read. -/
def Lane.canBufBytes (L : Lane) (c b : Nat) : Bytes :=
  ((L.getWords (aBuf c b 0) 20).map fun w => leBytes 4 w.toNat).flatten

/-- A CAN_RX binding at the input latch (R360): the record, with ND and OVR as they stand for this binding. -/
def Lane.canLatch (L : Lane) (sym idx : Nat) : Bytes :=
  let c : Fin 8 := Fin.ofNat 8 (idx / 64)
  let b : Fin 64 := Fin.ofNat 64 idx
  let seen := ((L.can[c].marks.find? fun m => m.1 == sym).map (·.2)).getD 0
  let since := L.can[c].bufs[b].stores - seen
  let r := L.canBufBytes c b
  let ctrl : Word := BitVec.ofNat 32 (u32At r 4)
  splice r 4 (leBytes 4 (withField (withField ctrl 9 1 (bit (decide (1 ≤ since)))) 10 1 (bit (decide (2 ≤ since)))).toNat)
/-- The binding has latched. -/
def Lane.canLatched (L : Lane) (sym idx : Nat) : Lane :=
  let c : Fin 8 := Fin.ofNat 8 (idx / 64)
  let b : Fin 64 := Fin.ofNat 64 idx
  L.canUpd c fun k => { k with marks := (k.marks.filter fun m => m.1 != sym) ++ [(sym, k.bufs[b].stores)] }

/-- Registers of the block that are computed when read: summary, FIFO level and head, ND, REQ; a disabled channel reads 0. -/
def Lane.canView (L : Lane) (a : Nat) : Word :=
  if a = 0x40110000 then
    BitVec.ofNat 32 ((List.range 8).foldl (fun n c =>
      let on := L.canEn c
      n + bit on * 2 ^ c + bit (on && L.canState c == 1) * 2 ^ (8 + c) + bit (on && L.canState c == 2) * 2 ^ (16 + c)) 0)
  else
    let c := (a - 0x40111000) / 0x1C00
    let off := (a - 0x40111000) % 0x1C00
    if h : c < 8 then
      if !L.canEn c then 0
      else if off = 0x1C then BitVec.ofNat 32 L.can[c].fifo.length
      else if off = 0x24 then BitVec.ofNat 32 ((List.range 32).foldl (fun n b => n + bit (L.flag (aBuf c b 4) 9) * 2 ^ b) 0)
      else if off = 0x28 then BitVec.ofNat 32 ((List.range 32).foldl (fun n b => n + bit (L.flag (aBuf c (b + 32) 4) 9) * 2 ^ b) 0)
      else if 0x300 ≤ off ∧ off < 0x350 then BitVec.ofNat 32 (u32At (L.can[c].fifo.headD []) (off - 0x300))
      else if 0x500 ≤ off ∧ (off - 0x500) % 0x50 = 4 then
        let t := L.fld a 28 4
        withField (L.get a) 15 1 (bit (decide (t = 1 ∨ t = 2)))
      else L.get a
    else L.get a

end Sys2Proof.Machine
end

