-- ==== Sys2Proof/Machine/Eth.lean ====
section
/-! DEFINITION. Machine/Eth.lean: field Ethernet and PRP (13: R325-R327). Counters and link state are the link die's; they
stand alike in every lane that runs. A frame is its bytes from the destination MAC on, without the FCS. -/
namespace Sys2Proof.Machine

def aEth (p off : Nat) : Nat := 0x40120100 + 0x40 * p + off

def State.ethUp (s : State) (f : Lane → Lane) : State := s.each s.ups fun l s => s.upd l f
/-- The registers of the link die as the active lane shows them. -/
def State.ethL (s : State) : Lane := s.lane s.act

def Lane.prpOn (L : Lane) : Bool := L.flag 0x40120010 0
/-- FA and FB of a PRP pair share the addresses of FA (R327). -/
def Lane.ethId (L : Lane) (p : Nat) : Nat := if p = 2 ∧ L.prpOn then 1 else p
def Lane.ethMac (L : Lane) (p : Nat) : Bytes :=
  leBytes 4 (L.getN (aEth (L.ethId p) 8)) ++ leBytes 2 (L.getN (aEth (L.ethId p) 0xC))
def Lane.ethIp4 (L : Lane) (p : Nat) : Bytes := leBytes 4 (L.getN (aEth (L.ethId p) 0x10))
def Lane.ethIp6 (L : Lane) (p : Nat) : Bytes := ((L.getWords (aEth (L.ethId p) 0x20) 4).map fun w => leBytes 4 w.toNat).flatten
/-- The link-local address: fe80::/64 with the EUI-64 of the MAC (R325). -/
def eui64 (mac : Bytes) : Bytes :=
  [0xFE, 0x80, 0, 0, 0, 0, 0, 0] ++ [mac.headD 0 ^^^ 2] ++ (mac.drop 1).take 2 ++ [0xFF, 0xFE] ++ mac.drop 3
/-- Own IPv6 addresses of a port. -/
def Lane.ethMine6 (L : Lane) (p : Nat) (a : Bytes) : Bool :=
  a == eui64 (L.ethMac p) || (a == L.ethIp6 p && L.ethIp6 p != zeros 16)
def Lane.ethMine4 (L : Lane) (p : Nat) (a : Bytes) : Bool := a == L.ethIp4 p && L.ethIp4 p != zeros 4

/-- A port that carries traffic: enabled, link up. -/
def Lane.ethLive (L : Lane) (p : Nat) : Bool := L.flag (aEth p 0) 0 && L.flag (aEth p 4) 0

/-! Sending. -/

/-- The ports of one PRP pair (R327). -/
def Lane.prpPort (L : Lane) (p : Nat) : Bool := L.prpOn && (p == 1 || p == 2)
/-- The IEEE 802.1Q tag of a VID; none for untagged frames (R325, R328). -/
def vlanTag (vid : Nat) : Bytes := if vid = 0 then [] else beBytes 2 0x8100 ++ beBytes 2 vid
/-- The VID a port sends under (R325). -/
def Lane.ethVid (L : Lane) (p : Nat) : Nat := if L.flag (aEth p 0) 3 then L.fld (aEth p 0) 16 12 else 0

/-- Put one frame, as it stands, on a port that carries traffic. In FAILSAFE the link die transmits nothing (R314). -/
def State.ethPut (s : State) (p : Nat) (frame : Bytes) : State :=
  if s.red.failsafe || !s.ethL.ethLive p then s
  else
    let s1 := s.ethUp fun L => L.wrapFld (aEth p 0x34) 0 32
    { s1 with link := { s1.link with sent := s1.link.sent ++ [.frame p frame] } }

/-- The same, on a PRP pair with the redundancy control trailer of a payload of `size` bytes (R327). -/
def State.ethEmit (s : State) (p : Nat) (frame : Bytes) (size : Nat) : State :=
  s.ethPut p (if s.ethL.prpPort p then
      frame ++ beBytes 2 s.link.prpSeq.toNat ++ beBytes 2 ((if p = 1 then 0xA000 else 0xB000) + (size + 6) % 4096) ++ beBytes 2 0x88FB
    else frame)

/-- The sequence counter of the pair steps with every frame sent (R327). -/
def State.prpStep (s : State) (p : Nat) : State :=
  if s.ethL.prpPort p then { s with link := { s.link with prpSeq := s.link.prpSeq + 1 } } else s

/-- Send a frame under a VID: on both ports of a PRP pair with one sequence number (R327). -/
def State.ethSendV (s : State) (p vid : Nat) (dst : Bytes) (typ : Nat) (payload : Bytes) : State :=
  let frame := dst ++ s.ethL.ethMac p ++ vlanTag vid ++ beBytes 2 typ ++ payload
  let s1 := if s.ethL.prpPort p then (s.ethEmit 1 frame payload.length).ethEmit 2 frame payload.length
    else s.ethEmit p frame payload.length
  s1.prpStep p
/-- The same under the VID of the port (R325). -/
def State.ethSend (s : State) (p : Nat) (dst : Bytes) (typ : Nat) (payload : Bytes) : State := s.ethSendV p (s.ethL.ethVid p) dst typ payload

/-- The 16-bit ones' complement sum of the Internet protocols. -/
def inetSum : Bytes → Nat
  | [] => 0
  | [a] => a.toNat * 256
  | a :: b :: rest => a.toNat * 256 + b.toNat + inetSum rest
def inetFold : Nat → Nat → Nat
  | 0, v => v
  | n + 1, v => inetFold n (v % 65536 + v / 65536)
def inetCheck (bs : Bytes) : Nat := 65535 - inetFold 4 (inetSum bs)

/-- An IPv4 datagram. -/
def ip4Packet (src dst : Bytes) (proto : Nat) (body : Bytes) : Bytes :=
  let h (c : Nat) : Bytes := [0x45, 0] ++ beBytes 2 (20 + body.length) ++ [0, 0, 0x40, 0, 64, BitVec.ofNat 8 proto] ++ beBytes 2 c ++ src ++ dst
  h (inetCheck (h 0)) ++ body
def ip6Packet (src dst : Bytes) (next : Nat) (body : Bytes) : Bytes :=
  [0x60, 0, 0, 0] ++ beBytes 2 body.length ++ [BitVec.ofNat 8 next, 255] ++ src ++ dst ++ body
/-- An ICMPv6 message with its checksum in bytes 2 and 3. -/
def icmp6 (src dst : Bytes) (m : Bytes) : Bytes :=
  splice m 2 (beBytes 2 (inetCheck (src ++ dst ++ beBytes 4 m.length ++ [0, 0, 0, 58] ++ splice m 2 [0, 0])))

/-- The own address of a port as a source: the global one, else the link-local one (R325). -/
def Lane.ethOwn6 (L : Lane) (p : Nat) : Bytes := if L.ethIp6 p != zeros 16 then L.ethIp6 p else eui64 (L.ethMac p)
def udpPacket (src dst sum : Nat) (msg : Bytes) : Bytes := beBytes 2 src ++ beBytes 2 dst ++ beBytes 2 (8 + msg.length) ++ beBytes 2 sum ++ msg
/-- A UDP datagram over IPv4, without the optional checksum, and over IPv6. -/
def udp4 (own peer : Bytes) (src dst : Nat) (msg : Bytes) : Bytes := ip4Packet own peer 17 (udpPacket src dst 0 msg)
def udp6 (own peer : Bytes) (src dst : Nat) (msg : Bytes) : Bytes :=
  let c := inetCheck (own ++ peer ++ beBytes 4 (8 + msg.length) ++ [0, 0, 0, 17] ++ udpPacket src dst 0 msg)
  ip6Packet own peer 17 (udpPacket src dst (if c = 0 then 65535 else c) msg)

/-! Resolution of the substation table's addresses (R326). An address stands as 16 bytes, IPv4 addresses mapped. -/

def mapped4 (a : Bytes) : Bytes := zeros 10 ++ [0xFF, 0xFF] ++ a
def isMapped4 (a : Bytes) : Bool := a.take 12 == mapped4 []

/-- Ask for the MAC of an address: an ARP request, or a neighbour solicitation. -/
def State.ethAsk (s : State) (p vid : Nat) (addr : Bytes) : State :=
  let L := s.ethL
  if isMapped4 addr then
    s.ethSendV p vid (BitVec.ofNat 8 255 :: List.replicate 5 255) 0x0806
      ([0, 1, 8, 0, 6, 4, 0, 1] ++ L.ethMac p ++ L.ethIp4 p ++ zeros 6 ++ addr.drop 12)
  else
    let group := [0xFF, 2] ++ zeros 9 ++ [1, 0xFF] ++ addr.drop 13
    let me := L.ethOwn6 p
    s.ethSendV p vid ([0x33, 0x33, 0xFF] ++ addr.drop 13) 0x86DD
      (ip6Packet me group 58 (icmp6 me group ([135, 0, 0, 0, 0, 0, 0, 0] ++ addr ++ [1, 1] ++ L.ethMac p)))

/-- The port a telegram leaves on; the PRP pair is named by its first port. -/
def Telegram.first (t : Telegram) : Nat := if t.port = 3 then 1 else t.port

/-- A telegram leaves for a MAC, from the port of the service (R326, R328). -/
def State.telOut (s : State) (t : Telegram) (mac : Bytes) : State :=
  let L := s.ethL
  let p := t.first
  if isMapped4 t.addr then s.ethSendV p t.vid mac 0x0800 (udp4 (L.ethIp4 p) (t.addr.drop 12) 47232 t.udp t.payload)
  else s.ethSendV p t.vid mac 0x86DD (udp6 (L.ethOwn6 p) t.addr 47232 t.udp t.payload)

/-- Send a telegram: at once to a resolved address, else after its resolution. A port that carries no traffic drops it. -/
def State.telSend (s : State) (t : Telegram) : State :=
  let L := s.ethL
  let p := t.first
  if s.red.failsafe || !(L.ethLive p || (L.prpPort p && L.ethLive 2)) then s
  else match s.link.neigh.find? fun n => n.1 == L.ethId p && n.2.1 == t.addr with
    | some n => s.telOut t n.2.2
    | none => ({ s with link := { s.link with waiting := s.link.waiting ++ [t] } }).ethAsk p t.vid t.addr

/-- An address is resolved: kept where it is in use, and the telegrams that wait for it leave. -/
def State.neighLearn (s : State) (p : Nat) (addr mac : Bytes) : State :=
  let id := s.ethL.ethId p
  let mine (t : Telegram) : Bool := s.ethL.ethId t.first == id && t.addr == addr
  let known := s.link.neigh.any fun n => n.1 == id && n.2.1 == addr
  if !known && !s.link.waiting.any mine then s
  else
    let s1 := { s with link := { s.link with neigh := (s.link.neigh.filter fun n => !(n.1 == id && n.2.1 == addr)) ++ [(id, addr, mac)],
                                             waiting := s.link.waiting.filter fun t => !mine t } }
    (s.link.waiting.filter mine).foldl (fun s t => s.telOut t mac) s1

/-! Receiving. -/

/-- A dropped frame is counted (R325, R326). -/
def State.ethDrop (s : State) (p : Nat) : State := s.ethUp fun L => L.wrapFld (aEth p 0x38) 0 32

/-- UDP ports that a port serves (R326, R475): MST and PTP on FA and FB, HC and PTP on H. -/
def udpServed (p dst : Nat) : Bool := dst == 319 || dst == 320 || (if p = 0 then dst == 47231 else dst == 47232)

/-- An IPv4 datagram: echo answered, served UDP dispatched, the rest dropped. -/
def State.ethIp4In (s : State) (p : Nat) (srcMac : Bytes) (d : Bytes) : State :=
  let L := s.ethL
  let src := slice d 12 4
  let dst := slice d 16 4
  let ihl := 4 * (u8At d 0 % 16)
  let body := (d.take (beAt d 2 2)).drop ihl
  let frag := beAt d 6 2 % 0x4000 != 0
  let multi := 224 ≤ u8At dst 0
  if frag || (!L.ethMine4 p dst && !multi) then s.ethDrop p
  else if u8At d 9 = 1 ∧ u8At body 0 = 8 ∧ !multi then
    let m := splice (splice body 0 [0, 0]) 2 [0, 0]
    s.ethSend p srcMac 0x0800 (ip4Packet dst src 1 (splice m 2 (beBytes 2 (inetCheck m))))
  else if u8At d 9 = 17 && udpServed p (beAt body 2 2) then s
  else s.ethDrop p

/-- The link-layer address option `t` (1 source, 2 target) of a neighbour discovery message, 8 bytes an option. -/
def ndOption (t : Nat) (body : Bytes) : Option Bytes :=
  let o := body.drop 24
  ((List.range (o.length / 8)).find? fun i => u8At o (8 * i) == t && u8At o (8 * i + 1) == 1).map fun i => slice o (8 * i + 2) 6
/-- A neighbour solicitation (from `src`) or advertisement feeds the resolution. -/
def State.ndLearn (s : State) (p : Nat) (src body : Bytes) : State :=
  if u8At body 0 = 135 then match ndOption 1 body with
    | some m => s.neighLearn p src m
    | none => s
  else match ndOption 2 body with
    | some m => s.neighLearn p (slice body 8 16) m
    | none => s

/-- An IPv6 datagram: neighbour solicitation and echo answered, served UDP dispatched. -/
def State.ethIp6In (s : State) (p : Nat) (srcMac : Bytes) (d : Bytes) : State :=
  let L := s.ethL
  let src := slice d 8 16
  let dst := slice d 24 16
  let body := (d.drop 40).take (beAt d 4 2)
  let multi := u8At dst 0 == 255
  let next := u8At d 6
  if next = 58 && u8At body 0 == 135 && L.ethMine6 p (slice body 8 16) then
    let me := slice body 8 16
    let anon := src == zeros 16
    let dst2 := if anon then [0xFF, 2] ++ zeros 13 ++ [1] else src
    let na := [136, 0, 0, 0, (if anon then 0x20 else 0x60), 0, 0, 0] ++ me ++ [2, 1] ++ L.ethMac p
    (s.ndLearn p src body).ethSend p (if anon then [0x33, 0x33, 0, 0, 0, 1] else srcMac) 0x86DD (ip6Packet me dst2 58 (icmp6 me dst2 na))
  else if next = 58 && u8At body 0 == 128 && L.ethMine6 p dst then
    s.ethSend p srcMac 0x86DD (ip6Packet dst src 58 (icmp6 dst src (splice body 0 [129])))
  else if next = 58 && (u8At body 0 == 135 || u8At body 0 == 136) then s.ndLearn p src body
  else if next = 17 && udpServed p (beAt body 2 2) && (multi || L.ethMine6 p dst) then s
  else s.ethDrop p

/-- ARP: the sender's address feeds the resolution; a request for the port's own address is answered. -/
def State.ethArpIn (s : State) (p : Nat) (d : Bytes) : State :=
  let L := s.ethL
  let s1 := s.neighLearn p (mapped4 (slice d 14 4)) (slice d 8 6)
  if beAt d 6 2 = 1 ∧ L.ethMine4 p (slice d 24 4) then
    s1.ethSend p (slice d 8 6) 0x0806
      ([0, 1, 8, 0, 6, 4, 0, 2] ++ L.ethMac p ++ L.ethIp4 p ++ slice d 8 6 ++ slice d 14 4)
  else s1

/-- The redundancy control trailer of a frame: sequence number and LAN identifier (R327). -/
def rctOf (f : Bytes) : Option (Nat × Nat) :=
  let n := f.length
  if 20 ≤ n ∧ beAt f (n - 2) 2 = 0x88FB then some (beAt f (n - 6) 2, beAt f (n - 4) 2 / 4096) else none

/-- Note a sequence number of a source; true when it is a duplicate. At most 512 sources are tracked, entries are
forgotten after 400 ms. -/
def State.prpNote (s : State) (mac : Bytes) (seq : Nat) : State × Bool :=
  let seen := s.link.prpSeen.filter fun e => s.tb.run < e.2.2 + msU 400
  let put (l : List (Bytes × Nat × Nat)) : State := { s with link := { s.link with prpSeen := l } }
  if seen.any fun e => e.1 == mac && e.2.1 == seq then (put seen, true)
  else
    let sources := (seen.map (·.1)).eraseDups
    if sources.contains mac || sources.length < 512 then (put (seen ++ [(mac, seq, s.tb.run)]), false) else (put seen, false)

/-- PRP on a received frame: the state, and whether the frame goes on (R327). -/
def State.prpIn (s : State) (p : Nat) (f : Bytes) : State × Bool :=
  match rctOf f with
  | none => (s, true)
  | some (seq, lan) =>
    let own := if p = 1 then 0xA else 0xB
    let s1 := if lan = own then s else s.ethUp fun L => L.incFld 0x40120018 (if p = 1 then 16 else 0) 16
    let (s2, dup) := s1.prpNote (slice f 6 6) seq
    if dup then (s2.ethUp fun L => L.incFld 0x40120014 0 32, false) else (s2, true)

/-- A supervision frame of the peer LAN: the LAN is heard. -/
def State.lanHeard (s : State) (i : Nat) : State :=
  { s with link := { s.link with lanAt := s.link.lanAt.set! i s.tb.run, lanSilent := s.link.lanSilent &&& ~~~ BitVec.ofNat 2 (2 ^ i) } }
/-- A frame for this module, by its type: ARP, IPv4, IPv6, PTP over Ethernet (a row of its own). -/
def State.ethByType (s : State) (p : Nat) (f : Bytes) (o : Nat) : State :=
  let typ := beAt f o 2
  if typ = 0x0806 then s.ethArpIn p (f.drop (o + 2))
  else if typ = 0x0800 then s.ethIp4In p (slice f 6 6) (f.drop (o + 2))
  else if typ = 0x86DD then s.ethIp6In p (slice f 6 6) (f.drop (o + 2))
  else if typ = 0x88F7 then s
  else s.ethDrop p
/-- A PTP message, over Ethernet or UDP, whose type stands at `o` (R382). -/
def ptpMsg (f : Bytes) (o : Nat) : Bool :=
  let typ := beAt f o 2
  let port (q : Nat) : Bool := beAt f q 2 == 319 || beAt f q 2 == 320
  typ == 0x88F7 || (typ == 0x0800 && u8At f (o + 11) == 17 && port (o + 4 + 4 * (u8At f (o + 2) % 16))) ||
    (typ == 0x86DD && u8At f (o + 8) == 17 && port (o + 44))

/-- A frame arrives (R325-R327). A PTP message is never duplicate-discarded (R382). -/
def State.ethIn (s : State) (p : Nat) (f : Bytes) (fcsOk : Bool) : State :=
  let L := s.ethL
  let vlan := L.flag (aEth p 0) 3
  let tagged := beAt f 12 2 == 0x8100
  let prp := L.prpOn && p != 0
  if !fcsOk || 2000 < f.length + 4 || f.length < 14 || vlan != tagged || (vlan && beAt f 14 2 % 4096 != L.fld (aEth p 0) 16 12) then s.ethDrop p
  else
    let s0 := s.ethUp fun L => L.wrapFld (aEth p 0x30) 0 32
    let r := if prp && !ptpMsg f (if tagged then 16 else 12) then s0.prpIn p f else (s0, true)
    if prp && slice f 0 5 == [0x01, 0x15, 0x4E, 0x00, 0x01] then r.1.lanHeard (p - 1)
    else if !r.2 || !(slice f 0 6 == L.ethMac p || (u8At f 0).testBit 0) then r.1
    else r.1.ethByType p f (if tagged then 16 else 12)

/-- The supervision of the pair starts where PRP is enabled (R327): both LANs count as heard. -/
def State.prpStart (s : State) : State :=
  { s with link := { s.link with lanAt := Vector.replicate 2 s.tb.run, lanSilent := 0, lifeAt := s.tb.run } }

def execEthFrameReceived (port : Fin 3) (frame : Bytes) (fcsOk : Bool) (s : State) : Out :=
  if s.ups.isEmpty || s.mode.mode == .retain || s.mode.mode == .reset || !s.ethL.ethLive port then .next s
  else .next (s.ethIn port frame fcsOk)

/-- A port's link goes up or down (R325, R349). -/
def execEthLinkChange (port : Fin 3) (up : Bool) (speed : Fin 4) (s : State) : Out :=
  if s.ups.isEmpty || s.ethL.flag (aEth port 4) 0 == up then .next s
  else .next ((s.ethUp fun L => L.putN (aEth port 4) (if up then speed.val * 2 + 1 else 0)).raiseUp 0xC0 port)

def Lane.prpLife (L : Lane) : Nat := L.fld 0x40120010 16 16

/-- The next supervision frame (R327): every LIFE_MS on both LANs. -/
def execPrpSupervisionSend (s : State) : Out :=
  let L := s.ethL
  if !L.prpOn || s.ups.isEmpty || s.mode.mode == .retain then .next s
  else
    let s1 := s.advRun (s.link.lifeAt + msU L.prpLife)
    let s2 := { s1 with link := { s1.link with lifeAt := s1.tb.run } }
    .next (s2.ethSend 1 [0x01, 0x15, 0x4E, 0x00, 0x01, 0x00] 0x88FB
      ([0x00, 0x01] ++ beBytes 2 s2.link.prpSeq.toNat ++ [20, 6] ++ L.ethMac 1 ++ zeros 34))

/-- A LAN from which no supervision frame has come for 3 × LIFE_MS (R327): reported once per silence. -/
def execPrpLanSilent (lanB : Bool) (s : State) : Out :=
  let i := bit lanB
  let L := s.ethL
  if !L.prpOn || s.ups.isEmpty || s.link.lanSilent.getLsbD i || s.mode.mode == .retain then .next s
  else
    let s1 := s.advRun (s.link.lanAt.getD i 0 + msU (3 * L.prpLife))
    .next (({ s1 with link := { s1.link with lanSilent := s1.link.lanSilent ||| BitVec.ofNat 2 (2 ^ i) } }).raiseUp 0xC1 i)

/-- Value checks of ETH registers. -/
def ethCheck (name : String) (v : Word) : Bool :=
  match name with
  | "ETH_PRP_CFG" => 100 ≤ fieldOf v 16 16 && fieldOf v 16 16 ≤ 10000
  | "ETH_CFG" => fieldOf v 16 12 ≤ 4094 && (!bitOf v 3 || 1 ≤ fieldOf v 16 12)
  | _ => true

end Sys2Proof.Machine
end

