-- ==== Sys2Proof/Machine/Win.lean ====
section
/-! DEFINITION. Machine/Win.lean: the window table (11: R281-R284, R293), faults it records, and ECC errors (R295, R296). -/
namespace Sys2Proof.Machine

def aWin (w off : Nat) : Nat := 0x40051000 + 0x20 * w + off

/-- Fault kinds (R291). -/
def fkNoWindow : Nat := 1
def fkPerm : Nat := 2
def fkBus : Nat := 3
def fkEcc : Nat := 4

def fkAlign : Nat := 5
def fkDesc : Nat := 6

/-- 32-bit accesses to register space by a source (R286, R486): the word read, none where the access ends in a bus error, and
whether a write was carried out. The registers stand above the units that reach them through the window table, so their
accesses come in here; Regs.lean gives them. -/
class RegIO where
  rd : State → Src → Nat → State × Option Word
  wr : State → Src → Nat → Word → State × Bool

/-- Where a piece goes: engine (for the TCMs), address of the lane map, length of the piece. -/
structure Target where
  engine : Nat
  addr : Nat
  region : Region
deriving DecidableEq, Repr

/-- Length of the piece at an address: up to the next 64-byte boundary (R283). -/
def pieceLen (a n : Nat) : Nat := min n (64 - a % 64)

/-- The words of the window table as they stand. -/
def Lane.winRegs (L : Lane) : List (Nat × Word) := L.rf.filter fun p => 0x40051000 ≤ p.1 && p.1 < 0x40053000
/-- The window table that requester `q` goes by where it is not the one that stands: a DMA descriptor and a Bench job in progress
at a commit keep the table they started with (R89). -/
def Lane.heldWins (L : Lane) (q : Nat) : Option (List (Nat × Word)) :=
  if h : q < 16 then L.dma[q].wins else if q = 16 then L.ben.run.bind (·.wins) else none
/-- The lane with such a table in the place of its registers. -/
def Lane.withWins (L : Lane) : Option (List (Nat × Word)) → Lane
  | some w => { L with rf := w }
  | none => L

/-- The lowest-numbered window that is enabled, contains the address and admits the requester (R283). -/
def Lane.winFind (L : Lane) (q a : Nat) : Option Nat :=
  (List.range 256).find? fun w =>
    let base := L.getN (aWin w 0)
    let size := L.fld (aWin w 4) 0 21
    size != 0 && base ≤ a && a < base + 4096 * size && L.flag (aWin w 0x10) q

/-- Look one piece up: a fault kind, or the target. -/
def Lane.winMap (L : Lane) (held : Option (List (Nat × Word))) (q a n : Nat) (write : Bool) : Sum Nat Target :=
  let T := L.withWins held
  match T.winFind q a with
  | none => .inl fkNoWindow
  | some w =>
    let ctl := T.get (aWin w 0xC)
    if !bitOf ctl (bit write) then .inl fkPerm
    else
      let t := T.getN (aWin w 8) + (a - T.getN (aWin w 0))
      let tgt := fieldOf ctl 8 8
      if tgt = 0 then
        let r := regionOf t
        if 2 ^ 32 ≤ t || !inOneRegion t n || r == .unmapped || r == .itcm || r == .dtcm then .inl fkBus
        else if write && (r == .rom || (r == .bench && (inBenchWork t || L.inTracker t))) then .inl fkBus
        else .inr { engine := 0, addr := t, region := r }
      else if tgt < 0x20 then
        if t + n ≤ 0x40000 then .inr { engine := tgt - 0x10, addr := 0x08000000 + t, region := .itcm } else .inl fkBus
      else if t + n ≤ 0x40000 then .inr { engine := tgt - 0x20, addr := 0x08100000 + t, region := .dtcm } else .inl fkBus

/-- An uncorrectable error has met a requester or the scrubber (R295, R296). -/
def State.eccUe (s : State) (l : LaneId) (key addr : Nat) : State :=
  let s1 := s.upd l fun L =>
    let w := key / eccGrain key * eccGrain key
    let L1 := (L.incFld 0x40050010 0 16).putN 0x40050014 addr
    if L1.badWords.contains w then L1 else { L1 with badWords := L1.badWords ++ [w] }
  (s1.raise l 0x39).setHealth l 0

/-- A correctable error: counted; its event at most once per second (R295). -/
def State.eccCe (s : State) (l : LaneId) : State :=
  let s1 := s.upd l (·.incFld 0x40050010 16 16)
  let due := match (s.lane l).eccCeAt with
    | none => true
    | some t => decide (t + sU 1 ≤ s.tb.run)
  if due then (s1.upd l fun L => { L with eccCeAt := some s.tb.run }).raise l 0x38 else s1

/-- The source of register accesses through the window table (R281). -/
def winSrc (l : LaneId) (q : Nat) : Src :=
  { lane := l, req := if h : q < 16 then .dma ⟨q, h⟩ else .unit (Fin.ofNat 32 q) }

/-- `n` words of register space, ascending: what was read, and whether one was refused. -/
def regWordsRd [RegIO] (src : Src) : Nat → State → Nat → Bytes → State × Bytes × Option Nat
  | 0, s, _, acc => (s, acc, none)
  | n + 1, s, a, acc => match RegIO.rd s src a with
    | (s1, none) => (s1, acc, some fkBus)
    | (s1, some w) => regWordsRd src n s1 (a + 4) (acc ++ leBytes 4 w.toNat)
/-- Words written to register space, ascending: how many bytes were, and whether one was refused. -/
def regWordsWr [RegIO] (src : Src) : Nat → State → Nat → Bytes → Nat → State × Nat × Option Nat
  | 0, s, _, _, done => (s, done, none)
  | n + 1, s, a, bs, done => match RegIO.wr s src a (BitVec.ofNat 32 (u32At bs 0)) with
    | (s1, false) => (s1, done, some fkBus)
    | (s1, true) => regWordsWr src n s1 (a + 4) (bs.drop 4) (done + 4)

def Region.isRegs (r : Region) : Bool := r == .reg || r == .aliasSet || r == .aliasClr || r == .aliasTgl || r == .fr

/-- One piece read behind a target: the bytes, and the kind of a fault. A fault in memory gives no bytes: a piece in the range of
an open group, or on a word with an uncorrectable error, which is recorded (R295). A piece of register space is read word by
word (R286): the words before a refused one are read. -/
def State.tgtRead [RegIO] (s : State) (l : LaneId) (q : Nat) (g : Target) (n : Nat) : State × Bytes × Option Nat :=
  if g.region.isRegs then
    (if g.addr % 4 ≠ 0 ∨ n % 4 ≠ 0 then (s, [], some fkAlign) else regWordsRd (winSrc l q) (n / 4) s g.addr [])
  else if !g.region.isMem then (s, [], some fkBus)
  else if g.region == .chest && (s.lane l).grpTouch (chestOff g.addr) n then (s, [], some fkBus)
  else if g.region == .chest || g.region == .rom then (s, s.rdMem l g.engine g.addr n, none)
  else
    let k := memKey g.engine g.addr
    match (s.lane l).badWords.find? fun w => decide (w < k + n ∧ k < w + eccGrain w) with
    | some w => (s.eccUe l w (g.addr + w - k), [], some fkEcc)
    | none => (s, s.rdMem l g.engine g.addr n, none)
/-- One piece written behind a target: how many bytes are, and the kind of a fault. A word with an uncorrectable error that the
piece covers in part is met by it, and none of the piece is written (R295; log 56). -/
def State.tgtWrite [RegIO] (s : State) (l : LaneId) (q : Nat) (g : Target) (bs : Bytes) : State × Nat × Option Nat :=
  if g.region.isRegs then
    (if g.addr % 4 ≠ 0 ∨ bs.length % 4 ≠ 0 then (s, 0, some fkAlign) else regWordsWr (winSrc l q) (bs.length / 4) s g.addr bs 0)
  else if g.region == .chest then
    if (s.lane l).grpTouch (chestOff g.addr) bs.length then (s, 0, some fkBus)
    else
      let (s1, done) := s.chestPlain l (chestOff g.addr) bs
      if done then (s1, bs.length, none) else (s1, 0, some fkBus)
  else if !g.region.isMem then (s, 0, some fkBus)
  else
    let k := memKey g.engine g.addr
    match (s.lane l).badWords.find? fun w => decide (w < k + bs.length ∧ k < w + eccGrain w ∧ ¬(k ≤ w ∧ w + eccGrain w ≤ k + bs.length)) with
    | some w => (s.eccUe l w (g.addr + w - k), 0, some fkEcc)
    | none => (s.upd l (·.wrMem g.engine g.addr bs), bs.length, none)

/-- Read for a requester, piece by piece: the bytes up to the fault, with its kind and the address where it met. -/
def State.winReadGo [RegIO] (s : State) (l : LaneId) (held : Option (List (Nat × Word))) (q : Nat) : Nat → Nat → Nat → Bytes → State × Bytes × Option (Nat × Nat)
  | 0, _, _, acc => (s, acc, none)
  | fuel + 1, a, n, acc =>
    if n = 0 then (s, acc, none)
    else
      let k := pieceLen a n
      match (s.lane l).winMap held q a k false with
      | .inl f => (s, acc, some (f, a))
      | .inr g =>
        let r := s.tgtRead l q g k
        match r.2.2 with
        | some f => (r.1, acc ++ r.2.1, some (f, a + r.2.1.length))
        | none => r.1.winReadGo l held q fuel (a + k) (n - k) (acc ++ r.2.1)
/-- The bytes, or the fault. -/
def State.winRead [RegIO] (s : State) (l : LaneId) (q a n : Nat) : State × Sum (Nat × Nat) Bytes :=
  let r := s.winReadGo l ((s.lane l).heldWins q) q (n + 1) a n []
  (r.1, match r.2.2 with
    | some f => .inl f
    | none => .inr r.2.1)

/-- Write for a requester, piece by piece: the state, and the fault kind and the address where it stopped. -/
def State.winWriteGo [RegIO] (s : State) (l : LaneId) (held : Option (List (Nat × Word))) (q : Nat) : Nat → Nat → Bytes → State × Option (Nat × Nat)
  | 0, _, _ => (s, none)
  | fuel + 1, a, bs =>
    if bs.isEmpty then (s, none)
    else
      let k := pieceLen a bs.length
      match (s.lane l).winMap held q a k true with
      | .inl f => (s, some (f, a))
      | .inr g =>
        let r := s.tgtWrite l q g (bs.take k)
        match r.2.2 with
        | some f => (r.1, some (f, a + r.2.1))
        | none => r.1.winWriteGo l held q fuel (a + k) (bs.drop k)
def State.winWrite [RegIO] (s : State) (l : LaneId) (q a : Nat) (bs : Bytes) : State × Option (Nat × Nat) :=
  s.winWriteGo l ((s.lane l).heldWins q) q (bs.length + 1) a bs

/-- A fault is recorded in the WIN fault registers (R291, R293, R299). -/
def State.winFault (s : State) (l : LaneId) (q kind addr : Nat) : State :=
  (s.upd l fun L =>
    let ovf := L.flag 0x40050000 0 || L.flag 0x40050000 8
    let L1 := L.putN 0x40050000 (q * 2 ^ 24 + kind * 2 ^ 16 + bit ovf * 2 ^ 8 + 1)
    (L1.putN 0x40050004 addr).incFld 0x40050008 0 32).raise l 0x37 q

/-- A fault of a requester (R293); what an uncorrectable error adds is done where it is met. -/
def State.winHit (s : State) (l : LaneId) (q : Nat) (f : Nat × Nat) : State := s.winFault l q f.1 f.2

/-- Memories the scrubber walks (R296). -/
def scrubbed (r : Region) : Bool := r == .itcm || r == .dtcm || r == .sram || r == .bench || r == .dram

/-- A scrub read of one word or block (R296); `engine` names the TCM. -/
def execScrubRead (lane : LaneId) (engine : Fin 16) (addr : Word) (ecc : EccResult) (s : State) : Out :=
  if !s.isUp lane || !scrubbed (regionOf addr.toNat) then .next s
  else match ecc with
    | .clean => .next s
    | .correctable => .next (s.eccCe lane)
    | .uncorrectable => .next (s.eccUe lane (memKey engine addr.toNat) addr.toNat)

/-- Value checks of WIN registers (11, R529). -/
def Lane.winCheck (L : Lane) (req : Requester) (name : String) (w : Nat) (v : Word) : Bool :=
  match name with
  | "WIN_CTL" =>
    let t := fieldOf v 8 8
    t == 0 || (0x10 ≤ t && t ≤ 0x2F)
  | "WIN_SIZE" => fieldOf v 0 21 ≤ 1048576 && (L.viewOf req (aWin w 0)).toNat + 4096 * fieldOf v 0 21 ≤ 2 ^ 32
  | "WIN_WBASE" => v.toNat + 4096 * fieldOf (L.viewOf req (aWin w 4)) 0 21 ≤ 2 ^ 32
  | _ => true

end Sys2Proof.Machine
end

