-- ==== Sys2Proof/Machine/Mst.lean ====
section
/-! DEFINITION. Machine/Mst.lean: substation telegrams (13: R328-R349): reception, values, setpoints. -/
namespace Sys2Proof.Machine

/-! The MST drawer (R328). -/

def Lane.mstN (L : Lane) : Nat := if (L.dr 0x0D).isEmpty then 0 else u16At (L.dr 0x0D) 0
def Lane.mstE (L : Lane) (i : Nat) : Bytes := slice (L.dr 0x0D) (32 + 32 * i) 32
def Lane.mstEn (L : Lane) (i : Nat) : Bool := i < L.mstN && (u8At (L.mstE i) 0).testBit 0
def Lane.mstV1 (L : Lane) (i : Nat) : Bool := (u8At (L.mstE i) 0).testBit 1
/-- PORT of an entry: 0 FA, 1 FB, 2 the PRP pair. -/
def Lane.mstPort (L : Lane) (i : Nat) : Nat := u8At (L.mstE i) 0 / 8 % 4

def aSub (i : Nat) : Nat := 0x40141000 + 4 * i
def Lane.subEpoch (L : Lane) (i : Nat) : Nat := L.fld (aSub i) 16 16
def Lane.subUpd (L : Lane) (i : Fin 4096) (f : Sub → Sub) : Lane :=
  { L with mst := { L.mst with subs := L.mst.subs.set i (f L.mst.subs[i]) } }

/-- Counters: register, low bit of the half. -/
def ctrAuth : Nat × Nat := (0x40140028, 16)
def ctrReplay : Nat × Nat := (0x40140028, 0)
def ctrFormat : Nat × Nat := (0x4014002C, 16)
def ctrUnknown : Nat × Nat := (0x4014002C, 0)
def ctrOverload : Nat × Nat := (0x40140030, 16)
def ctrBadRec : Nat × Nat := (0x40140030, 0)
def Lane.mstCount (L : Lane) (c : Nat × Nat) : Lane := L.incFld c.1 c.2 16

/-- Time in which one token comes in (R335): 4,096 per second. -/
def tokenU : Nat := sU 1 / 4096

/-- The telegram functions of a lane: disabled without an MST drawer (R328). -/
def Lane.mstOn (L : Lane) : Bool := !(L.dr 0x0D).isEmpty
/-- Receiving goes on in every mode from STOP onwards (R42). -/
def State.mstReceives (s : State) : Bool := s.mode.mode == .stop || s.mode.mode == .safe || s.running

/-- The link die stamps a datagram that the duplicate discard let through and admits it (R335); on H it is dropped (R326).
A lane keeps at most 16,384. -/
def execMstDatagramReceived (port : Fin 3) (vid : Nat) (source payload : Bytes) (s : State) : Out :=
  if s.ups.isEmpty || !s.mstReceives || !s.ethL.mstOn then .next s
  else if port.val = 0 then .next (s.ethDrop 0)
  else
    let level := min (16384 * tokenU) (s.link.tokens + (s.tb.run - s.link.tokenAt))
    if level < tokenU then
      let s1 := s.each s.ups fun l s => s.upd l (·.mstCount ctrOverload)
      let due := match s.link.overEvAt with
        | none => true
        | some t => decide (t + sU 1 ≤ s.tb.run)
      let s2 := { s1 with link := { s1.link with tokens := level, tokenAt := s.tb.run } }
      .next (if due then ({ s2 with link := { s2.link with overEvAt := some s.tb.run } }).raiseUp 0xD5 else s2)
    else
      let r : MstRx := { no := s.link.admitted, at_ := s.tb.run, stamp := s.tbW, port := port.val, vid := vid, source := source, payload := payload }
      let s1 := { s with link := { s.link with tokens := level - tokenU, tokenAt := s.tb.run, admitted := s.link.admitted + 1 } }
      .next (s1.each s1.ups fun l s => s.upd l fun L => { L with mst := { L.mst with queue := (L.mst.queue ++ [r]).take 16384 } })

/-! Telegram processing (R330-R343). -/

/-- CRC-16 of version 1: polynomial 0x1021, initial value 0xFFFF (R334). -/
def crc16Bits : Nat → BitVec 16 → BitVec 16
  | 0, c => c
  | n + 1, c => crc16Bits n (if c.getLsbD 15 then (c <<< 1) ^^^ 0x1021 else c <<< 1)
def crc16 (bs : Bytes) : Nat := (bs.foldl (fun c b => crc16Bits 8 (c ^^^ (BitVec.zeroExtend 16 b <<< (8 : Nat)))) (0xFFFF : BitVec 16)).toNat

/-- The tag of a version 2 telegram under an epoch (R332); none where the slot does not deliver. -/
def Lane.mstTag (L : Lane) (i epoch : Nat) (body : Bytes) : Option Nat :=
  (L.imgKey 1 (u8At (L.dr 0x0D) 2)).map fun k =>
    Config.kmac256 (BitVec.ofNat 256 (Config.kmac256 k (leBytes 2 i ++ leBytes 2 epoch) 256 "EMKOLE-MST-KEY")) body 128 "EMKOLE-MST-TAG" % 2 ^ 128

/-- Records of a telegram: (TYPE, value bytes), when they fill the bytes exactly (R331). -/
def mstRecords : Nat → Bytes → Option (List (Nat × Bytes))
  | 0, bs => if bs.isEmpty then some [] else none
  | n + 1, bs =>
    if bs.length < 2 then none
    else
      let len := u8At bs 1
      if bs.length < 2 + len then none
      else (mstRecords n (bs.drop (2 + len))).map fun rest => (u8At bs 0, (bs.drop 2).take len) :: rest

/-- A record the lane applies: 0 applied, 1 skipped and counted, 2 skipped without a count (R331). -/
def recClass (r : Nat × Bytes) : Nat :=
  let n := r.2.length
  let fin := isFinite32 (f32At r.2 0)
  let ok := match r.1 with
    | 1 => n == 16 && u64At r.2 8 != 0
    | 2 => n == 16 && u64At r.2 8 != 0
    | 3 => n == 4 && fin
    | 4 => n == 4 && fin
    | 5 => n == 4 && fin
    | 6 => n == 4 && fin && fle32 0 (f32At r.2 0) && fle32 (f32At r.2 0) (f32Rat 1 1)
    | 7 => n == 4 && fin
    | 8 => n == 8 && u8At r.2 4 ≤ 2 && allAt r.2 5 3 0
    | 9 => n == 4
    | _ => false
  if ok then 0 else if (1 ≤ r.1 && r.1 ≤ 9) || (0x20 ≤ r.1 && r.1 ≤ 0x23) then 1 else 2

/-- A new reading of a meter (R343): the new base, the new extended count, and whether it is a meter reset. -/
def meterStep (base : Option (Nat × Nat)) (ext reading modulus : Nat) : (Nat × Nat) × Nat × Bool :=
  match base with
  | none => ((reading, modulus), ext, false)
  | some (last, m) =>
    let delta := unsignedMod ((reading : Int) - last) modulus
    if m ≠ modulus ∨ modulus < 2 * delta then ((reading, modulus), ext, true)
    else ((reading, modulus), (ext + delta) % 2 ^ 64, false)
where
  /-- The residue of an integer. -/
  unsignedMod (v : Int) (m : Nat) : Nat := (v % m).toNat

/-- Set the stamp of a field. -/
def SubVals.stamp (v : SubVals) (f : Nat) (w : Word) : SubVals := { v with stamps := v.stamps.set! f (some w) }

/-- An ACK acknowledges every telegram with a number at or before its own (R346); the GEN of the last of them is the last
one acknowledged (R345). -/
def Sub.acked (u : Sub) (q : Word) : Sub :=
  let old (t : TxOut) : Bool := 0 ≤ diff32 q.toNat t.seq.toNat
  { u with pendAck := u.pendAck.filter fun t => !old t, genAcked := ((u.pendAck.filter old).filterMap (·.gen)).getLast? <|> u.genAcked }
/-- A setpoint telegram awaits acknowledgement: ACK_PENDING. -/
def Sub.waits (u : Sub) : Bool := u.pendAck.any fun t => t.wait != .over
/-- A retry is due, with the number it has (R346). -/
def Sub.retryDue (u : Sub) : Option Nat := ((u.pendAck.filter fun t => t.wait == .due).map fun t => t.retry + 1).max?

/-- Apply one record in a lane (R331, R342, R343, R346). -/
def State.mstApply (s : State) (l : LaneId) (i : Fin 4096) (rx : MstRx) (r : Nat × Bytes) : State :=
  let stamp := rx.stamp
  let upd (f : SubVals → SubVals) : State := s.upd l fun L => L.subUpd i fun u => { u with cur := f u.cur }
  let x := f32At r.2 0
  match r.1 with
  | 1 => meter true
  | 2 => meter false
  | 3 => upd fun v => { v with flow := x }.stamp 2 stamp
  | 4 => upd fun v => { v with tSup := x }.stamp 3 stamp
  | 5 => upd fun v => { v with tRet := x, retAt := rx.at_ }.stamp 4 stamp
  | 6 => upd fun v => { v with valve := x }.stamp 5 stamp
  | 7 => upd fun v => { v with dp := x }.stamp 6 stamp
  | 9 => upd fun v => { v with alarm := BitVec.ofNat 32 (u32At r.2 0) }.stamp 7 stamp
  | _ =>
    let q : Word := BitVec.ofNat 32 (u32At r.2 0)
    s.upd l fun L =>
      let L1 := L.subUpd i fun u => { u.acked q with cur := { u.cur with ackSeq := q }.stamp 8 stamp }
      (L1.setFlag (aSub i) 4 L1.mst.subs[i].waits).setFlag (aSub i) 5 (u8At r.2 4 != 0)
where
  /-- HEAT or VOLUME. -/
  meter (heat : Bool) : State :=
    let stamp := rx.stamp
    let u := (s.lane l).mst.subs[i]
    let (b, ext, reset) := meterStep (if heat then u.heatBase else u.volBase) (if heat then u.cur.heat else u.cur.volume) (u64At r.2 0) (u64At r.2 8)
    let s1 := s.upd l fun L =>
      let L1 := L.subUpd i fun u =>
        if heat then { u with heatBase := some b, cur := { u.cur with heat := ext }.stamp 0 stamp }
        else { u with volBase := some b, cur := { u.cur with volume := ext }.stamp 1 stamp }
      if reset then (L1.setFlag (aSub i) (if heat then 1 else 2) true).incFld 0x40140034 (if heat then 16 else 0) 16 else L1
    if reset then s1.raise l 0xD3 i else s1

/-- A version 1 payload as records (R334): readings in Wh and litres, values in the units of R342. -/
def v1Records (p : Bytes) : List (Nat × Bytes) :=
  let f (v : Int) (d : Nat) : Bytes := leBytes 4 (f32Rat v d).toNat
  [(1, leBytes 8 (u32At p 4 * 100) ++ leBytes 8 (2 ^ 32 * 100)), (2, leBytes 8 (u32At p 8 * 10) ++ leBytes 8 (2 ^ 32 * 10)),
   (3, f (i32At p 0xC) 1000000), (4, f (i16At p 0x10) 100), (5, f (i16At p 0x12) 100), (6, f (u16At p 0x14) 1000),
   (7, f (u16At p 0x16) 10), (9, slice p 0x18 4)]

/-- The replay window (R338): none where the telegram is dropped, else the new HIGH and window. `width` is the width of the
sequence number. -/
def replayStep (started : Bool) (high : Word) (window : DWord) (seq width : Nat) : Option (Word × DWord) :=
  if !started then some (BitVec.ofNat 32 seq, 1)
  else
    let d := signed width (seq + 2 ^ width - high.toNat % 2 ^ width)
    if 0 < d then some (BitVec.ofNat 32 seq, (window <<< d.toNat) ||| 1)
    else if d ≤ -64 then none
    else
      let k := (-d).toNat
      if window.getLsbD k then none else some (high, window ||| (1 <<< k))

/-- The result of the eight checks (R337): a counter with the substation to be reported, or what is accepted. -/
inductive MstVerdict where
  | drop (counter : Nat × Nat) (reject : Option Nat)
  | accept (sub : Nat) (newEpoch : Bool) (high : Word) (window : DWord) (tsSec : Nat) (recs : List (Nat × Bytes))
deriving DecidableEq, Repr

def Lane.mstCheck (L : Lane) (r : MstRx) : MstVerdict :=
  let p := r.payload
  let v2 := u16At p 0 == 0x534D && u8At p 2 == 2 && 3 ≤ p.length
  let i := if v2 then u16At p 4 else u16At p 0
  let e := L.mstE i
  let arrival := match L.mstPort i with
    | 0 => r.port == 1
    | 1 => r.port == 2
    | _ => r.port == 1 || r.port == 2
  let known := L.mstEn i && L.mstV1 i == !v2
  let here := arrival && r.vid == u16At e 2 && (!(u8At e 0).testBit 2 || r.source == slice e 16 16)
  if !v2 && p.length != 64 then .drop ctrFormat none
  else if v2 && (p.length != 40 + u16At p 0x16 || 1472 < p.length || 64 < u16At p 0x14 || u8At p 3 != 0) then .drop ctrFormat none
  else if !v2 && crc16 (p.take 0x3E) != u16At p 0x3E then .drop ctrFormat none
  else if !known || !here || 4096 ≤ i then .drop ctrUnknown none
  else
    let u := L.mst.subs.getD i Sub.init
    let ep := L.subEpoch i
    if v2 then
      let te := u16At p 6
      let next := te == (ep + 1) % 65536
      let body := p.take (p.length - 16)
      if te ≠ ep ∧ !next then .drop ctrAuth (some i)
      else if L.mstTag i te body ≠ some (leVal (p.drop (p.length - 16))) then .drop ctrAuth (some i)
      else match mstRecords (u16At p 0x14) ((p.drop 24).take (u16At p 0x16)) with
        | none => .drop ctrFormat none
        | some recs => match replayStep (u.started && !next) u.high u.window (u32At p 8) 32 with
          | none => .drop ctrReplay (some i)
          | some (h, w) => .accept i next h w (u32At p 0x10) recs
    else match replayStep u.started u.high u.window (u16At p 2) 16 with
      | none => .drop ctrReplay (some i)
      | some (h, w) => .accept i false h w 0 (v1Records p)

/-- Of records of one type the later applies (R331). -/
def lastOfType : List (Nat × Bytes) → List (Nat × Bytes)
  | [] => []
  | r :: t => if t.any fun q => q.1 == r.1 then lastOfType t else r :: lastOfType t

/-- The entry of the state array (R348). -/
def Lane.mstEntry (L : Lane) (i : Fin 4096) : Bytes :=
  let u := L.mst.subs[i]
  leBytes 4 u.high.toNat ++ leBytes 4 u.rxStamp.toNat ++ leBytes 8 u.cur.heat ++ leBytes 8 u.cur.volume ++
  leBytes 4 u.cur.flow.toNat ++ leBytes 4 u.cur.tSup.toNat ++ leBytes 4 u.cur.tRet.toNat ++ leBytes 4 u.cur.valve.toNat ++
  leBytes 4 u.cur.dp.toNat ++ leBytes 4 u.cur.alarm.toNat ++ leBytes 4 u.cur.ackSeq.toNat ++ leBytes 4 u.lastTx.toNat ++
  leBytes 4 (L.fld (aSub i) 0 16) ++ leBytes 4 u.tsSec.toNat

/-- Write the entry of a substation through the window table; a fault stops further entries (R348). -/
def State.mstStore [RegIO] (s : State) (l : LaneId) (i : Fin 4096) : State :=
  let L := s.lane l
  let base := L.getN 0x40140010
  if base = 0 ∨ L.flag 0x40140000 0 then s
  else match s.winWrite l 19 (base + 64 * i.val) (L.mstEntry i) with
    | (s1, none) => s1
    | (s1, some (f, a)) => ((s1.winFault l 19 f a).upd l (·.setFlag 0x40140000 0 true)).raise l 0xD6 i

/-- A drop of the checks (R337): EV_MST_REJECT at most once per second for each substation. -/
def State.mstReject (s : State) (l : LaneId) (i : Fin 4096) : State :=
  match (s.lane l).mst.subs[i].rejectAt with
  | none => go
  | some t => if t + sU 1 ≤ s.tb.run then go else s
where
  /-- Report it. -/
  go : State := (s.upd l fun L => L.subUpd i fun u => { u with rejectAt := some s.tb.run }).raise l 0xD0 i

/-- An accepted telegram changes its substation (R338-R343). -/
def State.mstAccept [RegIO] (s : State) (l : LaneId) (r : MstRx) (i : Fin 4096) (newEpoch : Bool) (high : Word) (window : DWord)
    (tsSec : Nat) (recs : List (Nat × Bytes)) : State :=
  let bad := recs.countP fun q => recClass q == 1
  let s1 := s.upd l fun L =>
    let L0 := if newEpoch then L.setFld (aSub i) 16 16 (L.subEpoch i + 1) else L
    let L1 := L0.subUpd i fun u => { u with high := high, window := window, started := true, lastAt := s.tb.run,
                                            tsSec := BitVec.ofNat 32 tsSec, rxStamp := r.stamp }
    let L2 := (L1.wrapFld 0x40140020 0 32).setFld ctrBadRec.1 ctrBadRec.2 16 (satAdd 16 (L1.fld ctrBadRec.1 ctrBadRec.2 16) bad)
    if bad = 0 then L2 else L2.setFlag (aSub i) 3 true
  let s2 := if (s1.lane l).flag (aSub i) 0 then s1
    else (s1.upd l fun L => (L.setFlag (aSub i) 0 true).setFld 0x40140000 16 13 (L.fld 0x40140000 16 13 + 1)).raise l 0xD1 i
  let s3 := (lastOfType (recs.filter fun q => recClass q == 0)).foldl (fun s q => s.mstApply l i r q) s2
  let s4 := s3.upd l fun L => { L with mst := { L.mst with pendVis := L.mst.pendVis ++
    [{ no := r.no, sub := i.val, vals := L.mst.subs[i].cur, at_ := s.tb.run }] } }
  s4.mstStore l i

/-- A lane takes the next telegram of its queue (R337). -/
def rowMstTelegramProcess [RegIO] (lane : LaneId) (s : State) : Out :=
  if !s.mstReceives then .next s
  else match (s.lane lane).mst.queue with
  | [] => .next s
  | r :: rest =>
    let s1 := s.upd lane fun L => { L with mst := { L.mst with queue := rest } }
    .next (match (s.lane lane).mstCheck r with
      | .drop c rej =>
        let s2 := s1.upd lane (·.mstCount c)
        match rej with
        | some i => s2.mstReject lane (Fin.ofNat 4096 i)
        | none => s2
      | .accept i ne h w ts recs => s1.mstAccept lane r (Fin.ofNat 4096 i) ne h w ts recs)

/-- Entries that both lanes have processed, with the elapsed instant of the later (R340). -/
def State.visReady (s : State) : List (Nat × Nat) :=
  let a := (s.lane s.act).mst.pendVis
  let b := (s.lane (other s.act)).mst.pendVis
  a.filterMap fun e =>
    if s.bothUp then (b.find? fun f => f.no == e.no).map fun f => (e.no, max e.at_ f.at_)
    else some (e.no, e.at_)

/-- The tick at which a change becomes visible: the first at least 250 us after, on the count (R340). -/
def State.visDue (s : State) (at_ : Nat) : Nat := tick250 (s.tb.count - (s.tb.run - at_) + usU 250)

/-- The changes of the telegrams `go` become visible (R340). -/
def Lane.visApply (L : Lane) (go : List Nat) : Lane :=
  let L1 := (L.mst.pendVis.filter fun e => go.contains e.no).foldl (fun (L : Lane) e => L.subUpd (Fin.ofNat 4096 e.sub) fun u => { u with vis := e.vals }) L
  { L1 with mst := { L1.mst with pendVis := L1.mst.pendVis.filter fun e => !go.contains e.no } }

/-- The next tick at which changes become visible (R340). -/
def execMstValuesVisible (s : State) : Out :=
  let ready := s.visReady
  match (ready.map fun p => s.visDue p.2).min? with
  | none => .next s
  | some d =>
    let s1 := s.advTo d
    let go := (ready.filter fun p => s.visDue p.2 ≤ s1.tb.count).map (·.1)
    .next (s1.each s1.ups fun l s => s.upd l fun L => L.visApply go)

/-- SUB_TO seconds without an accepted telegram (R341). -/
def execMstSubTimeout (sub : Fin 4096) (s : State) : Out :=
  let A := s.lane s.act
  let limit := A.fld 0x40140004 0 16
  if !A.flag (aSub sub) 0 || limit = 0 then .next s
  else
    let s1 := s.advRun (A.mst.subs[sub].lastAt + sU limit)
    .next (s1.each s1.ups fun l s =>
      if (s.lane l).flag (aSub sub) 0 then
        (s.upd l fun L => (L.setFlag (aSub sub) 0 false).setFld 0x40140000 16 13 (L.fld 0x40140000 16 13 - 1)).raise l 0xD2 sub
      else s)

/-! Setpoints (R344-R347). -/

/-- The schedule slot of a substation (R345): GEN and its entries, when it holds any. -/
def State.mstSched (s : State) (l : LaneId) (i : Nat) : Option (Word × Bytes) :=
  let L := s.lane l
  let base := L.getN 0x40140014
  if base = 0 ∨ L.mstV1 i then none
  else
    let h := s.rdMem l 0 (base + 256 * i) 8
    let k := u8At h 4
    if k = 0 ∨ 20 < k then none else some (BitVec.ofNat 32 (u32At h 0), s.rdMem l 0 (base + 256 * i + 8) (12 * k))

/-- What would be sent for a setpoint: its value, or the last one sent where it is not finite (R345). -/
def Sub.setWord (u : Sub) (k : Nat) : Option F32 :=
  match u.set.getD k none with
  | none => none
  | some v => if isFinite64 v && isFinite32 (f64to32 v) then some (f64to32 v) else u.lastSent.getD k none
def Sub.setBad (u : Sub) (k : Nat) : Bool :=
  match u.set.getD k none with
  | some v => !(isFinite64 v && isFinite32 (f64to32 v))
  | none => false

/-- A substation is due for a setpoint telegram (R344). -/
def State.mstDue (s : State) (l : LaneId) (i : Fin 4096) : Bool :=
  let L := s.lane l
  let u := L.mst.subs[i]
  let since (n : Nat) : Bool := match u.sentAt with
    | none => true
    | some t => decide (t + n ≤ s.tb.run)
  let changed := (List.range 3).any (fun k => (u.setWord k).isSome && u.setWord k != u.lastSent.getD k none) ||
    (match s.mstSched l i with
      | some (g, _) => u.genSent != some g
      | none => false)
  let refresh := u16At (L.mstE i) 6
  L.mstEn i && (u.sendReq || (s.running &&
    ((changed && since (msU (L.fld 0x40140008 16 16))) ||
     (refresh != 0 && u.sentAt.isSome && since (sU refresh)) || u.retryDue.isSome)))

/-- A value in the units of version 1: nearest, ties to even, held to the range of its field. -/
def v1Field (v : Option F32) (scale lo hi : Int) (n : Nat) : Bytes :=
  match v with
  | none => leBytes n 0
  | some x => leBytes n (unsignedOf (8 * n) (max lo (min hi (fRound (fmul (f32to64 x) (fOfInt scale))))))

/-- The payload of a setpoint telegram (R330, R334, R345); none where the key slot does not deliver. -/
def State.mstPayload (s : State) (l : LaneId) (i : Fin 4096) (gen : Option (Word × Bytes)) : Option Bytes :=
  let L := s.lane l
  let u := L.mst.subs[i]
  if L.mstV1 i then
    let b := leBytes 2 i ++ leBytes 2 u.txSeq.toNat ++ v1Field (u.setWord 0) 100 (-32768) 32767 2 ++ v1Field (u.setWord 1) 10 0 65535 2 ++
      v1Field (u.setWord 2) 1000 0 65535 2 ++ zeros 52
    some (b ++ leBytes 2 (crc16 b))
  else
    let recs := ((List.range 3).filterMap fun k => (u.setWord k).map fun w => [BitVec.ofNat 8 (0x20 + k), 4] ++ leBytes 4 w.toNat) ++
      (match gen with
        | some (g, es) => [[0x23, BitVec.ofNat 8 (4 + es.length)] ++ leBytes 4 g.toNat ++ es]
        | none => [])
    let body := recs.flatten
    let head := leBytes 2 0x534D ++ [2, 1] ++ leBytes 2 i ++ leBytes 2 (L.subEpoch i) ++ leBytes 4 u.txSeq.toNat ++ leBytes 4 s.tb32 ++
      leBytes 4 (s.ns / 1000000000) ++ leBytes 2 recs.length ++ leBytes 2 body.length
    (L.mstTag i (L.subEpoch i) (head ++ body)).map fun t => head ++ body ++ leBytes 16 t

/-- A version 2 telegram with the next number has left (R346): it is the retry of those that were due. -/
def Sub.outstanding (u : Sub) (now : Nat) (gen : Option Word) : List TxOut :=
  ((u.pendAck.map fun t => if t.wait = .due then { t with wait := .over } else t).filter fun t => t.wait != .over || t.gen.isSome) ++
    [{ seq := u.txSeq, at_ := now, gen := gen, retry := u.retryDue.getD 0, wait := .timed }]

/-- Emit one telegram in one lane: the state, and what goes out. -/
def State.mstEmit (s : State) (l : LaneId) (i : Fin 4096) : State × Option Telegram :=
  let L := s.lane l
  let u := L.mst.subs[i]
  let gen := match s.mstSched l i with
    | some (g, es) => if u.genAcked = some g then none else some (g, es)
    | none => none
  let e := L.mstE i
  let port := if L.mstPort i = 2 then 3 else L.mstPort i + 1
  match s.mstPayload l i gen with
  | none => (s, none)
  | some p =>
    let bad := (List.range 3).any u.setBad
    let v1 := L.mstV1 i
    let s1 := s.upd l fun L =>
      let L1 := L.subUpd i fun u =>
        { u with txSeq := u.txSeq + 1, lastTx := u.txSeq, sentAt := some s.tb.run, sendReq := false,
                 lastSent := Vector.ofFn fun k => (u.setWord k.val) <|> u.lastSent[k],
                 genSent := (gen.map (·.1)) <|> u.genSent,
                 pendAck := if v1 then [] else u.outstanding s.tb.run (gen.map (·.1)) }
      ((L1.wrapFld 0x40140024 0 32).setFlag (aSub i) 4 !v1)
    ((if bad then s1.raise l 0xD7 i else s1), some { port := port, vid := u16At e 2, addr := slice e 16 16, udp := u16At e 4, payload := p })

/-- The substations served at an instant: those left over first, at most 256 (R344). -/
def State.mstServe (s : State) (l : LaneId) : List Nat × List Nat :=
  let due := (List.range (s.lane l).mstN).filter fun i => s.mstDue l (Fin.ofNat 4096 i)
  let old := (s.lane l).mst.backlog.filter fun i => due.contains i
  let order := old ++ due.filter fun i => !old.contains i
  let now := order.take 256
  (now, due.filter fun i => !now.contains i)

/-- Evaluate one lane: what it emits, in order. -/
def State.mstEval (s : State) (l : LaneId) : State × List Telegram :=
  let (now, later) := s.mstServe l
  let s0 := s.upd l fun L => { L with mst := { L.mst with backlog := later } }
  now.foldl (fun (p : State × List Telegram) i =>
    match p.1.mstEmit l (Fin.ofNat 4096 i) with
    | (s1, some t) => (s1, p.2 ++ [t])
    | (s1, none) => (s1, p.2)) (s0, [])

/-- What the link die hashes of a telegram (R305): port number, UDP header and payload. -/
def Telegram.hashed (t : Telegram) : Nat × Bytes :=
  (t.port, leBytes 1 t.port ++ beBytes 2 47232 ++ beBytes 2 t.udp ++ beBytes 2 (8 + t.payload.length) ++ t.payload)

/-- Compare the lanes' frames in emission order per port (R305): frames without a counterpart wait for it. -/
def State.mstCompare (s : State) : Nat → State
  | 0 => s
  | n + 1 =>
    let act := s.act
    let sb := other act
    let fa := (s.lane act).mst.frames
    let fs := (s.lane sb).mst.frames
    match fa.find? fun f => fs.any fun g => g.1 == f.1 with
    | none => s
    | some f => match fs.find? fun g => g.1 == f.1 with
      | none => s
      | some g =>
        let drop (s : State) (l : LaneId) (x : Nat × Nat × Bytes) : State :=
          s.upd l fun L => { L with mst := { L.mst with frames := L.mst.frames.erase x } }
        let s1 := drop (drop s act f) sb g
        (if sameHash f.2.2 g.2.2 then s1 else s1.redTrigger 4 f.1 true false false).mstCompare n

/-- The active lane's telegrams go to the link die at once. -/
def State.mstSendOut (s : State) (ts : List Telegram) : State := ts.foldl State.telSend s

/-- A lane's telegrams await comparison (R305). -/
def State.framesPut (s : State) (l : LaneId) (o : List Telegram) : State :=
  s.upd l fun L => { L with mst := { L.mst with frames := L.mst.frames ++ o.map fun t => (t.hashed.1, s.tb.run, t.hashed.2) } }

/-- Both lanes evaluate, the active lane's telegrams go out, and the lanes' telegrams are compared. -/
def State.mstEvalAll (s : State) : State :=
  let act := s.act
  let sb := other act
  let (s1, out) := s.mstEval act
  let s2 := s1.mstSendOut out
  if s.isUp sb then
    let (s3, out') := s2.mstEval sb
    if s.compares then ((s3.framesPut act out).framesPut sb out').mstCompare (out.length + out'.length + 1) else s3
  else s2

/-- Evaluate the substations (R344): at a publish instant, and in STOP at the next 250 us tick. -/
def rowMstSetpointEval (s : State) : Out :=
  let stop := s.mode.mode == .stop
  if !(stop || s.running) || s.ups.isEmpty then .next s
  else .next (if stop then s.advTo s.next250 else s).mstEvalAll

/-- ACK_TO runs out for a telegram (R346): its retry is due, or ACK_FAIL after the last. -/
def State.mstAckLate (s : State) (l : LaneId) (sub : Fin 4096) (t : TxOut) : State :=
  let L := s.lane l
  let more := t.retry < L.fld 0x40140008 0 4
  let mark (w : TxWait) : State := s.upd l fun L =>
    let L1 := L.subUpd sub fun u => { u with pendAck := u.pendAck.map fun x => if x.seq = t.seq then { x with wait := w } else x }
    L1.setFlag (aSub sub) 4 L1.mst.subs[sub].waits
  if more then mark .due else ((mark .over).upd l (·.setFlag (aSub sub) 5 true)).raise l 0xD4 sub

/-- The oldest telegram whose ACK_TO runs (R346). -/
def execMstAckTimeout (sub : Fin 4096) (s : State) : Out :=
  match (s.lane s.act).mst.subs[sub].pendAck.find? fun t => t.wait == .timed with
  | none => .next s
  | some t =>
    let s1 := s.advRun (t.at_ + msU ((s.lane s.act).fld 0x40140004 16 16))
    .next (s1.each s1.ups fun l s => s.mstAckLate l sub t)

/-! Commands. -/

def State.mstCmd (s : State) (l : LaneId) (key : Half) (i : Nat) (f : State → State) : State :=
  if key ≠ 0x4D54 then s.ok else if !(s.lane l).mstEn i then s.refuse l 0xD7 i else (f s).ok

def execMstSend (src : Src) (key : Half) (sub : Fin 4096) (s : State) : Out :=
  .next (s.perLane src fun l s => s.mstCmd l key sub fun s => s.upd l fun L => L.subUpd sub fun u => { u with sendReq := true })

/-- RESUME restarts the writes of the state array; its SUB is ignored (R348). -/
def State.mstResume (s : State) (l : LaneId) (key : Half) : State :=
  if key ≠ 0x4D54 then s.ok else (s.upd l (·.setFlag 0x40140000 0 false)).ok
def execMstResume (src : Src) (key : Half) (s : State) : Out := .next (s.perLane src fun l s => s.mstResume l key)

/-- EPOCH: E + 1 at once, with a new replay window (R333). -/
def execMstEpoch (src : Src) (key : Half) (sub : Fin 4096) (s : State) : Out :=
  .next (s.perLane src fun l s => s.mstCmd l key sub fun s =>
    s.upd l fun L => (L.setFld (aSub sub) 16 16 (L.subEpoch sub + 1)).subUpd sub fun u => { u with started := false })

/-! Destinations, checks, load. -/

/-- A setpoint destination (R344): index = 16 × substation + code. -/
def Lane.mstSet (L : Lane) (i code : Nat) (v : F64) : Lane :=
  L.subUpd (Fin.ofNat 4096 i) fun u => { u with set := u.set.set! code (some v) }

/-- A visible field of a substation as FP64, with its stamp (R342). -/
def Lane.mstField (L : Lane) (i code : Nat) : F64 × Option Word :=
  let v := (L.mst.subs.getD i Sub.init).vis
  let x := match code with
    | 0 => fOfNat v.heat
    | 1 => fOfNat v.volume
    | 2 => f32to64 v.flow
    | 3 => f32to64 v.tSup
    | 4 => f32to64 v.tRet
    | 5 => f32to64 v.valve
    | 6 => f32to64 v.dp
    | 7 => fOfNat v.alarm.toNat
    | 8 => fOfNat v.ackSeq.toNat
    | _ => 0
  (x, v.stamps.getD code none)

/-- Value checks of MST registers. -/
def mstRegOk (name : String) (v : Word) : Bool :=
  match name with
  | "MST_CFG" => 100 ≤ fieldOf v 16 16 && fieldOf v 16 16 ≤ 60000 && fieldOf v 0 16 ≤ 3600
  | "MST_CFG2" => fieldOf v 16 16 ≤ 60000
  | _ => true

/-- The value the PARAM drawer of an image gives a register (R77). -/
def paramWord (ds : List Drawer) (a : Nat) : Option Word :=
  let d := drOf ds 0x13
  (((List.range (d.length / 8)).filter fun i => u32At d (8 * i) == a).getLast?).map fun i => BitVec.ofNat 32 (u32At d (8 * i + 4))

/-- The KEYREF drawer asks attribute `b` of a slot (R466). -/
def keyRefHas (ds : List Drawer) (slot b : Nat) : Bool :=
  let d := drOf ds 0x12
  (List.range (u8At d 0)).any fun i => u8At d (16 + 8 * i) == slot && (u16At d (16 + 8 * i + 2)).testBit b

/-- Cross-checks of the MST drawer (R328, R329); `nSubs` is that of TOPO. -/
def mstDrawerOk (ds : List Drawer) (nSubs : Nat) : Bool :=
  let d := drOf ds 0x0D
  if d.isEmpty then true
  else
    let n := u16At d 0
    let es := (List.range n).map fun i => slice d (32 + 32 * i) 32
    n ≤ 4096 && d.length == 32 + 32 * n && u8At d 2 ≤ 31 && u8At d 3 == 0 && u16At d 4 ≤ 3600 && 100 ≤ u16At d 6 && u16At d 6 ≤ 60000 &&
    u8At d 8 ≤ 15 && u8At d 9 == 0 && u16At d 0xA ≤ 60000 && allAt d 0xC 20 0 && nSubs ≤ n &&
    (es.all fun e => u8At e 0 < 32 && u8At e 0 / 8 ≤ 2 && u8At e 1 == 0 && u16At e 2 ≤ 4094 && u16At e 4 != 0 && u16At e 6 ≤ 3600 && allAt e 0xA 6 0) &&
    (!(es.any fun e => u8At e 0 / 8 == 2) || ((paramWord ds 0x40120010).map fun w => bitOf w 0) == some true) &&
    (!(es.any fun e => (u8At e 0).testBit 0 && !(u8At e 0).testBit 1) || keyRefHas ds (u8At d 2) 1)

/-- Registers and substations at load; the transmit counters go on (R347). -/
def Lane.mstLoad (L : Lane) : Lane :=
  let d := L.dr 0x0D
  let n := L.mstN
  let tx (i : Nat) : Sub := let u := L.mst.subs.getD i Sub.init; { Sub.init with txSeq := u.txSeq, lastTx := u.lastTx }
  let L0 := { L with mst := { L.mst with queue := [], subs := Vector.ofFn fun i => tx i.val, pendVis := [], backlog := [], frames := [] } }
  if d.isEmpty then L0
  else
    let L1 := ((L0.putN 0x40140000 (2 * n)).putN 0x40140004 (u16At d 6 * 2 ^ 16 + u16At d 4)).putN 0x40140008 (u16At d 0xA * 2 ^ 16 + u8At d 8)
    (List.range n).foldl (fun L i => L.putN (aSub i) (u16At (slice d (32 + 32 * i) 32) 8 * 2 ^ 16 + bit (L1.mstV1 i) * 2 ^ 6)) L1

/-- The transmit counters after a full reset (R347). -/
def Lane.mstBoot (L : Lane) (first : Word) : Lane :=
  { L with mst := { L.mst with subs := L.mst.subs.map fun u => { u with txSeq := first } } }

/-- A telegram's hash from the standby has not come within 50 us (R305): a mismatch of item 4. -/
def State.mstHashLate (s : State) (port : Nat) : State :=
  let act := s.act
  match (s.lane act).mst.frames.find? fun f => f.1 == port with
  | none => s
  | some f =>
    let s1 := s.advRun (f.2.1 + usU 50)
    (s1.upd act fun L => { L with mst := { L.mst with frames := L.mst.frames.erase f } }).redTrigger 4 port true false false

/-- The same for a CAN frame (item 5): the standby may have selected the frame meanwhile. -/
def State.canHashLate (s : State) (c : Fin 8) : State :=
  let act := s.act
  match (s.lane act).can[c].awaiting with
  | none => s
  | some (h, at_) =>
    let s1 := (s.advRun (at_ + usU 50)).upd act fun L => L.canUpd c fun k => { k with awaiting := none }
    let S := s1.lane (other act)
    let same := match S.canOffer c with
      | some b => sameHash h (S.canHashed c b)
      | none => false
    if same then s1 else s1.redTrigger 5 c true false false

end Sys2Proof.Machine
end

