-- ==== Sys2Proof/Machine/Mtr.lean ====
section
/-! DEFINITION. Machine/Mtr.lean: electrical energy and heat quantities (16: R395-R414). The order of single FP64
operations, where a formula leaves it open, is that of the formula read from left to right (log 20). -/
namespace Sys2Proof.Machine

/-- Counting runs from STOP on (R42). -/
def State.counts (s : State) : Bool := s.mode.mode == .stop || s.running || s.mode.mode == .safe

/-! Metering points. -/

def aPt (n off : Nat) : Nat := 0x400F0100 + 0x20 * n + off
def aMch (ch off : Nat) : Nat := 0x400F0400 + 0x10 * ch + off
def aFreq (n c : Nat) : Nat := aPt n (0xC + 4 * c)
def aZcTb (n c : Nat) : Nat := if c < 2 then aPt n (0x18 + 4 * c) else 0x400F0300 + 4 * n
def Lane.ptEn (L : Lane) (n : Nat) : Bool := L.flag 0x400F0000 n
/-- SCALE of a channel, from the MTR drawer (R398). -/
def Lane.mtrScale (L : Lane) (ch : Nat) : F64 := f32to64 (f32At (L.dr 0x0E) (32 + 128 * (ch / 6) + 0x10 + 16 * (ch % 6)))
def Lane.modFault (L : Lane) (ch : Nat) : Bool := L.flag (aPt (ch / 6) 0) (ch % 6)
def Lane.mtrChUpd (L : Lane) (ch : Fin 48) (f : MtrCh → MtrCh) : Lane := { L with mtr := { L.mtr with ch := L.mtr.ch.set ch (f L.mtr.ch[ch]) } }

/-- A data line holds one level for 1,024 modulator clocks (R397). -/
def execMtrModFault (ch : Fin 48) (s : State) : Out :=
  if !s.counts then .next s
  else .next (s.each s.ups fun l s =>
    if (s.lane l).ptEn (ch.val / 6) && !(s.lane l).modFault ch then (s.upd l (·.setFlag (aPt (ch.val / 6) 0) (ch.val % 6) true)).raise l 0x90 ch else s)

/-- 8,000 samples without a new fault (R397). -/
def execMtrModOk (ch : Fin 48) (s : State) : Out :=
  .next (s.each s.ups fun l s =>
    if (s.lane l).modFault ch then (s.upd l (·.setFlag (aPt (ch.val / 6) 0) (ch.val % 6) false)).raise l 0x91 ch else s)

/-- The cubic Lagrange polynomial through x(-1), x(0), x(1), x(2) at f (R399). -/
def lagrange (xm x0 x1 x2 f : F64) : F64 :=
  let g (a b : F64) : F64 := fmul a b
  let fm1 := fsub f f1
  let fm2 := fsub f (fOfNat 2)
  let fp1 := fadd f f1
  let cm := fdiv (fneg (g (g f fm1) fm2)) (fOfNat 6)
  let c0 := fdiv (g (g fp1 fm1) fm2) (fOfNat 2)
  let c1 := fdiv (fneg (g (g fp1 f) fm2)) (fOfNat 2)
  let c2 := fdiv (g (g fp1 f) fm1) (fOfNat 6)
  fadd (fadd (fadd (g cm xm) (g c0 x0)) (g c1 x1)) (g c2 x2)

/-- One raw sample through the correction stage (R399): the delay of 5 + DELAY / 1,024 samples, scale, INVERT, HPF. -/
def Lane.mtrSample (L : Lane) (ch : Fin 48) (raw : Int) : Lane :=
  let x := if L.modFault ch then 0 else raw
  let c := L.mtr.ch[ch]
  let r := (x :: c.raw).take 12
  let d := 5 * 1024 + signed 16 (L.fld (aMch ch 4) 0 16)
  let k := (d / 1024).toNat
  let f := fRat (d % 1024) 1024
  let at_ (i : Nat) : F64 := fOfInt (r.getD i 0)
  let xd := lagrange (at_ (k - 1)) (at_ k) (at_ (k + 1)) (at_ (k + 2)) f
  let v0 := fdiv (fmul (fmul (L.mtrScale ch) (f32to64 (L.get (aMch ch 0)))) xd) (fOfNat 8388608)
  let v1 := if L.flag (aMch ch 8) 1 then fneg v0 else v0
  let hp := fadd (fadd (fmul Config.hpfB0 v1) (fmul Config.hpfB1 c.hpfX)) (fmul Config.hpfA1 c.hpfY)
  let v := if L.flag (aMch ch 8) 0 then hp else v1
  L.mtrChUpd ch fun c => { c with raw := r, hist := (v :: c.hist).take 206, hpfX := v1, hpfY := hp }

/-- Samples of the interval that has just ended, the latest first; `back` samples earlier where wanted. -/
def MtrCh.last80 (c : MtrCh) (back : Nat) : List F64 := (List.range 80).map fun i => c.hist.getD (i + back) 0
/-- u shifted by 90 degrees by the 127-tap Hilbert filter (R400). -/
def MtrCh.hilbert80 (c : MtrCh) : List F64 :=
  (List.range 80).map fun i => fsum ((List.range 127).map fun t => fmul (Config.hilbertTap t) (c.hist.getD (i + t) 0))
def fMean (xs : List F64) : F64 := fdiv (fsum xs) (fOfNat xs.length)

/-- P, Q, S, U, I, PF of a valid phase (R400). -/
def phaseVals (u i : MtrCh) : List F64 :=
  let us := u.last80 0
  let is := i.last80 0
  let p := fMean (List.zipWith fmul us is)
  let q := fMean (List.zipWith fmul u.hilbert80 (i.last80 63))
  let ur := fsqrt (fMean (us.map fun x => fmul x x))
  let ir := fsqrt (fMean (is.map fun x => fmul x x))
  let sv := fmul ur ir
  [p, q, sv, ur, ir, if feq sv f0 then f0 else fdiv p sv]

/-- Values of the point total (R400). -/
def totalVals (ph : List (List F64)) : List F64 :=
  let col (k : Nat) : List F64 := ph.map fun v => v.getD k 0
  let p := fsum (col 0)
  let sv := fsum (col 2)
  [p, fsum (col 1), sv, fMean (col 3), fMean (col 4), if feq sv f0 then f0 else fdiv p sv]

/-- Energy of an interval into the seven registers (R401): counts of 2^-32, rounded to nearest, ties to even. -/
def Lane.mtrAdd (L : Lane) (n sv : Nat) (v : List F64) : Lane :=
  let p := v.getD 0 0
  let q := v.getD 1 0
  let inc (x : F64) : Nat := ((fToUnits (fdiv (fmul x (fRat 1 100)) (fRat 36 10)) (-32)).getD 0).toNat
  let pos := fle f0 p
  let qPos := fle f0 q
  let k := if pos then (if qPos then 2 else 5) else if qPos then 3 else 4
  let add (L : Lane) (k x : Nat) : Lane :=
    let i := (n * 4 + sv) * 7 + k
    { L with mtr := { L.mtr with e := L.mtr.e.set! i ((L.mtr.e.getD i 0 + x) % 2 ^ 96) } }
  add (add (add L (if pos then 0 else 1) (inc (fabs p))) k (inc (fabs q))) 6 (inc (v.getD 2 0))

/-- Frequency of a voltage channel; NaN while it is not valid. -/
def Lane.mtrFreq (L : Lane) (n c : Nat) : F64 :=
  let x := (L.mtr.ch.getD (6 * n + c) MtrCh.init).crossings
  match x.head?, x.getLast? with
  | some a, some b => if 2 ≤ x.length then fRat ((x.length - 1) * 1000000000 : Nat) (a - b) else fNaN
  | _, _ => fNaN

/-- Put the quantities of a phase or total (R402): P, Q, S, U, I, f, PF. -/
def Lane.mtrPut (L : Lane) (n sv : Nat) (v : List F64) (f : F64) : Lane :=
  let w := [v.getD 0 0, v.getD 1 0, v.getD 2 0, v.getD 3 0, v.getD 4 0, f, v.getD 5 0]
  { L with mtr := { L.mtr with val := (List.range 7).foldl (fun m q => m.set! (32 * n + 8 * sv + q) (w.getD q 0)) L.mtr.val } }

def nan6 : List F64 := List.replicate 6 fNaN

/-- An interval of 80 samples ends in one lane. -/
def Lane.mtrInterval (L : Lane) (n : Nat) (raw : List (List Int)) (stamp : Word) : Lane :=
  let L1 := (List.range 6).foldl (fun (L : Lane) c => ((raw.getD c []).take 80).foldl (fun (L : Lane) x => L.mtrSample (Fin.ofNat 48 (6 * n + c)) x) L) L
  let ch (c : Nat) : MtrCh := L1.mtr.ch.getD (6 * n + c) MtrCh.init
  let ok (p : Nat) : Bool := !L1.modFault (6 * n + p) && !L1.modFault (6 * n + 3 + p)
  let vals := (List.range 3).map fun p => if ok p then phaseVals (ch p) (ch (3 + p)) else nan6
  let L2 := (List.range 3).foldl (fun (L : Lane) p =>
    let v := vals.getD p nan6
    let La := L.mtrPut n p v (if ok p then L.mtrFreq n p else fNaN)
    if ok p then La.mtrAdd n p v else La) L1
  let whole := ok 0 && ok 1 && ok 2
  let tot := totalVals vals
  let fTot := (((List.range 3).map fun c => L2.mtrFreq n c).find? fun f => !isNaN64 f).getD fNaN
  let L3 := L2.mtrPut n 3 tot fTot
  let L4 := if whole then L3.mtrAdd n 3 tot else (L3.setFlag (aPt n 0) 15 true).incFld (aPt n 8) 0 32
  { L4 with mtr := { L4.mtr with stampVal := L4.mtr.stampVal.set! n (some stamp) } }

/-- The six channels' 80 raw samples of an interval, channel by channel (R400). -/
def execMtrIntervalEnd (point : Fin 8) (raw : List (List (BitVec 24))) (s : State) : Out :=
  if !s.counts then .next s
  else
    let ints := raw.map fun c => c.map fun (x : BitVec 24) => x.toInt
    .next (s.each s.ups fun l s => if (s.lane l).ptEn point then s.upd l (·.mtrInterval point ints s.tbW) else s)

/-- The crossing in a run of corrected values, the first armed (below -HYS), the last the one that confirms it (R403): how
many sample periods before the last sample it lies; none when the run does not confirm one. -/
def zcBack (hys : F64) (vals : List F64) : Option F64 :=
  let n := vals.length
  let armed := flt (vals.headD 0) (fneg hys)
  let conf := fle hys (vals.getLastD 0) && (vals.dropLast.all fun v => flt v hys)
  match ((List.range (n - 1)).filter fun i => flt (fAt vals i) f0 && fle f0 (fAt vals (i + 1))).getLast? with
  | none => none
  | some k =>
    if armed && conf then
      let a := fAt vals k
      let frac := fdiv (fneg a) (fsub (fAt vals (k + 1)) a)
      some (fsub (fOfNat (n - 1 - k)) frac)
    else none

/-- A rising crossing is confirmed in one lane (R403, R404); `vals` are the corrected values of the channel from the sample
that armed it to the sample that leaves the correction stage now. -/
def State.mtrZc (s : State) (l : LaneId) (n : Fin 8) (c : Fin 3) (vals : List F64) : State :=
  let L := s.lane l
  let ch : Fin 48 := ⟨6 * n.val + c.val, by omega⟩
  match zcBack (fRat (L.fld (aPt n 4) 16 16) 10) vals with
  | none => s
  | some back =>
    let delay := fmul (fRat (signed 16 (L.fld (aMch ch 4) 0 16)) 1024) (fOfNat 125000)
    let ago := fRound (fadd (fadd (fmul back (fOfNat 125000)) (fOfNat 1132700)) delay)
    let t := ((s.ns : Int) - ago).toNat
    let was := L.mtr.ch[ch]
    let xs := (t :: was.crossings).take 9
    let valid := decide (2 ≤ xs.length)
    let s1 := s.upd l fun L =>
      let L1 := L.mtrChUpd ch fun k => { k with crossings := xs, zcAt := s.tb.run, timedOut := k.timedOut && !valid }
      let L2 := (L1.putN (aZcTb n c) (t % 2 ^ 32)).put (aFreq n c) (f64to32 (L1.mtrFreq n c))
      L2.setFlag (aPt n 0) (9 + c.val) valid
    if was.timedOut && valid then s1.raise l 0x93 (6 * n.val + c.val) else s1
def execMtrZeroCrossing (point : Fin 8) (phase : Fin 3) (vals : List F64) (s : State) : Out :=
  if !s.counts then .next s
  else .next (s.each s.ups fun l s => if (s.lane l).ptEn point then s.mtrZc l point phase vals else s)

/-- No confirmed crossing for ZC_TO ms (R404). -/
def execMtrZcTimeout (point : Fin 8) (phase : Fin 3) (s : State) : Out :=
  let A := s.lane s.act
  let ch : Fin 48 := ⟨6 * point.val + phase.val, by omega⟩
  if !s.counts || !A.ptEn point || A.mtr.ch[ch].timedOut then .next s
  else
    let s1 := s.advRun (A.mtr.ch[ch].zcAt + msU (A.fld (aPt point 4) 0 9))
    .next (s1.each s1.ups fun l s =>
      (s.upd l fun L =>
        let L1 := L.mtrChUpd ch fun k => { k with crossings := [], timedOut := true }
        ((L1.put (aFreq point phase) fNaN32).setFlag (aPt point 0) (9 + phase.val) false).setFlag (aPt point 0) (12 + phase.val) true).raise l 0x92 ch)

/-! Heat accumulators (R405-R408). -/

def aAcc (a : Nat) : Nat := 0x40100100 + 4 * a
def Lane.accEn (L : Lane) (a : Nat) : Bool := L.flag (aAcc a) 0
def Lane.accE (L : Lane) (a : Nat) : Bytes := slice (L.dr 0x0F) (32 + 64 * a) 64
def Lane.accUpd (L : Lane) (a : Fin 256) (f : ThqAcc → ThqAcc) : Lane := { L with thq := { L.thq with acc := L.thq.acc.set a (f L.thq.acc[a]) } }

/-- A CAN value (R405, R406): none where its bytes lie beyond the data length, it is not finite, or nothing is stored. -/
def Lane.thqCan (L : Lane) (fmt byte idx : Nat) : Option (F64 × Word) :=
  let c : Fin 8 := Fin.ofNat 8 (idx / 64)
  let b : Fin 64 := Fin.ofNat 64 idx
  let ctrl := L.get (aBuf c b 4)
  let size := if fmt % 16 < 2 then 2 else 4
  let data := (L.canBufBytes c b).drop 16
  let raw := if 128 ≤ fmt then beAt data byte size else leAt data byte size
  let v := match fmt % 16 with
    | 0 => fOfInt (signed 16 raw)
    | 1 => fOfNat raw
    | 2 => fOfInt (signed 32 raw)
    | 3 => fOfNat raw
    | _ => f32to64 (BitVec.ofNat 32 raw)
  if L.can[c].bufs[b].stores = 0 ∨ bitOf ctrl 8 = true ∨ canLen (bitOf ctrl 5) (fieldOf ctrl 0 4) < byte + size ∨ isFinite64 v = false then none
  else some (v, L.get (aBuf c b 8))

/-- A source of an accumulator, with its stamp (R406). -/
def Lane.thqSrc (L : Lane) (d : Bytes) : Option (F64 × Word) :=
  let idx := u32At d 4
  let raw := if u8At d 0 = 1 then
      let (v, st) := L.mstField (idx / 16) (idx % 16)
      st.map fun w => (v, w)
    else L.thqCan (u8At d 1) (u8At d 2) idx
  raw.map fun p => (fadd (fmul (f32to64 (f32At d 8)) p.1) (f32to64 (f32At d 0xC)), p.2)

/-- A table of 151 points at 0 to 150 degrees, interpolated linearly (R407). -/
def tableAt (tab : Nat → F64) (t : F64) : F64 :=
  let i := min 149 (fFloor t).toNat
  let f := fsub t (fOfNat i)
  fadd (tab i) (fmul f (fsub (tab (i + 1)) (tab i)))

/-- Counts of 2^-32 Wh, rounded to nearest, ties to even. -/
def whUnits (x : F64) : Nat := ((fToUnits x (-32)).getD 0).toNat

/-- An interval between two valid instants (R408): what the forward and the reverse register gain, and the signs of the
parts in their order (true: forward). -/
def thqInterval (v0 p0 v1 p1 : F64) : Nat × Nat × List Bool :=
  let opp := (flt v0 f0 && flt f0 v1) || (flt f0 v0 && flt v1 f0)
  if !opp then
    let e := fdiv (fmul (fadd p0 p1) (fRat 5 100)) (fOfNat 3600)
    if flt e f0 then (0, whUnits (fabs e), [false]) else if flt f0 e then (whUnits e, 0, [true]) else (0, 0, [])
  else
    let tz := fdiv (fmul (fRat 1 10) v0) (fsub v0 v1)
    let a := whUnits (fdiv (fdiv (fmul (fabs p0) tz) (fOfNat 2)) (fOfNat 3600))
    let b := whUnits (fdiv (fdiv (fmul (fabs p1) (fsub (fRat 1 10) tz)) (fOfNat 2)) (fOfNat 3600))
    if flt f0 v0 then (a, b, [true, false]) else (b, a, [false, true])

/-- A reverse part follows a forward one; and the direction after all parts. -/
def thqTurns (last : Bool) : List Bool → Bool × Bool
  | [] => (false, last)
  | d :: t => let (r, l) := thqTurns d t; ((last && !d) || r, l)

/-- Entry to CONFIGURE: counting stops, and no interval spans the pause (R42, R408). -/
def Lane.thqPause (L : Lane) : Lane := { L with thq := { L.thq with acc := L.thq.acc.map fun A => { A with valid := false } } }
/-- An interval without data: counted, and the next one starts anew. -/
def State.thqMissed (s : State) (l : LaneId) (a : Fin 256) : State :=
  s.upd l fun L => (L.incFld (aAcc a) 16 16).accUpd a fun A => { A with valid := false }
/-- A source is too old; a temperature is out of range: flag, one event per episode, a missed interval. -/
def State.thqStale (s : State) (l : LaneId) (a : Fin 256) : State :=
  let s1 := (s.upd l fun L => (L.setFlag (aAcc a) 1 true).accUpd a fun A => { A with staleEp := true, rangeEp := false }).thqMissed l a
  if (s.lane l).thq.acc[a].staleEp then s1 else s1.raise l 0x98 a
def State.thqRange (s : State) (l : LaneId) (a : Fin 256) : State :=
  let s1 := (s.upd l fun L => (L.setFlag (aAcc a) 2 true).accUpd a fun A => { A with rangeEp := true }).thqMissed l a
  if (s.lane l).thq.acc[a].rangeEp then s1 else s1.raise l 0x99 a
/-- The heat of an interval, from the flow and the temperatures of supply and return. -/
def State.thqAdd (s : State) (l : LaneId) (a : Fin 256) (v ts tr : F64) : State :=
  let e := (s.lane l).accE a
  let A := (s.lane l).thq.acc[a]
  let dt := if (u8At e 0).testBit 2 then fsub tr ts else fsub ts tr
  let tRho := if (u8At e 0).testBit 1 then tr else ts
  let tm := fdiv (fadd ts tr) (fOfNat 2)
  let neg := fle dt f0
  let p := fmul (fmul (fmul (tableAt Config.rhoTable tRho) (tableAt Config.cpTable tm)) v) (if neg then f0 else dt)
  let (df, db, parts) := if A.valid then thqInterval A.v A.p v p else (0, 0, [])
  let (turn, last) := thqTurns A.fwdLast parts
  let s1 := s.upd l fun L =>
    let L1 := L.accUpd a fun A => { A with fwd := (A.fwd + df) % 2 ^ 96, rev := (A.rev + db) % 2 ^ 96, v := v, ts := ts, tr := tr, p := p,
                                           stamp := some s.tbW, valid := true, rangeEp := false, fwdLast := last }
    let L2 := if neg then L1.setFlag (aAcc a) 4 true else L1
    if turn then L2.setFlag (aAcc a) 3 true else L2
  if turn then s1.raise l 0x9A a else s1
/-- One accumulator at an integration instant in one lane. -/
def State.thqStep (s : State) (l : LaneId) (a : Fin 256) : State :=
  let L := s.lane l
  let e := L.accE a
  let maxAge := L.fld (0x40100500 + 4 * a.val) 0 16
  let src (k : Nat) : Option (F64 × Word) := L.thqSrc (slice e (0x10 + 16 * k) 16)
  let old (w : Word) : Bool := maxAge != 0 && decide ((maxAge : Int) * 1000000 < diff32 s.tb32 w.toNat)
  let out (t : F64) : Bool := flt t f0 || flt (fOfNat 150) t
  match src 0, src 1, src 2 with
  | some v, some ts, some tr =>
    if old v.2 || old ts.2 || old tr.2 then s.thqStale l a
    else
      let s0 := s.upd l fun L => (L.setFlag (aAcc a) 1 false).accUpd a fun A => { A with staleEp := false }
      if out ts.1 || out tr.1 then s0.thqRange l a else s0.thqAdd l a v.1 ts.1 tr.1
  | _, _, _ => s.thqStale l a

/-- The next multiple of 100 ms of the extended count (R406): the one at hand, unless it has been served. -/
def State.thqDue (s : State) : Nat :=
  let step := msU 100
  let c := ceilDiv s.tb.count step * step
  if (s.lane s.act).thq.lastAt = c ∧ c ≠ 0 then c + step else c

def execThqInstant (s : State) : Out :=
  if !s.counts then .next s
  else
    let d := s.thqDue
    let s1 := s.advTo d
    .next (s1.each s1.ups fun l s =>
      let s2 := (List.finRange 256).foldl (fun (s : State) (a : Fin 256) => if (s.lane l).accEn a then s.thqStep l a else s) s
      s2.upd l fun L => { L with thq := { L.thq with lastAt := d } })

/-! Retention (R412, R413). -/

/-- Write one counter record by the active lane: the state, and whether the Chest took it. -/
def State.saveRecord (s : State) (addr : Nat) (data : Bytes) : State × Bool :=
  let off := chestOff addr
  if s.chestProt off then (s.raise s.act 0xEC (chestBankOf off), false)
  else
    let (b, q) := s.pairTarget off data.length
    (s.pairPut off b q data, true)

def Lane.mtrSaveAddr (L : Lane) : Nat := if (L.dr 0x0E).isEmpty then 0 else u32At (L.dr 0x0E) 4
def Lane.thqSaveAddr (L : Lane) (j : Nat) : Nat := if (L.dr 0x0F).isEmpty then 0 else u32At (L.dr 0x0F) (4 + 4 * j)
def Lane.mtrRecord (L : Lane) : Bytes := (L.mtr.e.toList.map fun c => leBytes 8 (c / 2 ^ 32)).flatten
def Lane.thqRecord (L : Lane) (j : Nat) : Bytes :=
  ((L.thq.acc.toList.drop (128 * j)).take 128 |>.map fun a => leBytes 8 (a.fwd / 2 ^ 32) ++ leBytes 8 (a.rev / 2 ^ 32)).flatten

/-- The records are written in every mode but RESET and CONFIGURE (R412). -/
def State.saves (s : State) : Bool := s.mode.mode != .reset && s.mode.mode != .configure

def State.mtrSaveNow (s : State) : State :=
  let L := s.lane s.act
  let a := L.mtrSaveAddr
  if a = 0 ∨ !s.saves then s
  else
    let (s1, ok) := s.saveRecord a L.mtrRecord
    if ok then s1 else s1.raiseUp 0x94
def State.thqSaveNow (s : State) : State :=
  if !s.saves then s
  else (List.range 2).foldl (fun (s : State) j =>
    let L := s.lane s.act
    let a := L.thqSaveAddr j
    if a = 0 then s
    else
      let (s1, ok) := s.saveRecord a (L.thqRecord j)
      if ok then s1 else s1.raiseUp 0x9B j) s

/-- MTR_CMD and THQ_CMD SAVE: the active lane writes; the other lane's command completes without effect (R412). -/
def execMtrSave (src : Src) (key : Half) (s : State) : Out :=
  .next (s.perLane src fun l s => if key = 0x4D52 ∧ l = s.act then s.mtrSaveNow.ok else s.ok)
def execThqSave (src : Src) (key : Half) (s : State) : Out :=
  .next (s.perLane src fun l s => if key = 0x5448 ∧ l = s.act then s.thqSaveNow.ok else s.ok)

/-- Every SAVE_S seconds, at the first 250 us tick that is due (R375, R412). -/
def execCounterSavePeriod (thq : Bool) (s : State) : Out :=
  let L := s.lane s.act
  let d := L.dr (if thq then 0x0F else 0x0E)
  if d.isEmpty || !s.saves || !s.isUp s.act then .next s
  else
    let last := if thq then L.thq.saveAt else L.mtr.saveAt
    let s0 := s.advRun (last + sU (u16At d 2))
    let s1 := s0.advTo (tick250 s0.tb.count)
    let s2 := s1.each s1.ups fun l s => s.upd l fun L =>
      if thq then { L with thq := { L.thq with saveAt := s.tb.run } } else { L with mtr := { L.mtr with saveAt := s.tb.run } }
    .next (if thq then s2.thqSaveNow else s2.mtrSaveNow)

/-- Counters at entry to STOP after boot and after a LOAD (R413): from the valid copy of their record, else 0 with an event;
those of disabled points and accumulators are 0. -/
def State.countersRestore (s : State) (l : LaneId) : State :=
  let L := s.lane l
  let get (addr len : Nat) : Option Bytes := if addr = 0 then none else (s.pairNewest (chestOff addr) len).map fun p => p.2.2.1
  let s1 := if (L.dr 0x0E).isEmpty then s
    else
      let r := get L.mtrSaveAddr 1792
      let s1 := s.upd l fun L => { L with mtr := { L.mtr with
        e := Vector.ofFn fun i => if L.ptEn (i.val / 28) then (match r with | some b => u64At b (8 * i.val) * 2 ^ 32 | none => 0) else 0 } }
      if r.isNone then s1.raise l 0x95 else s1
  if (L.dr 0x0F).isEmpty then s1
  else
    let r0 := get (L.thqSaveAddr 0) 2048
    let r1 := get (L.thqSaveAddr 1) 2048
    let cnt (i off : Nat) : Nat := match (if i < 128 then r0 else r1) with
      | some b => u64At b (16 * (i % 128) + off) * 2 ^ 32
      | none => 0
    let s2 := s1.upd l fun L => { L with thq := { L.thq with
      acc := Vector.ofFn fun i => if L.accEn i.val then { ThqAcc.init with fwd := cnt i.val 0, rev := cnt i.val 8 } else ThqAcc.init } }
    if r0.isNone || (r1.isNone && 128 < L.fld 0x40100000 0 9) then s2.raise l 0x9C else s2

/-! Registers. -/

/-- The 64-bit count behind a live counter register, and whether the address is that of its HI word (R410). -/
def Lane.counterAt (L : Lane) (a : Nat) : Option (Nat × Bool) :=
  if 0x400F1000 ≤ a ∧ a < 0x400F1800 ∧ (a - 0x400F1000) % 0x40 < 0x38 ∧ a % 4 = 0 then
    let o := a - 0x400F1000
    some (L.mtr.e.getD (o / 0x40 * 7 + o % 0x40 / 8) 0 / 2 ^ 32, o % 8 == 4)
  else if 0x40102000 ≤ a ∧ a < 0x40103000 ∧ a % 4 = 0 then
    let o := a - 0x40102000
    let A := L.thq.acc.getD (o / 16) ThqAcc.init
    some ((if o % 16 < 8 then A.fwd else A.rev) / 2 ^ 32, o % 8 == 4)
  else none

/-- A read of a LO word captures the HI word for its requester (R410). -/
def State.counterLo (s : State) (l : LaneId) (req : Requester) (a : Nat) : State :=
  match (s.lane l).counterAt a with
  | some (c, false) =>
    (s.upd l fun L => { L with hiCap := (L.hiCap.filter fun h => !(h.1 == req && h.2.1 == a + 4)) ++ [(req, a + 4, BitVec.ofNat 32 (c / 2 ^ 32))] }).ok (BitVec.ofNat 32 c)
  | _ => s.busErr
def execCounterLoRead (src : Src) (addr : Word) (s : State) : Out := .next (s.perLaneRead src fun l s => s.counterLo l src.req addr.toNat)

/-- A read of a HI word: the requester's capture, or the present word. -/
def Lane.counterHi (L : Lane) (req : Requester) (a c : Nat) : Word :=
  match L.hiCap.find? fun h => h.1 == req && h.2.1 == a with
  | some h => h.2.2
  | none => BitVec.ofNat 32 (c / 2 ^ 32)

/-- Registers of the MTR block as they read: those of a disabled point read 0. -/
def Lane.mtrView (L : Lane) (a : Nat) : Word :=
  let pt := if 0x400F0100 ≤ a ∧ a < 0x400F0200 then some ((a - 0x400F0100) / 0x20)
    else if 0x400F0300 ≤ a ∧ a < 0x400F0320 then some ((a - 0x400F0300) / 4)
    else if 0x400F0400 ≤ a ∧ a < 0x400F0700 then some ((a - 0x400F0400) / 0x10 / 6)
    else none
  if pt.any fun n => !L.ptEn n then 0
  else if 0x400F0800 ≤ a ∧ a < 0x400F0C00 then f64to32 (L.mtr.val.getD ((a - 0x400F0800) / 4) 0)
  else L.get a
def Lane.thqView (L : Lane) (a : Nat) : Word :=
  if 0x40100900 ≤ a ∧ a < 0x40101900 then
    let i := (a - 0x40100900) / 4
    let A := L.thq.acc.getD (i / 4) ThqAcc.init
    f64to32 (match i % 4 with | 0 => A.v | 1 => A.ts | 2 => A.tr | _ => A.p)
  else L.get a

/-- Value checks of MTR and THQ registers. -/
def Lane.mtrCheck (L : Lane) (name : String) (i : Nat) (v : Word) : Bool :=
  match name with
  | "MTR_ZC_CFG" => L.ptEn i && fieldOf v 16 16 ≤ 1000 && 5 ≤ fieldOf v 0 9 && fieldOf v 0 9 ≤ 500
  | "MTR_PT_STAT" => L.ptEn i
  | "MTR_CH_GAIN" => L.ptEn (i / 6) && fle32 (f32Rat 1 2) v && fle32 v (f32Rat 2 1)
  | "MTR_CH_DELAY" => L.ptEn (i / 6) && decide (-4096 ≤ signed 16 (fieldOf v 0 16)) && decide (signed 16 (fieldOf v 0 16) ≤ 4096)
  | "MTR_CH_CFG" => L.ptEn (i / 6)
  | "THQ_ACC_STAT" => L.accEn i
  | "THQ_MAX_AGE" => L.accEn i && (fieldOf v 0 16 == 0 || (100 ≤ fieldOf v 0 16 && fieldOf v 0 16 ≤ 60000))
  | _ => true

/-- SNAP copies every counter into its holding register at one instant (R410). -/
def Lane.countersHold (L : Lane) : Lane :=
  let L1 := (List.range 224).foldl (fun (L : Lane) i =>
    let c := L.mtr.e.getD i 0 / 2 ^ 32
    let a := 0x400F2000 + i / 7 * 0x40 + i % 7 * 8
    (L.putN a c).putN (a + 4) (c / 2 ^ 32)) L
  (List.range 256).foldl (fun (L : Lane) i =>
    let A := L.thq.acc.getD i ThqAcc.init
    let a := 0x40103000 + 16 * i
    L.putWords a [BitVec.ofNat 32 (A.fwd / 2 ^ 32), BitVec.ofNat 32 (A.fwd / 2 ^ 64), BitVec.ofNat 32 (A.rev / 2 ^ 32), BitVec.ofNat 32 (A.rev / 2 ^ 64)]) L1

/-! Drawers. -/

/-- A record of `len` bytes at an address lies wholly in the Chest (both copies, one bank: R439), or there is none. -/
def pairRecordOk (a len : Nat) : Bool :=
  a == 0 || (a % 64 == 0 && 0x20000000 ≤ a && a + 2 * pairStep len ≤ 0x21000000 &&
    chestBankOf (chestOff a) == chestBankOf (chestOff a + 2 * pairStep len - 1))

def mtrDrawerOk (ds : List Drawer) : Bool :=
  let d := drOf ds 0x0E
  d.isEmpty || (u8At d 0 ≤ 8 && u8At d 1 == 0 && 10 ≤ u16At d 2 && u16At d 2 ≤ 3600 && allAt d 8 24 0 && d.length == 32 + 128 * u8At d 0 &&
    pairRecordOk (u32At d 4) 1792 && allBelow (u8At d 0) fun n =>
      let e := slice d (32 + 128 * n) 128
      if !(u8At e 0).testBit 0 then e.all (· == 0)
      else u8At e 0 < 2 && u8At e 1 == 0 && 5 ≤ u16At e 2 && u16At e 2 ≤ 500 && u16At e 4 ≤ 1000 && allAt e 6 10 0 && allAt e 0x70 16 0 &&
        allBelow 6 fun c =>
          let o := 0x10 + 16 * c
          isFinite32 (f32At e o) && flt32 0 (f32At e o) && fle32 (f32Rat 1 2) (f32At e (o + 4)) && fle32 (f32At e (o + 4)) (f32Rat 2 1) &&
          decide (-4096 ≤ i16At e (o + 8)) && decide (i16At e (o + 8) ≤ 4096) && u8At e (o + 10) < 4 && allAt e (o + 11) 5 0)

/-- A THQ source names an enabled receive buffer or substation (R405). -/
def thqSrcOk (ds : List Drawer) (flow : Bool) (d : Bytes) : Bool :=
  let idx := u32At d 4
  u8At d 3 == 0 && isFinite32 (f32At d 8) && !fle32 (f32At d 8 &&& 0x7FFFFFFF) 0 && isFinite32 (f32At d 0xC) &&
  match u8At d 0 with
  | 1 =>
    let m := drOf ds 0x0D
    u8At d 1 == 0 && u8At d 2 == 0 && !m.isEmpty && idx / 16 < u16At m 0 && (u8At m (32 + 32 * (idx / 16))).testBit 0 &&
    (if flow then idx % 16 == 2 else idx % 16 == 3 || idx % 16 == 4)
  | 2 =>
    let c := drOf ds 0x0C
    u8At d 1 % 128 ≤ 4 && u8At d 2 ≤ 60 && u8At d 2 + (if u8At d 1 % 16 < 2 then 2 else 4) ≤ 64 && idx < 512 && !c.isEmpty &&
    (u8At c (32 + 656 * (idx / 64))).testBit 0 && u32At c (32 + 656 * (idx / 64) + 16 + 4 * (idx % 64)) % 4 == 1
  | _ => false

def thqDrawerOk (ds : List Drawer) : Bool :=
  let d := drOf ds 0x0F
  d.isEmpty || (u16At d 0 ≤ 256 && 10 ≤ u16At d 2 && u16At d 2 ≤ 3600 && allAt d 0xC 20 0 && d.length == 32 + 64 * u16At d 0 &&
    pairRecordOk (u32At d 4) 2048 && pairRecordOk (u32At d 8) 2048 && allBelow (u16At d 0) fun a =>
      let e := slice d (32 + 64 * a) 64
      !(u8At e 0).testBit 0 || (u8At e 0 < 8 && u8At e 1 == 0 && (u16At e 2 == 0 || (100 ≤ u16At e 2 && u16At e 2 ≤ 60000)) && allAt e 4 12 0 &&
        thqSrcOk ds true (slice e 0x10 16) && thqSrcOk ds false (slice e 0x20 16) && thqSrcOk ds false (slice e 0x30 16)))

/-- Registers and units of MTR and THQ at load. -/
def Lane.meterLoad (L : Lane) (run : Nat) : Lane :=
  let m := L.dr 0x0E
  let h := L.dr 0x0F
  let L0 := { L with mtr := { MtrUnit.init with saveAt := run, ch := Vector.replicate 48 { MtrCh.init with zcAt := run } },
                     thq := { ThqUnit.init with saveAt := run } }
  let on (n : Nat) : Bool := !m.isEmpty && n < u8At m 0 && (u8At m (32 + 128 * n)).testBit 0
  let pts := (List.range 8).foldl (fun k n => k + bit (on n) * 2 ^ n) 0
  let grp := (List.range 4).foldl (fun k g => k + bit (on (2 * g) || on (2 * g + 1)) * 2 ^ g) 0
  let L1 := L0.putN 0x400F0000 (grp * 2 ^ 8 + pts)
  let L2 := (List.range 8).foldl (fun (L : Lane) n =>
    if !on n then L
    else
      let e := slice m (32 + 128 * n) 128
      let La := L.putN (aPt n 4) (u16At e 4 * 2 ^ 16 + u16At e 2)
      let Lb := (List.range 3).foldl (fun (L : Lane) c => L.put (aFreq n c) fNaN32) La
      (List.range 6).foldl (fun (L : Lane) c =>
        let o := 0x10 + 16 * c
        L.putWords (aMch (6 * n + c) 0) [f32At e (o + 4), BitVec.ofNat 32 (u16At e (o + 8)), BitVec.ofNat 32 (u8At e (o + 10))]) Lb) L1
  if h.isEmpty then L2
  else
    let L3 := L2.putN 0x40100000 (u16At h 0)
    (List.range (u16At h 0)).foldl (fun (L : Lane) a =>
      (L.putN (aAcc a) (bit ((u8At h (32 + 64 * a)).testBit 0))).putN (0x40100500 + 4 * a) (u16At h (34 + 64 * a))) L3

end Sys2Proof.Machine
end

