-- ==== Sys2Proof/Machine/Pieces.lean ====
section
/-! DEFINITION. Machine/Pieces.lean: DMA channels' state, the pieces of a transfer (11: R283, R286, R291) and their abort (R288,
R289). -/
namespace Sys2Proof.Machine

def aDma (c off : Nat) : Nat := 0x40040100 + 0x40 * c + off
/-- STATE of DMA_CH_STAT: 0 IDLE, 1 RUNNING, 2 HALTED, 3 DONE, 4 ABORTED. -/
def Lane.dmaState (L : Lane) (c : Nat) : Nat := L.fld (aDma c 0xC) 0 3

/-- One piece at offset `done` of a descriptor: the offset after it, or the fault (kind, phase, address) with the offset reached.
A refused word of a source in register space ends the transfer at that word, behind the words before it (R286, R291). -/
def dmaPiece [RegIO] (s : State) (l : LaneId) (c : Fin 16) (d : DmaDesc) (done : Nat) : State × Nat × Option (Nat × Nat × Nat) :=
  let dst := d.dst + done
  let held := (s.lane l).heldWins c
  let k := pieceLen dst (d.len - done)
  let p :=
    if d.ctrl.testBit 2 then (s, ((List.range k).map fun i => (leBytes 4 d.src).getD ((done + i) % 4) 0, none))
    else s.winReadGo l held c 3 (d.src + done) k []
  let s1 := p.1
  let bs := p.2.1
  let srcFault : Option (Nat × Nat × Nat) := p.2.2.map fun f => (f.1, 1, f.2)
  let whole := p.2.2.isNone || (match p.2.2 with
    | some (f, a) => f == fkBus && (match (s1.lane l).winMap held c a 1 false with
      | .inr g => g.region.isRegs
      | .inl _ => false)
    | none => true)
  if bs.isEmpty ∨ !whole then (s1, done, srcFault.map fun f => (f.1, f.2.1, d.src + done))
  else
    match (s1.lane l).winMap held c dst bs.length true with
    | .inl f => (s1, done, some (f, 2, dst))
    | .inr g =>
      let r := s1.tgtWrite l c g bs
      match r.2.2 with
      | some f => (r.1, done + r.2.1, some (f, 2, dst + r.2.1))
      | none => (r.1, done + bs.length, srcFault)

/-- Up to `n` pieces from offset `done` on. -/
def dmaPieces [RegIO] (l : LaneId) (c : Fin 16) (d : DmaDesc) : Nat → State → Nat → State × Nat × Option (Nat × Nat × Nat)
  | 0, s, done => (s, done, none)
  | n + 1, s, done =>
    if d.len ≤ done then (s, done, none)
    else match dmaPiece s l c d done with
      | (s1, done1, some f) => (s1, done1, some f)
      | (s1, done1, none) => dmaPieces l c d n s1 done1

/-- ABORT (R288): the pieces completed up to the boundary at which the channel stops. -/
def State.dmaAbort [RegIO] (s : State) (l : LaneId) (c : Fin 16) (pieces : Nat) : State :=
  let ch := (s.lane l).dma[c]
  let s1 := match ch.desc with
    | some d => if (s.lane l).dmaState c = 1 ∧ !ch.copied then (dmaPieces l c d pieces s ch.done).1 else s
    | none => s
  (s1.upd l fun L => (L.setFld (aDma c 0xC) 0 3 4).setFlag (aDma c 0xC) 10 false).raise l 0x35 c
/-- The same where nothing says how far the channel has come: a free number of pieces (log 32). -/
def State.dmaAbortFree [RegIO] (s : State) (l : LaneId) (c : Fin 16) : State :=
  let (v, s1) := s.fresh
  s1.dmaAbort l c (v.toNat % 2 ^ 21)

/-- Abort the channels of a lane that `p` names, as under ABORT (R288, R289). -/
def State.dmaAbortIf [RegIO] (s : State) (l : LaneId) (p : Lane → Nat → Bool) : State :=
  (List.finRange 16).foldl (fun (s : State) (c : Fin 16) =>
    let L := s.lane l
    if (L.dmaState c == 1 || L.dmaState c == 2) && p L c then s.dmaAbortFree l c else s) s

/-- A channel of a task that loses its cycle is aborted (R289). -/
def State.dmaAbortTask [RegIO] (s : State) (l : LaneId) (t : Fin 8) : State :=
  s.dmaAbortIf l fun L c => L.fld (aDma c 4) 0 4 == t.val

end Sys2Proof.Machine
end

