-- ==== Sys2Proof/Machine/Src.lean ====
section
/-! DEFINITION. Machine/Src.lean: the sources and destinations shared by task bindings and control loops (07: R187-R189,
R195; 09: R240), and the LOOP drawer. -/
namespace Sys2Proof.Machine

/-! LOOP drawer (R187, R188). -/

def Lane.loopN (L : Lane) : Nat := if (L.dr 9).isEmpty then 0 else u16At (L.dr 9) 0
def Lane.loopE (L : Lane) (n : Nat) : Bytes := slice (L.dr 9) (32 + 1024 * n) 1024
def loopPeriod (e : Bytes) : Nat := u16At e 0
def loopPhase (e : Bytes) : Nat := u16At e 2
def loopTout (e : Bytes) : Nat := u8At e 4
def loopIn (e : Bytes) : Nat := u8At e 5
def loopOut (e : Bytes) : Nat := u8At e 6
def loopRef (e : Bytes) : Nat := u8At e 7
def loopModes (e : Bytes) : Nat := u8At e 8
def loopTest (e : Bytes) : Bool := (u8At e 0xA).testBit 0
def loopFeed (e : Bytes) : Bool := (u8At e 0xA).testBit 1
def inDesc (e : Bytes) (i : Nat) : Bytes := slice e (0x40 + 16 * i) 16
def refDesc (e : Bytes) (j : Nat) : Bytes := slice e (0xC0 + 16 * j) 16
def outDesc (e : Bytes) (i : Nat) : Bytes := slice e (0x140 + 64 * i) 64
def modeDesc (e : Bytes) (m : Nat) : Bytes := slice e (0x340 + 32 * m) 32

def Lane.loopUpd (L : Lane) (n : Fin 128) (f : LoopSt → LoopSt) : Lane :=
  { L with ctl := { L.ctl with loops := L.ctl.loops.set n (f L.ctl.loops[n]) } }

/-! Sources. -/

/-- The value of a symbol's bytes as FP64 (R189, R244). -/
def symF64 (typ : Nat) (bs : Bytes) : F64 :=
  match typ with
  | 0x1 => fOfNat (bit (leVal bs != 0))
  | 0x2 => fOfInt (signed 8 (leVal bs))
  | 0x3 => fOfNat (leVal bs)
  | 0x4 => fOfInt (signed 16 (leVal bs))
  | 0x5 => fOfNat (leVal bs)
  | 0x6 => fOfInt (signed 32 (leVal bs))
  | 0x7 => fOfNat (leVal bs)
  | 0x8 => fOfInt (signed 64 (leVal bs))
  | 0x9 => fOfNat (leVal bs)
  | 0xA => f32to64 (BitVec.ofNat 32 (leVal bs))
  | _ => BitVec.ofNat 64 (leVal bs)

/-- An integer limited to a range. -/
def clampI (lo hi v : Int) : Int := if v < lo then lo else if hi < v then hi else v

/-- An FP64 value as a symbol of a type: floating types take the nearest value, integer types the nearest integer within
the range of the type, BOOL whether it is not zero (log 22). -/
def f64Sym (typ : Nat) (v : F64) : Bytes :=
  let u (n : Nat) : Bytes := leBytes n (clampI 0 (2 ^ (8 * n) - 1) (fRound v)).toNat
  let i (n : Nat) : Bytes := leBytes n (unsignedOf (8 * n) (clampI (-(2 ^ (8 * n - 1) : Int)) (2 ^ (8 * n - 1) - 1) (fRound v)))
  match typ with
  | 0x1 => [if feq v f0 then 0 else 1]
  | 0x2 => i 1
  | 0x3 => u 1
  | 0x4 => i 2
  | 0x5 => u 2
  | 0x6 => i 4
  | 0x7 => u 4
  | 0x8 => i 8
  | 0x9 => u 8
  | 0xA => leBytes 4 (f64to32 v).toNat
  | _ => leBytes 8 v.toNat

/-- Quantity q of heat accumulator a (R189). -/
def Lane.thqQ (L : Lane) (i : Nat) : F64 × Option Word :=
  let A := L.thq.acc.getD (i / 4) ThqAcc.init
  (match i % 4 with
    | 0 => A.v
    | 1 => A.ts
    | 2 => A.tr
    | _ => A.p, A.stamp)

/-- Output i of a loop as its latest output instant delivered it (R195). -/
def Lane.loopOutAt (L : Lane) (i : Nat) : F64 := fAt (L.ctl.loops.getD (i / 8) LoopSt.init).out (i % 8)

/-- Value and stamp of a source (R189); no stamp where it has never been updated. A loop's output reads 0 before the first output
instant since t_R (R195, R200). -/
def State.srcVal (s : State) (l : LaneId) (kind idx : Nat) : F64 × Option Word :=
  let L := s.lane l
  match kind with
  | 0x2 => match L.published.find? fun p => p.1 == idx, L.symAny idx with
    | some p, some y => (symF64 y.2.typ p.2.1, some p.2.2)
    | _, _ => (f0, none)
  | 0x3 =>
    let st := L.ctl.loops.getD (idx / 8) LoopSt.init
    match st.outAt with
    | some t => (fAt st.out (idx % 8), some (BitVec.ofNat 32 t))
    | none => (f0, none)
  | 0x4 => L.thqQ idx
  | 0x5 => L.mstField (idx / 16) (idx % 16)
  | 0x6 => (L.mtr.val.getD idx f0, L.mtr.stampVal.getD (idx / 32) none)
  | 0x7 => (fOfInt (s.axStep (Fin.ofNat 16 idx)), some (BitVec.ofNat 32 s.axSampleNs))
  | _ => (f0, none)

/-- The bytes an input binding latches (R240). -/
def State.inputBytes (s : State) (l : LaneId) (b : Binding) (size : Nat) : Bytes :=
  let L := s.lane l
  match b.kind with
  | 0x2 => match L.published.find? fun p => p.1 == b.idx with
    | some p => slice p.2.1 0 size
    | none => zeros size
  | 0x7 => leBytes 4 (L.getN (aAx b.idx 0x10))
  | 0x8 => if h : b.idx < 64 then [if s.diSeen l ⟨b.idx, h⟩ then 1 else 0] else zeros size
  | 0x9 => leBytes 4 (s.field.di.getD b.idx DiCh.init).cnt.toNat
  | 0xA => L.canLatch b.sym b.idx
  | k => leBytes 8 (s.srcVal l k b.idx).1.toNat

/-- What latching an input changes beside the symbol: a CAN record has been seen (R240). -/
def State.inputLatched (s : State) (l : LaneId) (b : Binding) : State :=
  if b.kind = 0xA then s.upd l fun L => L.canLatched b.sym b.idx else s

/-- Final loop outputs with a symbol of the task as destination are latched with its inputs (R189). -/
def State.loopLatch (s : State) (l : LaneId) (t : Nat) : State :=
  (List.range (s.lane l).loopN).foldl (fun s n =>
    let e := (s.lane l).loopE n
    (List.range (loopOut e)).foldl (fun s j =>
      let d := outDesc e j
      if u8At d 0 ≠ 4 then s
      else match (s.lane l).sym? t (u32At d 4) with
        | none => s
        | some y =>
          let v := match s.force l 0 y.id with
            | some f => leBytes y.size f.toNat
            | none => f64Sym y.typ ((s.lane l).loopOutAt (8 * n + j))
          s.symWrite l t y v) s) s

/-- An output value reaches its destination in one lane (R240). -/
def State.outDeliver (s : State) (l : LaneId) (kind idx : Nat) (bs : Bytes) : State :=
  match kind with
  | 0x1 => if h : idx < 16 then s.axTarget l ⟨idx, h⟩ false (BitVec.ofNat 32 (leVal bs)) else s
  | 0x2 => if h : idx < 16 then s.axTarget l ⟨idx, h⟩ true (BitVec.ofNat 32 (leVal bs)) else s
  | 0x3 => s.upd l fun L => L.mstSet (idx / 16) (idx % 16) (BitVec.ofNat 64 (leVal bs))
  | 0xA => s.canPublish l idx bs
  | _ => s

end Sys2Proof.Machine
end

