-- ==== Sys2Proof/Machine/Ctl.lean ====
section
/-! DEFINITION. Machine/Ctl.lean: control loops (07: R187-R219): one sample, its delivery, injections and captures. Sums
run in ascending index order by fused multiply-add from +0 (R196; the order of the remaining single operations is log 20). -/
namespace Sys2Proof.Machine

def aLoop (n off : Nat) : Nat := 0x400C1000 + 0x20 * n + off
def aRef (i off : Nat) : Nat := 0x400C2000 + 0x10 * i + off
def aOut (i off : Nat) : Nat := 0x400C6000 + 0x20 * i + off
def aCap (c off : Nat) : Nat := 0x400C0100 + 0x40 * c + off

/-! Matrices of a mode (R190): positions in the pool. -/

structure LoopMode where
  manual : Bool
  current : Bool
  n : Nat
  m : Nat
  p : Nat
  q : Nat
  pool : Bytes
  ofs : Nat
deriving DecidableEq, Repr

def modeOf (pool e : Bytes) (k : Nat) : LoopMode :=
  let d := modeDesc e k
  { manual := u8At d 0 == 1, current := u8At d 1 == 1, n := u8At d 2, m := loopOut e, p := loopIn e, q := loopRef e, pool := pool,
    ofs := u32At d 4 }

def LoopMode.len (z : LoopMode) : Nat :=
  if z.manual then 0 else if z.n = 0 then z.m * z.q
  else z.n * z.n + 3 * z.n * z.m + 2 * z.n * z.p + z.p * z.m + z.m * z.q

/-- Matrix × vector: rows, columns, first element in the pool counted in values from MAT_OFS. -/
def LoopMode.mul (z : LoopMode) (rows cols first : Nat) (x : List F64) : List F64 :=
  (List.range rows).map fun i => (List.range cols).foldl (fun acc j =>
    ffma (f64At z.pool (z.ofs + 8 * (first + i * cols + j))) (fAt x j) acc) f0

def LoopMode.oB (z : LoopMode) : Nat := z.n * z.n
def LoopMode.oC (z : LoopMode) : Nat := z.oB + z.n * z.m
def LoopMode.oD (z : LoopMode) : Nat := z.oC + z.p * z.n
def LoopMode.oL (z : LoopMode) : Nat := z.oD + z.p * z.m
def LoopMode.oK (z : LoopMode) : Nat := z.oL + z.n * z.p
def LoopMode.oF (z : LoopMode) : Nat := if z.n = 0 then 0 else z.oK + z.m * z.n
def LoopMode.oG (z : LoopMode) : Nat := z.oF + z.m * z.q

def vAdd (a b : List F64) : List F64 := List.zipWith fadd a b
def vSub (a b : List F64) : List F64 := List.zipWith fsub a b

/-- F·r + u_ff. -/
def LoopMode.feed (z : LoopMode) (r uff : List F64) : List F64 := vAdd (z.mul z.m z.q z.oF r) uff
/-- y - C·x - D·u (R197). -/
def LoopMode.innov (z : LoopMode) (y x u : List F64) : List F64 :=
  vSub (vSub y (z.mul z.p z.n z.oC x)) (z.mul z.p z.m z.oD u)
/-- State that makes the first output equal to `last` (R204). -/
def LoopMode.init (z : LoopMode) (r uff last : List F64) : List F64 :=
  z.mul z.n z.m z.oG (vSub (z.feed r uff) last)
/-- Control law with state x (R197): -K·x + F·r + u_ff. -/
def LoopMode.law (z : LoopMode) (x r uff : List F64) : List F64 :=
  if z.n = 0 then z.feed r uff else vAdd ((z.mul z.m z.n z.oK x).map fneg) (z.feed r uff)

/-! Reference shaping (R201). -/

/-- Walk along segments (acceleration, duration) for a time; the end of the plan is rest at the target. -/
def shapeWalk (g : F64) : F64 × F64 → F64 → List (F64 × F64) → F64 × F64
  | _, _, [] => (g, f0)
  | (p, v), t, (a, d) :: rest =>
    let go (t : F64) : F64 × F64 := (fadd p (fadd (fmul v t) (fmul (fmul a (fmul t t)) (fRat 1 2))), fadd v (fmul a t))
    if flt t d then go t else shapeWalk g (go d) (fsub t d) rest

/-- The acceleration-limited plan for |v| ≤ vm; `vm` none is no rate limit. -/
def shapePlan (p v g : F64) (vm : Option F64) (am t : F64) : F64 × F64 :=
  let d := fsub g p
  let two := fOfNat 2
  let sg0 := fSign (fsub d (fdiv (fmul v (fabs v)) (fmul two am)))
  let sg := if feq sg0 f0 then fSign v else sg0
  if feq sg f0 then (g, f0)
  else
    let sd := fmul sg d
    let w0 := fsqrt (fadd (fmul am sd) (fdiv (fmul v v) two))
    let w := match vm with
      | some m => fmin m w0
      | none => w0
    let t1 := fdiv (fsub w (fmul sg v)) am
    let t2 := fdiv (fsub sd (fdiv (fsub (fmul two (fmul w w)) (fmul v v)) (fmul two am))) w
    let t2 := if flt f0 t2 then t2 else f0
    shapeWalk g (p, v) t [(fmul sg am, t1), (f0, t2), (fneg (fmul sg am), fdiv w am)]

/-- Advance a shaper by t toward g. -/
def shapeStep (k : F64 × F64) (g vmax am t : F64) : F64 × F64 :=
  let (p, v) := k
  if feq am f0 then
    if feq vmax f0 then (g, f0)
    else
      let step := fmul vmax t
      if fle (fabs (fsub g p)) step then (g, f0)
      else
        let sg := fSign (fsub g p)
        (fadd p (fmul sg step), fmul sg vmax)
  else if flt f0 vmax && flt vmax (fabs v) then
    let sg := fSign v
    let t1 := fdiv (fsub (fabs v) vmax) am
    let a := fneg (fmul sg am)
    if flt t t1 then (fadd p (fadd (fmul v t) (fmul (fmul a (fmul t t)) (fRat 1 2))), fadd v (fmul a t))
    else
      let p1 := fadd p (fadd (fmul v t1) (fmul (fmul a (fmul t1 t1)) (fRat 1 2)))
      shapePlan p1 (fmul sg vmax) g (some vmax) am (fsub t t1)
  else shapePlan p v g (if feq vmax f0 then none else some vmax) am t

/-! Notches (R207). -/

/-- Coefficients b0, b1, b2, a1, a2, divided by a0; none for f0 = 0. -/
def notchCoef (f : Word) (dw : Word) (ts : F64) : Option (F64 × F64 × F64 × F64 × F64) :=
  let f0' := f32to64 f
  if feq f0' f0 then none
  else
    let two := fOfNat 2
    let om := ftan (fmul (fmul fPi f0') ts)
    let zp := fdiv (fRat (fieldOf dw 0 16) 1000) two
    let zz := fmul zp (fpow (fOfNat 10) (fneg (fdiv (fRat (fieldOf dw 16 16) 100) (fOfNat 20))))
    let o2 := fmul om om
    let mid (z : F64) : F64 := fmul (fmul two z) om
    let a0 := fadd (fadd f1 (mid zp)) o2
    let b1 := fmul two (fsub o2 f1)
    let c (x : F64) : F64 := fdiv x a0
    some (c (fadd (fadd f1 (mid zz)) o2), c b1, c (fadd (fsub f1 (mid zz)) o2), c b1, c (fadd (fsub f1 (mid zp)) o2))

/-- One step of a transposed direct-form II biquad: output and state. -/
def notchStep (co : Option (F64 × F64 × F64 × F64 × F64)) (z1 z2 x : F64) : F64 × F64 × F64 :=
  match co with
  | none => (x, z1, z2)
  | some (b0, b1, b2, a1, a2) =>
    let y := fadd (fmul b0 x) z1
    (y, fadd (fsub (fmul b1 x) (fmul a1 y)) z2, fsub (fmul b2 x) (fmul a2 y))

/-- Steady state for a constant input x: the output is x (R192, R207). -/
def notchRest (co : Option (F64 × F64 × F64 × F64 × F64)) (x : F64) : F64 × F64 :=
  match co with
  | none => (f0, f0)
  | some (b0, _, b2, _, a2) => (fsub x (fmul b0 x), fsub (fmul b2 x) (fmul a2 x))

/-- The notches of output j of loop n: coefficients from the registers in force (R208). -/
def Lane.notches (L : Lane) (n j : Nat) (ts : F64) : Option (F64 × F64 × F64 × F64 × F64) × Option (F64 × F64 × F64 × F64 × F64) :=
  let i := 8 * n + j
  (notchCoef (L.get (aOut i 0x10)) (L.get (aOut i 0x14)) ts, notchCoef (L.get (aOut i 0x18)) (L.get (aOut i 0x1C)) ts)

/-! Injection (R210). -/

def prbsTaps : Nat → List Nat
  | 7 => [7, 6]
  | 8 => [8, 6, 5, 4]
  | 9 => [9, 5]
  | 10 => [10, 7]
  | 11 => [11, 9]
  | 12 => [12, 6, 4, 1]
  | 13 => [13, 4, 3, 1]
  | 14 => [14, 5, 3, 1]
  | 15 => [15, 14]
  | 16 => [16, 15, 13, 4]
  | 17 => [17, 14]
  | 18 => [18, 11]
  | 19 => [19, 6, 2, 1]
  | 20 => [20, 17]
  | 21 => [21, 19]
  | 22 => [22, 21]
  | _ => [23, 18]

/-- Shift the LFSR: stage i stands in bit i - 1, the new stage 1 is the exclusive or of the taps. -/
def prbsNext (n v : Nat) : Nat :=
  let b := (prbsTaps n).foldl (fun b t => b != v.testBit (t - 1)) false
  (2 * v + bit b) % 2 ^ n

/-- The injection has lasted its duration after k samples: k·Ts ≥ T. -/
def injOver (L : Lane) (n k : Nat) : Bool := L.getN (aLoop n 0x1C) ≤ k * loopPeriod (L.loopE n) / 4

/-- s_k of a running injection (R210). -/
def injSignal (L : Lane) (n : Nat) (g : LoopInj) : F64 :=
  let cfg := L.get (aLoop n 0xC)
  let amp := f32to64 (L.get (aLoop n 0x10))
  let fa := f32to64 (L.get (aLoop n 0x14))
  let fb := f32to64 (L.get (aLoop n 0x18))
  let dur := L.getN (aLoop n 0x1C)
  let tau := fRat (g.k * loopPeriod (L.loopE n)) 4000
  let tt := fRat dur 1000
  let tp := fmul (fOfNat 2) fPi
  if injOver L n g.k then f0
  else match fieldOf cfg 5 3 with
    | 0 => if g.lfsr.testBit (fieldOf cfg 8 5 - 1) then amp else fneg amp
    | 1 => fmul amp (fsin (fmul tp (fadd (fmul fa tau) (fdiv (fmul (fsub fb fa) (fmul tau tau)) (fmul (fOfNat 2) tt)))))
    | 2 =>
      let r := fdiv fb fa
      let e := fsub (fpow r (fdiv tau tt)) f1
      fmul amp (fsin (fdiv (fmul (fmul (fmul tp fa) tt) e) (fln r)))
    | 3 => amp
    | _ => if flt tau (fdiv tt (fOfNat 2)) then amp else fneg amp

/-- The injection after its sample. -/
def injNext (L : Lane) (n : Nat) (g : LoopInj) : LoopInj :=
  let cfg := L.get (aLoop n 0xC)
  if g.hold ≤ 1 then { k := g.k + 1, lfsr := prbsNext (fieldOf cfg 8 5) g.lfsr, hold := fieldOf cfg 16 8 }
  else { g with k := g.k + 1, hold := g.hold - 1 }

/-- An injection begins: LFSR all ones. -/
def injBegin (L : Lane) (n : Nat) : LoopInj :=
  let cfg := L.get (aLoop n 0xC)
  { k := 0, lfsr := 2 ^ fieldOf cfg 8 5 - 1, hold := fieldOf cfg 16 8 }

/-- An injection ends with a reason (R211): 1 DONE, 2 ENVELOPE, 3 STOPPED, 4 MODE, 5 STALE, 6 MODULE. -/
def State.injEnd (s : State) (l : LaneId) (n : Fin 128) (code : Nat) : State :=
  let s1 := s.upd l fun L =>
    let L1 := ((L.setFld (aLoop n 0) 13 3 code).setFlag (aLoop n 0) 12 false).setFlag (aLoop n 0) 11 false
    L1.loopUpd n fun t => { t with core := { t.core with inj := none, injReq := false } }
  let s2 := s1.raise l 0x5D n
  if code = 2 then s2.raise l 0x5E n else s2

/-! One sample (R196). -/

/-- Freshness of an input at a sample (R200): a new stamp stands for the instant it names. -/
def seenStep (old : Option Word × Option Nat) (stamp : Option Word) (now : Nat) : Option Word × Option Nat :=
  if stamp = old.1 then old
  else (stamp, stamp.map fun w => ((now : Int) + diff32 w.toNat (now % 2 ^ 32)).toNat)

def inputStale (maxAge : Nat) (seen : Option Word × Option Nat) (now : Nat) : Bool :=
  maxAge != 0 && match seen.2 with
    | none => true
    | some t => decide (t + maxAge * 1000000 < now)

/-- The latched quantities of a sample (step 1). -/
structure Latch where
  y : List F64
  seen : List (Option Word × Option Nat)
  stale : Nat
  g : List F64
  uff : List F64
deriving DecidableEq, Repr

def State.loopLatchIn (s : State) (l : LaneId) (n : Nat) (st : LoopSt) : Latch :=
  let L := s.lane l
  let e := L.loopE n
  let now := s.ns
  let ins := (List.range (loopIn e)).map fun i =>
    let d := inDesc e i
    let (v, w) := s.srcVal l (u8At d 0) (u32At d 4)
    let seen := seenStep (st.seen.getD i (none, none)) w now
    (ffma (f32to64 (f32At d 8)) v (f32to64 (f32At d 0xC)), seen, inputStale (u16At d 2) seen now)
  let g := (List.range (loopRef e)).map fun j =>
    let d := refDesc e j
    if u8At d 0 = 1 then ((L.get (aRef (8 * n + j) 4)) ++ (L.get (aRef (8 * n + j) 0)) : F64) else (s.srcVal l (u8At d 0) (u32At d 4)).1
  let uff := (List.range (loopOut e)).map fun j =>
    let d := outDesc e j
    if u8At d 1 = 0 then f0 else (s.srcVal l (u8At d 1) (u32At d 8)).1
  { y := ins.map (·.1), seen := ins.map (·.2.1), g := g, uff := uff,
    stale := (List.range ins.length).foldl (fun k i => k + bit ((ins.map (·.2.2)).getD i false) * 2 ^ i) 0 }

def loopTs (e : Bytes) : F64 := fRat (loopPeriod e) 4000
def allFinite (xs : List F64) : Bool := xs.all isFinite64
/-- Add to one element. -/
def bump (xs : List F64) (i : Nat) (v : F64) : List F64 := setAt xs i (fadd (fAt xs i) v)

/-- State and output of a mode at a sample: x̂ (x̂_c in current form), u, innovation. -/
def modeAt (z : LoopMode) (x y r uff uaPrev man : List F64) (fresh : Bool) : List F64 × List F64 × List F64 :=
  if z.manual then ([], man, [])
  else if z.n = 0 then ([], z.law [] r uff, [])
  else if z.current then
    let inn := z.innov y x uaPrev
    let xc := if fresh then x else vAdd x (z.mul z.n z.p z.oL inn)
    (xc, z.law xc r uff, if fresh then y.map fun _ => f0 else inn)
  else (x, z.law x r uff, [])

/-- Step 11 for a mode: the next state and the innovation of the sample. -/
def modeNext (z : LoopMode) (x y ua inn : List F64) : List F64 × List F64 :=
  if z.manual || z.n == 0 then ([], [])
  else
    let ax := vAdd (z.mul z.n z.n 0 x) (z.mul z.n z.m z.oB ua)
    if z.current then (ax, inn)
    else
      let i := z.innov y x ua
      (vAdd ax (z.mul z.n z.p z.oL i), i)

/-- Notches, clamp and rate limit of one output (steps 8 and 9): u_f and the notch states. -/
def Lane.outStep (L : Lane) (n j : Nat) (ts us uPrev : F64) (z : F64 × F64 × F64 × F64) : F64 × (F64 × F64 × F64 × F64) :=
  let i := 8 * n + j
  let (c0, c1) := L.notches n j ts
  let (v0, a, b) := notchStep c0 z.1 z.2.1 us
  let (v1, c, d) := notchStep c1 z.2.2.1 z.2.2.2 v0
  let v := fmin (fmax v1 (wF (L.get (aOut i 0)))) (wF (L.get (aOut i 4)))
  let rate := fmul (wF (L.get (aOut i 8))) ts
  let uf := if feq rate f0 then v else fadd uPrev (fmin (fmax (fsub v uPrev) (fneg rate)) rate)
  (uf, (a, b, c, d))

/-- Steps 4 to 11 of a sample that is not stale; none when a value is not finite (R199). `r` are the shaped references. -/
def Lane.sampleRun (L : Lane) (n : Nat) (st : LoopSt) (la : Latch) (r0 : List F64) (sh : List (F64 × F64)) (tb : Nat) : Option LoopPend :=
  let e := L.loopE n
  let pool := (L.dr 9).drop (32 + 1024 * L.loopN)
  let c := st.core
  let ts := loopTs e
  let m := loopOut e
  let lst := L.get (aLoop n 0)
  let inj := if c.injReq then some (injBegin L n) else c.inj
  let sk := match inj with
    | some g => injSignal L n g
    | none => f0
  let cfg := L.get (aLoop n 0xC)
  let at_ (pt : Nat) (xs : List F64) : List F64 := if inj.isSome && fieldOf cfg 0 2 = pt then bump xs (fieldOf cfg 2 3) sk else xs
  let y := at_ 2 la.y
  let r := at_ 0 r0
  let act0 := fieldOf lst 0 2
  let sel := L.fld (aLoop n 4) 0 2
  let changed := c.blend.isNone && sel != act0
  let act := if changed then sel else act0
  let blend := if changed then some (act0, 0) else c.blend.map fun b => (b.1, b.2 + 1)
  let ms := L.fld (aLoop n 8) 0 16
  let full := match blend with
    | none => true
    | some (_, j) => ms = 0 || 4 * ms ≤ j * loopPeriod e
  let lam := match blend with
    | none => f1
    | some (_, j) => if full then f1 else fRat (j * loopPeriod e) (4 * ms)
  let old := match blend with
    | some (o, _) => o
    | none => act
  let mode (k : Nat) : LoopMode := modeOf pool e k
  let fresh (k : Nat) : Bool := !c.started || (changed && k == act)
  let man := if (changed || !c.started) && (mode act).manual then
      (List.range m).filterMap fun j => if st.manNew.contains j then none else some (aOut (8 * n + j) 0xC, f64to32 (fAt c.uPrev j)) else []
  let manV := (List.range m).map fun j =>
    match man.find? fun p => p.1 == aOut (8 * n + j) 0xC with
    | some p => wF p.2
    | none => wF (L.get (aOut (8 * n + j) 0xC))
  let x0 (k : Nat) : List F64 :=
    let z := mode k
    if fresh k && !z.manual && z.n != 0 then z.init r la.uff c.uPrev else c.x.toList.getD k []
  let (xN, uN, iN) := modeAt (mode act) (x0 act) y r la.uff c.ua manV (fresh act)
  let (xO, uO, iO) := if full then ([], uN, []) else modeAt (mode old) (x0 old) y r la.uff c.ua manV (fresh old)
  let uc0 := if full then uN else List.zipWith (fun o w => fadd (fmul (fsub f1 lam) o) (fmul lam w)) uO uN
  let uc := at_ 1 uc0
  let us := (List.range m).map fun j => fmin (fmax (fAt uc j) (wF (L.get (aOut (8 * n + j) 0)))) (wF (L.get (aOut (8 * n + j) 4)))
  let outs := (List.range m).map fun j => L.outStep n j ts (fAt us j) (fAt c.uPrev j) (c.notch.getD j (f0, f0, f0, f0))
  let uf := outs.map (·.1)
  let lo (j : Nat) : F64 := f32to64 (f32At (outDesc e j) 0x20)
  let hi (j : Nat) : F64 := f32to64 (f32At (outDesc e j) 0x24)
  let outside := inj.isSome && anyBelow m fun j => flt (fAt uf j) (lo j) || flt (hi j) (fAt uf j)
  let code := match inj with
    | none => 0
    | some g => if injOver L n g.k then 1 else if changed then 4 else if outside then 2 else 0
  let ua := if loopFeed e then uf else us
  let (nN, inN) := modeNext (mode act) xN y ua iN
  let (nO, _) := if full then ([], []) else modeNext (mode old) xO y ua iO
  let xs := (c.x.set! act nN)
  let xs := if full then xs else xs.set! old nO
  let fin := allFinite y && allFinite r && allFinite uc && allFinite us && allFinite uf &&
    allFinite nN && allFinite nO && (outs.all fun o => allFinite [o.2.1, o.2.2.1, o.2.2.2.1, o.2.2.2.2])
  if !fin then none
  else some
    { core := { started := true, x := xs, ua := ua, shaper := sh, notch := outs.map (·.2), uPrev := uf,
                blend := if full then none else blend, injReq := false,
                inj := if code = 0 then inj.map (injNext L n) else none,
                vals := { y := y, g := la.g, r := r, uc := uc, us := us, uf := uf, uff := la.uff, x := xN, innov := inN, s := sk, tb := tb,
                          injStart := c.injReq, modeChange := changed } },
      man := man, active := act,
      sat := (List.range m).foldl (fun k j => k + bit (fAt us j != fAt uc j) * 2 ^ j) 0,
      stale := 0, ran := true, bad := false, begins := c.injReq, tb := tb, changed := changed, blendEnd := blend.isSome && full, injCode := code }

/-- Shape the references: r and the shapers after the sample, and whether all of it was finite (R199, R201); a shaper that would leave
the finite numbers stays. -/
def Lane.shapeAll (L : Lane) (n : Nat) (core : LoopCore) (g : List F64) : List F64 × List (F64 × F64) × Bool :=
  let ts := loopTs (L.loopE n)
  let ks := (List.range g.length).map fun j =>
    let k := if j < core.shaper.length then core.shaper.getD j (f0, f0) else (fAt g j, f0)
    let k' := shapeStep k (fAt g j) (wF (L.get (aRef (8 * n + j) 8))) (wF (L.get (aRef (8 * n + j) 0xC))) ts
    let fin := isFinite64 k'.1 && isFinite64 k'.2
    (k.1, if fin then k' else k, fin)
  (ks.map (·.1), ks.map (·.2.1), ks.all (·.2.2))

/-! Capture (R212-R214). -/

/-- A signal of a loop's latest completed sample (R212). -/
def Lane.capSignal (L : Lane) (ch : Nat) : F64 :=
  let st := L.ctl.loops.getD (ch / 256 % 128) LoopSt.init
  let v := st.core.vals
  let i := ch % 16
  match ch / 16 % 16 with
  | 0 => fAt v.y i
  | 1 => fAt v.g i
  | 2 => fAt v.r i
  | 3 => fAt v.uc i
  | 4 => fAt v.us i
  | 5 => fAt v.uf i
  | 6 => fAt v.x i
  | 7 => fAt v.innov i
  | 8 => v.s
  | _ => fAt v.uff i

/-- Channel w of a capture unit as 15 bits: loop, signal, index. -/
def Lane.capCh (L : Lane) (c w : Nat) : Nat := (L.getN (aCap c (0x10 + 4 * (w / 2))) >>> (16 * (w % 2))) % 2 ^ 15
def Lane.capNch (L : Lane) (c : Nat) : Nat := L.fld (aCap c 0) 0 4
def Lane.capState (L : Lane) (c : Nat) : Nat := L.fld (aCap c 0x2C) 29 3
def Lane.capRow (L : Lane) (c : Nat) : Nat :=
  let w := if L.flag (aCap c 0) 16 then 8 else 4
  8 + 8 * ceilDiv (L.capNch c * w) 8

def Lane.capUpd (L : Lane) (c : Fin 4) (f : CapSt → CapSt) : Lane := { L with ctl := { L.ctl with caps := L.ctl.caps.set c (f L.ctl.caps[c]) } }

/-- Bytes of a row. -/
def Lane.capBytes (L : Lane) (c : Nat) (tb : Nat) : Bytes :=
  let wide := L.flag (aCap c 0) 16
  let vals := ((List.range (L.capNch c)).map fun w =>
    let v := L.capSignal (L.capCh c w)
    if wide then leBytes 8 v.toNat else leBytes 4 (f64to32 v).toNat).flatten
  slice (leBytes 4 tb ++ zeros 4 ++ vals) 0 (L.capRow c)

/-- The trigger condition at a row (R213); `inj` and `mode` say what happened in the clock sample. -/
def Lane.capTrig (L : Lane) (c : Fin 4) (v : F64) (inj mode : Bool) : Bool :=
  let lv := wF (L.get (aCap c 0x24))
  let prev := L.ctl.caps[c].prev
  let up := match prev with
    | some p => flt p lv && fle lv v
    | none => false
  let down := match prev with
    | some p => flt lv p && fle v lv
    | none => false
  match L.fld (aCap c 0x20) 0 3 with
  | 0 => true
  | 1 => up
  | 2 => down
  | 3 => up || down
  | 4 => inj
  | _ => mode

/-- Counts of valid rows and the oldest row, after `written` rows of a ring of `len`. -/
def Lane.capCounts (L : Lane) (c written len : Nat) : Lane :=
  let L1 := L.setFld (aCap c 0x30) 0 17 (min written len)
  L1.setFld (aCap c 0x2C) 0 17 (if len ≤ written then written % len else 0)

def State.capDone (s : State) (l : LaneId) (c : Fin 4) : State := (s.upd l (·.setFld (aCap c 0x2C) 29 3 3)).raise l 0x60 c

/-- A row is written through the window table (R212, R214); a window fault or an uncorrectable error ends the unit. -/
def State.capWrite [RegIO] (s : State) (l : LaneId) (c : Fin 4) (tb : Nat) : State :=
  let L := s.lane l
  let len := L.fld (aCap c 8) 0 17
  let w := L.ctl.caps[c].written
  match s.winWrite l (20 + c.val) (L.getN (aCap c 4) + w % len * L.capRow c) (L.capBytes c tb) with
  | (s1, some f) => ((s1.winHit l (20 + c.val) f).upd l (·.setFld (aCap c 0x2C) 29 3 5)).raise l 0x61 c
  | (s1, none) =>
    let s2 := s1.upd l fun L => (L.capUpd c fun u => { u with written := w + 1, left := u.left - 1 }).capCounts c (w + 1) len
    if (s2.lane l).capState c == 2 && (s2.lane l).ctl.caps[c].left == 0 then s2.capDone l c else s2

/-- A row of unit c falls due at a sample of its clock loop (R212-R214). Whether it is written before the next one falls due is a
free value (log 55): a row that is not is dropped. -/
def State.capRowAt [RegIO] (s : State) (l : LaneId) (c : Fin 4) (tb : Nat) (inj mode : Bool) : State :=
  let L := s.lane l
  let len := L.fld (aCap c 8) 0 17
  let pre := L.fld (aCap c 0xC) 0 17
  let v := L.capSignal (L.capCh c (L.fld (aCap c 0x20) 4 3))
  let trig := L.capState c == 1 && L.capTrig c v inj mode
  let s1 := if trig then (s.upd l fun L => (L.setFld (aCap c 0x2C) 29 3 2).capUpd c fun u => { u with left := len - pre }).raise l 0x5F c else s
  let s2 := s1.upd l fun L => L.capUpd c fun u => { u with prev := some v }
  if trig && len == pre then s2.capDone l c
  else
    let (drop, s3) := s2.fresh
    if drop.getLsbD 0 then s3.upd l fun L => (L.setFlag (aCap c 0x2C) 28 true).incFld (aCap c 0x30) 17 15
    else s3.capWrite l c tb

/-- A sample of loop n is completed: units clocked by it write a row at every DECIM-th sample. -/
def State.capSample [RegIO] (s : State) (l : LaneId) (n : Nat) (tb : Nat) (inj mode : Bool) : State :=
  (List.finRange 4).foldl (fun (s : State) (c : Fin 4) =>
    let L := s.lane l
    if (L.capState c == 1 || L.capState c == 2) && L.fld (aCap c 0) 17 7 == n then
      let k := L.ctl.caps[c].count + 1
      if L.fld (aCap c 0) 24 8 ≤ k then (s.upd l fun L => L.capUpd c fun u => { u with count := 0 }).capRowAt l c tb inj mode
      else s.upd l fun L => L.capUpd c fun u => { u with count := k }
    else s) s

/-- A sample of one loop in one lane: what it comes to is held until its output instant (R193, R196). -/
def State.loopSample (s : State) (l : LaneId) (n : Fin 128) : State :=
  let L := s.lane l
  let st := L.ctl.loops[n]
  let la := s.loopLatchIn l n st
  let (r, sh, shaped) := L.shapeAll n st.core la.g
  let fin := shaped && allFinite la.y && allFinite la.g && allFinite la.uff && allFinite r
  let run := if la.stale ≠ 0 || !fin then none else L.sampleRun n st la r sh s.tb32
  let held : LoopPend :=
    let v := { st.core.vals with y := la.y, g := la.g, r := r, uf := st.core.uPrev, uff := la.uff, s := f0, tb := s.tb32 }
    { core := { st.core with shaper := sh, vals := { v with injStart := false, modeChange := false }, injReq := false, inj := none },
      man := [], active := L.fld (aLoop n 0) 0 2, sat := 0, stale := la.stale, ran := false, bad := la.stale = 0 || !fin,
      changed := false, blendEnd := false, injCode := if st.core.inj.isSome || st.core.injReq then 5 else 0, begins := st.core.injReq, tb := s.tb32 }
  s.upd l fun L => L.loopUpd n fun t => { t with k := t.k + 1, pend := some (run.getD held), seen := la.seen, manNew := [] }

/-- Instant of sample k in ns (R192). -/
def State.loopNs (s : State) (e : Bytes) (k : Nat) : Nat := s.mode.tR.getD 0 + 250000 * (loopPhase e + k * loopPeriod e)

/-- The next sample instant of a loop, where it samples and no sample waits for its output instant. -/
def State.sampleAt (s : State) (loop : Fin 128) : Option Nat :=
  let L := s.lane s.act
  let st := L.ctl.loops[loop]
  if !s.running || L.loopN ≤ loop.val || st.pend.isSome then none else some (nsU (s.loopNs (L.loopE loop) st.k))

/-! Output instant (R193, R305). -/

def fToI32 (v : F64) : Word := BitVec.ofNat 32 (unsignedOf 32 (clampI (-(2 ^ 31)) (2 ^ 31 - 1) (fRound v)))

/-- Final outputs reach CTL_OUT and their destinations in one lane. -/
def State.loopPut (s : State) (l : LaneId) (n : Fin 128) (us : List F64) : State :=
  let e := (s.lane l).loopE n
  (List.range (loopOut e)).foldl (fun s j =>
    let d := outDesc e j
    let u := fAt us j
    let s1 := s.upd l fun L => L.put (0x400CE000 + 4 * (8 * n.val + j)) (f64to32 u)
    let idx := u32At d 4
    match u8At d 0 with
    | 1 => if h : idx < 16 then s1.axTarget l ⟨idx, h⟩ false (fToI32 u) else s1
    | 2 => if h : idx < 16 then s1.axTarget l ⟨idx, h⟩ true (f64to32 u) else s1
    | 3 => s1.upd l fun L => L.mstSet (idx / 16) (idx % 16) u
    | _ => s1) s

/-- CTL_LSTAT's mode fields once a sample has taken effect (R203): a request that came meanwhile is judged against the mode now
active. -/
def Lane.loopModeShow (L : Lane) (n : Fin 128) (p : LoopPend) : Lane :=
  let blend := p.core.blend.isSome
  let sel := L.fld (aLoop n 4) 0 2
  let queued := sel != p.active && (blend || L.flag (aLoop n 0) 6)
  let L1 := ((L.setFld (aLoop n 0) 0 2 p.active).setFlag (aLoop n 0) 7 blend).setFlag (aLoop n 0) 6 queued
  if queued then L1.setFld (aLoop n 0) 4 2 sel else if p.changed then L1.setFld (aLoop n 0) 4 2 p.active else L1

/-- A sample that ends in time takes effect (R193, R196): its state, CTL_LSTAT, its events. A CTL_MAN that a commit has written since
keeps its value (R218), an START accepted since waits for the next sample (R209). -/
def State.loopCommit (s : State) (l : LaneId) (n : Fin 128) (p : LoopPend) : State :=
  let st := (s.lane l).ctl.loops[n]
  let was := (s.lane l).flag (aLoop n 0) 8
  let man := p.man.filter fun w => st.manNew.all fun j => w.1 != aOut (8 * n.val + j) 0xC
  let s1 := s.upd l fun L =>
    let L1 := (man.foldl (fun L w => L.put w.1 w.2) L).loopUpd n fun t =>
      { t with core := { p.core with injReq := st.core.injReq && !p.begins }, pend := none }
    let L2 := ((L1.setFld (aLoop n 0) 24 8 p.sat).setFld (aLoop n 0) 16 8 p.stale).setFlag (aLoop n 0) 8 !p.ran
    let L3 := if p.bad then L2.setFlag (aLoop n 0) 9 true else L2
    let L4 := if p.ran then (L3.loopModeShow n p).setFlag (aLoop n 0) 12 p.core.inj.isSome else L3
    if !p.ran && !was then L4.incFld 0x400C0008 0 16 else L4
  let s2 := if p.bad then s1.raise l 0x59 n else s1
  let s3 := if !p.ran && !was then s2.raise l 0x58 n else s2
  let s4 := if p.changed then s3.raise l 0x5B n else s3
  let s5 := if p.blendEnd then s4.raise l 0x5C n else s4
  if p.injCode ≠ 0 then s5.injEnd l n p.injCode else s5

/-- The output instant in one lane: delivery, or a late sample discarded; then the captures clocked by the loop. -/
def State.loopOutput [RegIO] (s : State) (l : LaneId) (n : Fin 128) (late : Bool) : State :=
  match (s.lane l).ctl.loops[n].pend with
  | none => s
  | some p =>
    if late then
      let s1 := (s.upd l fun L => ((L.setFlag (aLoop n 0) 10 true).loopUpd n fun t => { t with pend := none }).incFld 0x400C0008 16 16).raise l 0x5A n
      s1.capSample l n p.tb false false
    else
      let s1 := (s.loopCommit l n p).upd l fun L => L.loopUpd n fun t => { t with out := t.core.uPrev, outAt := some s.ns }
      (s1.capSample l n p.tb (p.ran && p.begins) p.changed).loopPut l n p.core.uPrev

/-- An output of a loop lies outside its envelope (R308), against the value last applied, dt ns ago. -/
def Lane.loopOutside (L : Lane) (i : Nat) (u last : F64) (dt : Nat) : Bool :=
  match L.cmpEntry 3 i with
  | none => false
  | some e =>
    let rate := f32to64 (f32At e 0x14)
    flt u (f32to64 (f32At e 0xC)) || flt (f32to64 (f32At e 0x10)) u ||
    (flt f0 rate && flt (fmul rate (fRat dt 1000000000)) (fabs (fsub u last)))

def Lane.loopTol (L : Lane) (i : Nat) : F64 :=
  match L.cmpEntry 3 i with
  | some e => f32to64 (f32At e 8)
  | none => f0

/-- The final outputs of a loop that differ by more than their tolerance between the lanes (R305). -/
def Lane.loopBad (L : Lane) (loop : Fin 128) (uA uS : List F64) : List Nat :=
  (List.range (loopOut (L.loopE loop))).filter fun j => !fle (fabs (fsub (fAt uA j) (fAt uS j))) (L.loopTol (8 * loop.val + j))

/-- One of those outputs lies outside what the lane may give, `dt` after the value last applied (R308). -/
def Lane.loopsOutside (L : Lane) (loop : Fin 128) (bad : List Nat) (u last : List F64) (dt : Nat) : Bool :=
  bad.any fun j => L.loopOutside (8 * loop.val + j) (fAt u j) (fAt last j) dt

/-- The output instant of the sample in progress; `lateA` and `lateB` say in which lane it has not ended (R193). -/
def rowLoopOutputInstant [RegIO] (loop : Fin 128) (lateA lateB : Bool) (s : State) : Out :=
  let act := s.act
  let L := s.lane act
  let e := L.loopE loop
  let st := L.ctl.loops[loop]
  if !s.running || st.pend.isNone then .next s
  else
    let s0 := s.advTo (nsU (s.loopNs e (st.k - 1) + 25000 * loopTout e))
    let isLate (l : LaneId) : Bool := if l = .a then lateA else lateB
    let s1 := s0.each s0.ups fun l s => s.loopOutput l loop (isLate l)
    let uA := (s1.lane act).ctl.loops[loop].out
    let uS := (s1.lane (other act)).ctl.loops[loop].out
    let bad := L.loopBad loop uA uS
    if !(s1.compares && !isLate (other act)) || bad.isEmpty then .next s1
    else
      let dt := s1.ns - st.outAt.getD (s1.mode.tR.getD 0)
      .next (s1.redTrigger 3 (8 * loop.val + bad.headD 0) true (L.loopsOutside loop bad uA st.out dt) (L.loopsOutside loop bad uS st.out dt))

/-! Commands (R209, R211, R213). -/

/-- START is accepted (R209, R210). -/
def State.injMay (s : State) (l : LaneId) (n : Fin 128) : Bool :=
  let L := s.lane l
  let e := L.loopE n
  let st := L.ctl.loops[n]
  let fa := L.get (aLoop n 0x14)
  let fb := L.get (aLoop n 0x18)
  let sig := L.fld (aLoop n 0xC) 5 3
  let chirp := sig == 1 || sig == 2
  n.val < L.loopN && loopTest e && L.flag (aLoop n 0) 11 && s.running && st.core.inj.isNone && !st.core.injReq && st.core.blend.isNone &&
    (!chirp || (flt32 0 fa && flt32 fa fb && fle (f32to64 fb) (fdiv (fRat 45 100) (loopTs e))))

def State.injStart (s : State) (l : LaneId) (key : Half) (n : Fin 128) : State :=
  if key ≠ 0x494A then s.ok
  else if !s.injMay l n then s.refuse l 0x62 n
  else (s.upd l fun L => L.loopUpd n fun t => { t with core := { t.core with injReq := true } }).ok
def execInjStart (src : Src) (key : Half) (loop : Fin 128) (s : State) : Out := .next (s.perLane src fun l s => s.injStart l key loop)

/-- STOP ends the injection (R211), also for the sample in progress. -/
def State.injStop (s : State) (l : LaneId) (key : Half) (n : Fin 128) : State :=
  let st := (s.lane l).ctl.loops[n]
  if key ≠ 0x494A || !(st.core.inj.isSome || st.core.injReq) then s.ok
  else
    ((s.upd l fun L => L.loopUpd n fun t => { t with pend := t.pend.map fun p =>
      { p with core := { p.core with inj := none }, injCode := 0 } }).injEnd l n 3).ok
def execInjStop (src : Src) (key : Half) (loop : Fin 128) (s : State) : Out := .next (s.perLane src fun l s => s.injStop l key loop)

/-- ARM (R213). -/
def State.capArm (s : State) (l : LaneId) (key : Half) (c : Fin 4) : State :=
  let L := s.lane l
  let len := L.fld (aCap c 8) 0 17
  if key ≠ 0x4341 then s.ok
  else if !s.running || L.capState c == 1 || L.capState c == 2 || len < L.fld (aCap c 0xC) 0 17 then s.refuse l 0x62 c
  else
    let s1 := s.upd l fun L =>
      let L1 := (L.put (aCap c 0x30) 0).setFld (aCap c 0x2C) 0 17 0
      (L1.setFld (aCap c 0x2C) 29 3 1).capUpd c fun _ => { written := 0, left := 0, count := 0, prev := none }
    (if len = 0 || L.capNch c = 0 then s1.capDone l c else s1).ok
def execCapArm (src : Src) (key : Half) (unit : Fin 4) (s : State) : Out := .next (s.perLane src fun l s => s.capArm l key unit)

/-- A unit ends ABORTED (R214); rows already written stay. -/
def Lane.capAbort (L : Lane) (c : Nat) : Lane := if L.capState c == 1 || L.capState c == 2 then L.setFld (aCap c 0x2C) 29 3 4 else L
def State.capAbortCmd (s : State) (l : LaneId) (key : Half) (c : Fin 4) : State :=
  if key ≠ 0x4341 then s.ok else (s.upd l (·.capAbort c)).ok
def execCapAbort (src : Src) (key : Half) (unit : Fin 4) (s : State) : Out := .next (s.perLane src fun l s => s.capAbortCmd l key unit)

/-! Modes, load, register hooks. -/

/-- The STOP or safe values of a loop. -/
def loopRest (e : Bytes) (safe : Bool) : List F64 :=
  (List.range (loopOut e)).map fun j => f32to64 (f32At (outDesc e j) (if safe then 0x1C else 0x18))

/-- Loops of a lane when the module leaves RUN, SINGLE and HOLD, or is in STOP, SAFE, CONFIGURE or RESET (R42, R46, R192,
R209, R211, R214). RETAIN stops them as they are. -/
def State.loopsMode (s : State) (l : LaneId) (m : Mode) : State :=
  let n := (s.lane l).loopN
  let s1 := (List.finRange 128).foldl (fun (s : State) (i : Fin 128) =>
    if n ≤ i.val then s
    else
      let t := (s.lane l).ctl.loops[i]
      let s0 := if t.core.inj.isSome || t.core.injReq then s.injEnd l i 6 else s
      if m == .retain then s0.upd l fun L => L.loopUpd i fun t => { t with pend := none }
      else
        let e := (s0.lane l).loopE i
        let us := if m == .stop then loopRest e false else if m == .safe then loopRest e true else (loopRest e false).map fun _ => f0
        let s1 := s0.upd l fun L =>
          let w := L.get (aLoop i 0)
          let w1 := BitVec.ofNat 32 (fieldOf w 13 3 * 2 ^ 13 + fieldOf w 9 2 * 2 ^ 9 + fieldOf w 0 2)
          (L.put (aLoop i 0) w1).loopUpd i fun _ => { LoopSt.init with out := us }
        s1.loopPut l i us) s
  s1.upd l fun L => (List.range 4).foldl (fun L c => L.capAbort c) L

/-- Loops restart at t_R (R47, R192): notches at rest at the STOP value, the previous final output the STOP value. -/
def State.loopsBegin (s : State) (l : LaneId) : State :=
  (List.finRange 128).foldl (fun (s : State) (i : Fin 128) =>
    let L := s.lane l
    if L.loopN ≤ i.val then s
    else
      let e := L.loopE i
      let us := loopRest e false
      let ts := loopTs e
      let notch := (List.range (loopOut e)).map fun j =>
        let (a, b) := L.notches i j ts
        let za := notchRest a (fAt us j)
        let zb := notchRest b (fAt us j)
        (za.1, za.2, zb.1, zb.2)
      let seen := (List.range (loopIn e)).map fun k => ((s.srcVal l (u8At (inDesc e k) 0) (u32At (inDesc e k) 4)).2, (none : Option Nat))
      let core := { LoopCore.init with notch := notch, uPrev := us, ua := us }
      s.upd l fun L => L.loopUpd i fun t => { LoopSt.init with out := t.out, seen := seen, core := core }) s

/-- What an applied write of a CTL register does beside the register (R203, R209, R218). -/
def Lane.ctlApplied (L : Lane) (a : Nat) : Lane :=
  if 0x400C1000 ≤ a ∧ a < 0x400C2000 then
    let n := (a - 0x400C1000) / 0x20
    if a % 0x20 = 4 then
      let act := L.fld (aLoop n 0) 0 2
      let sel := L.fld (aLoop n 4) 0 2
      if L.flag (aLoop n 0) 7 then (L.setFlag (aLoop n 0) 6 (sel != act)).setFld (aLoop n 0) 4 2 sel
      else if sel = act then L.setFlag (aLoop n 0) 6 false
      else if L.flag (aLoop n 0) 6 then L.setFld (aLoop n 0) 4 2 sel
      else L
    else if 0xC ≤ a % 0x20 then L.setFlag (aLoop n 0) 11 true
    else L
  else if 0x400C6000 ≤ a ∧ a < 0x400CE000 ∧ a % 0x20 = 0xC then
    let i := (a - 0x400C6000) / 0x20
    L.loopUpd (Fin.ofNat 128 (i / 8)) fun t => { t with manNew := i % 8 :: t.manNew }
  else L

/-- S_loop of an entry (R194). -/
def loopSteps (e : Bytes) : Nat :=
  let p := loopIn e
  let m := loopOut e
  let q := loopRef e
  let sMode (k : Nat) : Nat :=
    let d := modeDesc e k
    let n := u8At d 2
    if u8At d 0 = 1 then 20 else 40 + ceilDiv (n * n + 3 * n * m + 2 * n * p + p * m + m * q) 4
  let big := ((List.range (loopModes e)).map sMode).foldl max 0
  150 + 20 * p + 30 * q + 40 * m + (if 2 ≤ loopModes e then 2 else 1) * big + (if loopTest e then 60 else 0)

/-- Two loops can share a tick (R194). -/
def loopsMeet (x y : Bytes) : Bool := loopPhase x % Nat.gcd (loopPeriod x) (loopPeriod y) == loopPhase y % Nat.gcd (loopPeriod x) (loopPeriod y)

/-- Left-hand sides of the load check in steps of 1/600 us: for every loop l and every loop that can share a tick with it,
the sum up to and including it, in the order of T_OUT and index; with its bound. -/
def loopLoads (es : List Bytes) : List (Nat × Nat) :=
  ((List.range es.length).map fun l =>
    let x := es.getD l []
    let set := (List.range es.length).filter fun i => i == l || loopsMeet x (es.getD i [])
    set.map fun i =>
      let y := es.getD i []
      let before := set.filter fun j => loopTout (es.getD j []) < loopTout y || (loopTout (es.getD j []) == loopTout y && j ≤ i)
      (1200 + before.foldl (fun k j => k + loopSteps (es.getD j [])) 0, 15000 * loopTout y)).flatten

def loopEntries (d : Bytes) : List Bytes := if d.isEmpty then [] else (List.range (u16At d 0)).map fun n => slice d (32 + 1024 * n) 1024

/-- A source or destination index names an object of the image (R189, R191, R402). -/
def ctlSrcOk (ds : List Drawer) (es : List Bytes) (kind idx : Nat) : Bool :=
  match kind with
  | 0x2 => (List.range 8).any fun t => (if (drOf ds 4 t).isEmpty then [] else symsOf (drOf ds 4 t)).any fun y =>
      y.id == idx && y.attr.testBit 1 && 1 ≤ y.typ && y.typ ≤ 0xB
  | 0x3 => idx / 8 < es.length && idx % 8 < loopOut (es.getD (idx / 8) [])
  | 0x4 =>
    let h := drOf ds 0xF
    !h.isEmpty && idx / 4 < u16At h 0 && (u8At h (32 + 64 * (idx / 4))).testBit 0
  | 0x5 =>
    let m := drOf ds 0xD
    !m.isEmpty && idx / 16 < u16At m 0 && (u8At m (32 + 32 * (idx / 16))).testBit 0 && idx % 16 ≤ 8
  | 0x6 =>
    let m := drOf ds 0xE
    !m.isEmpty && idx / 32 < u8At m 0 && (u8At m (32 + 128 * (idx / 32))).testBit 0 && idx % 8 != 7
  | 0x7 => idx < 16 && (u8At (drOf ds 0xA) (32 + 96 * idx)).testBit 0
  | _ => false

def ctlDstOk (ds : List Drawer) (kind idx : Nat) : Bool :=
  match kind with
  | 0 => idx == 0
  | 1 => idx < 16 && (u8At (drOf ds 0xA) (32 + 96 * idx)).testBit 0
  | 2 => idx < 16 && (u8At (drOf ds 0xA) (32 + 96 * idx)).testBit 0
  | 3 =>
    let m := drOf ds 0xD
    !m.isEmpty && idx / 16 < u16At m 0 && (u8At m (32 + 32 * (idx / 16))).testBit 0 && idx % 16 ≤ 2
  | 4 => (List.range 8).any fun t => (if (drOf ds 4 t).isEmpty then [] else symsOf (drOf ds 4 t)).any fun y => y.id == idx && 1 ≤ y.typ && y.typ ≤ 0xB
  | _ => false

/-- Notch values within R208. -/
def notchOk (e : Bytes) (f dw : Word) : Bool :=
  let ts := loopTs e
  let v := f32to64 f
  isFinite32 f && (feq v f0 || (fle (fdiv (fRat 1 1000) ts) v && fle v (fdiv (fRat 45 100) ts))) &&
  fieldOf dw 16 16 ≤ 6000 && 1 ≤ fieldOf dw 0 16 && fieldOf dw 0 16 ≤ 2000

def fin32 (e : Bytes) (o : Nat) : Bool := isFinite32 (f32At e o)
def nonneg32 (e : Bytes) (o : Nat) : Bool := fin32 e o && fle32 0 (f32At e o)

/-- K·G - I has no entry above 1e-9 (R191). -/
def kgOk (z : LoopMode) : Bool :=
  allBelow z.m fun i => allBelow z.m fun j =>
    let v := (List.range z.n).foldl (fun acc k => ffma (f64At z.pool (z.ofs + 8 * (z.oK + i * z.n + k)))
      (f64At z.pool (z.ofs + 8 * (z.oG + k * z.m + j))) acc) f0
    fle (fabs (fsub v (if i = j then f1 else f0))) (fRat 1 1000000000)

/-- One loop entry (R188, R191). -/
def loopEntryOk (ds : List Drawer) (es : List Bytes) (pool e : Bytes) : Bool :=
  let p := loopIn e
  let m := loopOut e
  let q := loopRef e
  1 ≤ loopPeriod e && loopPeriod e ≤ 4000 && loopPhase e < loopPeriod e && 1 ≤ loopTout e && loopTout e ≤ 9 && p ≤ 8 && 1 ≤ m && m ≤ 8 &&
  q ≤ 8 && 1 ≤ loopModes e && loopModes e ≤ 4 && u8At e 9 < loopModes e && u16At e 0xA < 4 && u16At e 0xC ≤ 60000 &&
  allAt e 0xE 50 0 && allAt e 0x3C0 64 0 &&
  (allBelow 8 fun i =>
    let d := inDesc e i
    if p ≤ i then d.all (· == 0)
    else 2 ≤ u8At d 0 && ctlSrcOk ds es (u8At d 0) (u32At d 4) && u8At d 1 == 0 && u16At d 2 ≤ 2000 && fin32 d 8 && fin32 d 0xC) &&
  (allBelow 8 fun j =>
    let d := refDesc e j
    if q ≤ j then d.all (· == 0)
    else allAt d 1 3 0 && nonneg32 d 8 && nonneg32 d 0xC &&
      (if u8At d 0 = 1 then u32At d 4 == 0 else (u8At d 0 == 2 || u8At d 0 == 3) && ctlSrcOk ds es (u8At d 0) (u32At d 4))) &&
  (allBelow 8 fun j =>
    let d := outDesc e j
    let le (a b : Nat) : Bool := fle32 (f32At d a) (f32At d b)
    if m ≤ j then d.all (· == 0)
    else ctlDstOk ds (u8At d 0) (u32At d 4) && (if u8At d 1 = 0 then u32At d 8 == 0 else u8At d 1 ≤ 6 && 2 ≤ u8At d 1 && ctlSrcOk ds es (u8At d 1) (u32At d 8)) &&
      allAt d 2 2 0 && fin32 d 0xC && fin32 d 0x10 && nonneg32 d 0x14 && fin32 d 0x18 && fin32 d 0x1C && fin32 d 0x20 && fin32 d 0x24 &&
      le 0xC 0x10 && le 0xC 0x18 && le 0x18 0x10 && le 0xC 0x1C && le 0x1C 0x10 && le 0x20 0x24 &&
      notchOk e (f32At d 0x28) (f32At d 0x2C) && notchOk e (f32At d 0x30) (f32At d 0x34) && allAt d 0x38 8 0) &&
  allBelow 4 fun k =>
    let d := modeDesc e k
    if loopModes e ≤ k then d.all (· == 0)
    else
      let z := modeOf pool e k
      u8At d 0 ≤ 1 && u8At d 1 ≤ 1 && z.n ≤ 16 && u8At d 3 == 0 && allAt d 0xC 20 0 &&
      (if z.manual then u32At d 4 == 0 && u32At d 8 == 0
       else u32At d 4 % 8 == 0 && u32At d 8 == 8 * z.len && u32At d 4 + u32At d 8 ≤ pool.length &&
         (allBelow z.len fun i => isFinite64 (f64At pool (z.ofs + 8 * i))) && (z.n == 0 || kgOk z))

/-- Destinations of the loops, as (code class, index): the two axis codes name one destination. -/
def loopDests (es : List Bytes) : List (Nat × Nat) :=
  (es.map fun e => (List.range (loopOut e)).filterMap fun j =>
    let d := outDesc e j
    if u8At d 0 = 0 then none else some (if u8At d 0 = 2 then 1 else u8At d 0, u32At d 4)).flatten

/-- Destinations of task output bindings in the same form; DQ and CAN buffers have classes of their own. -/
def taskDests (ds : List Drawer) : List (Nat × Nat) :=
  ((List.range 8).map fun t => ((bindingsOf (drOf ds 3) t).filter (·.out)).map fun b => (if b.kind = 2 then 1 else b.kind, b.idx)).flatten

/-- R241: no destination is bound twice, an axis output belongs to the task the AXIS drawer names. -/
def destsOk (ds : List Drawer) : Bool :=
  (loopDests (loopEntries (drOf ds 9)) ++ taskDests ds).Nodup &&
  allBelow 8 fun t => (bindingsOf (drOf ds 3) t).all fun b =>
    if b.out then match b.kind with
      | 1 => ctlDstOk ds 1 b.idx && u8At (drOf ds 0xA) (32 + 96 * b.idx + 1) == t
      | 2 => ctlDstOk ds 2 b.idx && u8At (drOf ds 0xA) (32 + 96 * b.idx + 1) == t
      | 3 => ctlDstOk ds 3 b.idx
      | _ => true
    else if 3 ≤ b.kind && b.kind ≤ 7 then ctlSrcOk ds (loopEntries (drOf ds 9)) b.kind b.idx else true

/-- Cross-checks of the LOOP drawer (R187, R191, R194). -/
def loopDrawerOk (ds : List Drawer) : Bool :=
  let d := drOf ds 9
  let es := loopEntries d
  let pool := d.drop (32 + 1024 * u16At d 0)
  d.isEmpty ||
    (1 ≤ u16At d 0 && u16At d 0 ≤ 128 && u16At d 2 == 0 && u32At d 4 % 8 == 0 && allAt d 8 24 0 &&
     d.length == 32 + 1024 * u16At d 0 + u32At d 4 && (allBelow (pool.length / 8) fun i => isFinite64 (f64At pool (8 * i))) && es.all (loopEntryOk ds es pool) && (loopDests es).Nodup &&
     (loopLoads es).all fun p => p.1 ≤ p.2)

/-- Loop outputs that name an axis (R221). -/
def loopAxisNames (ds : List Drawer) (a : Nat) : Nat := (loopDests (loopEntries (drOf ds 9))).countP fun p => p == (1, a)

/-- Registers and loops at load; WC is rounded up to 0.1 us. -/
def Lane.ctlLoad (L : Lane) : Lane :=
  let d := L.dr 9
  let es := loopEntries d
  let L0 := { L with ctl := { CtlUnit.init with caps := L.ctl.caps }, rf := spErase L.rf 0x400C1000 0x400D0000 }
  if es.isEmpty then (L0.put 0x400C0000 0).put 0x400C0004 0
  else
    let wc := ceilDiv (((loopLoads es).map (·.1)).foldl max 0) 60
    let L1 := (L0.putN 0x400C0000 (es.length * 2 ^ 16 + 1)).putN 0x400C0004 wc
    (List.range es.length).foldl (fun (L : Lane) n =>
      let e := es.getD n []
      let L2 := L.putWords (aLoop n 0) [BitVec.ofNat 32 (u8At e 9), BitVec.ofNat 32 (u8At e 9), BitVec.ofNat 32 (u16At e 0xC)]
      let L3 := (List.range (loopRef e)).foldl (fun (L : Lane) j =>
        L.putWords (aRef (8 * n + j) 8) [f32At (refDesc e j) 8, f32At (refDesc e j) 0xC]) L2
      (List.range (loopOut e)).foldl (fun (L : Lane) j =>
        let o := outDesc e j
        let w (k : Nat) : Word := f32At o k
        (L.putWords (aOut (8 * n + j) 0) [w 0xC, w 0x10, w 0x14]).putWords (aOut (8 * n + j) 0x10) [w 0x28, w 0x2C, w 0x30, w 0x34]) L3) L1

/-- Registers of a loop the image does not define read 0 (R215). -/
def Lane.ctlView (L : Lane) (a : Nat) : Word := if 0x400C1000 ≤ a ∧ L.loopN * 0x20 + 0x400C1000 ≤ a ∧ a < 0x400C2000 then 0 else L.get a

/-- Value checks of CTL registers (R215, R216, R219): the name, the register's index, the value. -/
def Lane.ctlCheck (L : Lane) (req : Requester) (name : String) (a : Nat) (v : Word) : Bool :=
  let es := L.loopN
  let loop (n : Nat) : Bool := n < es
  let n := (a - 0x400C1000) / 0x20
  let ri := (a - 0x400C2000) / 0x10
  let oi := (a - 0x400C6000) / 0x20
  let c := (a - 0x400C0100) / 0x40
  let refDef := ri / 8 < es && ri % 8 < loopRef (L.loopE (ri / 8))
  let outDef := oi / 8 < es && oi % 8 < loopOut (L.loopE (oi / 8))
  let idle := L.capState c != 1 && L.capState c != 2
  let eo := L.loopE (oi / 8)
  let limit := isFinite32 v && fle32 0 v
  let refPair := refDef && u8At (refDesc (L.loopE (ri / 8)) (ri % 8)) 0 == 1
  let owner := L.txnState == 1 && L.txnOwner == reqCode req
  match name with
  | "CTL_LSTAT" => loop n
  | "CTL_MODE_SEL" => loop n && fieldOf v 0 2 < loopModes (L.loopE n)
  | "CTL_BLEND" => loop n && fieldOf v 0 16 ≤ 60000
  | "CTL_INJ_CFG" => loop n && owner && 1 ≤ fieldOf v 16 8 && 7 ≤ fieldOf v 8 5 && fieldOf v 8 5 ≤ 23 && fieldOf v 5 3 ≤ 4 && fieldOf v 0 2 ≤ 2
  | "CTL_INJ_AMP" => loop n && owner && isFinite32 v
  | "CTL_INJ_F1" => loop n && owner && isFinite32 v
  | "CTL_INJ_F2" => loop n && owner && isFinite32 v
  | "CTL_INJ_DUR" => loop n && owner
  | "CTL_REF_LO" => refPair && isFinite64 (L.viewOf req (aRef ri 4) ++ v)
  | "CTL_REF_HI" => refPair && isFinite64 (v ++ L.viewOf req (aRef ri 0))
  | "CTL_RLIM" => refDef && limit
  | "CTL_ALIM" => refDef && limit
  | "CTL_UMIN" => outDef && isFinite32 v && fle32 v (L.viewOf req (aOut oi 4))
  | "CTL_UMAX" => outDef && isFinite32 v && fle32 (L.viewOf req (aOut oi 0)) v
  | "CTL_URATE" => outDef && limit
  | "CTL_MAN" => outDef && isFinite32 v
  | "CTL_N0F" => outDef && notchOk eo v (L.viewOf req (aOut oi 0x14))
  | "CTL_N0DW" => outDef && notchOk eo (L.viewOf req (aOut oi 0x10)) v
  | "CTL_N1F" => outDef && notchOk eo v (L.viewOf req (aOut oi 0x1C))
  | "CTL_N1DW" => outDef && notchOk eo (L.viewOf req (aOut oi 0x18)) v
  | "CTL_CAP_CFG" => idle && 1 ≤ fieldOf v 24 8 && fieldOf v 0 4 ≤ 8
  | "CTL_CAP_ADDR" => idle
  | "CTL_CAP_LEN" => idle && fieldOf v 0 17 ≤ 65536
  | "CTL_CAP_PRE" => idle
  | "CTL_CAP_STAT" => idle
  | "CTL_CAP_ROWS" => idle
  | "CTL_OUT" =>
    let o := (a - 0x400CE000) / 4
    o / 8 < es && o % 8 < loopOut (L.loopE (o / 8))
  | "CTL_CAP_CH" => idle && fieldOf v 4 4 ≤ 9 && fieldOf v 20 4 ≤ 9
  | "CTL_CAP_TRIG" => idle && fieldOf v 0 3 ≤ 5 && (fieldOf v 4 3 = 0 || fieldOf v 4 3 < L.capNch c)
  | "CTL_CAP_LEVEL" => idle && isFinite32 v
  | _ => true

end Sys2Proof.Machine
end

