-- ==== Sys2Proof/Machine/Rec.lean ====
section
/-! DEFINITION. Machine/Rec.lean: the statistics recorder (19: R444-R456): watch points, tallies, record writes, the scan.
Occurrences of events are counted where events are raised (Ops.lean). -/
namespace Sys2Proof.Machine

def aRec (off : Nat) : Nat := 0x40170000 + off
def Lane.recAvail (L : Lane) : Bool := L.flag (aRec 0) 0
/-- Watch entry `w` of the REC drawer (R444). -/
def Lane.watchE (L : Lane) (w : Nat) : Bytes := slice (L.dr 0x10) (32 + 32 * w) 32
def Lane.watchN (L : Lane) : Nat := if (L.dr 0x10).isEmpty then 0 else u16At (L.dr 0x10) 0
def Lane.watchOn (L : Lane) (w : Nat) : Bool := w < L.watchN && (u8At (L.watchE w) 0).testBit 0
def Lane.recRegion (L : Lane) : Nat := chestOff (u32At (L.dr 0x10) 4)
def Lane.recSlots (L : Lane) : Nat := u32At (L.dr 0x10) 8
/-- Length of a period in s. -/
def watchSecs (e : Bytes) : Nat := if u8At e 2 = 0 then 900 else if u8At e 2 = 1 then 3600 else 86400

/-- A new period (R448). -/
def State.watchNew (s : State) (partial_ : Bool) : Watch :=
  { bins := Vector.replicate 16 0, minV := none, maxV := none, missed := 0, samples := 0, startRtc := s.rtcW, startAt := s.tb.run,
    partial_ := partial_, adjusted := false }
def Lane.watch? (L : Lane) (w : Nat) : Option Watch := (L.recU.watches.find? fun p => p.1 == w).map (·.2)
def Lane.setWatch (L : Lane) (w : Nat) (x : Watch) : Lane :=
  { L with recU := { L.recU with watches := (L.recU.watches.filter fun p => p.1 != w) ++ [(w, x)] } }

/-! Watch points. -/

/-- The bin of a value (R447). -/
def watchBin (v lo hi : F64) : Nat :=
  if flt v lo then 0
  else if !flt v hi then 15
  else min 14 (1 + (fFloor (fdiv (fmul (fOfNat 14) (fsub v lo)) (fsub hi lo))).toNat)

/-- One sample of a watch point in a lane. -/
def State.watchSample (s : State) (l : LaneId) (w : Nat) : State :=
  let L := s.lane l
  match L.watch? w with
  | none => s
  | some x =>
    if !L.recRuns || !L.watchOn w then s
    else
      let e := L.watchE w
      let (raw, stamp) := s.srcVal l (u8At e 3) (u32At e 4)
      let v := fadd (fmul (f32to64 (f32At e 0x14)) raw) (f32to64 (f32At e 0x18))
      let old := match stamp with
        | none => true
        | some t => u16At e 0xA != 0 && decide ((u16At e 0xA : Int) * 1000000 < diff32 s.tb32 t.toNat)
      if old || !isFinite64 v then s.upd l (·.setWatch w { x with missed := x.missed + 1 })
      else
        let b := watchBin v (f32to64 (f32At e 0xC)) (f32to64 (f32At e 0x10))
        let f := f64to32 v
        let here := (f, s.rtcW, s.tbW)
        let lo := match x.minV with
          | none => some here
          | some m => if flt32 f m.1 then some here else x.minV
        let hi := match x.maxV with
          | none => some here
          | some m => if flt32 m.1 f then some here else x.maxV
        s.upd l (·.setWatch w { x with bins := x.bins.setIfInBounds b (x.bins.getD b 0 + 1), minV := lo, maxV := hi, samples := x.samples + 1 })

/-- The next multiple of SAMPLE × 100 ms of the extended count: the one at hand, unless it has been served. -/
def State.watchAt (s : State) (w : Nat) : Nat :=
  let L := s.lane s.act
  let p := msU (100 * u16At (L.watchE w) 8)
  let c := ceilDiv s.tb.count p * p
  if c ≠ 0 ∧ (L.recU.sampled.any fun x => x.1 == w && x.2 == c) then c + p else c
def Lane.watchServed (L : Lane) (w c : Nat) : Lane :=
  { L with recU := { L.recU with sampled := (L.recU.sampled.filter fun x => x.1 != w) ++ [(w, c)] } }

/-- A watch point samples its source at a multiple of SAMPLE × 100 ms of the extended count (R447). -/
def execRecWatchSample (watch : Fin 1024) (s : State) : Out :=
  let L := s.lane s.act
  if !L.recAvail || !L.watchOn watch then .next s
  else
    let d := s.watchAt watch
    let s1 := s.advTo d
    .next (s1.each s1.ups fun l s => (s.watchSample l watch).upd l (·.watchServed watch d))

/-- Bytes 0x10 to 0x7B of a watch record (R446). An extreme of a period without a binned sample is free. -/
def State.watchBody (s : State) (e : Bytes) (x : Watch) : Bytes × State :=
  let ext (s : State) (m : Option (F32 × Word × Word)) : Bytes × State := match m with
    | some v => (leBytes 4 v.1.toNat ++ leBytes 4 v.2.1.toNat ++ leBytes 4 v.2.2.toNat, s)
    | none => s.freshBytes 12
  let (lo, s1) := ext s x.minV
  let (hi, s2) := ext s1 x.maxV
  (leBytes 4 x.startRtc.toNat ++ leBytes 1 (u8At e 2) ++ leBytes 1 (bit x.partial_ + 2 * bit x.adjusted) ++ zeros 2 ++
    (x.bins.toList.map fun n => leBytes 4 (min n 0xFFFFFFFF)).flatten ++ lo ++ hi ++ leBytes 4 (min x.missed 0xFFFFFFFF) ++ zeros 8, s2)

/-- The lane queues a record write; a drop raises EV_REC_DROP (R451). -/
def State.recPush (s : State) (l : LaneId) (j : RecJob) : State :=
  let (L, ev) := (s.lane l).recQueue s.tb.run j
  let s1 := s.setLane l L
  if ev then s1.raise l 0xED else s1

/-- A running period ends: its record is queued. -/
def State.watchEnd (s : State) (l : LaneId) (w : Nat) (adjusted : Bool) : State :=
  match (s.lane l).watch? w with
  | none => s
  | some x =>
    let (body, s1) := s.watchBody ((s.lane l).watchE w) { x with adjusted := x.adjusted || adjusted }
    s1.recPush l (.watch w body)

/-- A period ends at a calendar multiple, or after its length while OSF is set (R448); each end starts a new one. -/
def State.watchDue (s : State) (l : LaneId) (w : Nat) : Bool :=
  let n := watchSecs ((s.lane l).watchE w)
  match (s.lane l).watch? w with
  | none => false
  | some x => if s.osf then decide (x.startAt + sU n ≤ s.tb.run) else s.rtcSecs / n != x.startRtc.toNat / n
def execRecPeriodEnd (watch : Fin 1024) (s : State) : Out :=
  let L := s.lane s.act
  let s1 := match s.osf, L.watch? watch with
    | true, some x => s.advRun (x.startAt + sU (watchSecs (L.watchE watch)))
    | _, _ => s
  .next (s1.each s1.ups fun l s =>
    if (s.lane l).recRuns && s.watchDue l watch then (s.watchEnd l watch false).upd l (·.setWatch watch (s.watchNew false)) else s)

/-- A calendar set ends every running period; call `recEndAll` before it and `recStartAll` after it. -/
def State.recEndAll (s : State) (adjusted : Bool) : State :=
  s.each s.ups fun l s => (List.range (s.lane l).watchN).foldl (fun (s : State) w => s.watchEnd l w adjusted) s
def State.recStartAll (s : State) (l : LaneId) (partial_ : Bool) : State :=
  (List.range (s.lane l).watchN).foldl (fun (s : State) w =>
    if (s.lane l).watchOn w then s.upd l (·.setWatch w (s.watchNew partial_)) else s) s
def State.recSet (s : State) : State :=
  s.each s.ups fun l s => if (s.lane l).recU.watches.isEmpty then s else s.recStartAll l false

/-! Tallies. -/

/-- REC_RAISE_VAL fills the writer's latch (R449). -/
def State.recLatch (s : State) (l : LaneId) (req : Requester) (data : Word) : State :=
  (s.upd l fun L => { L with recU := { L.recU with latches := (L.recU.latches.filter fun p => p.1 != req) ++ [(req, data)] } }).ok
def execRecRaiseVal (src : Src) (data : Word) (s : State) : Out := .next (s.perLane src fun l s => s.recLatch l src.req data)
/-- The latch a requester reads and raises with. -/
def Lane.recVal (L : Lane) (req : Requester) : F32 := match L.recU.latches.find? fun p => p.1 == req with
  | some p => p.2
  | none => 0

/-- REC_RAISE (R449): a code that is not enabled, or counts an event, is refused. -/
def State.recRaise (s : State) (l : LaneId) (req : Requester) (key : Half) (c : Nat) : State :=
  let L := s.lane l
  if key ≠ 0x5458 then s.ok
  else if !L.tallyOn c || L.tallyEvt c then s.refuse l 0xEF c
  else if !L.recRuns then s.ok
  else
    let (L1, ev) := L.recOccur s.tbW s.rtcW s.tb.run c (L.recVal req)
    let s1 := s.setLane l L1
    (if ev then s1.raise l 0xED else s1).ok
def execRecRaise (src : Src) (key : Half) (code : Fin 1024) (s : State) : Out :=
  .next (s.perLane src fun l s => s.recRaise l src.req key code)

/-- The live change of a tally is written RATE ms after its last rewrite (R450). -/
def Lane.tallyDueAt (L : Lane) (c : Nat) : Option Nat :=
  let t := L.tally c
  if t.due && L.recRuns then t.lastWrite.map fun w => w + msU (u16At (L.tallyE c) 4) else none
/-- The rewrite that is due in a lane is queued. -/
def State.recRewrite (s : State) (l : LaneId) (c : Nat) : State :=
  match (s.lane l).tallyDueAt c with
  | none => s
  | some t =>
    if t ≤ s.tb.run then (s.upd l fun L => L.setTally c { L.tally c with due := false, lastWrite := some s.tb.run }).recPush l (.tally c) else s
def execRecTallyRewriteDue (code : Fin 1024) (s : State) : Out :=
  match (s.ups.filterMap fun l => (s.lane l).tallyDueAt code).min? with
  | none => .next s
  | some d => .next ((s.advRun d).each (s.advRun d).ups fun l s => s.recRewrite l code)

/-! Record writes (R451, R452). -/

/-- Free slot first, then lower severity, then equal severity older than MIN_RET; the oldest WSEQ of those. -/
def oldestSlot : List (Nat × RecSlot) → Option Nat
  | [] => none
  | x :: t => some (t.foldl (fun (b : Nat × RecSlot) y => if signed 32 (y.2.wseq.toNat + 2 ^ 32 - b.2.wseq.toNat) < 0 then y else b) x).1
def State.recPlace (s : State) (l : LaneId) (sev : Nat) : Option Nat :=
  let L := s.lane l
  let slots := L.recU.slots.getD []
  ((List.range L.recSlots).find? fun i => !slots.any fun p => p.1 == i) <|> oldestSlot (slots.filter fun p => p.2.sev < sev) <|>
    oldestSlot (slots.filter fun p => p.2.sev == sev && !s.osf && p.2.wrtc != 0xFFFFFFFF && p.2.wrtc.toNat + u32At (L.dr 0x10) 0xC < s.rtcSecs)

/-- The bytes of a record behind its SEQ, and its CRC. -/
def recBytes (kind sev id : Nat) (wseq wrtc : Word) (body : Bytes) : Bytes :=
  let b := leBytes 1 kind ++ leBytes 1 sev ++ leBytes 2 id ++ leBytes 4 wseq.toNat ++ leBytes 4 wrtc.toNat ++ slice body 0 108
  b ++ leBytes 4 (crc32c b).toNat

/-- Bytes 0x10 to 0x7B of a tally record; MAXVAL without a finite value is free. -/
def State.tallyBody (s : State) (t : Tally) : Bytes × State :=
  let (m, s1) := match t.maxVal with
    | some v => (leBytes 4 v.toNat, s)
    | none => s.freshBytes 4
  (leBytes 4 t.count ++ leBytes 4 t.firstRtc.toNat ++ leBytes 4 t.firstTb.toNat ++ leBytes 4 t.lastRtc.toNat ++ leBytes 4 t.lastTb.toNat ++
    m ++ leBytes 4 t.maxTb.toNat ++ leBytes 4 t.suppressed ++ zeros 76, s1)

/-- The next SEQ of a slot: even, never 0 (R452). -/
def recSeqNext (q : Nat) : Nat := let n := (q / 2 * 2 + 2) % 2 ^ 32; if n = 0 then 2 else n

/-- A record whose slot the Chest protects is dropped. -/
def State.recProtected (s : State) (l : LaneId) (a : Nat) : State :=
  let r := ((s.lane l).setFlag (aRec 0) 16 true).recDrop s.tb.run
  let s1 := ((s.setLane l r.1).raise l 0xEC (chestBankOf a)).raise l 0xEE
  if r.2 then s1.raise l 0xED else s1
/-- The lane's slot table after a write of slot `i`. -/
def Lane.recNote (L : Lane) (rtc : Word) (i kind sev id : Nat) : Lane :=
  let wseq := L.get (aRec 0xC)
  let L1 := match (L.recU.slots.getD []).find? fun p => p.1 == i with
    | some p => if p.2.kind = 2 && !(kind == 2 && p.2.id == id) then L.setTally p.2.id { L.tally p.2.id with slot := none } else L
    | none => L
  let L2 := if kind = 2 then L1.setTally id { L1.tally id with slot := some i } else L1
  let L3 := (L2.put (aRec 0xC) (wseq + 1)).putN (aRec 0x10) i
  { L3 with recU := { L3.recU with
      slots := some (((L3.recU.slots.getD []).filter fun p => p.1 != i) ++ [(i, { kind := kind, sev := sev, id := id, wseq := wseq, wrtc := rtc })]) } }
/-- Carry out one record write into slot `i`: the Chest takes the active lane's (R16, R454). -/
def State.recStore (s : State) (l : LaneId) (i kind sev id : Nat) (body : Bytes) : State :=
  let L := s.lane l
  let a := L.recRegion + 128 * i
  let q := recSeqNext (u32At (memRead s.chest.array a 4) 0)
  if s.chestProt a then s.recProtected l a
  else
    let s1 := if s.portOpen l then s.chestPut a (leBytes 4 q ++ recBytes kind sev id (L.get (aRec 0xC)) s.rtcW body) else s
    s1.upd l (·.recNote s.rtcW i kind sev id)

/-- Kind, severity and code of a queued write, and the slot it has already. -/
def Lane.recKind (L : Lane) (j : RecJob) : Nat × Nat × Nat × Option Nat :=
  match j with
  | .watch w _ => (1, u8At (L.watchE w) 1, w, none)
  | .tally c => (2, u8At (L.tallyE c) 1, c, (L.tally c).slot)
/-- The body of its record: a tally's stands as it is when it is written (R450). -/
def State.recBody (s : State) (l : LaneId) (j : RecJob) : Bytes × State :=
  match j with
  | .watch _ b => (b, s)
  | .tally c => s.tallyBody ((s.lane l).tally c)
/-- The slot it goes to, if any (R451). -/
def State.recSlotFor (s : State) (l : LaneId) (j : RecJob) : Option Nat :=
  match ((s.lane l).recKind j).2.2.2 with
  | some i => some i
  | none => s.recPlace l ((s.lane l).recKind j).2.1
/-- A write that finds no slot is dropped (R451). -/
def State.recLost (s : State) (l : LaneId) : State :=
  let r := (s.lane l).recDrop s.tb.run
  if r.2 then (s.setLane l r.1).raise l 0xED else s.setLane l r.1
/-- A write into a slot. -/
def State.recPut (s : State) (l : LaneId) (i : Nat) (j : RecJob) : State :=
  let k := (s.lane l).recKind j
  (s.recBody l j).2.recStore l i k.1 k.2.1 k.2.2.1 (s.recBody l j).1

/-- The write of the other lane comes when the port's own one is through, so that a takeover repeats it (R455). -/
def State.recBehind (s : State) (l : LaneId) : Bool :=
  s.portBehind l fun P => !P.recU.queue.isEmpty &&
    decide (signed 32 ((P.get (aRec 0xC)).toNat + 2 ^ 32 - ((s.lane l).get (aRec 0xC)).toNat) ≤ 0)
/-- The oldest queued write is carried out; it waits while its bank is storing (R429). -/
def execRecRecordWrite (lane : LaneId) (s : State) : Out :=
  let L := s.lane lane
  if !L.recRuns || s.recBehind lane then .next s
  else match L.recU.queue with
  | [] => .next s
  | j :: rest =>
    let s1 := s.upd lane fun L => { L with recU := { L.recU with queue := rest } }
    match s.recSlotFor lane j with
    | none => .next (s1.recLost lane)
    | some i =>
      if (s.chest.storing.map (·.val)) == some (chestBankOf (L.recRegion + 128 * i)) then .next s else .next (s1.recPut lane i j)

/-! Scan, modes, commands (R454). -/

/-- The record in a slot of the region, when valid. -/
def State.recAt (s : State) (L : Lane) (i : Nat) : Option (RecSlot × Bytes) :=
  let b := memRead s.chest.array (L.recRegion + 128 * i) 128
  let q := u32At b 0
  let k := u8At b 4
  if q % 2 = 0 ∧ q ≠ 0 ∧ (k = 1 ∨ k = 2) ∧ u32At b 0x7C = (crc32c ((b.drop 4).take 120)).toNat then
    some ({ kind := k, sev := u8At b 5, id := u16At b 6, wseq := BitVec.ofNat 32 (u32At b 8), wrtc := BitVec.ofNat 32 (u32At b 0xC) }, b)
  else none

/-- The tally a record restores. -/
def tallyOf (i : Nat) (b : Bytes) : Tally :=
  let w (o : Nat) : Word := BitVec.ofNat 32 (u32At b o)
  { count := u32At b 0x10, firstRtc := w 0x14, firstTb := w 0x18, lastRtc := w 0x1C, lastTb := w 0x20, maxVal := some (w 0x24),
    maxTb := w 0x28, suppressed := u32At b 0x2C, slot := some i, lastWrite := none, due := false }

/-- The unit after a scan that left `n` slots free, keeps `kept` and saw `top` as the newest WSEQ. -/
def Lane.recScanned (L : Lane) (n : Nat) (kept : List (Nat × RecSlot × Bytes)) (top : Option Word) : Lane :=
  let L1 := ((L.setFld (aRec 0) 17 15 (min n 0x7FFF)).setFlag (aRec 0) 2 false).setFlag (aRec 0) 1 true
  let L2 := match top with
    | some w => L1.put (aRec 0xC) (w + 1)
    | none => L1
  let ts := kept.filterMap fun p => if p.2.1.kind = 2 ∧ L.tallyOn p.2.1.id then some (p.2.1.id, tallyOf p.1 p.2.2) else none
  { L2 with recU := { L2.recU with tallies := ts, slots := some (kept.map fun p => (p.1, p.2.1)) } }

/-- The scan ends (R454): of two records of one code the one with the higher WSEQ stays. -/
def State.recScan (s : State) (l : LaneId) : State :=
  let L := s.lane l
  let found := (List.range L.recSlots).filterMap fun i => (s.recAt L i).map fun r => (i, r.1, r.2)
  let newer (x y : Word) : Bool := 0 < signed 32 (x.toNat + 2 ^ 32 - y.toNat)
  let stays (p : Nat × RecSlot × Bytes) : Bool :=
    !(p.2.1.kind == 2 && L.tallyOn p.2.1.id && found.any fun q => q.2.1.kind == 2 && q.2.1.id == p.2.1.id &&
      (newer q.2.1.wseq p.2.1.wseq || (q.2.1.wseq == p.2.1.wseq && q.1 < p.1)))
  let kept := found.filter stays
  let top := found.foldl (fun (b : Option Word) p => match b with
    | none => some p.2.1.wseq
    | some w => if newer p.2.1.wseq w then some p.2.1.wseq else some w) none
  s.upd l (·.recScanned (L.recSlots - found.length) kept top)
def execRecScanEnd (lane : LaneId) (s : State) : Out := .next (if (s.lane lane).flag (aRec 0) 2 then s.recScan lane else s)

/-- Entry to STOP or RUN: the recorder runs, or scans first when a load has gone before; a period begins, PARTIAL (R448,
R454). A period that runs ends there. -/
def State.recEnter (s : State) (l : LaneId) : State :=
  if !(s.lane l).recAvail then s
  else
    let s1 := (List.range (s.lane l).watchN).foldl (fun (s : State) w => s.watchEnd l w false) s
    (s1.upd l fun L => if L.recU.slots.isNone then L.setFlag (aRec 0) 2 true else L.setFlag (aRec 0) 1 true).recStartAll l true

/-- Entry to CONFIGURE: running periods and queued writes are discarded (R454). RETAIN loses them as well (R455). -/
def Lane.recLeave (L : Lane) : Lane :=
  { (L.setFlag (aRec 0) 1 false).setFlag (aRec 0) 2 false with recU := { L.recU with watches := [], queue := [] } }

/-- The slots that hold a record: while a scan runs, those it will find. -/
def State.recTable (s : State) (l : LaneId) : List (Nat × RecSlot) :=
  let L := s.lane l
  L.recU.slots.getD ((List.range L.recSlots).filterMap fun i => (s.recAt L i).map fun r => (i, r.1))
/-- CLEAR, in STOP only: every slot is free, its SEQ 0 on the Chest, every live tally zero (R454). A protected slot stays
(R452). -/
def State.recClear (s : State) (l : LaneId) (key : Half) : State :=
  let L := s.lane l
  if key ≠ 0x5243 then s.ok
  else if s.mode.mode ≠ .stop then s.refuse l 0xEF
  else
    let slots := s.recTable l
    let held := slots.filter fun p => s.chestProt (L.recRegion + 128 * p.1)
    let s1 := (slots.filter fun p => !held.contains p).foldl (fun (s : State) p =>
      if s.portOpen l then s.chestPut (L.recRegion + 128 * p.1) (zeros 4) else s) s
    let s2 := s1.upd l fun L => { L with recU := { L.recU with tallies := [], slots := L.recU.slots.map fun _ => held } }
    (if held.isEmpty then s2 else (s2.upd l (·.setFlag (aRec 0) 16 true)).raise l 0xEE).ok
def execRecClear (src : Src) (key : Half) (s : State) : Out := .next (s.perLane src fun l s => s.recClear l key)

def State.recClrCnt (s : State) (l : LaneId) (key : Half) : State := if key ≠ 0x5243 then s.ok else (s.upd l (·.put (aRec 8) 0)).ok
def execRecClrCnt (src : Src) (key : Half) (s : State) : Out := .next (s.perLane src fun l s => s.recClrCnt l key)

/-- Registers that show the recorder. -/
def Lane.recView (L : Lane) (req : Requester) (a : Nat) : Word :=
  let u := L.recU
  if a = 0x40170014 then BitVec.ofNat 32 u.queue.length
  else if a = 0x40170020 then L.recVal req
  else if 0x40171000 ≤ a ∧ a < 0x40172000 then BitVec.ofNat 32 (L.tally ((a - 0x40171000) / 4)).count
  else if 0x40172000 ≤ a ∧ a < 0x40173000 then
    (match (L.tally ((a - 0x40172000) / 4)).slot with
      | some i => BitVec.ofNat 32 i
      | none => 0xFFFFFFFF)
  else if 0x40173000 ≤ a ∧ a < 0x40174000 then
    (match L.watch? ((a - 0x40173000) / 4) with
      | some x => BitVec.ofNat 32 (min x.missed 0xFFFF * 0x10000 + min x.samples 0xFFFF)
      | none => 0)
  else L.get a

/-- At load (R444). -/
def Lane.recLoad (L : Lane) : Lane := { L.putN (aRec 0) (bit !(L.dr 0x10).isEmpty) with recU := { RecUnit.init with latches := L.recU.latches } }

/-- Cross-checks of the REC drawer (R445). -/
def recDrawerOk (ds : List Drawer) : Bool :=
  let d := drOf ds 0x10
  let nw := u16At d 0
  let nt := u16At d 2
  let region := u32At d 4
  let nr := u32At d 8
  let apart (a n : Nat) : Bool := a + n ≤ region || region + 128 * nr ≤ a
  let tallies := (List.range nt).map fun c => slice d (32 + 32 * nw + 16 * c) 16
  let saves := [(u32At (drOf ds 0x0E) 4, 1792), (u32At (drOf ds 0x0F) 4, 2048), (u32At (drOf ds 0x0F) 8, 2048)]
  d.isEmpty || (nw ≤ 1024 && nt ≤ 1024 && region % 128 == 0 && 1 ≤ nr && nr ≤ 16384 && 1 ≤ u32At d 0xC && u32At d 0xC ≤ 315360000 &&
    allAt d 0x10 16 0 && d.length == 32 + 32 * nw + 16 * nt && 0x20000000 ≤ region && region + 128 * nr ≤ 0x21000000 &&
    (allBelow nw fun w =>
      let e := slice d (32 + 32 * w) 32
      if !(u8At e 0).testBit 0 then e.all (· == 0)
      else u8At e 0 < 2 && u8At e 1 ≤ 7 && u8At e 2 ≤ 2 && 2 ≤ u8At e 3 && u8At e 3 ≤ 7 && ctlSrcOk ds (loopEntries (drOf ds 9)) (u8At e 3) (u32At e 4) &&
        1 ≤ u16At e 8 && u16At e 8 ≤ 600 && u16At e 0xA ≤ 60000 && fin32 e 0xC && fin32 e 0x10 && fin32 e 0x14 && fin32 e 0x18 &&
        flt32 (f32At e 0xC) (f32At e 0x10) && (f32At e 0x14) &&& 0x7FFFFFFF != 0 && allAt e 0x1C 4 0) &&
    (tallies.all fun e =>
      if !(u8At e 0).testBit 0 then e.all (· == 0)
      else u8At e 0 < 4 && u8At e 1 ≤ 7 && ((u8At e 0).testBit 1 || u8At e 2 == 0) && u8At e 3 == 0 && u16At e 4 ≤ 60000 && allAt e 6 10 0) &&
    ((tallies.filter fun e => u8At e 0 == 3).map fun e => u8At e 2).Nodup &&
    (saves.all fun p => p.1 == 0 || apart p.1 (2 * pairStep p.2)) &&
    allBelow 8 fun t =>
      ((if (drOf ds 2 t).isEmpty then [] else segsOf (drOf ds 2 t) false).all fun g => apart g.1 g.2.1) &&
      (if (drOf ds 5 t).isEmpty then [] else mirrorRegs (drOf ds 5 t)).all fun g => apart g.1 g.2.1)

end Sys2Proof.Machine
end

