-- ==== Sys2Proof/Machine/Tb.lean ====
section
/-! DEFINITION. Machine/Tb.lean: the time base (15: R372-R381), PTP (R382-R386) and the calendar (R387-R393). -/
namespace Sys2Proof.Machine

def aTb (off : Nat) : Nat := 0x40130000 + off
/-- A signed 64-bit value from the two words of a pair. -/
def Lane.s64 (L : Lane) (a : Nat) : Int := signed 64 (L.getN a + L.getN (a + 4) * 2 ^ 32)

/-! Reading and rating the count. -/

/-- A read of TB_NOW_LO captures the count for the requester (R373). -/
def State.tbLoRead (s : State) (l : LaneId) (req : Requester) : State :=
  let v : DWord := BitVec.ofNat 64 s.ns
  (s.upd l fun L => { L with tbCap := (L.tbCap.filter fun c => c.1 != req) ++ [(req, v)] }).ok (v.truncate 32)
def execTbNowLoRead (src : Src) (s : State) : Out := .next (if s.reads src then s.tbLoRead (s.readLane src) src.req else s.busErr)

/-- The high word of the requester's capture, or of the count where it holds none (R373). -/
def State.tbHiRead (s : State) (l : LaneId) (req : Requester) : State :=
  let v := match (s.lane l).tbCap.find? fun c => c.1 == req with
    | some c => c.2
    | none => BitVec.ofNat 64 s.ns
  s.ok (v.extractLsb' 32 32)
def execTbNowHiRead (src : Src) (s : State) : Out := .next (if s.reads src then s.tbHiRead (s.readLane src) src.req else s.busErr)

/-- The next carry out of tb32 (R373). -/
def execTbWrap (s : State) : Out :=
  let k := s.tb.wraps + 1
  let s1 := s.advTo (nsU (k * 2 ^ 32))
  .next (({ s1 with tb := { s1.tb with wraps := k } }).raiseUp 0xC3)

def State.rateWrite (s : State) (l : LaneId) (data : Word) : State := (s.upd l (·.put (aTb 0xC) data)).ok
def execTbRateWrite (src : Src) (data : Word) (s : State) : Out := .next (s.perLane src fun l s => s.rateWrite l data)

/-- STEP (R377): the first condition it fails, 0 when it is accepted. -/
def State.stepDeny (s : State) (v : Int) : Nat :=
  if s.tb.used || s.tb.step.isSome then 1
  else if s.mode.mode != .configure && s.mode.mode != .stop then 2
  else if (s.tb.count : Int) + v * (2 ^ 40 : Int) < 0 then 3
  else 0
def State.tbStepCmd (s : State) (src : Src) (key : Half) : State :=
  let ls := s.lanesOf src
  let l := if ls.contains s.act then s.act else src.lane
  if ls.isEmpty then s.busErr
  else if key ≠ 0x5442 then s.ok
  else
    let v := (s.lane l).s64 (aTb 0x10)
    let d := s.stepDeny v
    if d = 0 then ({ s with tb := { s.tb with step := some (s.next250, v) } }).ok
    else (s.each ls fun l s => (s.upd l (·.setFld (aTb 8) 4 3 d)).raise l 0xC5).busErr
def execTbStep (src : Src) (key : Half) (s : State) : Out := .next (s.joined src (aTb 0x20) (key ++ (1 : Half)) fun s => s.tbStepCmd src key)

/-- The accepted step applies at its tick (R377): the count moves, running hardware timers and what is kept on the count
for elapsed intervals move with it (R378). -/
def Lane.stepShift (L : Lane) (v : Int) : Lane :=
  let sh (x : Nat) : Nat := ((x : Int) + v * (2 ^ 40 : Int)).toNat
  let L1 := (List.range 256).foldl (fun (L : Lane) n =>
    if L.fld (0x40021000 + 0x10 * n) 0 2 ≠ 1 then L
    else
      let e := ((L.getN (0x40021004 + 0x10 * n) + L.getN (0x40021008 + 0x10 * n) * 2 ^ 32 : Nat) : Int) + v
      (L.putN (0x40021004 + 0x10 * n) (unsignedOf 64 e)).putN (0x40021008 + 0x10 * n) (unsignedOf 64 e / 2 ^ 32)) L
  let fed := L1.pcl.fed.map fun f => { f with doneAt := sh f.doneAt }
  let ch := L1.mtr.ch.map fun c => { c with crossings := c.crossings.map fun (t : Nat) => ((t : Int) + v).toNat }
  let sp := { L1.sprint with entry := L1.sprint.entry.map sh, step := L1.sprint.step.map fun x => (sh x.1, x.2) }
  { L1 with snapAt := L1.snapAt.map sh, sprint := sp, pcl := { L1.pcl with nextAt := sh L1.pcl.nextAt, fed := fed }, mtr := { L1.mtr with ch := ch }, recU := { L1.recU with sampled := [] }, thq := { L1.thq with lastAt := sh L1.thq.lastAt } }
def execTbStepApply (s : State) : Out :=
  match s.tb.step with
  | none => .next s
  | some (due, v) =>
    let s1 := s.advTo due
    let c := ((s1.tb.count : Int) + v * (2 ^ 40 : Int)).toNat
    let pend := s1.mode.pend.map fun p => { p with due := ((p.due : Int) + v * (2 ^ 40 : Int)).toNat }
    let tb := { s1.tb with count := c, step := none, used := true, wraps := c / 2 ^ 40 / 2 ^ 32 }
    let s2 := { s1 with tb := tb, mode := { s1.mode with pend := pend } }
    let ax := s2.field.ax.map fun d => { d with setAt := ((d.setAt : Int) + v * (2 ^ 40 : Int)).toNat }
    .next (({ s2 with field := { s2.field with ax := ax } }.updBoth (·.stepShift v)).raiseUp 0xC4)

/-! Time signals (R381). -/

/-- PPS out rises at the next whole second of PTP time, driven by the active lane. -/
def execPpsOut (s : State) : Out :=
  let L := s.lane s.act
  if s.ups.isEmpty || !L.flag (aTb 0x24) 0 then .next s
  else
    let ep := L.s64 (aTb 0x18)
    let sec := (((s.ns : Int) + ep) / 1000000000 + 1) * 1000000000
    let s1 := s.advTo (nsU (sec - ep).toNat)
    .next { s1 with tb := { s1.tb with ppsEnd := s1.tb.run + msU (L.fld (aTb 0x24) 16 9) } }
/-- The level of PPS out. -/
def State.ppsHigh (s : State) : Bool := (s.lane s.act).flag (aTb 0x24) 0 && s.tb.run < s.tb.ppsEnd

def execPpsInEdge (falling : Bool) (s : State) : Out :=
  .next (s.each s.ups fun l s =>
    if (s.lane l).flag (aTb 0x24) 1 && (s.lane l).flag (aTb 0x24) 2 == falling then
      (s.upd l fun L => (L.put (aTb 0x28) s.tbW).wrapFld (aTb 8) 16 16).raise l 0xC7
    else s)

/-- The 10 MHz edges of a whole second of the count. -/
def execRef10CountEnd (count : BitVec 24) (s : State) : Out :=
  let s1 := s.advTo (nsU ((s.ns / 1000000000 + 1) * 1000000000))
  let ok := 9990000 ≤ count.toNat && count.toNat ≤ 10010000
  .next (s1.each s1.ups fun l s =>
    let s' := s.upd l (·.putN (aTb 0x2C) (bit ok * 2 ^ 31 + count.toNat))
    if ok then s' else s'.raise l 0xC8)

/-! PTP. -/

/-- PTP runs from STOP to SAFE inclusive (R382). -/
def State.ptpRuns (s : State) : Bool := s.running || s.mode.mode == .stop || s.mode.mode == .safe

def State.ptpDrop (s : State) (l : LaneId) : State := s.upd l (·.incFld (aTb 0x124) 16 16)

/-- A received message in one lane (R384). -/
def State.ptpEnter (s : State) (l : LaneId) (entry : Bytes) : State :=
  let q := (s.lane l).ptp.rxq
  if 64 ≤ q.length then
    let s1 := s.ptpDrop l
    let due := match (s.lane l).ptp.lastDropEv with
      | none => true
      | some t => decide (t + sU 1 ≤ s.tb.run)
    if due then (s1.upd l fun L => { L with ptp := { L.ptp with lastDropEv := some s.tb.run } }).raise l 0xCC else s1
  else
    let s1 := s.upd l fun L => { L with ptp := { L.ptp with rxq := q ++ [entry] } }
    if q.isEmpty then s1.raise l 0xC9 else s1

/-- A PTP message arrives on a port (R382-R384). -/
def execPtpRx (port : Fin 3) (transport : Fin 3) (vlan : Bool) (mac ip msg : Bytes) (s : State) : Out :=
  let L := s.lane s.act
  let cfg := L.get (aTb 0x100)
  if s.ups.isEmpty || !s.ptpRuns || !L.ethLive port then .next s
  else if !bitOf cfg port || !bitOf cfg (3 + transport) then .next (s.ethDrop port)
  else
    let n := msg.length
    let ver := u8At msg 1
    if n < 34 || 128 < n || ver % 16 ≠ 2 || 1 < ver / 16 then .next (s.each s.ups fun l s => s.ptpDrop l)
    else
      let stamp := unsignedOf 32 ((s.tb32 : Int) - signed 16 (L.fld (aTb (0x110 + 4 * port)) 0 16))
      let addr := match transport.val with
        | 0 => zeros 16
        | 1 => zeros 10 ++ [0xFF, 0xFF] ++ slice ip 0 4
        | _ => slice ip 0 16
      let e := leBytes 4 (n * 2 ^ 16 + 16 * bit vlan + 4 * transport.val + port.val) ++ leBytes 4 stamp ++ slice mac 0 6 ++ zeros 2 ++ addr ++ slice msg 0 128
      .next (s.each s.ups fun l s => s.ptpEnter l e)

def State.ptpPop (s : State) (l : LaneId) : State := (s.upd l fun L => { L with ptp := { L.ptp with rxq := L.ptp.rxq.drop 1 } }).ok
def execPtpRxPop (src : Src) (s : State) : Out := .next (s.perLane src fun l s => s.ptpPop l)

/-- SEND (R385). -/
def State.ptpSend (s : State) (l : LaneId) (key : Half) (tag : Byte) (oneStep : Bool) : State :=
  let L := s.lane l
  let e := ((L.getWords (aTb 0x300) 40).map fun w => leBytes 4 w.toNat).flatten
  let port := u8At e 0 % 4
  let len := u16At e 2
  let plan := L.get (aTb 0x128)
  let ahead := diff32 plan.toNat s.tb32
  if key ≠ 0x5054 then s.ok
  else if !s.ptpRuns || 16 ≤ L.ptp.txq.length || len < 34 || 128 < len || port = 3 || !bitOf (L.get (aTb 0x100)) port || !L.flag (aEth port 0) 0 ||
      (oneStep && (ahead < 0 || 100000000 < ahead)) then s.refuse l 0xC6
  else (s.upd l fun L => { L with ptp := { L.ptp with txq := L.ptp.txq ++ [{ entry := e, tag := tag, plan := if oneStep then some plan else none }] } }).ok
def execPtpSend (src : Src) (key : Half) (tag : Byte) (oneStep : Bool) (s : State) : Out := .next (s.perLane src fun l s => s.ptpSend l key tag oneStep)

/-- The frame of an entry, with its message as it leaves (R385, R386). -/
def Lane.ptpFrame (L : Lane) (e msg : Bytes) : Bytes :=
  let p := u8At e 0 % 4
  let tr := u8At e 0 / 4 % 4
  let udpPort := if u8At msg 0 % 16 < 4 then 319 else 320
  let head := slice e 8 6 ++ L.ethMac p ++ vlanTag (L.ethVid p)
  match tr with
  | 0 => head ++ beBytes 2 0x88F7 ++ msg
  | 1 => head ++ beBytes 2 0x0800 ++ udp4 (L.ethIp4 p) (slice e 0x1C 4) udpPort udpPort msg
  | _ => head ++ beBytes 2 0x86DD ++ udp6 (L.ethOwn6 p) (slice e 0x10 16) udpPort udpPort msg

/-- correctionField with the residence added (R385): big-endian, bytes 8 to 15. -/
def ptpCorrect (msg : Bytes) (d : Int) : Bytes :=
  splice msg 8 (beBytes 8 (unsignedOf 64 ((beAt msg 8 8 : Nat) + d * 65536)))

/-- A status entry in every lane that runs and holds a frame (R385): 16 are held. -/
def State.ptpDone (s : State) (status : Nat) (depart : Word) : State :=
  s.each s.ups fun l s =>
    match (s.lane l).ptp.txq with
    | [] => s
    | f :: rest =>
      let x : PtpTxs := { tag := f.tag, status := status, depart := depart }
      (s.upd l fun L => { L with ptp := { L.ptp with txq := rest, txs := (L.ptp.txs ++ [x]).take 16 } }).raise l 0xCA

/-- The next frame of the active lane leaves (R385, R386), without a PRP trailer (R382); a one-step frame not before its plan,
nor 1 ms after it. -/
def execPtpTxDepart (linkUp : Bool) (s : State) : Out :=
  let L := s.lane s.act
  match L.ptp.txq with
  | [] => .next s
  | f :: _ =>
    let ahead := match f.plan with
      | some p => diff32 p.toNat s.tb32
      | none => 0
    if !s.ptpRuns || ahead < -1000000 then .next s
    else
      let s1 := s.advTo (s.tb.count + nsU ahead.toNat)
      if !linkUp then .next (s1.ptpDone 2 0)
      else
        let port := u8At f.entry 0 % 4
        let dep : Word := BitVec.ofNat 32 (unsignedOf 32 ((s1.tb32 : Int) + signed 16 (L.fld (aTb (0x110 + 4 * port)) 16 16)))
        let msg0 := slice f.entry 0x20 (u16At f.entry 2)
        let msg := match f.plan with
          | some p => ptpCorrect msg0 (diff32 dep.toNat p.toNat)
          | none => msg0
        .next ((s1.ethPut port (L.ptpFrame f.entry msg)).ptpDone 0 dep)

/-- A one-step frame has not left by plan + 1 ms (R385). -/
def execPtpTxLate (s : State) : Out :=
  match (s.lane s.act).ptp.txq with
  | [] => .next s
  | f :: _ => match f.plan with
    | none => .next s
    | some p =>
      let s1 := s.advTo (((s.tb.count : Int) + (diff32 p.toNat s.tb32 + 1000000) * (2 ^ 40 : Int)).toNat)
      .next ((s1.each s1.ups fun l s =>
        if (s.lane l).ptp.txq.isEmpty then s else (s.upd l (·.incFld (aTb 0x124) 0 16)).raise l 0xCB).ptpDone 1 0)

def State.ptpTxsPop (s : State) (l : LaneId) : State := (s.upd l fun L => { L with ptp := { L.ptp with txs := L.ptp.txs.drop 1 } }).ok
def execPtpTxsPop (src : Src) (s : State) : Out := .next (s.perLane src fun l s => s.ptpTxsPop l)

/-- Entry to CONFIGURE or RETAIN (R382, R384, R385): received messages go, queued frames end ABORTED. -/
def State.ptpEnd (s : State) (l : LaneId) : State :=
  let q := (s.lane l).ptp.txq
  let ends : List PtpTxs := q.map fun f => { tag := f.tag, status := 3, depart := 0 }
  let s1 := s.upd l fun L => { L with ptp := { L.ptp with rxq := [], txq := [], txs := (L.ptp.txs ++ ends).take 16 } }
  q.foldl (fun s _ => s.raise l 0xCA) s1

/-! Calendar (R387-R393). -/

/-- Crystal period in units of 2^-40 ns: 1/32,768 s. -/
def rtcPeriod : Nat := 10 ^ 9 * 2 ^ 25
def Keeper.trim (k : Keeper) : Int := signed 14 (k.fld 0x010030 0 14)
/-- The divider after `n` more crystal periods: its counts, and the trim accumulator (R391). -/
def Keeper.divider (k : Keeper) (n : Nat) : Nat × Nat :=
  let acc : Int := k.rtc.trimAcc + n * k.trim
  (((k.rtc.cnt + n : Nat) + acc / 16000000).toNat, (acc % 16000000).toNat)
def State.rtcPeriods (s : State) : Nat := (s.tb.run - s.keeper.rtc.secAt) / rtcPeriod
/-- The calendar as it reads now. -/
def State.calNow (s : State) : Cal := { s.keeper.rtc.cal with subsec := min 1023 ((s.keeper.divider s.rtcPeriods).1 / 32) }

/-- Bring the divider to now, so that TRIM may change (R391). -/
def State.rtcSettle (s : State) : State :=
  let n := s.rtcPeriods
  let (c, a) := s.keeper.divider n
  { s with keeper := { s.keeper with rtc := { s.keeper.rtc with cnt := min c 32767, trimAcc := a, secAt := s.keeper.rtc.secAt + n * rtcPeriod } } }

def Keeper.setBits (k : Keeper) (a i : Nat) (v : Bool) : Keeper := (k.setFld a i 1 (bit v)).tvClear a
def State.keep (s : State) (f : Keeper → Keeper) : State := { s with keeper := f s.keeper }

/-- The value of a time register in a calendar time. -/
def Cal.reg (c : Cal) (r : Nat) : Word :=
  BitVec.ofNat 32 (match r with
    | 0 => c.subsec
    | 1 => c.sec
    | 2 => c.min
    | 3 => c.hour
    | 4 => c.day + 256 * c.wday
    | 5 => c.month
    | _ => c.year)
/-- A read of a time register through a lane's shadow (R388). -/
def State.rtcRead (s : State) (l : LaneId) (r : Nat) : State :=
  let (c, at_) := (s.lane l).rtcFrozen.getD (s.calNow, s.tb.run)
  (s.upd l fun L => { L with rtcFrozen := if r = 6 then none else some (c, at_) }).ok (c.reg r)
def execRtcTimeRead (src : Src) (reg : Fin 7) (s : State) : Out := .next (if s.reads src then s.rtcRead (s.readLane src) reg else s.busErr)

def execRtcFreezeTimeout (lane : LaneId) (s : State) : Out :=
  match (s.lane lane).rtcFrozen with
  | none => .next s
  | some (_, at_) => .next ((s.advRun (at_ + msU 2)).upd lane fun L => { L with rtcFrozen := none })

/-- Whether a write of a source reaches a shared die (R16): the lanes it comes from hold the active one, or both ports write. -/
def State.dieOpen (s : State) (src : Src) : Bool :=
  let ls := s.lanesOf src
  !ls.isEmpty && (!s.roleMode || ls.any s.isAct)

def stagedCal (k : Keeper) : Cal :=
  let t := k.get 0x010020
  let d := k.get 0x010024
  { year := fieldOf d 16 12, month := fieldOf d 8 4, day := fieldOf d 0 5, hour := fieldOf t 22 5, min := fieldOf t 16 6, sec := fieldOf t 10 6,
    subsec := fieldOf t 0 10 }

/-- GO (R389). -/
def State.rtcGo (s : State) (key : Half) : State :=
  if key ≠ 0x5254 then s.ok
  else if s.keeper.rtc.setPend.isSome then { s with reply := .indError }
  else
    let c := stagedCal s.keeper
    if !c.ok then ((s.keep (·.setBits 0x01002C 1 true)).raiseUp 0xE6).ok
    else
      let due := s.keeper.rtc.secAt + (s.rtcPeriods + 1) * rtcPeriod
      (s.keep fun k => { k with rtc := { k.rtc with setPend := some (c, due) } }).ok
def execRtcGo (src : Src) (key : Half) (s : State) : Out :=
  .next (if (s.lanesOf src).isEmpty then s.busErr
    else if !s.dieOpen src then s.ok
    else
      let s1 := s.rtcGo key
      if s1.reply == .indError then s1.indFail src 2 else s1)

/-! Alarms (R393). -/

def aAlm (k off : Nat) : Nat := 0x010040 + 0x10 * k + off
/-- A second of the day matches the compared time fields. -/
def Keeper.almTime (k : Keeper) (i t : Nat) : Bool :=
  let m := k.get (aAlm i 8)
  let w := k.get (aAlm i 0)
  (!bitOf m 1 || fieldOf w 10 6 == t % 60) && (!bitOf m 2 || fieldOf w 16 6 == t / 60 % 60) && (!bitOf m 3 || fieldOf w 22 5 == t / 3600)
/-- A day matches the compared date fields. -/
def Keeper.almDate (k : Keeper) (i : Nat) (c : Cal) : Bool :=
  let m := k.get (aAlm i 8)
  let w := k.get (aAlm i 4)
  (!bitOf m 4 || fieldOf w 0 5 == c.day) && (!bitOf m 5 || fieldOf w 8 4 == c.month) && (!bitOf m 6 || fieldOf w 16 12 == c.year)
def Keeper.almMatch (k : Keeper) (i : Nat) (c : Cal) : Bool := k.almDate i c && k.almTime i (c.hour * 3600 + c.min * 60 + c.sec)

/-- The calendar date so many days after 2000-01-01, found year by year and month by month. -/
def dayOf (n : Nat) : Cal :=
  let (y, r) := (List.range 200).foldl (fun (p : Nat × Nat) _ =>
    let len := 365 + bit (leap p.1)
    if len ≤ p.2 then (p.1 + 1, p.2 - len) else p) (2000, n)
  let (m, d) := (List.range 12).foldl (fun (p : Nat × Nat) _ => if monthDays y p.1 ≤ p.2 then (p.1 + 1, p.2 - monthDays y p.1) else p) (1, r)
  { year := y, month := m, day := d + 1, hour := 0, min := 0, sec := 0, subsec := 0 }

/-- Matching seconds in [lo, hi), counted day by day. -/
def Keeper.almCount (k : Keeper) (i lo hi : Nat) : Nat :=
  let part (a b : Nat) : Nat := (List.range (b - a)).countP fun j => k.almTime i (a + j)
  let whole := part 0 86400
  ((List.range ((hi + 86399) / 86400 - lo / 86400)).map fun j =>
    let day := lo / 86400 + j
    if !k.almDate i (dayOf day) then 0
    else
      let a := lo - day * 86400
      let b := min 86400 (hi - day * 86400)
      if a = 0 ∧ b = 86400 then whole else part a b).sum

/-- Alarm `i` fires, with the instants a set skipped. -/
def State.almFire (s : State) (i skipped : Nat) : State :=
  (s.keep fun k =>
    let k1 := k.setBits (aAlm i 0xC) 0 true
    if skipped = 0 then k1
    else (k1.setBits (aAlm i 0xC) 1 true).setFld (aAlm i 0xC) 8 8 (min 255 (k1.fld (aAlm i 0xC) 8 8 + skipped))).raiseUp (0xE0 + i)

/-- Instants that do not fire when they recur (R393): those before `t` have been passed once more, and count no longer. -/
def Keeper.almPassed (k : Keeper) (t : Nat) : Keeper :=
  { k with rtc := { k.rtc with noRefire := k.rtc.noRefire.map fun o => o.filter fun r => t ≤ r.2 } }

/-- The whole second the calendar stands at is reached: enabled alarms that match fire. -/
def State.almReached (s : State) : State :=
  (List.finRange 4).foldl (fun (s : State) (i : Fin 4) =>
    let k := s.keeper
    let t := k.rtc.cal.secs
    let held := match k.rtc.noRefire[i] with
      | some (lo, hi) => lo ≤ t && t ≤ hi
      | none => false
    if bitOf (k.get (aAlm i 8)) 0 && k.almMatch i k.rtc.cal && !held then s.almFire i 0 else s) (s.keep fun k => k.almPassed k.rtc.cal.secs)

/-- A set from T0 to T1: what it does to the enabled alarms. -/
def State.almAdjust (s : State) (t0 t1 : Nat) (sub0 sub1 : Nat) : State :=
  (List.finRange 4).foldl (fun (s : State) (i : Fin 4) =>
    let k := s.keeper
    if !bitOf (k.get (aAlm i 8)) 0 then s
    else if t0 < t1 || (t0 = t1 && sub0 < sub1) then
      let n := k.almCount i (t0 + 1) (if sub1 = 0 then t1 else t1 + 1)
      if n = 0 then s else s.almFire i n
    else if t1 < t0 || sub1 < sub0 then
      let lo := if sub1 = 0 then t1 else t1 + 1
      if bitOf (k.get (aAlm i 8)) 8 then
        s.keep fun k => { k with rtc := { k.rtc with noRefire := k.rtc.noRefire.set i (k.rtc.noRefire[i].map fun r => (max r.1 (t0 + 1), r.2)) } }
      else
        let hi := match k.rtc.noRefire[i] with
          | some (_, h) => max h t0
          | none => t0
        s.keep fun k => { k with rtc := { k.rtc with noRefire := k.rtc.noRefire.set i (some (lo, hi)) } }
    else s) s

/-- A set applies at its edge (R389, R393); running recorder periods end at it (R448). -/
def execRtcSetApply (s : State) : Out :=
  match s.keeper.rtc.setPend with
  | none => .next s
  | some (c, due) =>
    let s1 := s.advRun due
    let old := s1.calNow
    let s2 := (s1.almAdjust old.secs c.secs old.subsec c.subsec).recEndAll true
    let s3 := s2.keep fun k => ({ k with rtc := { k.rtc with cal := { c with subsec := 0 }, cnt := 32 * c.subsec, secAt := s1.tb.run, setPend := none } } : Keeper).setBits 0x01002C 0 false
    .next (if c.subsec = 0 then s3.recSet.almReached else s3.recSet)

/-- The crystal has stopped for 4 or more periods (R390). -/
def execRtcOscStop (s : State) : Out := .next ((s.keep (·.setBits 0x01002C 0 true)).raiseUp 0xE5)

/-- Crystal periods from the last whole second to the next: the trimmed count is then full (R391). -/
def Keeper.toSecond (k : Keeper) : Nat :=
  let need : Int := ((32768 - k.rtc.cnt : Nat) : Int) * 16000000 - k.rtc.trimAcc
  let per : Int := 16000000 + k.trim
  ((need + per - 1) / per).toNat
/-- The next whole second (R387, R391, R393). -/
def execRtcSecond (s : State) : Out :=
  let k := s.keeper
  let n := k.toSecond
  let at_ := k.rtc.secAt + n * rtcPeriod
  let s1 := s.advRun at_
  let c := k.rtc.cal.next
  let s2 := s1.keep fun k => { k with rtc := { k.rtc with cal := c, cnt := (k.divider n).1 - 32768, trimAcc := (k.divider n).2, secAt := at_ } }
  .next (if c.year < k.rtc.cal.year then ((s2.keep (·.setBits 0x01002C 2 true)).raiseUp 0xE7).almReached else s2.almReached)

/-- Periodic wake (R392): every 32 × N crystal periods. -/
def execRtcWake (s : State) : Out :=
  match s.keeper.rtc.wakeAt with
  | none => .next s
  | some due =>
    let s1 := s.advRun due
    .next ((s1.keep fun k => { k with rtc := { k.rtc with wakeAt := some (due + k.fld 0x010034 0 26 * 32 * rtcPeriod) } }).raiseUp 0xE4)

/-- A write of RTC_WAKE restarts the count; 0 stops it. -/
def State.rtcWakeSet (s : State) (n : Word) : State :=
  let v := fieldOf n 0 26
  s.keep fun k =>
    let k1 := k.put 0x010034 (BitVec.ofNat 32 v)
    { k1 with rtc := { k1.rtc with wakeAt := if v = 0 then none else some (s.tb.run + v * 32 * rtcPeriod) } }
def execRtcWakeWrite (src : Src) (n : Word) (s : State) : Out :=
  .next (if (s.lanesOf src).isEmpty then s.busErr else if !s.dieOpen src then s.ok else (s.rtcWakeSet n).ok)

/-- At each boot while OSF stays set (R390). -/
def State.rtcBoot (s : State) : State := if s.osf then s.raiseUp 0xE5 else s

/-- Value checks: TB registers, and RTC registers (whose refusal is IND error status; staged times are checked at GO). -/
def tbCheck (name : String) (v : Word) : Bool := if name == "TB_PPS_CFG" then 1 ≤ fieldOf v 16 9 && fieldOf v 16 9 ≤ 500 else true
def rtcCheck (name : String) (v : Word) : Bool :=
  match name with
  | "RTC_ALM_TIME" => fieldOf v 22 5 ≤ 23 && fieldOf v 16 6 ≤ 59 && fieldOf v 10 6 ≤ 59
  | "RTC_ALM_DATE" => 2000 ≤ fieldOf v 16 12 && fieldOf v 16 12 ≤ 2199 && 1 ≤ fieldOf v 8 4 && fieldOf v 8 4 ≤ 12 && 1 ≤ fieldOf v 0 5
  | _ => true

end Sys2Proof.Machine
end

