-- ==== Sys2Proof/Machine/Key.lean ====
section
/-! DEFINITION. Machine/Key.lean: key slots, ROOT_SEED, anchors and attestation (20: R457-R474). -/
namespace Sys2Proof.Machine

def aKey (off : Nat) : Nat := 0x40180000 + off
def aAtt (off : Nat) : Nat := 0x40190000 + off
def Lane.keyUpd (L : Lane) (f : KeyUnit → KeyUnit) : Lane := { L with keys := f L.keys }

/-- The HC session of a lane ends (R478): what it holds goes with it, HCH_STAT.SESSION reads 0. -/
def State.hcEnd (s : State) (l : LaneId) : State :=
  if (s.lane l).hc.sess.isNone then s
  else
    (s.upd l fun L => { L.setFld 0x40150004 16 16 0 with
      hc := { L.hc with sess := none, cache := none, confirm := [], evFrame := none, evSeq := 1, closing := false } }).raise l 0xD9

/-- Sessions of a slot end when it is written, erased or BAD. -/
def State.hcEndSlot (s : State) (l : LaneId) (slot : Fin 32) : State :=
  match (s.lane l).hc.sess with
  | some h => if h.slot = slot then s.hcEnd l else s
  | none => s

/-! Slots. -/

/-- The integrity tag of a slot (R460). -/
def State.checkKey (s : State) : Big :=
  BitVec.ofNat 256 (Config.kmac256 (s.keeper.rootSeed.getD 0) ((List.range 16).map Config.serial) 256 "EMKOLE-KEY-CHECK")
def State.slotTag (s : State) (slot : Fin 32) (value : Big) (attr : Half) : DWord :=
  BitVec.ofNat 64 (Config.kmac256 s.checkKey (leBytes 1 slot.val ++ leBytes 2 attr.toNat ++ leBytes 32 value.toNat) 64 "EMKOLE-KEY-TAG")

def Lane.keyN (L : Lane) : Nat := if (L.dr 0x12).isEmpty then 0 else u8At (L.dr 0x12) 0
/-- KEY_REF_STAT (R466): bit s for a referenced slot that is not VALID or lacks a bit of USE. -/
def Lane.keyMissing (L : Lane) : List Nat :=
  (List.range L.keyN).filterMap fun i =>
    let e := slice (L.dr 0x12) (16 + 8 * i) 8
    let k := L.keys.slots.getD (u8At e 0) KeySlot.init
    if k.state = 1 ∧ u16At e 2 &&& k.attr.toNat = u16At e 2 then none else some (u8At e 0)
def State.keyRefs (s : State) (l : LaneId) : State :=
  let ms := (s.lane l).keyMissing
  ms.foldl (fun s m => s.raise l 0xF2 m) (s.upd l (·.putN (aKey 0x10) (ms.foldl (fun n m => n + 2 ^ m) 0)))

/-- A write or erase takes effect in a lane's store (R457, R459). -/
def State.keyApply (s : State) (l : LaneId) (c : KeyCmd) : State :=
  let k : KeySlot := if c.op = 2 then KeySlot.init
    else { value := c.value, attr := c.attr, tag := s.slotTag c.slot c.value c.attr, state := 1 }
  let s1 := s.upd l fun L => (L.keyUpd fun u => { u with slots := u.slots.set c.slot k }).putN (aKey 4) (L.getN (aKey 4) + 1)
  ((s1.raise l 0xF1 c.slot).keyRefs l).hcEndSlot l c.slot

def State.provLatch (s : State) : Bool := s.keeper.provLatch

/-- A refused KEY write or command (20). -/
def State.keyRefuse (s : State) (l : LaneId) (code : Nat) : State := (s.upd l (·.setFld (aKey 0x50) 0 4 code)).refuse l 0xF3
def State.attRefuse (s : State) (l : LaneId) (code : Nat) : State := (s.upd l (·.setFld (aAtt 0) 0 4 code)).refuse l 0xF5

/-- Who may command the unit (R280, R459): 0 yes, 1 the block is closed to it, 2 not permitted. -/
def State.keyWho (s : State) (l : LaneId) (req : Requester) : Nat :=
  match req with
  | .engine e => match (s.lane l).engines[e].cur with
    | some t => if (s.lane l).tPriv t then 0 else 1
    | none => 1
  | .hc => 0
  | .uart => if s.provLatch then 0 else 2
  | .debugger => 2
  | _ => 1

/-- An arriving command with the right key and a requester that may give it. -/
def State.keyCmd (s : State) (l : LaneId) (req : Requester) (key : Half) (f : State → State) : State :=
  if s.keyWho l req = 1 then s.busErr
  else if key ≠ 0x4B59 then s.ok
  else if s.keyWho l req = 2 ∨ (s.lane l).keys.cmd.isSome then s.keyRefuse l 2
  else f s

/-- Accept a command: it holds its operands, KEY_OUT is cleared (R465). In RUN, SINGLE, HOLD and SAFE only the active
lane's has an effect; what only one lane receives is forwarded (R462). -/
def State.keyAccept (s : State) (l : LaneId) (req : Requester) (op : Nat) (slot : Fin 32) (value : Big) (attr : Half) : State :=
  let eff := op == 3 || s.portOpen l
  let fwd := op != 3 && eff && (s.roleMode || req != .hc)
  (s.upd l fun L => ((L.setFlag (aKey 0x50) 31 true).putWords (aKey 0x60) (List.replicate 8 0)).keyUpd fun u =>
    { u with cmd := some { op := op, slot := slot, value := value, attr := attr, effective := eff, forward := fwd } }).ok

def attrLegal (a : Half) : Bool := (a &&& 0x030F) == a
/-- Why a write of a slot is refused (R459); 0 where it is not. -/
def State.slotRefusal (s : State) (l : LaneId) (slot : Fin 32) (attr : Half) : Nat :=
  if s.keeper.rootSeed.isNone then 4
  else if (s.lane l).keys.slots[slot].attr.getLsbD 9 && !s.provLatch then 3
  else if !attrLegal attr then 6
  else 0
def Lane.keyStaged (L : Lane) : Big := BitVec.ofNat 256 ((List.range 8).foldl (fun n i => n + (L.keys.val.getD i 0).toNat * 2 ^ (32 * i)) 0)
def Lane.keyAttr (L : Lane) : Half := BitVec.ofNat 16 (L.fld (aKey 0x40) 0 16)
/-- The staged words are cleared when the command ends, whether it succeeded or not (R459). -/
def Lane.keyWipe (L : Lane) : Lane := L.keyUpd fun u => { u with val := Vector.replicate 8 0 }

def State.keyWrite (s : State) (l : LaneId) (req : Requester) (key : Half) (slot : Fin 32) : State :=
  s.keyCmd l req key fun s =>
    let L := s.lane l
    let no := s.slotRefusal l slot L.keyAttr
    if no ≠ 0 then (s.keyRefuse l no).upd l (·.keyWipe)
    else s.keyAccept l req 1 slot L.keyStaged L.keyAttr
def execKeyWrite (src : Src) (key : Half) (slot : Fin 32) (s : State) : Out := .next (s.perLane src fun l s => s.keyWrite l src.req key slot)

def State.keyErase (s : State) (l : LaneId) (req : Requester) (key : Half) (slot : Fin 32) : State :=
  s.keyCmd l req key fun s =>
    if (s.lane l).keys.slots[slot].attr.getLsbD 9 && !s.provLatch then s.keyRefuse l 3
    else s.keyAccept l req 2 slot 0 0
def execKeyErase (src : Src) (key : Half) (slot : Fin 32) (s : State) : Out := .next (s.perLane src fun l s => s.keyErase l src.req key slot)

/-- The customisation string of a firmware derivation: "EMKOLE-USR-" and the label (R464). -/
def Lane.keyLabel (L : Lane) (i : Nat) : String :=
  let e := slice (L.dr 0x12) (16 + 8 * L.keyN + 32 * i) 32
  "EMKOLE-USR-" ++ String.ofList ((slice e 1 (u8At e 0)).map fun b => Char.ofNat b.toNat)
def Lane.keyLabels (L : Lane) : Nat := if (L.dr 0x12).isEmpty then 0 else u8At (L.dr 0x12) 1

/-- The slot a derivation takes its key from. -/
def Lane.deriveFrom (L : Lane) : KeySlot := L.keys.slots.getD (L.fld (aKey 0x48) 0 5) KeySlot.init
/-- Why a DERIVE is refused (R465); 0 where it is not. The source must be VALID (BAD_SLOT) and carry KDF (NOT_PERMITTED). -/
def State.deriveRefusal (s : State) (l : LaneId) (slot : Fin 32) : Nat :=
  let L := s.lane l
  let d := L.get (aKey 0x48)
  let ctx := L.getN (aKey 0x4C)
  let len := fieldOf d 24 8
  if L.deriveFrom.state ≠ 1 then 5
  else if !L.deriveFrom.attr.getLsbD 3 || (bitOf d 15 && L.deriveFrom.attr.getLsbD 8) then 2
  else if L.keyLabels ≤ fieldOf d 16 6 ∨ 64 < len ∨ (len ≠ 0 ∧ !(regionOf ctx == .sram && inOneRegion ctx len)) then 6
  else if bitOf d 15 then 0 else s.slotRefusal l slot L.keyAttr
/-- The derived value (R464). -/
def Lane.derived (L : Lane) : Big :=
  BitVec.ofNat 256 (Config.kmac256 L.deriveFrom.value (memRead L.mem (L.getN (aKey 0x4C)) (L.fld (aKey 0x48) 24 8)) 256 (L.keyLabel (L.fld (aKey 0x48) 16 6)))

/-- DERIVE (R465). -/
def State.keyDerive (s : State) (l : LaneId) (req : Requester) (key : Half) (slot : Fin 32) : State :=
  s.keyCmd l req key fun s =>
    let L := s.lane l
    if s.deriveRefusal l slot ≠ 0 then s.keyRefuse l (s.deriveRefusal l slot)
    else s.keyAccept l req (if bitOf (L.get (aKey 0x48)) 15 then 3 else 1) slot L.derived L.keyAttr
def execKeyDerive (src : Src) (key : Half) (slot : Fin 32) (s : State) : Out := .next (s.perLane src fun l s => s.keyDerive l src.req key slot)

/-- A key command completes (R459, R462, R465). -/
def execKeyCmdDone (lane : LaneId) (s : State) : Out :=
  match (s.lane lane).keys.cmd with
  | none => .next s
  | some c =>
    let s1 := s.upd lane fun L => ((L.setFlag (aKey 0x50) 31 false).setFld (aKey 0x50) 0 4 1).keyWipe.keyUpd fun u => { u with cmd := none }
    if c.op = 3 then .next (s1.upd lane fun L => L.putWords (aKey 0x60) ((List.range 8).map fun i => c.value.extractLsb' (32 * i) 32))
    else if !c.effective then .next s1
    else
      let s2 := s1.keyApply lane c
      let o := other lane
      .next (if c.forward && s2.isUp o then s2.upd o fun L => L.keyUpd fun u => { u with fwd := u.fwd ++ [c] } else s2)

/-- The other lane applies the oldest forwarded operation. -/
def execKeyForwardedOp (lane : LaneId) (s : State) : Out :=
  match (s.lane lane).keys.fwd with
  | [] => .next s
  | c :: rest => .next ((s.upd lane fun L => L.keyUpd fun u => { u with fwd := rest }).keyApply lane c)

/-- A slot becomes BAD in a lane (R461). -/
def State.keyBad (s : State) (l : LaneId) (slot : Fin 32) : State :=
  let k := (s.lane l).keys.slots[slot]
  if k.state ≠ 1 then s
  else
    let s1 := s.upd l fun L => L.keyUpd fun u => { u with slots := u.slots.set slot { k with state := 2 } }
    (s1.raise l 0xF0 slot).hcEndSlot l slot

/-- The scrub of a VALID slot (R460): a tag that fails makes it BAD, in RUN in both lanes (R461). -/
def execKeyScrub (lane : LaneId) (slot : Fin 32) (tagOk : Bool) (s : State) : Out :=
  if tagOk || (s.lane lane).keys.slots[slot].state != 1 || !s.isUp lane then .next s
  else
    let s1 := s.keyBad lane slot
    .next (if s1.mode.mode == .run then s1.keyBad (other lane) slot else s1)

/-- Lanes compare their stores at step 9 of power-up (R463): the higher KEY_GEN, or lane A's store, is copied. -/
def State.keyReconcile (s : State) : State :=
  if !s.bothUp then s
  else
    let gA := (s.lane .a).getN (aKey 4)
    let gB := (s.lane .b).getN (aKey 4)
    if gA = gB ∧ (s.lane .a).keys.slots = (s.lane .b).keys.slots then s
    else
      let src : LaneId := if signed 32 (gB + 2 ^ 32 - gA) ≤ 0 then .a else .b
      let dst := other src
      let k := (s.lane src).keys.slots
      let g := (s.lane src).get (aKey 4)
      (s.upd dst fun L => ((L.put (aKey 4) g).setFlag (aKey 0) 1 true).keyUpd fun u => { u with slots := k }).raise dst 0xF1

/-! ROOT_SEED (R468). -/

def Lane.seedStaged (L : Lane) : Big := BitVec.ofNat 256 ((List.range 8).foldl (fun n i => n + (L.keys.seed.getD i 0).toNat * 2 ^ (32 * i)) 0)
def Lane.seedWipe (L : Lane) : Lane := L.keyUpd fun u => { u with seed := Vector.replicate 8 0 }

/-- SEED_SET in CONFIGURE with the latch set; anything else is refused and clears ATT_SEED. One command acts on the module:
the seed is that of the lane whose write is served. -/
def State.seedSet (s : State) (src : Src) (key : Half) : State :=
  let ls := s.lanesOf src
  let l := s.readLane src
  if ls.isEmpty || s.keyWho l src.req = 1 then s.busErr
  else if key ≠ 0x4154 then s.ok
  else if s.mode.mode ≠ .configure ∨ !s.provLatch ∨ s.keyWho l src.req = 2 ∨ (s.lane l).keys.attBusy ∨ (s.lane l).keys.keygen then
    s.each ls fun l s => (s.attRefuse l 5).upd l (·.seedWipe)
  else
    let seed := (s.lane l).seedStaged
    let s1 := s.keep fun k => ({ k with rootSeed := some seed } : Keeper).setFld 0x010110 16 16 (satInc 16 (k.fld 0x010110 16 16))
    let s2 := s1.updBoth fun L => (L.putN (aKey 4) (L.getN (aKey 4) + 1)).seedWipe.keyUpd fun u => { u with slots := Vector.replicate 32 KeySlot.init }
    let s3 := s2.each s2.ups fun l s =>
      let s' := (s.upd l fun L => ((L.setFlag (aAtt 0) 31 true).setFld (aAtt 0) 0 4 0).keyUpd fun u => { u with keygen := true, pub := [] }).keyRefs l
      s'.hcEnd l
    s3.ok
def execSeedSet (src : Src) (key : Half) (s : State) : Out := .next (s.seedSet src key)

/-- KeyGen completes in a lane: the identity key is available (R468). -/
def State.identity (s : State) (l : LaneId) : State :=
  match s.keeper.rootSeed with
  | none => s
  | some seed => s.upd l fun L => (L.setFlag (aAtt 0) 30 true).keyUpd fun u => { u with keygen := false, pub := Config.mldsaPublic seed }
def execKeygenDone (lane : LaneId) (s : State) : Out :=
  if !(s.lane lane).keys.keygen then .next s
  else .next ((((s.identity lane).upd lane fun L => (L.setFlag (aAtt 0) 31 false).setFld (aAtt 0) 0 4 1)).raise lane 0xF6)

/-! Anchors (R469). -/

def State.anchor (s : State) (k : Fin 4) : Anchor := s.keeper.anchors[k]
/-- The anchors that are programmed and not revoked, other than `k`. -/
def State.otherAnchors (s : State) (k : Fin 4) : Bool :=
  (List.finRange 4).any fun (j : Fin 4) => j != k && s.keeper.anchors[j].programmed && !s.keeper.anchors[j].revoked

/-- An OTP command: accepted it burns; refused it ends with IND error status. -/
def State.otpCmd (s : State) (src : Src) (key : Half) (ok revoke : Bool) (k : Fin 4) : State :=
  if (s.lanesOf src).isEmpty then s.busErr
  else if !s.dieOpen src || key ≠ 0x4F54 then s.ok
  else if !ok || s.keeper.burn.isSome then (s.keep (·.setFld 0x01010C 0 2 2)).indFail src 2
  else (s.keep fun q => ({ q with burn := some (revoke, k) } : Keeper).setBits 0x01010C 31 true).ok
def execAnchorProgram (src : Src) (key : Half) (anchor : Fin 4) (s : State) : Out :=
  .next (s.otpCmd src key (decide (s.mode.mode = .configure) && s.provLatch && !(s.anchor anchor).programmed) false anchor)
def execAnchorRevoke (src : Src) (key : Half) (anchor : Fin 4) (s : State) : Out :=
  let a := s.anchor anchor
  .next (s.otpCmd src key ((s.mode.mode == .configure || s.mode.mode == .stop) && a.programmed && !a.revoked && s.otherAnchors anchor) true anchor)

/-- The digest staged in KPR_ANCHOR_STAGE. -/
def Keeper.staged (k : Keeper) : Big := BitVec.ofNat 256 ((List.range 8).foldl (fun n w => n + (k.get (0x010120 + 4 * w)).toNat * 2 ^ (32 * w)) 0)
/-- A burn completes (R469). -/
def execAnchorBurnDone (s : State) : Out :=
  match s.keeper.burn with
  | none => .next s
  | some (revoke, k) =>
    let s1 := s.keep fun q =>
      let a := q.anchors[k]
      let a' := if revoke then { a with revoked := true } else { a with digest := q.staged, programmed := true }
      (({ q with anchors := q.anchors.set k a', burn := none } : Keeper).put 0x01010C 1).tvClear 0x010104
    .next (s1.raiseUp 0xF7 k)

/-- Registers of the keeper that show its anchors, seed and serial number. -/
def State.kprView (s : State) (a : Nat) : Word :=
  let k := s.keeper
  let mask (f : Anchor → Bool) : Nat := (List.finRange 4).foldl (fun n (i : Fin 4) => n + bit (f k.anchors[i]) * 2 ^ i.val) 0
  if a = 0x010100 then BitVec.ofNat 32 (bit k.provLatch)
  else if a = 0x010104 then BitVec.ofNat 32 (mask (·.revoked) * 256 + mask (·.programmed))
  else if a = 0x010110 then withField (k.get a) 0 1 (bit k.rootSeed.isSome)
  else if 0x010200 ≤ a ∧ a < 0x010280 then
    let n := k.anchors.getD ((a - 0x010200) / 0x20) { digest := 0, programmed := false, revoked := false }
    if n.programmed then n.digest.extractLsb' (32 * ((a - 0x010200) % 0x20 / 4)) 32 else 0
  else if 0x010300 ≤ a ∧ a < 0x010310 then
    BitVec.ofNat 32 (leVal ((List.range 4).map fun i => Config.serial (a - 0x010300 + i)))
  else k.get a

/-! Attestation (R471-R473). -/

/-- Digest of the boot ROM, 256 KiB (R471). -/
def romLen : Nat := 0x40000
def romDigest : Big := Config.shake256 ((List.range romLen).map Config.bootRom)

/-- The part of a statement that describes the drawers loaded. -/
def attDrawers (ds : List Drawer) : Bytes :=
  (ds.map fun d => leBytes 1 d.typ ++ leBytes 1 d.inst ++ leBytes 1 d.source ++ zeros 1 ++ leBytes 32 d.digest.toNat).flatten
/-- The head of a statement with `n` drawer records: magic, version, count, length. -/
def attHead (n : Nat) : Bytes := leBytes 4 0x54414B45 ++ leBytes 2 1 ++ leBytes 2 n ++ leBytes 4 (0x860 + 36 * n + 3309)
/-- The part of a statement that says who signs, when and in which state. -/
def State.attState (s : State) (l : LaneId) : Bytes :=
  let L := s.lane l
  let cal := s.calNow
  let sysId := 0x10000000 + Config.laneRev.toNat * 256 + bit Config.gradeE * 2 + laneNo l
  let flags := bit (s.isAct l) + 2 * bit s.provLatch + 4 * bit s.osf + 8 * bit ((L.img.map (·.fallback)).getD false)
  leBytes 4 sysId ++ (List.range 16).map Config.serial ++ leBytes 32 L.keys.nonce.toNat ++ leBytes 4 L.keys.attTb.toNat ++ leBytes 4 s.rtcW.toNat ++
    leBytes 2 cal.subsec ++ leBytes 1 s.mode.mode.code ++ leBytes 1 flags ++ leBytes 4 (L.getN aHealth) ++ leBytes 4 (s.bootStatOf l).toNat ++
    leBytes 4 (s.kprView 0x010104).toNat ++ zeros 8

/-- The signed part of a statement of a lane. -/
def State.attMessage (s : State) (l : LaneId) : Bytes :=
  let L := s.lane l
  let ds := (L.img.map (·.drawers)).getD []
  attHead ds.length ++ s.attState l ++ leBytes 32 romDigest.toNat ++ leBytes 32 (((L.img.map (·.digest)).getD 0 : Big)).toNat ++
    leBytes 32 L.olc.runDigest.toNat ++ slice L.keys.pub 0 1952 ++ attDrawers ds

/-- ATTEST is accepted in a lane; without an identity it ends NO_IDENTITY. -/
def State.attStart (s : State) (l : LaneId) (nonce : Big) (hc : Bool) : State :=
  let clear (s : State) : State := s.upd l fun L => (L.put (aAtt 4) 0).keyUpd fun u => { u with att := [] }
  if s.keeper.rootSeed.isNone then ((clear s).upd l (·.setFld (aAtt 0) 0 4 2)).ok
  else
    ((clear s).upd l fun L => ((L.setFlag (aAtt 0) 31 true).setFld (aAtt 0) 0 4 0).keyUpd fun u =>
      { u with attBusy := true, nonce := nonce, attTb := s.tbW, attHc := hc }).ok
def Lane.attNonce (L : Lane) : Big := BitVec.ofNat 256 ((List.range 8).foldl (fun n i => n + L.getN (aAtt (0x20 + 4 * i)) * 2 ^ (32 * i)) 0)

/-- ATTEST in a lane (R472): an HC request is served by the active lane alone. -/
def State.attest (s : State) (l : LaneId) (req : Requester) (key : Half) (nonce : Option Big) : State :=
  let L := s.lane l
  let who := s.keyWho l req
  if who = 1 then s.busErr
  else if key ≠ 0x4154 then s.ok
  else if who = 2 || req == .uart || L.img.isNone || s.mode.mode == .reset || s.mode.mode == .retain || L.keys.attBusy || L.keys.keygen then s.attRefuse l 5
  else if req == .hc && l != s.act then s.ok
  else s.attStart l (nonce.getD L.attNonce) (req == .hc)
def execAttest (src : Src) (key : Half) (s : State) : Out := .next (s.perLane src fun l s => s.attest l src.req key none)

/-- The statement is finished, or its signature would take more than 32 attempts (R473). -/
def execAttestDone (lane : LaneId) (s : State) : Out :=
  let L := s.lane lane
  if !L.keys.attBusy then .next s
  else
    let seed := s.keeper.rootSeed.getD 0
    let msg := s.attMessage lane
    let n := Config.mldsaAttempts seed msg
    let idle (L : Lane) (result : Nat) : Lane := ((L.setFlag (aAtt 0) 31 false).setFld (aAtt 0) 0 4 result).keyUpd fun u => { u with attBusy := false }
    if 32 < n then .next (s.upd lane (idle · 3))
    else
      let out := msg ++ slice (Config.mldsaSign seed "EMKOLE-ATTEST" msg) 0 3309
      .next ((s.upd lane fun L => (((idle L 1).setFld (aAtt 0) 16 8 n).putN (aAtt 4) out.length).keyUpd fun u => { u with att := out }).raise lane 0xF4)

/-- A statement in progress ends ABORTED (R472). -/
def Lane.attAbort (L : Lane) : Lane :=
  if L.keys.attBusy then ((L.setFlag (aAtt 0) 31 false).setFld (aAtt 0) 0 4 4).keyUpd fun u => { u with attBusy := false } else L
/-- A takeover during an HC request. -/
def Lane.attTaken (L : Lane) : Lane := if L.keys.attHc then L.attAbort else L
/-- The statement is dropped at entry to CONFIGURE. -/
def Lane.attDrop (L : Lane) : Lane := (L.attAbort.put (aAtt 4) 0).keyUpd fun u => { u with att := [] }

/-- What a mode change does to the unit: KEY_OUT is cleared (R465); statements end (R472); ATT_SEED at the end of CONFIGURE
(R468). -/
def Lane.keyMode (L : Lane) (from_ to_ : Mode) : Lane :=
  let L1 := L.putWords (aKey 0x60) (List.replicate 8 0)
  let L2 := if to_ == .configure then L1.attDrop else if to_ == .retain then L1.attAbort else L1
  if from_ == .configure then L2.seedWipe else L2

/-- Registers that show the store and the statement. -/
def State.keyView (s : State) (L : Lane) (a : Nat) : Word :=
  let mask (st : Fin 3) : Nat := (List.finRange 32).foldl (fun n (i : Fin 32) => n + bit (L.keys.slots[i].state == st) * 2 ^ i.val) 0
  let bytesAt (bs : Bytes) (o : Nat) : Word := BitVec.ofNat 32 (u32At bs o)
  if a = 0x40180000 then withField (L.get a) 0 1 (bit s.keeper.rootSeed.isNone)
  else if a = 0x40180008 then BitVec.ofNat 32 (mask 1)
  else if a = 0x4018000C then BitVec.ofNat 32 (mask 2)
  else if 0x40180100 ≤ a ∧ a < 0x40180180 then
    let k := L.keys.slots.getD ((a - 0x40180100) / 4) KeySlot.init
    BitVec.ofNat 32 (k.attr.toNat * 0x10000 + k.state.val)
  else if a = 0x40190000 then withField (L.get a) 29 1 (bit s.provLatch)
  else if 0x40190200 ≤ a ∧ a < 0x401909A0 then bytesAt L.keys.pub (a - 0x40190200)
  else if 0x40191000 ≤ a ∧ a < 0x401A0000 then bytesAt L.keys.att (a - 0x40191000)
  else L.get a

/-- Value checks of KEY registers (R465). -/
def Lane.keyCheck (L : Lane) (name : String) (v : Word) : Bool :=
  if name == "KEY_DRV" then fieldOf v 24 8 ≤ 64 && fieldOf v 16 6 < max 1 L.keyLabels else true
/-- Writes of the staged words, which have no place in the register file (R459, R468). -/
def Lane.keyStage (L : Lane) (a : Nat) (v : Word) : Lane :=
  if 0x40180020 ≤ a ∧ a < 0x40180040 then L.keyUpd fun u => { u with val := u.val.set! ((a - 0x40180020) / 4) v }
  else if 0x40190040 ≤ a ∧ a < 0x40190060 then L.keyUpd fun u => { u with seed := u.seed.set! ((a - 0x40190040) / 4) v }
  else L

/-- The KEYREF drawer (R466), and the encrypted drawers of its manifest (slots). -/
def keyrefDrawerOk (ds : List Drawer) (encSlots : List Nat) : Bool :=
  let d := drOf ds 0x12
  let n := u8At d 0
  let nl := u8At d 1
  (encSlots.all fun k => keyRefHas ds k 2) &&
  (d.isEmpty || (n ≤ 32 && nl ≤ 64 && allAt d 2 14 0 && d.length == 16 + 8 * n + 32 * nl &&
    (allBelow n fun i =>
      let e := slice d (16 + 8 * i) 8
      u8At e 0 ≤ 31 && u8At e 1 == 0 && u16At e 2 < 16 && allAt e 4 4 0) &&
    distinctBelow n (fun i => u8At d (16 + 8 * i)) &&
    allBelow nl fun i =>
      let e := slice d (16 + 8 * n + 32 * i) 32
      1 ≤ u8At e 0 && u8At e 0 ≤ 31 && ((slice e 1 (u8At e 0)).all fun b => 0x20 ≤ b.toNat && b.toNat ≤ 0x7E) && allAt e (1 + u8At e 0) (31 - u8At e 0) 0))

end Sys2Proof.Machine
end

