-- ==== Sys2Proof/Machine/Eng.lean ====
section
/-! DEFINITION. Machine/Eng.lean: the engines (09: R236-R238, R247, R254, R262; 11: R278-R280, R294): registers, contexts,
PMP entries, dispatch and pre-emption. The programs are no part of the module: what they put into registers is free. -/
namespace Sys2Proof.Machine

/-! PMP entries (R278, R280). -/

/-- pmpcfg: R, W, X, the mode A and L. -/
def pmpCfg (r w x : Bool) (a : Nat) (lock : Bool) : Byte := BitVec.ofNat 8 (bit r + 2 * bit w + 4 * bit x + 8 * a + 128 * bit lock)
def pmpOff : PmpEntry := { cfg := 0, addr := 0 }
/-- The entries of a region: NAPOT (NA4 for 4 bytes), or the two of TOR. -/
def pmpRegion (r w x lock : Bool) (g : Nat × Nat) : List PmpEntry :=
  let n := g.2 - g.1
  if napotFits g then
    [{ cfg := pmpCfg r w x (if n = 4 then 2 else 3) lock, addr := BitVec.ofNat 32 ((g.1 + if n = 4 then 0 else n / 2 - 1) / 4) }]
  else [{ cfg := pmpCfg false false false 0 lock, addr := BitVec.ofNat 32 (g.1 / 4) }, { cfg := pmpCfg r w x 1 lock, addr := BitVec.ofNat 32 (g.2 / 4) }]
/-- The table of a task (R278); a PRIV task's has the L bit clear (R280). Code regions come before data regions (DEDUCED from the
table's words, log 60). -/
def Lane.pmpTable (L : Lane) (t : Nat) : Vector PmpEntry 16 :=
  let lock := !L.tPriv t
  let own := ((pmpRuns (L.dr 1 t) true).map (pmpRegion true false true lock)).flatten ++
    ((pmpRuns (L.dr 2 t) false).map (pmpRegion true true false lock)).flatten
  let six := (own ++ List.replicate 6 pmpOff).take 6
  let all := pmpRegion false false false lock (0x0813F000, 0x08140000) ++ pmpRegion true false true lock (0x08000000, 0x08040000) ++
    pmpRegion true true false lock (0x08100000, 0x08140000) ++ six ++ pmpRegion true false false lock (0x20000000, 0x21000000) ++
    pmpRegion true true false lock (0x30000000, 0x34000000) ++ pmpRegion true true false lock (0x40000000, 0x44000000) ++
    pmpRegion true true false lock (0x4F000000, 0x4F010000) ++ pmpRegion true false true lock (0, 0x40000)
  Vector.ofFn fun i => all.getD i.val pmpOff

/-- Entry i matches an address (RISC-V privileged specification; TOR takes its lower bound from the entry below). -/
def pmpMatch (tb : Vector PmpEntry 16) (i : Nat) (a : Nat) : Bool :=
  let e := tb.getD i pmpOff
  let at_ := e.addr.toNat
  match fieldOf (e.cfg.zeroExtend 32) 3 2 with
  | 0 => false
  | 1 => (if i = 0 then 0 else (tb.getD (i - 1) pmpOff).addr.toNat * 4) ≤ a && a < at_ * 4
  | 2 => at_ * 4 ≤ a && a < at_ * 4 + 4
  | _ =>
    let n := (at_ ^^^ (at_ + 1)) + 1
    (at_ - at_ % n) * 4 ≤ a && a < (at_ - at_ % n) * 4 + n * 4
/-- Whether an access to a byte is permitted: bit p of pmpcfg (0 R, 1 W, 2 X) of the lowest entry that matches. Entries with L
clear do not restrict machine mode; an address that no entry matches is denied to user mode. -/
def pmpAllows (tb : Vector PmpEntry 16) (machine : Bool) (p a : Nat) : Bool :=
  match (List.range 16).find? fun i => pmpMatch tb i a with
  | some i =>
    let c := (tb.getD i pmpOff).cfg
    c.getLsbD p || (machine && !c.getLsbD 7)
  | none => machine

/-- A store of a task on one of its engines takes effect (R142, R166, R278): PMP permits every byte of it, and it lies outside the
boot ROM, the Bench's working area and the tracker's. -/
def Lane.storeOk (L : Lane) (t : Nat) (a n : Nat) : Bool :=
  let tb := L.pmpTable t
  allBelow n fun i =>
    let b := a + i
    pmpAllows tb (L.tPriv t) 1 b && regionOf b != .rom && !(regionOf b == .bench && (inBenchWork b || L.inTracker b))

/-! Registers (R236, R254). -/

/-- Registers as a program has left them: free but for x0. -/
def EngRegs.any (n : Nat) (e : Fin 16) : EngRegs :=
  let v (i : Nat) : DWord := Config.engValue n (e.val * 128 + i)
  { x := Vector.ofFn fun (i : Fin 32) => if i.val = 0 then 0 else (v i.val).truncate 32,
    f := Vector.ofFn fun (i : Fin 32) => v (32 + i.val), fcsr := (v 64).truncate 32, pc := (v 65).truncate 32 }
def EngRegs.setX (r : EngRegs) (i : Fin 32) (w : Word) : EngRegs := if i.val = 0 then r else { r with x := r.x.set i w }
/-- At its ENTRY (R254): sp, a0 = k, a1 = the task, ra. -/
def Lane.entryRegs (L : Lane) (e : Fin 16) (t : Fin 8) : EngRegs :=
  let d := L.dr 1 t
  let r := ((((EngRegs.any L.tasks[t].entryFree e).setX 1 Config.rtStub).setX 2 (BitVec.ofNat 32 (u32At d (20 + 8 * e.val)))).setX 10
    (BitVec.ofNat 32 L.tasks[t].curK)).setX 11 (BitVec.ofNat 32 t.val)
  { r with pc := BitVec.ofNat 32 (u32At d (16 + 8 * e.val)) }

/-- The counter `time` (R236): the extended time-base count in ns. -/
def State.engTime (s : State) : DWord := BitVec.ofNat 64 s.ns

/-! Dispatch (R237, R247). -/

/-- ENG_STAT of an engine. -/
def Lane.engShow (L : Lane) (e : Fin 16) : Lane :=
  let g := L.engines[e]
  let st := if g.locked then 3 else if g.halted then 2 else if g.cur.isSome then 1 else 0
  let t := match g.cur with
    | some t => t.val
    | none => 0
  L.putN (aEng e 0) (t * 2 ^ 16 + bit (g.cur.isSome && L.tPriv t) * 2 ^ 8 + st)

def Lane.engUpd (L : Lane) (e : Fin 16) (f : Engine → Engine) : Lane :=
  ({ L with engines := L.engines.set e (f L.engines[e]) }).engShow e

/-- A task begins on an engine: at its entry, under its PMP table (R254, R278). -/
def Lane.engEnter (L : Lane) (e : Fin 16) (t : Fin 8) : Lane :=
  L.engUpd e fun g => { g with cur := some t, waiting := g.waiting.erase t, regs := L.entryRegs e t, pmp := L.pmpTable t }
/-- A pre-empted task goes on with its context (R247, R278). Whether it is sound is
checked after (`ctxCheck`, R294). -/
def Lane.engRestore (L : Lane) (e : Fin 16) (t : Fin 8) : Lane :=
  L.engUpd e fun g => { g with cur := some t, stack := g.stack.erase t, restored := true, regs := g.saved[t], pmp := L.pmpTable t }

/-- The engine is free again: the waiting or pre-empted task of highest priority goes on (R247). -/
def Lane.engNext (L : Lane) (e : Fin 16) : Lane :=
  let g := L.engines[e]
  let cand := if g.locked then [] else g.stack ++ g.waiting
  match cand.foldl (fun (b : Option (Fin 8)) t => match b with
      | none => some t
      | some u => if L.tPrio u < L.tPrio t then some t else some u) none with
  | none => L.engUpd e fun g => { g with cur := none }
  | some t => if g.stack.contains t then L.engRestore e t else L.engEnter e t

/-- Take a task off an engine, wherever it stands there. -/
def Lane.engDrop (L : Lane) (e : Fin 16) (t : Fin 8) : Lane :=
  let g := L.engines[e]
  if g.cur == some t then (L.engUpd e fun g => { g with cur := none }).engNext e
  else L.engUpd e fun g => { g with stack := g.stack.erase t, waiting := g.waiting.erase t }

/-- Take a task off every engine: its contexts are discarded. -/
def Lane.engDropAll (L : Lane) (t : Fin 8) : Lane := (List.finRange 16).foldl (fun (L : Lane) (e : Fin 16) => L.engDrop e t) L

end Sys2Proof.Machine
end

