-- ==== Sys2Proof/Machine/Cyc.lean ====
section
/-! DEFINITION. Machine/Cyc.lean: task cycles (09: R246-R263): start, finish, publish, mirror window, overrun, traps, the
runtime calls and the task commands. -/
namespace Sys2Proof.Machine

/-- A published value becomes visible with its stamp (R189, R249). -/
def pubSet (L : Lane) (id : Nat) (bs : Bytes) (stamp : Word) : Lane :=
  if L.published.any (·.1 == id) then { L with published := L.published.map fun p => if p.1 == id then (id, bs, stamp) else p }
  else { L with published := L.published ++ [(id, bs, stamp)] }

/-- Forced symbols of a task that are not bound as inputs, outputs or published (R260): written at steps 2 and 4. -/
def State.forceOthers (s : State) (l : LaneId) (t : Nat) : State :=
  let bs := (s.lane l).bindings t
  ((s.lane l).syms t).foldl (fun s y =>
    if bs.any (fun b => b.sym == y.id) || y.attr.testBit 1 then s
    else match s.force l 0 y.id with
      | some v => s.symWrite l t y (leBytes 8 v.toNat)
      | none => s) s

/-- Latch the inputs of a task in one lane (R249 steps 1 and 2), with input forces. -/
def State.latchInputs (s : State) (l : LaneId) (t : Fin 8) : State :=
  let ins := ((s.lane l).bindings t).filter fun b => !b.out
  let s1 := ins.foldl (fun s b =>
    match (s.lane l).sym? t b.sym with
    | none => s
    | some y =>
      let v := match s.force l 0 y.id with
        | some f => leBytes y.size f.toNat
        | none => s.inputBytes l b y.size
      (s.symWrite l t y v).inputLatched l b) s
  (s1.loopLatch l t).forceOthers l t

/-! Engines at work. -/

/-- The program of an engine has run to some point (R236, R247): its registers are what it made them, `cycle` and `instret` have
grown, and a PRIV task may have rewritten the PMP entries (R280). All of it is free (log 4, log 61). -/
def State.engRan (s : State) (l : LaneId) (e : Fin 16) : State :=
  let n := s.free
  let v (i : Nat) : DWord := Config.engValue n (e.val * 128 + i)
  let free : Vector PmpEntry 16 := Vector.ofFn fun (i : Fin 16) => { cfg := (v (80 + i.val)).truncate 8, addr := (v (96 + i.val)).truncate 32 }
  { s with free := n + 1 }.upd l fun L =>
    let priv := L.engines[e].cur.any fun t => L.tPriv t
    L.engUpd e fun g =>
      { g with regs := EngRegs.any n e, pmp := if priv then free else g.pmp,
               cycle := g.cycle + ((v 66).truncate 40).zeroExtend 64, instret := g.instret + ((v 67).truncate 40).zeroExtend 64 }

/-- The CSRs of a trap into machine mode (R238). -/
def State.engTrapCsr (s : State) (l : LaneId) (e : Fin 16) (cause epc tval : Word) : State :=
  s.upd l fun L => L.engUpd e fun g => { g with csr := { g.csr with mcause := cause, mepc := epc, mtval := tval } }

/-- The engine of a pre-empted task faults while its context is saved (R294): LOCKED, the health bit, the event; the pre-empted
task's cycle is FAULTED, and its context is lost. -/
def State.engLock (s : State) (l : LaneId) (e : Fin 16) (u : Fin 8) : State :=
  ((s.upd l fun L =>
    (((L.engUpd e fun g => { g with locked := true, cur := none }).setFlag (aT u 0) 11 true).setFld (aT u 0) 16 4 e.val).taskUpd u fun T =>
      { T with faulted := true }).raise l 0x30 e).setHealth l 1

/-- Pre-empt task u on an engine for task t (R247): its context goes into the 512 bytes, whose layout is not stated and whose
bytes are free here. -/
def State.engPreempt (s : State) (l : LaneId) (e : Fin 16) (u t : Fin 8) : State :=
  let (bs, s1) := (s.engRan l e).freshBytes 512
  s1.upd l fun L =>
    let L1 := L.wrMem e (0x0813F000 + 0x200 * u.val) bs
    ((L1.engUpd e fun g => { g with stack := u :: g.stack, saved := g.saved.set u g.regs }).engEnter e t).wrapFld (aEng e 0x10) 0 32

/-- Give engine `e` to a task in one lane (R247): a free engine starts it, one that runs a task of lower priority is
pre-empted, any other keeps it waiting. `fault`: the hardware save of the context faults (R294). -/
def State.engGive (s : State) (l : LaneId) (t : Fin 8) (e : Fin 16) (fault : Bool) : State :=
  let L := s.lane l
  let g := L.engines[e]
  let wait := s.upd l fun L => L.engUpd e fun g => { g with waiting := g.waiting ++ [t] }
  if g.locked then s
  else match g.cur with
  | none => if g.halted then wait else s.upd l fun L => L.engEnter e t
  | some u =>
    if L.tPrio u < L.tPrio t && !g.halted then (if fault then s.engLock l e u else s.engPreempt l e u t) else wait

/-- A trap the runtime does not serve (R238) ends the engine's part: the cycle is FAULTED. -/
def State.trap (s : State) (l : LaneId) (e : Fin 16) (cause epc tval : Word) : State :=
  match (s.lane l).engines[e].cur with
  | none => s
  | some t =>
    (((s.engRan l e).engTrapCsr l e cause epc tval).upd l fun L =>
      let L1 := ((L.put (aEng e 4) cause).put (aEng e 8) epc).put (aEng e 0xC) tval
      let L2 := (L1.setFlag (aT t 0) 11 true).setFld (aT t 0) 16 4 e.val
      (L2.engDrop e t).taskUpd t fun T => { T with faulted := true, running := T.running &&& ~~~ BitVec.ofNat 16 (2 ^ e.val) }).raise l 0x24 t

/-- A context restored on an engine with an uncorrectable error: the restored cycle is FAULTED by the load's access fault, at the
address of the context, and the error is reported (R294, R295). The next task may meet the same. -/
def State.ctxCheckE (l : LaneId) (e : Fin 16) : Nat → State → State
  | 0, s => s
  | n + 1, s =>
    let L := s.lane l
    match L.engines[e].cur with
    | none => s
    | some t =>
      let a := 0x0813F000 + 0x200 * t.val
      if L.engines[e].restored && L.eccBad (memKey e a) 0x200 then
        ctxCheckE l e n ((s.eccUe l (memKey e a) a).trap l e 5 L.engines[e].regs.pc (BitVec.ofNat 32 a))
      else s.upd l fun L => L.engUpd e fun g => { g with restored := false }
/-- The check of every context that an engine has taken up again. -/
def State.ctxCheck (s : State) : State :=
  s.each s.ups fun l s => (List.finRange 16).foldl (fun (s : State) (e : Fin 16) =>
    if (s.lane l).engines[e].restored then State.ctxCheckE l e 8 s else s) s

/-- A cycle starts in one lane. -/
def State.cycleBegin (s : State) (l : LaneId) (t : Fin 8) (k : Nat) (saveFault : Option (LaneId × Fin 16)) : State :=
  let L := s.lane l
  let t0 := s.gridNs l t k
  let pub := t0 + L.pubOfs t
  let ovr := pub + L.fld (aT t 4) 0 24 * 1000
  let s1 := s.upd l fun L =>
    let L1 := (((L.setTState t 2).wrapFld (aT t 0x14) 0 32).putN (aT t 0x18) t0)
    L1.taskUpd t fun T => { T with curK := k, t0 := t0, pubAt := pub, ovrAt := ovr, running := BitVec.ofNat 16 (L.tEngines t), entryFree := s.free,
                                   finished := none, faulted := false, image := [], restartAt := none, stepReq := false, axisWr := [] }
  let s2 := { s1 with free := s1.free + 1 }.latchInputs l t
  (List.finRange 16).foldl (fun (s : State) (e : Fin 16) =>
    if (L.tEngines t).testBit e.val then s.engGive l t e (saveFault == some (l, e)) else s) s2

/-- A start is skipped (R251, R262). -/
def State.cycleSlip (s : State) (l : LaneId) (t : Fin 8) : State := (s.upd l (·.incFld (aT t 0xC) 0 16)).raise l 0x21 t

/-- The pending image of a finished cycle (R249 step 4): output values and PUBLISH values, with output forces. -/
def State.buildImage (s : State) (l : LaneId) (t : Fin 8) : List OutVal :=
  let L := s.lane l
  let val (y : Sym) : Bytes := match s.force l 0 y.id with
    | some f => leBytes y.size f.toNat
    | none => s.symRead l t y
  let outs := (L.bindings t).filter (·.out) |>.filterMap fun b =>
    (L.sym? t b.sym).map fun y => { kind := b.kind, idx := b.idx, sym := y.id, bytes := val y : OutVal }
  let pubs := (L.syms t).filter (fun y => y.attr.testBit 1) |>.map fun y => { kind := 0xFF, idx := 0, sym := y.id, bytes := val y : OutVal }
  outs ++ pubs

/-- The request bit of a CAN_TX record is taken with the image, so that it tells what the next cycle asks for (R240). -/
def State.canTaken (s : State) (l : LaneId) (t : Fin 8) : State :=
  ((s.lane l).bindings t).foldl (fun s b =>
    if b.out && b.kind == 0xA then match (s.lane l).sym? t b.sym with
      | some y =>
        let bs := s.symRead l t y
        s.symWrite l t y (splice bs 4 (leBytes 4 (withField (BitVec.ofNat 32 (u32At bs 4)) 15 1 0).toNat))
      | none => s
    else s) s

/-- The task can finish its cycle: it runs, is not FAULTED, and no engine of its set is locked (R238, R294). -/
def Lane.canFinish (L : Lane) (t : Fin 8) : Bool :=
  L.tState t == 2 && !L.tasks[t].faulted && allBelow 16 fun e => !(L.tEngines t).testBit e || !(L.engines.getD e Engine.init).locked

/-- Every engine of the task's set has returned (R249 steps 3 and 4). `writes` are what the program stored in the lane's
private memory during the cycle: of an engine of its set, where PMP and the areas of the units let a store take effect. -/
def execCycleFinish (lane : LaneId) (task : Fin 8) (writes : List MemWrite) (s : State) : Out :=
  let L := s.lane lane
  if !(s.isUp lane) || !L.canFinish task then .next s
  else
    let own (w : MemWrite) : Bool := (L.tEngines task).testBit w.engine.val && L.storeOk task w.addr.toNat w.data.length
    let s1 := s.upd lane fun L => (writes.filter own).foldl (fun L w => L.wrMem w.engine.val w.addr.toNat w.data) L
    let s2 := s1.forceOthers lane task
    let img := s2.buildImage lane task
    let us := (s2.ns - L.tasks[task].t0) / 1000
    .next (((s2.canTaken lane task).upd lane fun L =>
      let L1 := (L.engDropAll task).taskUpd task fun T => { T with finished := some s2.ns, running := 0, image := img }
      let L2 := (L1.setTState task 3).putN (aT task 0x1C) us
      if L2.getN (aT task 0x20) < us then L2.putN (aT task 0x20) us else L2).ctxCheck)

/-- A trap; an access fault at a word with an uncorrectable error is that error's report (R295). -/
def execEngineTrap (lane : LaneId) (engine : Fin 16) (cause epc tval : Word) (s : State) : Out :=
  let key := memKey engine tval.toNat
  let hit := (cause == 1 || cause == 5 || cause == 7) && (s.lane lane).engines[engine].cur.isSome && (s.lane lane).eccBad key 1
  .next (((if hit then s.eccUe lane key tval.toNat else s).trap lane engine cause epc tval).ctxCheck)

/-! Publishing (R249-R253, R305). -/

/-- The instant at which the active lane's finished cycle goes out: its publish instant, or its finish when late. -/
def Lane.pubDue (L : Lane) (t : Fin 8) : Option Nat :=
  if L.tState t = 3 then (L.tasks[t].finished).map fun f => max f L.tasks[t].pubAt else none

/-- DQ commands of the tasks that publish, each with the lane whose image counts, over the present targets, with DQ forces (R260). -/
def State.dqImage (s : State) (ts : List (Fin 8 × LaneId)) : Word :=
  let base := s.dqTargets
  let prog := ts.foldl (fun (w : Word) (p : Fin 8 × LaneId) => (s.lane p.2).tasks[p.1].image.foldl (fun (w : Word) (o : OutVal) =>
    if o.kind = 8 then withField w o.idx 1 (byteAt o.bytes 0) else w) w) base
  (List.range 32).foldl (fun (w : Word) (j : Nat) => match s.force s.act 2 j with
    | some v => withField w j 1 (v.toNat % 2)
    | none => w) prog

/-- A DQ command lies outside its envelope (R308): a state that is not allowed, or a change before DWELL has passed. -/
def State.dqOutside (s : State) (j : Nat) (v : Bool) : Bool :=
  match (s.lane s.act).cmpEntry 1 j with
  | none => false
  | some e =>
    let d := s.field.dq.getD j DqCh.init
    !(u8At e 1).testBit (bit v) || (d.target != v && s.tb.run < d.lastChange + msU (u16At e 4))

/-- The standby finished this cycle in time: it is compared (R253, R305). -/
def State.stbyDone (s : State) (t : Fin 8) : Bool := (s.lane (other s.act)).tState t == 3

/-- Outputs of one task's image in one lane: axes, setpoints, CAN requests; PUBLISH values become visible. -/
def State.deliver (s : State) (l : LaneId) (img : List OutVal) (wr : List (Nat × Bool × Word)) : State :=
  let s1 := img.foldl (fun s o => if o.kind = 0xFF then s.upd l fun L => pubSet L o.sym o.bytes s.tbW else s.outDeliver l o.kind o.idx o.bytes) s
  wr.foldl (fun s w => if h : w.1 < 16 then s.axTarget l ⟨w.1, h⟩ w.2.1 w.2.2 else s) s1

/-- When a mirror window that falls due now ends (R302): the windows run one after another, each 0.125 ns per byte. -/
def State.windowAt (s : State) (t : Fin 8) : Option Nat :=
  let L := s.lane s.act
  let win := L.windowU t
  let free := L.tasks.foldl (fun m T => max m (T.windowEnd.getD 0)) s.tb.count
  if win = 0 then none else some (free + win)

/-- The state of a task whose cycle has ended: HELD where it is the held one, with the event (R261, R263), else WAITING. -/
def State.cycleOver (s : State) (l : LaneId) (t : Fin 8) : State :=
  if s.mode.mode == .hold && s.mode.held == some t then (s.upd l (·.setTState t 4)).raise l 0x26 t else s.upd l (·.setTState t 1)

/-- One task publishes (R249 steps 5 and 6): a late publish is marked; a late standby is stopped and takes the active
lane's values; the mirror set goes into the slots and the window opens. -/
def State.publishTask (s : State) (t : Fin 8) : State :=
  let act := s.act
  let sb := other act
  let A := (s.lane act).tasks[t]
  let late := A.pubAt < (A.finished.getD 0)
  let s1 := if late then s.each s.ups fun l s => (s.upd l fun L => (L.incFld (aT t 0xC) 16 16).setFlag (aT t 0) 9 true).raise l 0x20 t else s
  let sbUp := s.dualRun
  let sbLate := sbUp && !s.stbyDone t
  let s2 := if sbLate then ((s1.upd sb fun L => ((L.incFld (aT t 0x10) 0 16).setFlag (aT t 0) 8 true).engDropAll t).chestStopped sb t).raise sb 0x23 t else s1
  let s3 := s2.deliver act A.image A.axisWr
  let B := (s.lane sb).tasks[t]
  let s4 := if sbUp then s3.deliver sb (if sbLate then A.image else B.image) (if sbLate then A.axisWr else B.axisWr) else s3
  let s4 := s4.chestPublished t ((s.lane act).getN (aT t 0x14))
  let win := s.windowAt t
  let close (l : LaneId) (own : Bool) (s : State) : State :=
    (s.upd l fun L => (if own then L.slotPut t (L.mirrorGet t) else L).taskUpd t fun T =>
      { T with finished := none, image := [], running := 0, slotOld := !own && win.isSome, axisWr := [], windowEnd := win }).cycleOver l t
  let s5 := close act true s4
  if sbUp then close sb (!sbLate) s5 else s5

/-- Order of the mirror windows of one instant (R302): by publish instant, then by descending priority. -/
def Lane.pubOrder (L : Lane) (x : Fin 8 × Nat) : List (Fin 8 × Nat) → List (Fin 8 × Nat)
  | [] => [x]
  | y :: r => if x.2 < y.2 ∨ (x.2 = y.2 ∧ L.tPrio y.1 ≤ L.tPrio x.1) then x :: y :: r else y :: L.pubOrder x r

/-- The next publish instant (R250): everything that is due at it goes out together. The DQ images are compared but for what a
late standby did not produce (R253, R305), and applied whole (R312); the field die in FAILSAFE takes none (R314). -/
def rowPublishInstant (s : State) : Out :=
  let act := s.act
  let sb := other act
  let L := s.lane act
  let dues := (List.finRange 8).filterMap fun t => (L.pubDue t).map fun d => (t, d)
  match (dues.map (·.2)).min? with
  | none => .next s
  | some d =>
    let s0 := s.advTo (nsU d)
    let ts := ((dues.filter fun p => nsU p.2 ≤ s0.tb.count).foldl (fun r p => L.pubOrder p r) []).map (·.1)
    let both := if s0.compares then ts.filter s0.stbyDone else []
    let wA := s0.dqImage (ts.map fun t => (t, act))
    let wS := s0.dqImage (ts.map fun t => (t, if both.contains t then sb else act))
    let diff := (List.range 32).filter fun j => bitOf wA j != bitOf wS j
    let mis := !diff.isEmpty
    let eA := diff.any fun j => s0.dqOutside j (bitOf wA j)
    let eS := diff.any fun j => s0.dqOutside j (bitOf wS j)
    let keepS := mis && s0.tableRow false true eA eS == 4
    let s1 := if s0.red.failsafe then s0 else s0.dqApply (if keepS then wS else wA)
    let s2 := (ts.foldl (fun s t => s.publishTask t) s1).ctxCheck
    .next (if mis then s2.redTrigger 1 (diff.headD 0) true eA eS else s2)

/-- The mirror window of a task ends (R302): the standby holds the set in memory and in its slot. -/
def execMirrorWindowEnd (task : Fin 8) (s : State) : Out :=
  let act := s.act
  match (s.lane act).tasks[task].windowEnd with
  | none => .next s
  | some w =>
    let s1 := s.advTo w
    let bs := (s1.lane act).slotGet task
    let s2 := if s1.dualRun then s1.upd (other act) fun L => (L.mirrorPut task bs).slotPut task bs else s1
    .next (s2.each s2.ups fun l s => s.upd l fun L => L.taskUpd task fun T => { T with windowEnd := none, slotOld := false })

/-- The overrun instant O (R251, R252): a cycle not finished, or FAULTED, is stopped and its action applies. -/
def rowOverrunInstant [RegIO] (task : Fin 8) (s : State) : Out :=
  let act := s.act
  let L := s.lane act
  let T := L.tasks[task]
  if !s.running || L.tState task ≠ 2 || T.suspended then .next s
  else
    let s0 := s.advTo (nsU T.ovrAt)
    let action := L.fld (aT task 4) 24 2
    let s1 := s0.each s0.ups fun l s =>
      let s' := (s.upd l fun L => ((L.engDropAll task).incFld (aT task 0x10) 16 16).setFlag (aT task 0) 10 true).dmaAbortTask l task
      let s'' := s'.upd l fun L => (L.mirrorPut task (L.slotGet task)).taskUpd task fun T =>
          { T with finished := none, faulted := false, image := [], running := 0, axisWr := [] }
      ((if action = 1 then s''.upd l (·.setTState task 5) else s''.cycleOver l task).chestStopped l task).raise l 0x22 task
    let s2 := (s1.grpDiscardTask task).ctxCheck
    if action = 1 then .next (s2.raiseUp 0x27 task)
    else if action = 2 then .next (s2.askSafe false)
    else .next s2

/-! Runtime calls (R254-R260): ECALL with the function in a7, arguments in a0 to a3, results in a0 to a2. -/

/-- Results in a0 to a2; the program goes on behind the ECALL. -/
def State.rtRet (s : State) (l : LaneId) (e : Fin 16) (a0 a1 a2 : Word) : State :=
  s.upd l fun L => L.engUpd e fun g => { g with regs := (((g.regs.setX 10 a0).setX 11 a1).setX 12 a2) }
def State.rtRet1 (s : State) (l : LaneId) (e : Fin 16) (a0 : Word) : State :=
  s.upd l fun L => L.engUpd e fun g => { g with regs := g.regs.setX 10 a0 }

/-- The task an engine runs. -/
def State.rtTask (s : State) (l : LaneId) (e : Fin 16) : Option (Fin 8) :=
  if (s.lane l).engines[e].halted then none else (s.lane l).engines[e].cur

/-- A task's program reaches an ECALL: a7 and its arguments stand in the registers, the trap's CSRs are set (cause 8 from user mode,
11 from machine mode), and the runtime will return behind it. -/
def State.rtEcall (s : State) (l : LaneId) (e : Fin 16) (t : Fin 8) (code : Word) (args : List Word) : State :=
  let s1 := s.engRan l e
  let epc := (s1.lane l).engines[e].regs.pc
  (s1.engTrapCsr l e (if (s.lane l).tPriv t then 11 else 8) epc 0).upd l fun L => L.engUpd e fun g =>
    let r := (args.zipIdx.foldl (fun (r : EngRegs) p => r.setX (Fin.ofNat 32 (10 + p.2)) p.1) g.regs).setX 17 code
    { g with regs := { r with pc := epc + 4 } }
/-- A runtime call: nothing where the engine runs no task. -/
def State.rtCall (s : State) (l : LaneId) (e : Fin 16) (code : Word) (args : List Word) (f : Fin 8 → State → State) : State :=
  match s.rtTask l e with
  | none => s
  | some t => f t (s.rtEcall l e t code args)

/-- A call with a symbol that is not in the task's MAP with the type: a trap (R254) at the ECALL. -/
def State.rtTrap (s : State) (l : LaneId) (e : Fin 16) : State :=
  let c := (s.lane l).engines[e].csr
  (s.trap l e c.mcause c.mepc 0).ctxCheck

def execRtInfo (lane : LaneId) (engine : Fin 16) (s : State) : Out :=
  .next (s.rtCall lane engine 0x00 [] fun t s =>
    let L := s.lane lane
    let t0 := L.tasks[t].t0
    s.rtRet lane engine (BitVec.ofNat 32 t0) (BitVec.ofNat 32 (t0 / 2 ^ 32)) (BitVec.ofNat 32 (L.tPeriod t * 250000)))

def execRtNow (lane : LaneId) (engine : Fin 16) (s : State) : Out :=
  .next (s.rtCall lane engine 0x01 [] fun _ s => s.rtRet1 lane engine s.tbW)

/-- Rules of the scanned timers (R256): (PT, ET, LAST, IN, Q) and the input to the new (ET, Q). -/
def timerRule (typ pt et : Nat) (wasIn q inp : Bool) (dt : Nat) : Nat × Bool :=
  let run := min (et + dt) pt
  match typ with
  | 0x10 =>
    if !inp then (0, false)
    else if !wasIn then (0, decide (pt ≤ 0))
    else (run, decide (pt ≤ run))
  | 0x11 =>
    if inp then (0, true)
    else if wasIn then (0, decide (0 < pt))
    else if q then (run, decide (run < pt))
    else (et, decide (et < pt))
  | _ =>
    if q then (run, decide (run < pt))
    else if inp && !wasIn then (0, true)
    else if !inp then (0, false)
    else (et, false)

/-- RT_TMR (R256): a LAST of 0 marks the first scan after initialisation. -/
def execRtTmr (lane : LaneId) (engine : Fin 16) (sym : Word) (input : Bool) (s : State) : Out :=
  .next (s.rtCall lane engine 0x10 [sym, BitVec.ofNat 32 (bit input)] fun t s =>
    match (s.lane lane).sym? t sym.toNat with
    | none => s.rtTrap lane engine
    | some y =>
      if y.typ < 0x10 || 0x12 < y.typ then s.rtTrap lane engine
      else
        let o := s.objRead lane engine y 32
        let t0 := (s.lane lane).tasks[t].t0
        let last := u64At o 16
        let dt := if last = 0 then 0 else t0 - last
        let (et, q) := timerRule y.typ (u64At o 0) (u64At o 8) (u8At o 24 != 0) (u8At o 25 != 0) input dt
        let o' := leBytes 8 (u64At o 0) ++ leBytes 8 et ++ leBytes 8 t0 ++ leBytes 1 (bit input) ++ leBytes 1 (bit q) ++ o.drop 26
        (s.objWrite lane engine y o').rtRet1 lane engine (BitVec.ofNat 32 (bit q)))

/-- RT_EDGE (R258): PREV is the first byte of the object; a FIRST object (byte 1 bit 0, R274) only takes the input over. -/
def execRtEdge (lane : LaneId) (engine : Fin 16) (sym : Word) (input : Bool) (s : State) : Out :=
  .next (s.rtCall lane engine 0x11 [sym, BitVec.ofNat 32 (bit input)] fun t s =>
    match (s.lane lane).sym? t sym.toNat with
    | none => s.rtTrap lane engine
    | some y =>
      if y.typ ≠ 0x13 then s.rtTrap lane engine
      else
        let o := s.objRead lane engine y 2
        let prev := u8At o 0 != 0
        let first := (u8At o 1).testBit 0
        let r := if first then 0 else bit (input && !prev) + 2 * bit (!input && prev)
        (s.objWrite lane engine y [BitVec.ofNat 8 (bit input), BitVec.ofNat 8 (u8At o 1 / 2 * 2)]).rtRet1 lane engine (BitVec.ofNat 32 r))

def aHwt (n : Nat) : Nat := 0x40021000 + 0x10 * n

/-- RT_HWT_START (R257): a timer above 255 or a duration outside 1 ns to 2^48 ns is refused with -1. -/
def execRtHwtStart (lane : LaneId) (engine : Fin 16) (timer : Word) (duration : DWord) (evt : Bool) (s : State) : Out :=
  .next (s.rtCall lane engine 0x12 [timer, duration.truncate 32, (duration >>> 32).truncate 32, BitVec.ofNat 32 (bit evt)] fun t s =>
    let n := timer.toNat
    if 255 < n || duration = 0 || 2 ^ 48 < duration.toNat then s.rtRet1 lane engine 0xFFFFFFFF
    else
      let e := (s.lane lane).tasks[t].t0 + duration.toNat
      (s.upd lane fun L => ((L.putN (aHwt n) (t.val * 2 ^ 16 + bit evt * 2 ^ 8 + 1)).putN (aHwt n + 4) e).putN (aHwt n + 8) (e / 2 ^ 32)).rtRet1 lane engine 0)

def execRtHwtStop (lane : LaneId) (engine : Fin 16) (timer : Word) (s : State) : Out :=
  .next (s.rtCall lane engine 0x13 [timer] fun _ s =>
    let n := timer.toNat
    (if 255 < n then s else s.upd lane (·.setFld (aHwt n) 0 2 0)).rtRet1 lane engine 0)

/-- Extended expiry of a hardware timer. -/
def Lane.hwtE (L : Lane) (n : Nat) : Nat := L.getN (aHwt n + 4) + L.getN (aHwt n + 8) * 2 ^ 32

/-- RT_HWT_QUERY (R257): EXPIRED exactly when E ≤ t0 of the calling cycle. -/
def execRtHwtQuery (lane : LaneId) (engine : Fin 16) (timer : Word) (s : State) : Out :=
  .next (s.rtCall lane engine 0x14 [timer] fun t s =>
    let L := s.lane lane
    let n := timer.toNat
    let e := if 255 < n then 0 else L.hwtE n
    let st := if 255 < n || L.fld (aHwt n) 0 2 = 0 then 0 else if e ≤ L.tasks[t].t0 then 2 else 1
    s.rtRet lane engine (BitVec.ofNat 32 st) (BitVec.ofNat 32 e) (BitVec.ofNat 32 (e / 2 ^ 32)))

def execRtForced (lane : LaneId) (engine : Fin 16) (sym : Word) (s : State) : Out :=
  .next (s.rtCall lane engine 0x20 [sym] fun t s =>
    match (s.lane lane).sym? t sym.toNat with
    | none => s.rtTrap lane engine
    | some y => s.rtRet1 lane engine (BitVec.ofNat 32 (bit (s.force lane 0 y.id).isSome)))

/-- A hardware timer reaches E (R257). -/
def execHwtExpiry (lane : LaneId) (timer : Fin 256) (s : State) : Out :=
  let L := s.lane lane
  if L.fld (aHwt timer) 0 2 ≠ 1 then .next s
  else
    let s1 := (s.advTo (nsU (L.hwtE timer))).upd lane (·.setFld (aHwt timer) 0 2 2)
    .next (if L.flag (aHwt timer) 8 then s1.raise lane 0x25 timer else s1)

/-! Task commands (CYC_TCMD). -/

/-- A command of a task in one lane: nothing with a wrong key, refused for a task that is not defined. -/
def State.taskCmd (s : State) (l : LaneId) (key : Half) (t : Fin 8) (ok : Bool) (f : State → State) : State :=
  if key ≠ 0x5443 then s.ok else if !(s.lane l).taskDef t || !ok then s.refuse l 0x29 t else (f s).ok

/-- RESTART (R252): a STOPPED task starts at the first grid instant at least 1 ms later. -/
def State.taskRestart (s : State) (l : LaneId) (key : Half) (t : Fin 8) : State :=
  s.taskCmd l key t (s.running && (s.lane l).tState t == 5) fun s =>
    s.upd l fun L => L.taskUpd t fun T => { T with restartAt := some (s.tb.count + msU 1) }
def execTaskRestart (src : Src) (key : Half) (task : Fin 8) (s : State) : Out := .next (s.perLane src fun l s => s.taskRestart l key task)

/-- STEP (R261): a held task runs one cycle at its next grid instant. -/
def State.taskStep (s : State) (l : LaneId) (key : Half) (t : Fin 8) : State :=
  s.taskCmd l key t ((s.lane l).tState t == 4) fun s => s.upd l fun L => L.taskUpd t fun T => { T with stepReq := true }
def execTaskStep (src : Src) (key : Half) (task : Fin 8) (s : State) : Out := .next (s.perLane src fun l s => s.taskStep l key task)

/-- CLR_CNT clears the task's counters and CYC_EXEC_MAX. -/
def State.taskClrCnt (s : State) (l : LaneId) (key : Half) (t : Fin 8) : State :=
  s.taskCmd l key t true fun s => s.upd l fun L => ((L.put (aT t 0xC) 0).put (aT t 0x10) 0).put (aT t 0x20) 0
def execTaskClrCnt (src : Src) (key : Half) (task : Fin 8) (s : State) : Out := .next (s.perLane src fun l s => s.taskClrCnt l key task)

/-! Debug (R262). -/

/-- A debugger halts an engine, by request, breakpoint or step: permitted in SINGLE and in HOLD entered from SINGLE while
CYC_DBG_CFG.EN is 1. dpc takes the pc. Tasks whose set contains the engine are suspended in DEBUG. -/
def execDebugHalt (lane : LaneId) (engine : Fin 16) (s : State) : Out :=
  let L := s.lane lane
  if !L.flag 0x40020008 0 || !s.running || s.dualRun || !s.isUp lane || L.engines[engine].halted then .next s
  else
    let s1 := (s.engRan lane engine).upd lane fun L =>
      let L1 := L.engUpd engine fun g => { g with halted := true, dpc := g.regs.pc }
      (List.finRange 8).foldl (fun (L : Lane) (t : Fin 8) =>
        if (L.tEngines t).testBit engine.val && L.taskDef t && !L.tasks[t].suspended then
          (L.taskUpd t fun T => { T with suspended := true, debugFrom := L.tState t }).setTState t 6 else L) L1
    .next (s1.raise lane 0x31 engine)

/-- The state of a task that is no longer suspended: STOPPED stays, a cycle that finished or runs goes on, else HELD or WAITING. -/
def State.debugBack (s : State) (t : Fin 8) (T : Task) : Nat :=
  if T.debugFrom = 5 then 5
  else if T.finished.isSome then 3
  else if T.running != 0 then 2
  else if s.mode.held == some t then 4 else 1

/-- The engine resumes: a suspended task with no halted engine goes on; its interrupted cycle publishes late. A debugger may have
changed every register and trigger of the halted engine: they are free (log 61). -/
def execDebugResume (lane : LaneId) (engine : Fin 16) (s : State) : Out :=
  let L := s.lane lane
  if !L.flag 0x40020008 0 || !L.engines[engine].halted then .next s
  else
    let n := s.free
    let v (i : Nat) : Word := (Config.engValue n (engine.val * 128 + i)).truncate 32
    let trg : Vector (Word × Word) 4 := Vector.ofFn fun (i : Fin 4) => (v (112 + 2 * i.val), v (113 + 2 * i.val))
    .next (({ s with free := n + 1 }.upd lane fun L =>
      let L1 := L.engUpd engine fun g => { g with halted := false, regs := EngRegs.any n engine, dpc := v 68, triggers := trg }
      let L2 := if L1.engines[engine].cur.isNone then L1.engNext engine else L1
      (List.finRange 8).foldl (fun (L : Lane) (t : Fin 8) =>
        let T := L.tasks[t]
        let still := (bitsOf 16 (L.tEngines t)).any fun e => (L.engines.getD e Engine.init).halted
        if T.suspended && !still then (L.setTState t (s.debugBack t T)).taskUpd t fun T => { T with suspended := false } else L) L2).ctxCheck)

/-- Every task when a change to STOP or SAFE, or out of running, takes effect: cycles end without publishing (R46). -/
def Lane.tasksEnd (L : Lane) : Lane :=
  (List.finRange 8).foldl (fun (L : Lane) (t : Fin 8) =>
    if !L.taskDef t then L
    else ((L.engDropAll t).setTState t 1).taskUpd t fun T =>
      { T with finished := none, faulted := false, image := [], running := 0, windowEnd := none, restartAt := none, stepReq := false,
               suspended := false, axisWr := [] }) L

/-- First snapshot and cycle numbers at entry to RUN or SINGLE from STOP (R246, R252). A task with a halted engine starts suspended
(R262). -/
def Lane.tasksBegin (L : Lane) : Lane :=
  (List.finRange 8).foldl (fun (L : Lane) (t : Fin 8) =>
    if !L.taskDef t then L
    else
      let halted := (bitsOf 16 (L.tEngines t)).any fun e => (L.engines.getD e Engine.init).halted
      (((L.slotPut t (L.mirrorGet t)).put (aT t 0x14) 0).setTState t (if halted then 6 else 1)).taskUpd t fun _ =>
        { Task.init with suspended := halted, debugFrom := 1 }) L

/-- Value checks of CYC registers (R241, R260 and the register texts). `ctl` and `id` are the values in force for FRC. -/
def Lane.cycCheck (L : Lane) (req : Requester) (m : Mode) (name : String) (i : Nat) (v : Word) : Bool :=
  let frcOk (ctl id : Word) : Bool :=
    !bitOf ctl 0 || (match fieldOf ctl 4 2 with
      | 0 => (L.symAny id.toNat).any fun p => p.2.size ≤ 8
      | 1 => id.toNat < 64
      | 2 => id.toNat < 32
      | _ => false)
  match name with
  | "CYC_DBG_CFG" => m == .configure || m == .stop
  | "CYC_TSTAT" => L.taskDef i
  | "CYC_CNT_A" => L.taskDef i
  | "CYC_CNT_B" => L.taskDef i
  | "CYC_CYCLE" => L.taskDef i
  | "CYC_T0" => L.taskDef i
  | "CYC_EXEC_LAST" => L.taskDef i
  | "CYC_EXEC_MAX" => L.taskDef i
  | "CYC_TCFG" => L.taskDef i && fieldOf v 24 2 != 3 && fieldOf v 0 24 ≤ L.tPeriod i * 250
  | "CYC_PUB" => L.taskDef i && 100 ≤ fieldOf v 0 10 && fieldOf v 0 10 ≤ 999 && windowOk (fieldOf v 0 10) (L.tPeriod i) (mirrorBytes (L.mirRegs i))
  | "CYC_FRC_CTL" => fieldOf v 4 2 != 3 && frcOk v (L.viewOf req (aFrc i + 4))
  | _ => true

end Sys2Proof.Machine
end

