-- ==== Sys2Proof/Machine/Olc.lean ====
section
/-! DEFINITION. Machine/Olc.lean: online program change (10: R264-R277). -/
namespace Sys2Proof.Machine

def aOlcStat : Nat := 0x40060208
def aOlcSeq : Nat := 0x40060218
def Lane.olcState (L : Lane) : Nat := L.fld aOlcStat 0 3

/-- DEPTH, FULL and FALLBACK. -/
def Lane.olcShow (L : Lane) : Lane :=
  let n := L.olc.chain.length
  ((L.setFld aOlcStat 20 4 (min n 15)).setFlag aOlcStat 19 (n == 16)).setFlag aOlcStat 18 L.olc.fallback.isSome

/-- The running digest in TXN_OLC_DIGEST (R264). -/
def Lane.olcDigest (L : Lane) (d : Big) : Lane :=
  { L.putWords 0x40060240 ((List.range 8).map fun i => d.extractLsb' (32 * i) 32) with olc := { L.olc with runDigest := d } }

/-- A refused command or write (R266). -/
def State.olcRefuse (s : State) (l : LaneId) : State :=
  ((s.upd l (·.setFlag aOlcStat 17 true)).raise l 0xFC ((s.lane l).fld aOlcStat 8 5) 3).busErr

/-- A change is abandoned (R268). -/
def State.olcAbandon (s : State) (l : LaneId) (code : Nat) : State :=
  (s.upd l fun L =>
    let L1 := ((L.setFld aOlcStat 0 3 0).setFld aOlcStat 8 5 code).setFld aOlcStat 13 4 0
    { L1 with olc := { L1.olc with pendDelta := none, own := none, peer := none, revert := false, ts := none } }).raise l 0xFC code 3

/-- START (R266). -/
def State.olcStart (s : State) (l : LaneId) (key : Half) : State :=
  let L := s.lane l
  let st := L.olcState
  let modeOk := s.running || s.mode.mode == .stop
  if key ≠ 0x4F43 then s.ok
  else if !modeOk || (1 ≤ st && st ≤ 4) || s.loader.busy || s.red.resync.isSome || 16 ≤ L.olc.chain.length then s.olcRefuse l
  else (s.upd l fun L =>
    let L1 := (L.setFld aOlcStat 0 3 1).setFld aOlcStat 13 4 0
    { L1 with olc := { L1.olc with pendDelta := none, own := none, sent := none, peer := none, revert := false, ts := none, fallback := none } }.olcShow).ok
def execOlcStart (src : Src) (key : Half) (s : State) : Out := .next (s.perLane src fun l s => s.olcStart l key)

/-! Verification (R264, R265, R267). -/

/-- Drawers of a loaded image with those of a delta in place. -/
def putDrawers (ds news : List Drawer) : List Drawer :=
  ds.map fun d => match news.find? fun n => n.typ == d.typ && n.inst == d.inst with
    | some n => { n with flags := d.flags }
    | none => d

/-- The memory a symbol occupies, in the form of a segment. -/
def symSeg (eng : Nat) (y : Sym) : Nat × Nat × Nat × Nat :=
  (y.addr, y.size, 0, if regionOf y.addr = .itcm ∨ regionOf y.addr = .dtcm then eng else 0)

/-- Code, data and symbols of a task in a list of drawers. -/
def taskSegs (ds : List Drawer) (t : Nat) : List (Nat × Nat × Nat × Nat) :=
  (if (drOf ds 1 t).isEmpty then [] else segsOf (drOf ds 1 t) true) ++ (if (drOf ds 2 t).isEmpty then [] else segsOf (drOf ds 2 t) false)
def taskSyms (ds : List Drawer) (t : Nat) : List Sym := if (drOf ds 4 t).isEmpty then [] else symsOf (drOf ds 4 t)

/-- Integer types by sign: signed 1, unsigned 2, others 0 (R244, R273). -/
def intSign (typ : Nat) : Nat := if typ = 2 ∨ typ = 4 ∨ typ = 6 ∨ typ = 8 then 1 else if typ = 3 ∨ typ = 5 ∨ typ = 7 ∨ typ = 9 then 2 else 0
/-- A symbol keeps its value at a switch (R273). -/
def symKept (o n : Sym) : Bool :=
  (o.typ == n.typ && o.size == n.size) ||
  (intSign o.typ == 1 && intSign n.typ == 1 && o.size < n.size) || (intSign o.typ == 2 && intSign n.typ != 0 && o.size < n.size)
/-- The symbols of two MAPs that carry over, with both entries. -/
def carried (olds news : List Sym) : List (Sym × Sym) :=
  news.filterMap fun n => match olds.find? fun o => o.id == n.id with
    | some o => if symKept o n then some (o, n) else none
    | none => none

/-- Switch bound (R272) in units of 1/6,000 us: 10 per step, 600 per granule of carried data in DRAM or the Chest. -/
def switchBound (nNew : Nat) (cs : List (Sym × Sym)) : Nat :=
  let total := (cs.map fun c => c.1.size).sum
  let far := (cs.map fun c => if regionOf c.1.addr = .dram ∨ regionOf c.1.addr = .chest then c.1.size else 0).sum
  10 * (3000 + 30 * nNew + ceilDiv total 16) + 600 * ceilDiv far 64
def Lane.deltaBound (L : Lane) (d : Delta) : Nat :=
  let ts := bitsOf 8 d.tasks.toNat
  let news := (ts.map fun t => taskSyms d.drawers t).flatten
  let olds := (ts.map fun t => L.syms t).flatten
  switchBound news.length (carried olds news)

/-- Cross-checks and bindings of a delta (R267 orders 7 to 10): the failing code, or none. -/
def Lane.deltaCheck (L : Lane) (ds : List Drawer) (x : Delta) : Option Nat :=
  let ts := bitsOf 8 x.tasks.toNat
  let td := drOf ds 3
  let all := putDrawers ds x.drawers
  let eng (t : Nat) : Nat := match taskEntryOf td t with
    | some e => u16At e 8
    | none => 0
  let newSegs := (ts.map fun t => taskSegs x.drawers t).flatten
  let newSyms := (ts.map fun t => (taskSyms x.drawers t).map (symSeg (eng t))).flatten
  let running := ((List.range 8).map fun t => taskSegs ds t ++ (taskSyms ds t).map (symSeg (eng t))).flatten
  let es := loopEntries (drOf all 9)
  let loopsOk := es.all fun e =>
    (allBelow (loopIn e) fun i => u8At (inDesc e i) 0 != 2 || ctlSrcOk all es 2 (u32At (inDesc e i) 4)) &&
    (allBelow (loopRef e) fun j => u8At (refDesc e j) 0 != 2 || ctlSrcOk all es 2 (u32At (refDesc e j) 4)) &&
    (allBelow (loopOut e) fun j => (u8At (outDesc e j) 0 != 4 || ctlDstOk all 4 (u32At (outDesc e j) 4)) &&
      (u8At (outDesc e j) 1 != 2 || ctlSrcOk all es 2 (u32At (outDesc e j) 8)))
  if !(ts.all fun t => pmpOk (pmpRuns (drOf x.drawers 1 t) true) (pmpRuns (drOf x.drawers 2 t) false) && codeDrawerOk (drOf x.drawers 1 t) (eng t) && dataDrawerOk (drOf x.drawers 2 t) (eng t) && mapDrawerOk (drOf x.drawers 4 t)) ||
      !mapIdsOk all || !allPairs segsApart newSegs then some 3
  else if !((newSegs ++ newSyms).all fun a => running.all fun b => segsApart a b) then some 9
  else if !(ts.all fun t => (bindingsOf td t).all (bindingOk all t)) || !loopsOk then some 0xA
  else if 1200000 < L.deltaBound x then some 0xB
  else none

/-- What a lane finds in its DRAM copy (R267): the failing code, or the delta. -/
def State.olcCheck (s : State) (l : LaneId) : Sum Nat Delta :=
  let L := s.lane l
  let rd : ImgRd := fun off n => memRead L.mem (L.getN 0x40060200 + off) n
  let ds := match L.img with
    | some g => g.drawers
    | none => []
  if headerCode rd 1 ≠ 1 || !manifestOk rd || !sigBlockOk rd then .inl 3
  else if BitVec.ofNat 256 (leAt (rd 0x30 32) 0 32) ≠ L.olc.runDigest then .inl 4
  else if (s.sigCheck rd).1 ≠ 1 then .inl 5
  else if !digestsOk rd then .inl 6
  else
    let man := manAll rd
    let body := man.map fun e => (L.drawerBytes 2 rd e).map fun b =>
      { typ := entTyp e, inst := entInst e, flags := entFlags e, source := L.olc.chain.length + 1, digest := entDigest e, bytes := b : Drawer }
    if body.any (·.isNone) then .inl 6
    else
      let news := body.filterMap id
      let ts := (List.range 8).filter fun t => news.any fun d => d.inst == t
      let online (t : Nat) : Bool := L.taskDef t && [1, 2, 4].all fun k => ds.any fun d => d.typ == k && d.inst == t && d.flags.testBit 1
      if !(news.all fun d => [1, 2, 4].contains d.typ) || !ts.all online then .inl 7
      else if !(ts.all fun t => [1, 2, 4].all fun k => news.any fun d => d.typ == k && d.inst == t) then .inl 8
      else
        let olds := ds.filter fun d => [1, 2, 4].contains d.typ && ts.contains d.inst
        let x : Delta := { digest := cabinetDigest rd, tasks := BitVec.ofNat 8 ((ts.map fun t => 2 ^ t).sum), drawers := news, olds := olds, oldDigest := L.olc.runDigest }
        match L.deltaCheck ds x with
        | some c => .inl c
        | none => .inr x

/-- Zeros in the new symbols, then DATA and CODE in their new places (R267); the Chest is written by the active lane. -/
def State.olcPlace (s : State) (l : LaneId) (x : Delta) : State :=
  (bitsOf 8 x.tasks.toNat).foldl (fun s t =>
    let s1 := (taskSyms x.drawers t).foldl (fun s y => s.symWrite l t y (zeros y.size)) s
    let put (d : Bytes) (s : State) (g : Nat × Nat × Nat × Nat) : State :=
      if regionOf g.1 = .chest then (s.chestPlain l (chestOff g.1) (slice d g.2.2.1 g.2.1)).1 else s.loadSeg l d false g
    let d2 := drOf x.drawers 2 t
    let s2 := if d2.isEmpty then s1 else (segsOf d2 false).foldl (put d2) s1
    (segsOf (drOf x.drawers 1 t) true).foldl (put (drOf x.drawers 1 t)) s2) s

/-! Agreement and the switch instant (R268-R270). -/

/-- The first common start of a delta's tasks at or after an instant in ns, within 20 s (R269). -/
def State.commonStart (s : State) (l : LaneId) (tasks : Byte) (from_ : Nat) : Option Nat :=
  let tR := s.mode.tR.getD 0
  let n0 := ceilDiv (from_ - tR) 250000
  let ts := bitsOf 8 tasks.toNat
  let L := s.lane l
  ((List.range 80001).find? fun i => ts.all fun t => L.tPhase t ≤ n0 + i && (n0 + i - L.tPhase t) % L.tPeriod t == 0).map fun i => tR + 250000 * (n0 + i)

/-- The switch is scheduled in every lane that is ready (R269), or abandoned with NO_BOUNDARY. -/
def State.olcSchedule (s : State) : State :=
  let ls := s.ups.filter fun l => (s.lane l).olcState == 2
  if ls.isEmpty || ls.length < s.ups.length then s
  else
    let later := (ls.map fun l => (s.lane l).olc.ownAt).foldl max 0
    let from_ := (s.tb.count - (s.tb.run - later)) / 2 ^ 40 + 2000000
    let x := (s.lane s.act).olc.pendDelta
    let ts := if s.running then s.commonStart s.act (x.map (·.tasks) |>.getD 0) from_ else some (ceilDiv from_ 250000 * 250000)
    match ts with
    | none => s.each ls fun l s => s.olcAbandon l 0xC
    | some t => s.each ls fun l s => (s.upd l fun L =>
        let L1 := ((L.setFld aOlcStat 0 3 3).putN 0x4006020C t).putN 0x40060210 (t / 2 ^ 32)
        { L1 with olc := { L1.olc with ts := some t } }).raise l 0xFC (s.lane l |>.fld aOlcStat 8 5) 1

/-- A lane that knows what it needs goes ahead or abandons (R268). -/
def State.olcDecide (s : State) (l : LaneId) : State :=
  let L := s.lane l
  if L.olcState ≠ 1 then s
  else match L.olc.own, (if s.bothUp then L.olc.peer else L.olc.own) with
    | some a, some b =>
      if a = 1 ∧ b = 1 then (s.upd l (·.setFld aOlcStat 0 3 2)).olcSchedule
      else
        let (ra, rb) := if l = .a then (a, b) else (b, a)
        s.olcAbandon l (if ra ≠ 1 then ra else rb)
    | _, _ => s

/-- A lane ends its verification (R267, R268). -/
def execOlcVerifyDone (lane : LaneId) (s : State) : Out :=
  let L := s.lane lane
  if !s.isUp lane || L.olcState ≠ 1 || L.olc.own.isSome then .next s
  else match s.olcCheck lane with
    | .inl c => .next ((s.upd lane fun L => { L with olc := { L.olc with own := some c, sent := some c, ownAt := s.tb.run } }).olcDecide lane)
    | .inr x =>
      let s1 := (s.olcPlace lane x).upd lane fun L =>
        { L.setFld aOlcStat 24 8 x.tasks.toNat with olc := { L.olc with own := some 1, sent := some 1, ownAt := s.tb.run, pendDelta := some x } }
      .next (s1.olcDecide lane)

/-- The peer's result, sent as soon as it stood, arrives over the lane link (R268): also that of a peer that has abandoned the
change since. -/
def execOlcPeerResult (lane : LaneId) (s : State) : Out :=
  match (s.lane (other lane)).olc.sent with
  | none => .next s
  | some c =>
    let s1 := s.upd (other lane) fun L => { L with olc := { L.olc with sent := none } }
    if !s.bothUp || (s.lane lane).olcState ≠ 1 then .next s1
    else .next ((s1.upd lane fun L => { L with olc := { L.olc with peer := some c } }).olcDecide lane)

/-- The peer's result has not arrived 500 ms after the own one (R268): both lanes abandon the change, a peer that is READY too. -/
def execOlcPeerTimeout (lane : LaneId) (s : State) : Out :=
  let L := s.lane lane
  if L.olcState ≠ 1 || L.olc.own.isNone || L.olc.peer.isSome then .next s
  else
    let s1 := s.advRun (L.olc.ownAt + msU 500)
    .next (s1.each s1.ups fun l s => if 1 ≤ (s.lane l).olcState && (s.lane l).olcState ≤ 3 then s.olcAbandon l 0xD else s)

/-! The switch (R271-R275). -/

/-- A byte that a DATA drawer gives an address, for engine `e` in a TCM. -/
def dataByte (d : Bytes) (e a : Nat) : Option Byte :=
  if d.isEmpty then none
  else ((segsOf d false).find? fun g => g.1 ≤ a && a < g.1 + g.2.1 && (g.2.2.2 == 0 || g.2.2.2.testBit e)).map fun g => d.getD (g.2.2.1 + (a - g.1)) 0

/-- The value a kept symbol takes (R273, R274): widened, or with the delta's PT in a timer. -/
def carryValue (data : Bytes) (e : Nat) (o n : Sym) (v : Bytes) : Bytes :=
  if o.typ = n.typ then
    if n.typ = 0x10 ∨ n.typ = 0x11 ∨ n.typ = 0x12 then v.zipIdx.map fun p => if p.2 < 8 then (dataByte data e (n.addr + p.2)).getD p.1 else p.1
    else v
  else if intSign o.typ = 1 then leBytes n.size (unsignedOf (8 * n.size) (signed (8 * o.size) (leVal v)))
  else leBytes n.size (leVal v)

def isTcm (a : Nat) : Bool := regionOf a == .itcm || regionOf a == .dtcm
/-- Values of a symbol, engine by engine of the task's set where it lies in TCM. -/
def State.symCopies (s : State) (l : LaneId) (t : Nat) (y : Sym) : List (Nat × Bytes) :=
  if isTcm y.addr then (bitsOf 16 ((s.lane l).tEngines t)).map fun e => (e, s.rdMem l e y.addr y.size)
  else [((s.lane l).leadEng t, s.rdMem l 0 y.addr y.size)]
/-- Write them at their new place. -/
def State.symPut (s : State) (l : LaneId) (t : Nat) (y : Sym) (vs : List (Nat × Bytes)) : State :=
  let one := (vs.headD (0, [])).2
  if regionOf y.addr = .chest then (s.chestPlain l (chestOff y.addr) one).1
  else if isTcm y.addr then
    s.upd l fun L => (bitsOf 16 (L.tEngines t)).foldl (fun L e => L.wrMem e y.addr (match vs.find? fun v => v.1 == e with
      | some v => v.2
      | none => one)) L
  else s.upd l (·.wrMem 0 y.addr one)

/-- A new EDGE object (R274). -/
def newEdge (y : Sym) (v : Bytes) : Bytes := if y.attr.testBit 2 then [0, 0] else [v.headD 0, BitVec.ofNat 8 (u8At v 1 / 2 * 2 + 1)]

/-- Force entries on symbols of the replaced tasks (R275): `olds` and `news` are the MAPs of those tasks, `outs` the symbols
with an output binding. -/
def State.olcForces (s : State) (l : LaneId) (olds news : List Sym) (outs : List Nat) : State :=
  (List.range 256).foldl (fun s f =>
    let L := s.lane l
    let c := L.get (aFrc f)
    let id := L.getN (aFrc f + 4)
    if !bitOf c 0 || fieldOf c 4 2 ≠ 0 then s
    else match olds.find? fun y => y.id == id with
      | none => s
      | some o =>
        let now := (news.find? fun y => y.id == id).orElse fun _ => (L.symAny id).map (·.2)
        match now with
        | none => (s.upd l fun L => (L.setFlag (aFrc f) 0 false).setFlag (aFrc f) 8 false).raise l 0x28 f
        | some y =>
          if 8 < y.size then (s.upd l fun L => (L.setFlag (aFrc f) 0 false).setFlag (aFrc f) 8 false).raise l 0x28 f
          else if (o.attr.testBit 1 || outs.contains id) && !(y.attr.testBit 1 || outs.contains id) then s.upd l (·.setFlag (aFrc f) 8 true)
          else s) s

/-- A symbol at its initial value: DATA's bytes, and zero where no DATA segment covers it (R267, R273). -/
def State.symFresh (s : State) (l : LaneId) (t : Nat) (data : Bytes) (y : Sym) : State :=
  s.symPut l t y ((s.symCopies l t y).map fun v => (v.1, (List.range y.size).map fun i => (dataByte data v.1 (y.addr + i)).getD 0))

/-- Steps 2 to 5 in one lane: `news` take the place of the running drawers of the delta's tasks. What VERIFY has done for a delta's
symbols that do not carry over, the switch does for those of a revert (R276). -/
def State.olcSwap (s : State) (l : LaneId) (x : Delta) (news : List Drawer) : State :=
  let L := s.lane l
  let ts := bitsOf 8 x.tasks.toNat
  let maps := ts.map fun t => (t, L.syms t, taskSyms news t)
  let kept := (maps.map fun m => (carried m.2.1 m.2.2).map fun c => (m.1, c)).flatten
  let staged := kept.map fun k => (k.1, k.2, s.symCopies l k.1 k.2.1)
  let bound := switchBound (maps.map fun m => m.2.2.length).sum (kept.map (·.2))
  let s1 := s.upd l fun L => match L.img with
    | some g => { L with img := some { g with drawers := putDrawers g.drawers news } }
    | none => L
  let s2 := staged.foldl (fun s k =>
    let (t, (o, n), vs) := k
    s.symPut l t n (vs.map fun v => (v.1, carryValue (drOf news 2 t) v.1 o n v.2))) s1
  let s2 := if !L.olc.revert then s2 else maps.foldl (fun s m =>
    (m.2.2.filter fun y => !(kept.any fun k => k.2.2.id == y.id)).foldl (fun s y => s.symFresh l m.1 (drOf news 2 m.1) y) s) s2
  let s3 := maps.foldl (fun s m =>
    (m.2.2.filter fun y => y.typ == 0x13 && !(kept.any fun k => k.2.2.id == y.id)).foldl (fun s y =>
      s.symPut l m.1 y ((s.symCopies l m.1 y).map fun v => (v.1, newEdge y v.2))) s) s2
  let outs := (ts.map fun t => ((L.bindings t).filter (·.out)).map (·.sym)).flatten
  let s4 := s3.olcForces l (maps.map (·.2.1)).flatten (maps.map (·.2.2)).flatten outs
  let nNew := (maps.map fun m => m.2.2.length).sum
  s4.upd l fun L => (((L.putN 0x4006021C kept.length).putN 0x40060220 (nNew - kept.length)).setFld 0x40060214 0 12 (ceilDiv bound 600)).wrapFld aOlcSeq 0 32

/-- The switch of one lane at tS (R271, R276). -/
def State.olcSwitchLane (s : State) (l : LaneId) : State :=
  let L := s.lane l
  match L.olc.pendDelta with
  | none => s
  | some x =>
    let s1 := s.olcSwap l x (if L.olc.revert then x.olds else x.drawers)
    let code := if L.olc.revert then 0x10 else 1
    (s1.upd l fun L =>
      let chain := if L.olc.revert then L.olc.chain.dropLast else L.olc.chain ++ [x]
      let L1 := (L.olcDigest (if L.olc.revert then x.oldDigest else x.digest)).setFld aOlcStat 0 3 5
      let L2 := L1.setFld aOlcStat 8 5 code
      { L2 with olc := { L2.olc with chain := chain, fallback := if L.olc.revert then none else some x, pendDelta := none, own := none, peer := none,
                                     revert := false } }.olcShow).raise l 0xFC code 2

/-! Abort, revert, release (R276). -/

def State.olcAbort (s : State) (l : LaneId) (key : Half) : State :=
  let st := (s.lane l).olcState
  if key ≠ 0x4F43 then s.ok else if st = 1 ∨ st = 2 ∨ st = 3 then (s.olcAbandon l 2).ok else s.olcRefuse l
def execOlcAbort (src : Src) (key : Half) (s : State) : Out := .next (s.perLane src fun l s => s.olcAbort l key)

def State.olcRevert (s : State) (l : LaneId) (key : Half) : State :=
  let L := s.lane l
  if key ≠ 0x4F43 then s.ok
  else match L.olc.fallback with
    | none => s.olcRefuse l
    | some x =>
      if L.olcState ≠ 5 then s.olcRefuse l
      else ((s.upd l fun L =>
        let L1 := ((L.setFld aOlcStat 0 3 2).setFld aOlcStat 13 4 0).setFld aOlcStat 24 8 x.tasks.toNat
        { L1 with olc := { L1.olc with pendDelta := some x, revert := true, ownAt := s.tb.run } }).olcSchedule).ok
def execOlcRevert (src : Src) (key : Half) (s : State) : Out := .next (s.perLane src fun l s => s.olcRevert l key)

def State.olcRelease (s : State) (l : LaneId) (key : Half) : State :=
  let L := s.lane l
  if key ≠ 0x4F43 then s.ok
  else if L.olcState ≠ 5 || L.olc.fallback.isNone then s.olcRefuse l
  else (s.upd l fun L => { L with olc := { L.olc with fallback := none } }.olcShow).ok
def execOlcRelease (src : Src) (key : Half) (s : State) : Out := .next (s.perLane src fun l s => s.olcRelease l key)

/-! Mode changes (R277). -/

/-- The applied chain is dropped, and the loaded full image's drawers and digest are the running ones again (R277). -/
def Lane.olcFull (L : Lane) : Lane :=
  let L1 := L.olc.chain.reverse.foldl (fun (L : Lane) x => match L.img with
    | some g => { L with img := some { g with drawers := putDrawers g.drawers x.olds } }
    | none => L) L
  let d := match L1.img with
    | some g => g.digest
    | none => 0
  { L1.olcDigest d with olc := { (L1.olcDigest d).olc with chain := [], fallback := none } }.olcShow

/-- Entry to a mode: CONFIGURE, SAFE and RETAIN abandon a change; CONFIGURE also goes back to the loaded full image, whose code and
data are written again where deltas had been applied (R245); STOP keeps the schedule on its tick. -/
def State.olcMode (s : State) (l : LaneId) (m : Mode) : State :=
  let st := (s.lane l).olcState
  let s1 := if (m == .configure || m == .safe || m == .retain) && 1 ≤ st && st ≤ 3 then s.olcAbandon l 0xE else s
  match m with
  | .configure =>
    let s2 := s1.upd l Lane.olcFull
    if (s.lane l).olc.chain.isEmpty then s2 else s2.loadPrograms l false
  | .stop => s1.upd l fun L => match L.olc.ts with
      | some t =>
        let t' := ceilDiv t 250000 * 250000
        let L1 := (L.putN 0x4006020C t').putN 0x40060210 (t' / 2 ^ 32)
        { L1 with olc := { L1.olc with ts := some t' } }
      | none => L
  | _ => s1

/-- A lane left alone decides by its own result, or schedules (R268, R277). -/
def State.olcAlone (s : State) (l : LaneId) : State :=
  if (s.lane l).olcState = 1 then s.olcDecide l else if (s.lane l).olcState = 2 then s.olcSchedule else s

end Sys2Proof.Machine
end

