-- ==== Sys2Proof/Machine/Solve.lean ====
section
/-! DEFINITION. Machine/Solve.lean: the numerical core of the Bench (05: R141-R150): dot products, preconditioners, PCG,
MINRES and BiCGSTAB. The recurrences are the textbook forms of the methods that R144 names (log 24). -/
namespace Sys2Proof.Machine

abbrev Vec := Array F64
/-- Rows of (column, value), columns rising. -/
abbrev Mat := Array (List (Nat × F64))

def vAt (v : Vec) (i : Nat) : F64 := v.getD i f0
def vZero (n : Nat) : Vec := Array.replicate n f0
def vMap2 (f : F64 → F64 → F64) (a b : Vec) : Vec := Array.zipWith f a b
def vFinite (v : Vec) : Bool := v.all isFinite64
/-- y + a·x by fused multiply-add. -/
def axpy (a : F64) (x y : Vec) : Vec := vMap2 (fun x y => ffma a x y) x y

/-- Pairwise tree over partial sums: neighbours first. -/
def treeSum : Nat → List F64 → F64
  | 0, xs => xs.headD f0
  | k + 1, xs => treeSum k (pairUp xs)
where
  pairUp : List F64 → List F64
    | a :: b :: t => fadd a b :: pairUp t
    | xs => xs

/-- Dot product (R141): 64 partial sums, then the tree. -/
def dot (x y : Vec) : F64 :=
  let part (j : Nat) : F64 := (List.range ((x.size + 63 - j) / 64)).foldl (fun acc k => ffma (vAt x (j + 64 * k)) (vAt y (j + 64 * k)) acc) f0
  treeSum 6 ((List.range 64).map part)
def norm2 (x : Vec) : F64 := fsqrt (dot x x)

/-- Product with a vector: each row in ascending column order. -/
def spmv (a : Mat) (x : Vec) : Vec := a.map fun row => row.foldl (fun acc e => ffma e.2 (vAt x e.1) acc) f0

def rowAt (a : Mat) (i : Nat) : List (Nat × F64) := a.getD i []
def entAt (row : List (Nat × F64)) (j : Nat) : F64 :=
  match row.find? fun e => e.1 == j with
  | some e => e.2
  | none => f0
/-- Row scale of R148. -/
def rowScale (row : List (Nat × F64)) : F64 := row.foldl (fun m e => fmax m (fabs e.2)) f0

/-- 2^-k. -/
def twoNeg (k : Nat) : F64 := pack64 (.fin false 1 (-(k : Int)))

/-- Regularise a pivot (R148); the Bool says that it was replaced. -/
def regPivot (tau s p : F64) : F64 × Bool :=
  let lim := fmul tau s
  if fle (fabs p) lim then (if flt p f0 then fneg lim else lim, true) else (p, false)

/-- A built preconditioner. -/
inductive Precond where
  | none
  | diag (d : Vec)
  | block (size : Nat) (l : Mat) (d : Vec)
  | ic (l : Mat)
  | ilu (lu : Mat)
deriving Repr

/-- Forward substitution with a lower triangular matrix by rows; `unit`: its diagonal is 1. -/
def lowerSolve (l : Mat) (unit : Bool) (b : Vec) : Vec :=
  (List.range b.size).foldl (fun (y : Vec) i =>
    let row := rowAt l i
    let v := (row.filter fun e => e.1 < i).foldl (fun acc e => ffma (fneg e.2) (vAt y e.1) acc) (vAt b i)
    y.push (if unit then v else fdiv v (entAt row i))) #[]

/-- Backward substitution with the transpose of a lower triangular matrix: rows from the last, each solved value taken
from those above. -/
def lowerTSolve (l : Mat) (unit : Bool) (b : Vec) : Vec :=
  (List.range b.size).reverse.foldl (fun (y : Vec) i =>
    let row := rowAt l i
    let v := if unit then vAt y i else fdiv (vAt y i) (entAt row i)
    (row.filter fun e => e.1 < i).foldl (fun (y : Vec) e => y.setIfInBounds e.1 (ffma (fneg e.2) v (vAt y e.1))) (y.setIfInBounds i v)) b

/-- Backward substitution with an upper triangular matrix by rows. -/
def upperSolve (u : Mat) (b : Vec) : Vec :=
  (List.range b.size).reverse.foldl (fun (y : Vec) i =>
    let row := rowAt u i
    let v := (row.filter fun e => i < e.1).foldl (fun acc e => ffma (fneg e.2) (vAt y e.1) acc) (vAt b i)
    y.setIfInBounds i (fdiv v (entAt row i))) b

/-- M⁻¹ r. -/
def Precond.apply (m : Precond) (r : Vec) : Vec :=
  match m with
  | .none => r
  | .diag d => vMap2 fdiv r d
  | .block _ l d => lowerTSolve l true (vMap2 fdiv (lowerSolve l true r) d)
  | .ic l => lowerTSolve l false (lowerSolve l false r)
  | .ilu lu => upperSolve lu (lowerSolve lu true r)

/-- What a factorisation gives: the preconditioner, or status 0x07 or 0x08; restarts, last shift, replaced pivots. -/
structure Factor where
  m : Precond
  status : Nat
  shifts : Nat
  shift : F64
  pivots : Nat
deriving Repr

/-- LDLᵀ without pivoting of the dense diagonal block [lo, hi) of A (R147): rows of L, pivots, replacements. -/
def ldlBlock (a : Mat) (tau : F64) (lo hi : Nat) : Mat × Vec × Nat :=
  (List.range (hi - lo)).foldl (fun (p : Mat × Vec × Nat) ii =>
    let (l, d, k) := p
    let i := lo + ii
    let row := rowAt a i
    let li := (List.range ii).foldl (fun (li : List (Nat × F64)) jj =>
      let j := lo + jj
      let lj := rowAt l jj
      let s := li.foldl (fun acc e => ffma (fneg (fmul e.2 (vAt d (e.1 - lo)))) (entAt lj e.1) acc) (entAt row j)
      li ++ [(j, fdiv s (vAt d jj))]) []
    let dv := li.foldl (fun acc e => ffma (fneg (fmul e.2 (vAt d (e.1 - lo)))) e.2 acc) (entAt row i)
    let (dv', rep) := regPivot tau (rowScale row) dv
    (l.push li, d.push dv', k + bit rep)) (#[], #[], 0)

/-- Blocks of `size` rows, the last one shorter. -/
def ldlAll (a : Mat) (tau : F64) (size : Nat) : Mat × Vec × Nat :=
  (List.range (ceilDiv a.size size)).foldl (fun (p : Mat × Vec × Nat) b =>
    let (l, d, k) := ldlBlock a tau (b * size) (min (b * size + size) a.size)
    (p.1 ++ l, p.2.1 ++ d, p.2.2 + k)) (#[], #[], 0)

/-- Sum of products of two rows over columns below k. -/
def rowDot (x y : List (Nat × F64)) (k : Nat) (init : F64) : F64 :=
  (x.filter fun e => e.1 < k).foldl (fun acc e => match y.find? fun f => f.1 == e.1 with
    | some f => ffma (fneg e.2) f.2 acc
    | none => acc) init

/-- Where an attempt of IC(0) stands: a factor so far with its replaced pivots, a pivot of 0 or below (R149), an entry that is
not finite (R150). -/
inductive IcOut where
  | rows (l : Mat) (pivots : Nat)
  | indefinite
  | nonfinite
deriving Repr

/-- One attempt of IC(0) on A + shift·I, row by row: the first entry that fails ends it (R149, R150). -/
def icTry (a : Mat) (tau shift : F64) : IcOut :=
  (List.range a.size).foldl (fun (acc : IcOut) i => match acc with
    | .indefinite => .indefinite
    | .nonfinite => .nonfinite
    | .rows l k =>
      let row := rowAt a i
      let li := (row.filter fun e => e.1 < i).foldl (fun (li : List (Nat × F64)) e =>
        let lk := rowAt l e.1
        li ++ [(e.1, fdiv (rowDot li lk e.1 e.2) (entAt lk e.1))]) []
      let p := li.foldl (fun acc e => ffma (fneg e.2) e.2 acc) (fadd (entAt row i) shift)
      if !(li.all fun e => isFinite64 e.2) || !isFinite64 p then .nonfinite
      else if fle p f0 then .indefinite
      else
        let (p', rep) := regPivot tau (rowScale row) p
        .rows (l.push (li ++ [(i, fsqrt p')])) (k + bit rep)) (.rows #[] 0)

def matFinite (l : Mat) : Bool := l.all fun r => r.all fun e => isFinite64 e.2

/-- IC(0) with up to three restarts (R149, R150). -/
def icFactor (a : Mat) (tau : F64) : Factor :=
  let amax := (List.range a.size).foldl (fun m i => fmax m (fabs (entAt (rowAt a i) i))) f0
  let a0 := fmul (fRat 1 1000000) amax
  let shiftOf (k : Nat) : F64 := if k = 0 then f0 else fmul (fOfNat (2 ^ (k - 1))) a0
  let rec go : Nat → Nat → Factor
    | 0, k => { m := .none, status := 7, shifts := min k 3, shift := shiftOf (min k 3), pivots := 0 }
    | fuel + 1, k => match icTry a tau (shiftOf k) with
      | .indefinite => go fuel (k + 1)
      | .nonfinite => { m := .none, status := 8, shifts := k, shift := shiftOf k, pivots := 0 }
      | .rows l p => { m := .ic l, status := 0, shifts := k, shift := shiftOf k, pivots := p }
  go 4 0

/-- ILU(0) (R147). -/
def iluFactor (a : Mat) (tau : F64) : Factor :=
  let (lu, k) := (List.range a.size).foldl (fun (p : Mat × Nat) i =>
    let row := rowAt a i
    let done := (row.map (·.1)).foldl (fun (w : List (Nat × F64)) j =>
      if i ≤ j then w
      else
        let uj := rowAt p.1 j
        let f := fdiv (entAt w j) (entAt uj j)
        w.map fun e => if e.1 = j then (j, f) else if j < e.1 then match uj.find? fun u => u.1 == e.1 with
            | some u => (e.1, ffma (fneg f) u.2 e.2)
            | none => e
          else e) row
    let (d, rep) := regPivot tau (rowScale row) (entAt done i)
    (p.1.push (done.map fun e => if e.1 = i then (i, d) else e), p.2 + bit rep)) (#[], 0)
  { m := .ilu lu, status := if matFinite lu then 0 else 8, shifts := 0, shift := f0, pivots := k }

/-- Build the preconditioner of a job (R147): method 1 PCG, 2 MINRES, 3 BiCGSTAB. -/
def buildPrecond (a : Mat) (tau : F64) (method precond size : Nat) : Factor :=
  let plain (m : Precond) (d : Vec) (fin : Bool) (k : Nat) : Factor :=
    let bad := method = 1 && d.any fun x => fle x f0
    { m := m, status := if !fin then 8 else if bad then 7 else 0, shifts := 0, shift := f0, pivots := k }
  let form (d : Vec) : Vec := if method = 2 then d.map fabs else d
  match precond with
  | 0 => { m := .none, status := 0, shifts := 0, shift := f0, pivots := 0 }
  | 1 =>
    let (d, k) := (List.range a.size).foldl (fun (p : Vec × Nat) i =>
      let (x, rep) := regPivot tau (rowScale (rowAt a i)) (entAt (rowAt a i) i)
      (p.1.push x, p.2 + bit rep)) (#[], 0)
    plain (.diag (form d)) d (vFinite d) k
  | 2 =>
    let (l, d, k) := ldlAll a tau size
    plain (.block size l (form d)) d (vFinite d && matFinite l) k
  | 3 => icFactor a tau
  | _ => iluFactor a tau

/-- Where a solve ended: 0 test met, 1 MAX_IT, 9 breakdown, 0xA not finite, 3 cut; the last completed iterate. -/
structure Solved where
  status : Nat
  x : Vec
  its : Nat
  rn : F64
  bn : F64
deriving Repr

/-- State of PCG between iterations. -/
structure PcgSt where
  x : Vec
  r : Vec
  p : Vec
  rz : F64
  its : Nat
  rn : F64
deriving Repr

/-- PCG iterations (R143-R145); `cap` iterations complete before a deadline cuts it. -/
def pcgLoop (a : Mat) (m : Precond) (tol bn : F64) (maxIt : Nat) (cap : Option Nat) : Nat → PcgSt → Solved
  | 0, s => { status := 1, x := s.x, its := s.its, rn := s.rn, bn := bn }
  | fuel + 1, s =>
    let stop (c : Nat) : Solved := { status := c, x := s.x, its := s.its, rn := s.rn, bn := bn }
    if !isFinite64 s.rn || !isFinite64 s.rz then stop 0xA
    else if fle s.rn tol then stop 0
    else if maxIt ≤ s.its then stop 1
    else if cap.any (· ≤ s.its) then stop 3
    else if fle s.rz f0 then stop 9
    else
      let ap := spmv a s.p
      let pap := dot s.p ap
      if !vFinite ap || !isFinite64 pap then stop 0xA
      else if fle pap f0 then stop 9
      else
        let al := fdiv s.rz pap
        let x := axpy al s.p s.x
        let r := axpy (fneg al) ap s.r
        let z := m.apply r
        let rz := dot r z
        let be := fdiv rz s.rz
        let p := axpy be s.p z
        if !(vFinite x && vFinite r && vFinite z && vFinite p && isFinite64 rz && isFinite64 be) then stop 0xA
        else pcgLoop a m tol bn maxIt cap fuel { x := x, r := r, p := p, rz := rz, its := s.its + 1, rn := norm2 r }

/-- PCG from a start vector. -/
def pcgRun (a : Mat) (b x0 : Vec) (m : Precond) (tol bn : F64) (maxIt : Nat) (cap : Option Nat) : Solved :=
  let r := vMap2 fsub b (spmv a x0)
  let z := m.apply r
  if !(vFinite r && vFinite z) then { status := 0xA, x := x0, its := 0, rn := norm2 r, bn := bn }
  else pcgLoop a m tol bn maxIt cap (maxIt + 1) { x := x0, r := r, p := z, rz := dot r z, its := 0, rn := norm2 r }

/-- State of MINRES between iterations: iterate, the last two Lanczos vectors, preconditioned vector, γ of both, search
directions, rotations, η. -/
structure MrSt where
  x : Vec
  v0 : Vec
  v1 : Vec
  z : Vec
  g0 : F64
  g1 : F64
  w0 : Vec
  w1 : Vec
  c0 : F64
  c1 : F64
  s0 : F64
  s1 : F64
  eta : F64
  its : Nat
deriving Repr

def minresLoop (a : Mat) (m : Precond) (tol bn : F64) (maxIt : Nat) (cap : Option Nat) : Nat → MrSt → Solved
  | 0, s => { status := 1, x := s.x, its := s.its, rn := fabs s.eta, bn := bn }
  | fuel + 1, s =>
    let rn := fabs s.eta
    let stop (c : Nat) : Solved := { status := c, x := s.x, its := s.its, rn := rn, bn := bn }
    if !isFinite64 rn then stop 0xA
    else if fle rn tol then stop 0
    else if maxIt ≤ s.its then stop 1
    else if cap.any (· ≤ s.its) then stop 3
    else if feq s.g1 f0 then stop 9
    else
      let z := s.z.map fun y => fdiv y s.g1
      let az := spmv a z
      let de := dot az z
      let v := axpy (fneg (fdiv s.g1 s.g0)) s.v0 (axpy (fneg (fdiv de s.g1)) s.v1 az)
      let zn := m.apply v
      let b2 := dot zn v
      if !(vFinite az && vFinite v && vFinite zn && isFinite64 b2) then stop 0xA
      else if flt b2 f0 then stop 9
      else
        let gn := fsqrt b2
        let a0 := fsub (fmul s.c1 de) (fmul (fmul s.c0 s.s1) s.g1)
        let a1 := fsqrt (fadd (fmul a0 a0) (fmul gn gn))
        let a2 := fadd (fmul s.s1 de) (fmul (fmul s.c0 s.c1) s.g1)
        let a3 := fmul s.s0 s.g1
        if !(isFinite64 de && isFinite64 gn && isFinite64 a0 && isFinite64 a1 && isFinite64 a2 && isFinite64 a3) then stop 0xA
        else if feq a1 f0 then stop 9
        else
          let c := fdiv a0 a1
          let sn := fdiv gn a1
          let w := (axpy (fneg a2) s.w1 (axpy (fneg a3) s.w0 z)).map fun y => fdiv y a1
          let x := axpy (fmul c s.eta) w s.x
          if !(vFinite w && vFinite x) then stop 0xA
          else minresLoop a m tol bn maxIt cap fuel
            { x := x, v0 := s.v1, v1 := v, z := zn, g0 := s.g1, g1 := gn, w0 := s.w1, w1 := w, c0 := s.c1, c1 := c, s0 := s.s1, s1 := sn,
              eta := fneg (fmul sn s.eta), its := s.its + 1 }

def minresRun (a : Mat) (b x0 : Vec) (m : Precond) (tolOf : F64 → F64) (maxIt : Nat) (cap : Option Nat) : Solved :=
  let bn := fsqrt (dot b (m.apply b))
  let v := vMap2 fsub b (spmv a x0)
  let z := m.apply v
  let b2 := dot z v
  let n := b.size
  if !(vFinite v && vFinite z && isFinite64 b2) then { status := 0xA, x := x0, its := 0, rn := fabs b2, bn := bn }
  else if flt b2 f0 then { status := 9, x := x0, its := 0, rn := f0, bn := bn }
  else if !isFinite64 bn then { status := 0xA, x := x0, its := 0, rn := fsqrt b2, bn := bn }
  else
    let g := fsqrt b2
    minresLoop a m (tolOf bn) bn maxIt cap (maxIt + 1)
      { x := x0, v0 := vZero n, v1 := v, z := z, g0 := f1, g1 := g, w0 := vZero n, w1 := vZero n, c0 := f1, c1 := f1, s0 := f0, s1 := f0,
        eta := g, its := 0 }

/-- State of BiCGSTAB between iterations. -/
structure BiSt where
  x : Vec
  r : Vec
  p : Vec
  v : Vec
  rho : F64
  al : F64
  om : F64
  its : Nat
  rn : F64
deriving Repr

def bicgLoop (a : Mat) (m : Precond) (rs : Vec) (tol bn : F64) (maxIt : Nat) (cap : Option Nat) : Nat → BiSt → Solved
  | 0, s => { status := 1, x := s.x, its := s.its, rn := s.rn, bn := bn }
  | fuel + 1, s =>
    let stop (c : Nat) : Solved := { status := c, x := s.x, its := s.its, rn := s.rn, bn := bn }
    if !isFinite64 s.rn then stop 0xA
    else if fle s.rn tol then stop 0
    else if maxIt ≤ s.its then stop 1
    else if cap.any (· ≤ s.its) then stop 3
    else if feq s.om f0 then stop 9
    else
      let rho := dot rs s.r
      if !isFinite64 rho then stop 0xA
      else if feq rho f0 then stop 9
      else
        let be := fmul (fdiv rho s.rho) (fdiv s.al s.om)
        let p := axpy be (axpy (fneg s.om) s.v s.p) s.r
        let ph := m.apply p
        let v := spmv a ph
        let rv := dot rs v
        if !(vFinite p && vFinite ph && vFinite v && isFinite64 rv) then stop 0xA
        else if feq rv f0 then stop 9
        else
          let al := fdiv rho rv
          let sv := axpy (fneg al) v s.r
          let xh := axpy al ph s.x
          let sn := norm2 sv
          if !(vFinite sv && vFinite xh && isFinite64 sn) then stop 0xA
          else if fle sn tol then { status := 0, x := xh, its := s.its + 1, rn := sn, bn := bn }
          else
            let sh := m.apply sv
            let t := spmv a sh
            let tt := dot t t
            if !(vFinite sh && vFinite t && isFinite64 tt) then stop 0xA
            else if feq tt f0 then stop 9
            else
              let om := fdiv (dot t sv) tt
              let x := axpy om sh xh
              let r := axpy (fneg om) t sv
              if !(vFinite x && vFinite r && isFinite64 om) then stop 0xA
              else bicgLoop a m rs tol bn maxIt cap fuel
                { x := x, r := r, p := p, v := v, rho := rho, al := al, om := om, its := s.its + 1, rn := norm2 r }

def bicgRun (a : Mat) (b x0 : Vec) (m : Precond) (tol bn : F64) (maxIt : Nat) (cap : Option Nat) : Solved :=
  let r := vMap2 fsub b (spmv a x0)
  let n := b.size
  if !vFinite r then { status := 0xA, x := x0, its := 0, rn := norm2 r, bn := bn }
  else bicgLoop a m r tol bn maxIt cap (maxIt + 1)
    { x := x0, r := r, p := vZero n, v := vZero n, rho := f1, al := f1, om := f1, its := 0, rn := norm2 r }

end Sys2Proof.Machine
end

