-- ==== Sys2Proof/Machine/Net.lean ====
section
/-! DEFINITION. Machine/Net.lean: the hydraulic network (04: R96-R128): TOPO and PIPE drawers, boundary sets, the Newton
sequence of one scenario, and its record. Where the spec leaves the order of single operations open, log 20. -/
namespace Sys2Proof.Machine

structure NetNode where
  kind : Nat
  flags : Nat
  bidx : Nat
  z : F64
  pmin : F64
deriving Repr

structure NetLink where
  kind : Nat
  from_ : Nat
  to_ : Nat
  bidx : Nat
  p1 : F64
  p2 : F64
  q0 : F64
  qrev : F64
  hopen : F64
  chart : Nat
deriving Repr, Inhabited

structure NetSub where
  sup : Nat
  ret : Nat
  mode : Nat
  link : Nat
deriving Repr, Inhabited

/-- The network of an image. -/
structure Net where
  nodes : Array NetNode
  links : Array NetLink
  subs : Array NetSub
  pumps : Nat
  valves : Nat
  fixh : Nat
  qnodes : Nat
  charts : Array (List (F64 × F64))
  topoId : Nat
deriving Repr

def topoOf (t p : Bytes) (id : Nat) : Net :=
  let n := u16At t 0
  let m := u16At t 2
  let s := u16At t 4
  let fixPart := 32
  { nodes := ((List.range n).map fun i =>
      let e := slice t (fixPart + 12 * i) 12
      { kind := u8At e 0, flags := u8At e 1, bidx := u16At e 2, z := f32to64 (f32At e 4), pmin := f32to64 (f32At e 8) : NetNode }).toArray,
    links := ((List.range m).map fun i =>
      let e := slice t (32 + 12 * n + 8 * i) 8
      let d := slice p (16 + 32 * i) 32
      { kind := u8At e 0, from_ := u16At e 2, to_ := u16At e 4, bidx := u16At e 6, p1 := f64At d 0, p2 := f64At d 8,
        q0 := f32to64 (f32At d 0x10), qrev := f32to64 (f32At d 0x14), hopen := f32to64 (f32At d 0x18), chart := u8At d 0x1C : NetLink }).toArray,
    subs := ((List.range s).map fun i =>
      let e := slice t (32 + 12 * n + 8 * m + 8 * i) 8
      { sup := u16At e 0, ret := u16At e 2, mode := u8At e 4, link := u16At e 6 : NetSub }).toArray,
    pumps := u16At t 6, valves := u16At t 8, fixh := u16At t 0xA, qnodes := u16At t 0xC,
    charts := ((List.range (u16At p 4)).map fun j => (List.range 16).map fun k =>
      let e := slice p (16 + 32 * m + 128 * j + 8 * k) 8
      (f32to64 (f32At e 0), f32to64 (f32At e 4))).toArray,
    topoId := id }

/-- The topology of the loaded image; none without a TOPO drawer (R73). -/
def Lane.topo (L : Lane) : Option Net :=
  if (L.dr 6).isEmpty then none
  else
    let id := match L.img with
      | some g => match g.drawers.find? fun d => d.typ == 6 with
        | some d => d.digest.toNat % 2 ^ 32
        | none => 0
      | none => 0
    some (topoOf (L.dr 6) (L.dr 7) id)

/-- The network of network mode: TOPO with its PIPE drawer. Without a PIPE drawer the image loads and network mode is unavailable
(DESIGN CHOICE: R73 speaks of the feature that a drawer configures, R105 and R106 do not say what its absence does; log 51). -/
def Lane.net (L : Lane) : Option Net := if (L.dr 7).isEmpty then none else L.topo

/-! Cross-checks (R100-R106). -/

def usedOnce (n : Nat) (xs : List Nat) : Bool := xs.length == n && allBelow n fun i => xs.contains i

def f32Fin (b : Bytes) (o : Nat) : Bool := isFinite32 (f32At b o)

/-- Mark what open links reach: `n` rounds over the links, ended by one that changes nothing. -/
def spread (links : List (Nat × Nat)) : Nat → Array Bool → Array Bool
  | 0, m => m
  | k + 1, m =>
    let (m', ch) := links.foldl (fun (p : Array Bool × Bool) l =>
      let a := p.1.getD l.1 false
      let b := p.1.getD l.2 false
      if a == b then p else ((p.1.setIfInBounds l.1 true).setIfInBounds l.2 true, true)) (m, false)
    if ch then spread links k m' else m'

def topoDrawerOk (t : Bytes) : Bool :=
  if t.isEmpty then true
  else
    let n := topoOf t [] 0
    let nn := n.nodes.size
    let ns := n.nodes.toList
    let ls := n.links.toList
    let ss := n.subs.toList
    let flow := ns.filter fun x => x.kind != 5 && x.bidx != 0xFFFF
    let reach := spread (ls.map fun l => (l.from_, l.to_)) nn ((ns.map fun x => x.kind == 5).toArray)
    1 ≤ nn && nn ≤ 32768 && 1 ≤ ls.length && ls.length ≤ 49152 && ss.length ≤ 4096 && n.pumps ≤ 256 && n.valves ≤ 4096 && 1 ≤ n.fixh && n.fixh ≤ 16 &&
    n.qnodes ≤ 256 && allAt t 0xE 18 0 && t.length == 32 + 12 * nn + 8 * ls.length + 8 * ss.length &&
    (ns.all fun x => x.kind ≤ 5 && x.flags < 2 && (x.kind == 3 || x.kind == 4 || x.kind == 5 || x.bidx == 0xFFFF)) &&
    usedOnce n.fixh ((ns.filter fun x => x.kind == 5).map (·.bidx)) && usedOnce n.qnodes (flow.map (·.bidx)) &&
    (ls.all fun l => l.kind ≤ 5 && l.from_ < nn && l.to_ < nn && l.from_ != l.to_ && (l.kind == 1 || l.kind == 3 || l.kind == 5 || l.bidx == 0xFFFF)) &&
    (allBelow ls.length fun i => u8At t (32 + 12 * nn + 8 * i + 1) == 0) &&
    usedOnce n.pumps ((ls.filter fun l => l.kind == 3).map (·.bidx)) && usedOnce n.valves ((ls.filter fun l => l.kind == 1).map (·.bidx)) &&
    (allBelow ls.length fun i =>
      let l := n.links.getD i default
      l.kind != 5 || (match n.subs[l.bidx]? with
        | some s => s.mode == 1 && s.link == i && s.sup == l.from_ && s.ret == l.to_ && (ss.countP fun s => s.mode == 1 && s.link == i) == 1
        | none => false)) &&
    (ss.all fun s => s.sup < nn && s.ret < nn && s.sup != s.ret && s.mode ≤ 1 &&
      (if s.mode = 1 then (n.links[s.link]?).any (fun l => l.kind == 5) else s.link == 0xFFFF)) &&
    (allBelow ss.length fun i => u8At t (32 + 12 * nn + 8 * ls.length + 8 * i + 5) == 0) &&
    reach.all id

def chartOk (c : List (F64 × F64)) : Bool :=
  c.all (fun p => isFinite64 p.1 && isFinite64 p.2 && fle f0 p.2 && fle p.2 f1) && feq ((c.headD (f1, f0)).1) f0 &&
  feq ((c.getLastD (f0, f0)).1) f1 && (c.zip c.tail).all fun q => flt q.1.1 q.2.1 && fle q.1.2 q.2.2

def pipeDrawerOk (t p : Bytes) : Bool :=
  if t.isEmpty then p.isEmpty
  else
    let n := topoOf t p 0
    let m := n.links.size
    u32At p 0 == m && u16At p 4 ≤ 64 && allAt p 6 10 0 && p.length == 16 + 32 * m + 128 * u16At p 4 && n.charts.toList.all chartOk &&
    allBelow m fun i =>
      let d := slice p (16 + 32 * i) 32
      let l := n.links.getD i default
      let valve := l.kind == 1 || l.kind == 5
      isFinite64 l.p1 && isFinite64 l.p2 && f32Fin d 0x10 && f32Fin d 0x14 && f32Fin d 0x18 && allAt d 0x1D 3 0 &&
      (if l.kind = 3 then flt f0 l.p1 && flt f0 l.p2 else fle f0 l.p1 && fle f0 l.p2 && flt f0 (fadd l.p1 l.p2)) &&
      fle f0 l.qrev && fle f0 l.hopen && (if valve then l.chart < n.charts.size else l.chart == 0) &&
      (l.kind == 2 || feq l.qrev f0) && (l.kind == 2 || l.kind == 3 || feq l.hopen f0)

/-! Boundary sets (R109, R110). -/

structure Bnd where
  sub : Vec
  pump : Vec
  fixh : Vec
  qnode : Vec
  vpos : Vec
  rupd : List (Nat × F64)
deriving Repr

def Net.bndLen (n : Net) : Nat := 16 + 8 * (n.subs.size + n.pumps + n.fixh + n.qnodes + n.valves)

def vecAt (b : Bytes) (off n : Nat) : Vec := ((List.range n).map fun i => f64At b (off + 8 * i)).toArray

/-- Read a set from its bytes (those of `bndLen` and of the RUPD entries). -/
def Net.bnd (n : Net) (b : Bytes) : Bnd :=
  let o1 := 16 + 8 * n.subs.size
  let o2 := o1 + 8 * n.pumps
  let o3 := o2 + 8 * n.fixh
  let o4 := o3 + 8 * n.qnodes
  let o5 := o4 + 8 * n.valves
  { sub := vecAt b 16 n.subs.size, pump := vecAt b o1 n.pumps, fixh := vecAt b o2 n.fixh, qnode := vecAt b o3 n.qnodes, vpos := vecAt b o4 n.valves,
    rupd := (List.range (if u32At b 0 ≤ 49152 then u32At b 0 else 0)).map fun i => (u32At b (o5 + 16 * i), f64At b (o5 + 16 * i + 8)) }

/-- The set passes the checks of R110. -/
def Net.bndOk (n : Net) (b : Bytes) (nScen stride : Nat) : Bool :=
  let s := n.bnd b
  let o5 := n.bndLen
  let within (v : Vec) (hi : F64) : Bool := v.all fun x => fle f0 x && fle x hi
  u32At b 0 ≤ 49152 && allAt b 4 12 0 && (nScen < 2 || o5 + 16 * u32At b 0 ≤ stride) &&
  vFinite s.sub && vFinite s.pump && vFinite s.fixh && vFinite s.qnode && vFinite s.vpos &&
  (allBelow n.subs.size fun i => if (n.subs.getD i default).mode = 0 then fle f0 (vAt s.sub i) else fle f0 (vAt s.sub i) && fle (vAt s.sub i) f1) &&
  within s.vpos f1 && within s.pump (fRat 12 10) &&
  allBelow (u32At b 0) fun i =>
    u32At b (o5 + 16 * i + 4) == 0 && match n.links[u32At b (o5 + 16 * i)]? with
      | some l => (l.kind == 0 || l.kind == 4) && isFinite64 (f64At b (o5 + 16 * i + 8)) && fle f0 (f64At b (o5 + 16 * i + 8))
      | none => false

/-! Laws (R97, R98, R112). -/

/-- Linear interpolation in a chart. -/
def chartAt (c : List (F64 × F64)) (x : F64) : F64 :=
  match (c.zip c.tail).find? fun q => fle q.1.1 x && fle x q.2.1 with
  | some (a, b) => fadd a.2 (fmul (fsub b.2 a.2) (fdiv (fsub x a.1) (fsub b.1 a.1)))
  | none => f0

/-- The registers a job latches at its start (R120). -/
structure NetTune where
  newtonMax : Nat
  pcgMax : Nat
  cvMax : Nat
  qtol : F64
  itol : F64
  qfloor : F64
  pcgtol : F64
  rho : F64
  tau : F64
deriving Repr

/-- A link's law in a scenario: valve coefficient c or speed s, resistance in force, permanently closed. -/
structure LinkLaw where
  kind : Nat
  r : F64
  k : F64
  c : F64
  off : Bool
deriving Repr, Inhabited

def Net.law (n : Net) (b : Bnd) (i : Nat) : LinkLaw :=
  let l := n.links.getD i default
  let r := match (b.rupd.filter fun p => p.1 == i).getLast? with
    | some p => p.2
    | none => l.p1
  let valve (x : F64) : LinkLaw :=
    let c := chartAt (n.charts.getD l.chart []) x
    { kind := 1, r := r, k := l.p2, c := c, off := flt c (fRat 1 1000) }
  match l.kind with
  | 1 => valve (vAt b.vpos l.bidx)
  | 5 => valve (vAt b.sub l.bidx)
  | 3 =>
    let s := vAt b.pump l.bidx
    { kind := 3, r := l.p1, k := l.p2, c := s, off := flt s (fRat 5 100) }
  | _ => { kind := if l.kind = 2 then 2 else 0, r := r, k := l.p2, c := f1, off := false }

def two : F64 := fOfNat 2
/-- g(Q) and g'(Q), and the derivative floor. -/
def LinkLaw.eval (w : LinkLaw) (q qf : F64) : F64 × F64 × F64 :=
  match w.kind with
  | 3 =>
    (fsub (fmul (fmul w.k q) (fabs q)) (fmul w.r (fmul w.c w.c)), fmul (fmul two w.k) (fabs q), fmul (fmul two w.k) qf)
  | 1 =>
    let c2 := fmul w.c w.c
    (fdiv (fadd (fmul (fmul w.r q) (fabs q)) (fmul w.k q)) c2, fdiv (fadd (fmul (fmul two w.r) (fabs q)) w.k) c2,
     fdiv (fadd (fmul (fmul two w.r) qf) w.k) c2)
  | _ =>
    (fadd (fmul (fmul w.r q) (fabs q)) (fmul w.k q), fadd (fmul (fmul two w.r) (fabs q)) w.k, fadd (fmul (fmul two w.r) qf) w.k)

/-! A scenario (R111-R119). -/

/-- State of a scenario between Newton iterations. -/
structure NewtonSt where
  q : Vec
  h : Vec
  open_ : Array Bool
  turns : Array Nat
  conn : Array Bool
  its : Nat
  pcgIts : Nat
  pcgLimit : Bool
  shifts : Nat
  pivots : Nat
  dq : F64
  imb : F64
  unserved : Bool
deriving Repr

/-- Flow withdrawn at each node (R113). -/
def Net.demand (n : Net) (b : Bnd) : Vec :=
  let v0 := vZero n.nodes.size
  let v1 := (List.range n.subs.size).foldl (fun (v : Vec) i =>
    let s := n.subs.getD i default
    if s.mode ≠ 0 then v
    else
      let x := vAt b.sub i
      let v := v.setIfInBounds s.sup (fadd (vAt v s.sup) x)
      v.setIfInBounds s.ret (fsub (vAt v s.ret) x)) v0
  (List.range n.nodes.size).foldl (fun (v : Vec) i =>
    match n.nodes[i]? with
    | some x => if x.kind != 5 && x.bidx != 0xFFFF then v.setIfInBounds i (fadd (vAt v i) (vAt b.qnode x.bidx)) else v
    | none => v) v1

def Net.isFixed (n : Net) (i : Nat) : Bool := (n.nodes[i]?).any fun x => x.kind == 5
def Net.fixHead (n : Net) (b : Bnd) (i : Nat) : F64 := match n.nodes[i]? with
  | some x => vAt b.fixh x.bidx
  | none => f0

/-- Nodes with a path of open links to a FIXED node (R115). -/
def Net.connected (n : Net) (open_ : Array Bool) : Array Bool :=
  let ls := ((List.range n.links.size).filter fun i => open_.getD i false).map fun i => ((n.links.getD i default).from_, (n.links.getD i default).to_)
  spread ls n.nodes.size ((List.range n.nodes.size).map n.isFixed).toArray

/-- Cold start (R114). -/
def Net.cold (n : Net) (b : Bnd) (laws : Array LinkLaw) : NewtonSt :=
  let hmax := b.fixh.foldl fmax (vAt b.fixh 0)
  let op := laws.map fun w => !w.off
  { q := n.links.map (·.q0), h := ((List.range n.nodes.size).map fun i => if n.isFixed i then n.fixHead b i else hmax).toArray, open_ := op,
    turns := Array.replicate n.links.size 0, conn := n.connected op, its := 0, pcgIts := 0, pcgLimit := false, shifts := 0, pivots := 0,
    dq := f0, imb := f0, unserved := false }

/-- Warm start from a record (R114): flows, heads, and the states of check valves and pumps. -/
def Net.warm (n : Net) (b : Bnd) (laws : Array LinkLaw) (rec : Bytes) : NewtonSt :=
  let c := n.cold b laws
  let oh := 64
  let oq := oh + 8 * n.nodes.size
  let ofl := oq + 8 * n.links.size + 16 * n.pumps
  let op := ((List.range n.links.size).map fun i =>
    let w := laws.getD i default
    !w.off && (w.kind < 2 || !(u8At rec (ofl + i)).testBit 0)).toArray
  { c with
    q := vecAt rec oq n.links.size,
    h := ((List.range n.nodes.size).map fun i =>
      let x := f64At rec (oh + 8 * i)
      if n.isFixed i || isNaN64 x then vAt c.h i else x).toArray,
    open_ := op, conn := n.connected op }

def fNaN64 : F64 := 0x7FF8000000000000

/-- Add to an entry of a row, keeping columns rising. -/
def rowAdd (j : Nat) (v : F64) : List (Nat × F64) → List (Nat × F64)
  | [] => [(j, v)]
  | e :: t => if j = e.1 then (j, fadd e.2 v) :: t else if j < e.1 then (j, v) :: e :: t else e :: rowAdd j v t

/-- One Newton iteration (R111): whether the scenario converged, none at a value that is not finite (R122); then the flows, heads
and link states are those of the last completed iteration, the counts take in what the iteration did. -/
def Net.newton (n : Net) (t : NetTune) (b : Bnd) (laws : Array LinkLaw) (dem : Vec) (s : NewtonSt) : NewtonSt × Option Bool :=
  let m := n.links.size
  let conn := n.connected s.open_
  let live (i : Nat) : Bool := s.open_.getD i false && conn.getD (n.links.getD i default).from_ false && conn.getD (n.links.getD i default).to_ false
  let dy := ((List.range m).map fun i =>
    if s.open_.getD i false then
      let (g, g', fl) := (laws.getD i default).eval (vAt s.q i) t.qfloor
      let d := fmax g' fl
      (d, fsub g (fmul d (vAt s.q i)))
    else (f1, f0)).toArray
  let d (i : Nat) : F64 := (dy.getD i (f1, f0)).1
  let y (i : Nat) : F64 := (dy.getD i (f1, f0)).2
  let free := (List.range n.nodes.size).filter fun i => conn.getD i false && !n.isFixed i
  let pos := free.zipIdx.foldl (fun (a : Array Nat) p => a.setIfInBounds p.1 p.2) (Array.replicate n.nodes.size 0)
  let nf := free.length
  let a0 : Mat := ((List.range nf).map fun i => [(i, f0)]).toArray
  let b0 : Vec := (free.map fun i => fneg (vAt dem i)).toArray
  let (am, bm) := (List.range m).foldl (fun (p : Mat × Vec) i =>
    if !live i then p
    else
      let l := n.links.getD i default
      let c := fdiv f1 (d i)
      let cy := fmul c (y i)
      let side (p : Mat × Vec) (me you : Nat) (leaves : Bool) : Mat × Vec :=
        if n.isFixed me then p
        else
          let r := pos.getD me 0
          let row := rowAdd r c (rowAt p.1 r)
          let row := if n.isFixed you then row else rowAdd (pos.getD you 0) (fneg c) row
          let bv := if leaves then fadd (vAt p.2 r) cy else fsub (vAt p.2 r) cy
          let bv := if n.isFixed you then ffma c (n.fixHead b you) bv else bv
          (p.1.setIfInBounds r row, p.2.setIfInBounds r bv)
      side (side p l.from_ l.to_ true) l.to_ l.from_ false) (a0, b0)
  let fin := (dy.all fun p => isFinite64 p.1 && isFinite64 p.2) && matFinite am && vFinite bm
  if !fin then (s, none)
  else
    let x0 : Vec := (free.map fun i => vAt s.h i).toArray
    let bn := norm2 bm
    let f := icFactor am t.tau
    let sF := { s with shifts := s.shifts + f.shifts, pivots := s.pivots + f.pivots }
    if f.status ≠ 0 then (sF, none)
    else
      let r : Solved := if feq bn f0 then { status := 0, x := vZero nf, its := 0, rn := f0, bn := f0 }
        else pcgRun am bm x0 f.m (fmul t.pcgtol bn) bn t.pcgMax none
      let sP := { sF with pcgIts := s.pcgIts + r.its, pcgLimit := s.pcgLimit || r.status == 1 }
      if r.status = 0xA then (sP, none)
      else
        let h := free.zipIdx.foldl (fun (h : Vec) p => h.setIfInBounds p.1 (vAt r.x p.2)) s.h
        let q := ((List.range m).map fun i =>
          let l := n.links.getD i default
          if live i then fdiv (fsub (fsub (vAt h l.from_) (vAt h l.to_)) (y i)) (d i) else f0).toArray
        if !(vFinite h && vFinite q) then (sP, none)
        else
          let dq := (List.range m).foldl (fun mx i => fmax mx (fabs (fsub (vAt q i) (vAt s.q i)))) f0
          let bal0 := (List.range m).foldl (fun (e : Vec) i =>
            let l := n.links.getD i default
            let e := e.setIfInBounds l.to_ (fadd (vAt e l.to_) (vAt q i))
            e.setIfInBounds l.from_ (fsub (vAt e l.from_) (vAt q i))) (vZero n.nodes.size)
          let imb := free.foldl (fun mx i => fmax mx (fabs (fsub (vAt bal0 i) (vAt dem i)))) f0
          let head (i : Nat) : F64 := if conn.getD i false then vAt h i else fNaN64
          let nextOpen (i : Nat) : Bool :=
            let l := n.links.getD i default
            let w := laws.getD i default
            let o := s.open_.getD i false
            if w.off || t.cvMax ≤ s.turns.getD i 0 then o
            else match w.kind with
              | 2 => if o then !flt (vAt q i) (fneg l.qrev) else flt l.hopen (fsub (head l.from_) (head l.to_))
              | 3 => if o then !flt (vAt q i) f0
                     else flt (fsub (head l.to_) (head l.from_)) (fsub (fmul w.r (fmul w.c w.c)) l.hopen)
              | _ => o
          let op := ((List.range m).map nextOpen).toArray
          let changed := anyBelow m fun i => op.getD i false != s.open_.getD i false
          let turns := ((List.range m).map fun i => s.turns.getD i 0 + bit (op.getD i false != s.open_.getD i false)).toArray
          let uns := anyBelow n.nodes.size fun i => !conn.getD i false && !feq (vAt dem i) f0
          ({ sP with q := q, h := h, open_ := op, turns := turns, conn := conn, its := s.its + 1, dq := dq, imb := imb,
                     unserved := s.unserved || uns }, some (!changed && flt dq t.qtol && flt imb t.itol))

/-- Scenario status codes (R126). -/
def scNotRun : Nat := 0
def scConverged : Nat := 1
def scNotConverged : Nat := 2
def scPartial : Nat := 3
def scBadBoundary : Nat := 4
def scNonfinite : Nat := 5

/-- Newton iterations until convergence, the limit or the deadline (R117, R121, R122). -/
def Net.newtons (n : Net) (t : NetTune) (b : Bnd) (laws : Array LinkLaw) (dem : Vec) (cap : Option Nat) : Nat → NewtonSt → NewtonSt × Nat
  | 0, s => (s, scNotConverged)
  | fuel + 1, s =>
    if cap.any (· ≤ s.its) then (s, if s.its = 0 then scNotRun else scPartial)
    else match n.newton t b laws dem s with
      | (s', none) => (s', scNonfinite)
      | (s', some true) => (s', scConverged)
      | (s', some false) => n.newtons t b laws dem cap fuel s'

/-- Result of a scenario: status, its last state, and the record's bytes (the header alone where R127 says so). -/
structure ScenOut where
  status : Nat
  its : Nat
  flags : Nat
  body : Bytes
  flows : List F64
  subs : List F64
  qnodes : List F64
deriving Repr

def pad8 (n : Nat) : Nat := 8 * ceilDiv n 8
/-- REC_SIZE (R126). -/
def Net.recSize (n : Net) : Nat :=
  64 * ceilDiv (64 + 8 * n.nodes.size + 8 * n.links.size + 16 * n.pumps + pad8 n.links.size + pad8 n.nodes.size) 64

/-- kPa of a head difference, W of a flow and a lift (R99). -/
def NetTune.kpa (t : NetTune) (dh : F64) : F64 := fdiv (fmul (fmul t.rho (fRat 980665 100000)) dh) (fOfNat 1000)
def NetTune.watt (t : NetTune) (q lift : F64) : F64 := fmul (fmul (fmul t.rho (fRat 980665 100000)) q) lift

/-- Record of a scenario (R126-R128). A scenario without a completed iteration has its flags from its start point; one that
ends BAD_BOUNDARY never had one, and shows RUPD_APPLIED alone (log 53). -/
def Net.record (n : Net) (t : NetTune) (b : Bnd) (rupd : Bool) (laws : Array LinkLaw) (status : Nat) (s : NewtonSt) : ScenOut :=
  let m := n.links.size
  let nn := n.nodes.size
  let full := status != scBadBoundary && (0 < s.its || (t.newtonMax == 0 && status == scNotConverged))
  let law (i : Nat) : LinkLaw := laws.getD i default
  let cl (i : Nat) : Bool := !s.open_.getD i false
  let frozen (i : Nat) : Bool := !(law i).off && ((law i).kind == 2 || (law i).kind == 3) && t.cvMax ≤ s.turns.getD i 0
  let floorF (i : Nat) : Bool := !cl i && flt (fabs (vAt s.q i)) t.qfloor
  let shut (i : Nat) : Bool := (law i).kind == 3 && !(law i).off && cl i
  let low (i : Nat) : Bool := match n.nodes[i]? with
    | some x => x.flags.testBit 0 && s.conn.getD i false && flt (fsub (vAt s.h i) x.z) x.pmin
    | none => false
  let head (i : Nat) : F64 := if s.conn.getD i false then vAt s.h i else fNaN64
  let pump (p : Nat) : F64 × F64 :=
    match (List.range m).find? fun i => (law i).kind == 3 && (n.links.getD i default).bidx == p with
    | none => (f0, f0)
    | some i =>
      if cl i then (f0, f0)
      else
        let q := vAt s.q i
        let lift := fsub (fmul (law i).r (fmul (law i).c (law i).c)) (fmul (law i).k (fmul q q))
        (lift, t.watt q lift)
  let pumps := (List.range n.pumps).map pump
  let subs := (List.range n.subs.size).filter fun i =>
    let x := n.subs.getD i default
    s.conn.getD x.sup false && s.conn.getD x.ret false
  let dh (i : Nat) : F64 := fsub (vAt s.h (n.subs.getD i default).sup) (vAt s.h (n.subs.getD i default).ret)
  let crit := subs.foldl (fun (c : Option Nat) i => match c with
    | none => some i
    | some k => if flt (dh i) (dh k) then some i else some k) none
  let any (f : Nat → Bool) (k : Nat) : Bool := anyBelow k f
  let flags := if status = scBadBoundary then 4096 * bit rupd else
    bit (any (fun i => (law i).kind == 2 && cl i) m) + 2 * bit (any low nn) + 4 * bit (any shut m) + 8 * bit (any floorF m) +
    16 * bit (any frozen m) + 32 * bit s.pcgLimit + 64 * bit (s.shifts != 0) + 128 * bit (s.pivots != 0) +
    256 * bit (any (fun i => !s.conn.getD i false) nn) + 512 * bit s.unserved + 1024 * bit (any (fun i => (law i).kind == 1 && (law i).off) m) +
    2048 * bit (any (fun i => (law i).kind == 3 && (law i).off) m) + 4096 * bit rupd
  let d8 (x : F64) : Bytes := leBytes 8 x.toNat
  let critB := match crit with
    | some i => if full then (i, t.kpa (dh i), dh i) else (0xFFFF, fNaN64, fNaN64)
    | none => (0xFFFF, fNaN64, fNaN64)
  let nClosed := if status ≠ scBadBoundary then (List.range m).countP fun i => 2 ≤ (law i).kind && cl i else 0
  let hdr := leBytes 1 status ++ leBytes 1 0 ++ leBytes 2 s.its ++ leBytes 4 s.pcgIts ++ leBytes 4 flags ++ leBytes 2 critB.1 ++ leBytes 2 nClosed ++
    d8 critB.2.1 ++ d8 critB.2.2 ++ d8 (if full then fsum (pumps.map (·.2)) else f0) ++ d8 s.dq ++ d8 s.imb ++ leBytes 4 n.topoId ++
    leBytes 2 s.shifts ++ leBytes 2 s.pivots
  let lflag (i : Nat) : Nat := bit (cl i) + 2 * bit (floorF i) + 4 * bit (frozen i) + 8 * bit (shut i)
  let nflag (i : Nat) : Nat := bit (low i) + 2 * bit (!s.conn.getD i false) + 4 * bit (n.isFixed i)
  let body := if !full then hdr else
    slice (hdr ++ ((List.range nn).map fun i => d8 (head i)).flatten ++ ((List.range m).map fun i => d8 (vAt s.q i)).flatten ++
      (pumps.map fun p => d8 p.1 ++ d8 p.2).flatten ++ slice ((List.range m).map fun i => BitVec.ofNat 8 (lflag i)) 0 (pad8 m) ++
      slice ((List.range nn).map fun i => BitVec.ofNat 8 (nflag i)) 0 (pad8 nn)) 0 n.recSize
  { status := status, its := s.its, flags := flags, body := body, flows := s.q.toList, subs := b.sub.toList, qnodes := b.qnode.toList }

/-- One scenario from its boundary set's bytes (R110, R111); `warm` is the start record. -/
def Net.scenario (n : Net) (t : NetTune) (set : Bytes) (nScen stride : Nat) (warm : Option Bytes) (cap : Option Nat) : ScenOut :=
  let b := n.bnd set
  let laws := ((List.range n.links.size).map (n.law b)).toArray
  let start := match warm with
    | some r => n.warm b laws r
    | none => n.cold b laws
  if !n.bndOk set nScen stride then
    n.record t b (u32At set 0 ≠ 0) laws scBadBoundary (n.cold b laws)
  else
    let (s, st) := n.newtons t b laws (n.demand b) cap t.newtonMax start
    n.record t b (u32At set 0 ≠ 0) laws st s

end Sys2Proof.Machine
end

