-- ==== Sys2Proof/Machine/Ben.lean ====
section
/-! DEFINITION. Machine/Ben.lean: the Bench's job rings, jobs, agreement and completion (05: R131-R160; 04: R107, R108,
R120-R127). What a job computes stands in Solve.lean and Net.lean; it is computed when the job ends, from the job's buffers
as they then stand, which R142 forbids to change meanwhile. -/
namespace Sys2Proof.Machine

def aRing (r off : Nat) : Nat := 0x400A0100 + 0x40 * r + off
def aBenStat : Nat := 0x400A0000

/-- Requester bit of the Bench in the window table (R281). -/
def qBench : Nat := 16

def Lane.ringLen (L : Lane) (r : Nat) : Nat := L.fld (aRing r 4) 0 9
def Lane.runSeq (L : Lane) (r : Nat) : Nat := L.fld (aRing r 0x14) 0 16
def Lane.cplSeq (L : Lane) (r : Nat) : Nat := L.fld (aRing r 0x14) 16 16
def Lane.ringUpd (L : Lane) (r : Fin 2) (f : BenRing → BenRing) : Lane := { L with ben := { L.ben with rings := L.ben.rings.set r (f L.ben.rings[r]) } }
def seqDiff (a b : Nat) : Nat := (a + 65536 - b) % 65536
/-- Reservations granted whose completion entry is not yet written (R132). -/
def Lane.outstanding (L : Lane) (r : Fin 2) : Nat := seqDiff L.ben.rings[r].nextSeq (L.cplSeq r)
/-- A SEQ that is reserved and whose job has not started. -/
def Lane.reservedSeq (L : Lane) (r : Fin 2) (q : Nat) : Bool :=
  seqDiff q (L.runSeq r) < seqDiff L.ben.rings[r].nextSeq (L.runSeq r)
/-- The head of a ring is posted. -/
def Lane.headPosted (L : Lane) (r : Fin 2) : Bool :=
  let g := L.ben.rings[r]
  !g.halted && L.ringLen r != 0 && L.reservedSeq r (L.runSeq r) && g.posted.contains (L.runSeq r)

/-- BEN_STAT.BUSY, RING and PHASE. -/
def Lane.benShow (L : Lane) : Lane :=
  match L.ben.run with
  | none => L.setFld aBenStat 0 18 0
  | some r => L.setFld aBenStat 0 18 (3 * 2 ^ 16 + 2 * r.ring.val + 1)

/-- Statuses of the peer that wait for a job of a ring go with the ring's jobs (R136, R156). -/
def Lane.gotClear (L : Lane) (r : Fin 2) : Lane :=
  { L with ben := { L.ben with got := L.ben.got.filter fun p => p.ring != r.val, inbox := L.ben.inbox.filter fun p => p.ring != r.val } }
/-- A ring restarts empty: SEQ at 0, nothing posted, nothing reserved (R136, R156, ring registers). -/
def Lane.ringRestart (L : Lane) (r : Fin 2) (now : Nat) : Lane :=
  ((L.gotClear r).put (aRing r 0x14) 0).ringUpd r fun _ => { nextSeq := 0, posted := [], halted := false, headAt := now }

/-! Reservation and posting (R131-R133). -/

/-- Ring 0 takes engines of the lane, ring 1 the HC session (R131). -/
def ringTakes (r : Fin 2) : Requester → Bool
  | .engine _ => r == 0
  | .hc => r == 1
  | _ => false

/-- An access to BEN_RESV or BEN_POST of a ring that does not take the requester: a bus error without effect (R131). -/
def ringDenied (name : String) (i : Nat) (req : Requester) : Bool :=
  (name == "BEN_RESV" || name == "BEN_POST") && !ringTakes (Fin.ofNat 2 i) req

def State.benUnavail (s : State) (l : LaneId) (r : Fin 2) : Bool :=
  let m := s.mode.mode
  m == .reset || m == .configure || m == .retain || (s.lane l).ringLen r == 0 || (s.lane l).ben.rings[r].halted

def State.benResv (s : State) (l : LaneId) (req : Requester) (r : Fin 2) : State :=
  let L := s.lane l
  if !ringTakes r req then s.busErr
  else if s.benUnavail l r then s.ok 0x20000000
  else if L.ringLen r ≤ L.outstanding r then s.ok 0x40000000
  else
    let q := L.ben.rings[r].nextSeq
    let head := q == L.runSeq r
    (s.upd l fun L => L.ringUpd r fun g => { g with nextSeq := (q + 1) % 65536, headAt := if head then s.tb.run else g.headAt }).ok
      (BitVec.ofNat 32 (2 ^ 31 + q))
def execBenResv (src : Src) (ring : Fin 2) (s : State) : Out := .next (s.perLane src fun l s => s.benResv l src.req ring)

def State.benPost (s : State) (l : LaneId) (req : Requester) (r : Fin 2) (data : Word) : State :=
  let L := s.lane l
  let q := fieldOf data 0 16
  if !ringTakes r req then s.busErr
  else if !L.reservedSeq r q || L.ben.rings[r].posted.contains q || L.ben.rings[r].halted then s.refuse l 0x45 r
  else (s.upd l fun L => L.ringUpd r fun g => { g with posted := g.posted ++ [q] }).ok
def execBenPost (src : Src) (ring : Fin 2) (data : Word) (s : State) : Out := .next (s.perLane src fun l s => s.benPost l src.req ring data)

/-- A write of a ring register (05, ring registers). -/
def State.benRingWrite (s : State) (l : LaneId) (a : Nat) (data : Word) : State :=
  let r : Fin 2 := if a < aRing 1 0 then 0 else 1
  let off := a - aRing r 0
  let lenOk := [0, 4, 8, 16, 32, 64, 128, 256].contains (fieldOf data 0 9)
  if (s.lane l).outstanding r ≠ 0 || (off == 4 && !lenOk) || (off != 0 && off != 4 && off != 8) then s.busErr
  else
    let v := if off = 4 then data &&& 0x1FF else data &&& 0xFFFFFFC0
    (s.upd l fun L => (L.put a v).ringRestart r s.tb.run).ok
def execBenRingConfigWrite (src : Src) (addr data : Word) (s : State) : Out :=
  .next (s.perLane src fun l s => s.benRingWrite l addr.toNat data)

/-! Status, agreement, completion (R153-R160). -/

def stOk : Nat := 0
def stMaxit : Nat := 1
def stEmpty : Nat := 2
def stDeadline : Nat := 3
def stBadDesc : Nat := 4
def stBadInput : Nat := 5
def stNoNetwork : Nat := 6
def stMemFault : Nat := 0xB
def stAborted : Nat := 0xC
def stNotPosted : Nat := 0xD

/-- Rank of a job status: 1 is the worst (R160). -/
def statusRank (c : Nat) : Nat := [13, 12, 14, 11, 7, 6, 8, 4, 3, 5, 2, 1, 9, 10].getD c 1
def worseStatus (a b : Nat) : Nat := if statusRank b < statusRank a then b else a
/-- Order of scenario statuses, the worst first (R123). -/
def scenRank (c : Nat) : Nat := [3, 6, 5, 4, 2, 1].getD c 1
def worseScen (a b : Nat) : Nat := if scenRank b < scenRank a then b else a

def Lane.waitUpd (L : Lane) (ring seq : Nat) (f : BenWait → BenWait) : Lane :=
  { L with ben := { L.ben with wait := L.ben.wait.map fun w => if w.ring == ring && w.seq == seq then f w else w } }

/-- The ring halts (R156): its jobs are discarded, its reservations void. -/
def State.ringHalt (s : State) (l : LaneId) (r : Fin 2) : State :=
  (s.upd l fun L =>
    let L1 := { L.gotClear r with ben := { (L.gotClear r).ben with wait := L.ben.wait.filter fun w => w.ring != r.val,
                                                                   run := L.ben.run.filter fun x => x.ring != r } }
    (((L1.setFld (aRing r 0x14) 0 16 L.ben.rings[r].nextSeq).setFld (aRing r 0x14) 16 16 L.ben.rings[r].nextSeq).ringUpd r fun g =>
      { g with posted := [], halted := true }).benShow).raise l 0x42 r

/-- Completion entries of a ring, in SEQ order, as far as statuses are agreed (R155). -/
def State.benFlush [RegIO] (s : State) (l : LaneId) (r : Fin 2) : Nat → State
  | 0 => s
  | fuel + 1 =>
    let L := s.lane l
    let q := L.cplSeq r
    match L.ben.wait.find? fun w => w.ring == r.val && w.seq == q with
    | none => s
    | some w => match w.final with
      | none => s
      | some (st, fl, tb) =>
        let entry := leBytes 2 w.tag ++ leBytes 1 st ++ leBytes 1 w.op ++ leBytes 4 fl ++ leBytes 2 q ++ leBytes 2 0 ++ leBytes 4 tb
        match s.winWriteGo l w.wins qBench 17 (L.getN (aRing r 8) + 16 * (q % L.ringLen r)) entry with
        | (s1, some f) => (s1.winHit l qBench f).ringHalt l r
        | (s1, none) =>
          let s2 := s1.upd l fun L =>
            let L1 := { L with ben := { L.ben with wait := L.ben.wait.filter fun w => !(w.ring == r.val && w.seq == q) } }
            ((L1.setFld (aRing r 0x14) 16 16 (q + 1)).wrapFld (aRing r 0x18) 0 16).setFld aBenStat 24 8 st
          let s3 := s2.raise l (0x40 + r.val) r
          let s4 := if statusRank st ≤ 8 then s3.raise l 0x42 r else s3
          (if st = stDeadline then s4.raise l 0x43 r else s4).benFlush l r fuel

/-- A header with the agreed status, flags and tb32 in place. -/
def headerWith (w : BenWait) (st fl tb : Nat) (scen : List Nat) : Bytes :=
  let h := splice w.header 1 (leBytes 1 st)
  if w.op = 0x20 then splice (splice h 6 (leBytes 2 (scen.countP (· == scConverged)))) 0x14 (leBytes 4 (fl % 16))
  else splice (splice h 8 (leBytes 4 fl)) (if w.op = 0x30 then 0x1C else 0x24) (leBytes 4 tb)

/-- A write of the Bench: a fault is recorded, the Bool says so. -/
def State.winPut [RegIO] (s : State) (l : LaneId) (held : Option (List (Nat × Word))) (q a : Nat) (bs : Bytes) : State × Bool :=
  match s.winWriteGo l held q (bs.length + 1) a bs with
  | (s', some f) => (s'.winHit l q f, true)
  | (s', none) => (s', false)

/-- A status is agreed (R157, R158): the header is written, then the completion entry follows in its order. `peer` is the
paired lane's status, none where the lane agrees with itself. -/
def State.benAgree [RegIO] (s : State) (l : LaneId) (w : BenWait) (peer : Option BenPeer) (suspect : Bool) : State :=
  let st := match peer with
    | some p => worseStatus w.own p.status
    | none => w.own
  let differ := match peer with
    | some p => p.status != w.own
    | none => false
  let scen := match peer with
    | some p => (List.range w.scen.length).map fun i => worseScen (w.scen.getD i 0) (p.scen.getD i scNotRun)
    | none => w.scen
  let fed := w.feed.filter fun f => scen.getD f.1 0 == scConverged
  let fl := w.flags + 16 * bit differ + 32 * bit suspect + (if w.op = 0x20 && fed.isSome then 4 else 0)
  let tb := s.tb32
  let s1 := s.upd l fun L =>
    let L1 := if differ then L.incFld 0x400A0008 16 16 else L
    if suspect then L1.incFld 0x400A0008 0 16 else L1
  let s2 := if suspect then s1.raise l 0x44 w.ring else s1
  let s3 := match fed with
    | some f => s2.upd l fun L => { L with pcl := { L.pcl with fed := L.pcl.fed ++
        [{ flows := f.2.1, subs := f.2.2.1, qnodes := f.2.2.2, tag := w.tag, scen := f.1, seq := w.ring * 65536 + w.seq, doneAt := s.tb.count }] } }
    | none => s2
  let recs := (List.range scen.length).filter fun i => scen.getD i 0 != w.scen.getD i 0
  let (s4, bad4) := if w.failed then (s3, true) else recs.foldl (fun (p : State × Bool) i =>
    if p.2 then p else p.1.winPut l w.wins qBench (w.resAddr + 64 + i * w.recSize) (leBytes 1 (scen.getD i 0))) (s3, false)
  let q := if w.ring = 2 then 17 else qBench
  let (s5, bad) := if bad4 || w.header.isEmpty then (s4, bad4)
    else s4.winPut l w.wins q w.resAddr (headerWith w st fl tb scen)
  let st' := if bad then stMemFault else st
  let late := bad && st != stMemFault
  let fl' := if late && !differ then fl + 16 else fl
  let flE := if w.header.isEmpty || bad then fl' / 16 % 4 * 16 else fl'
  let s6 := if late && !differ then s5.upd l (·.incFld 0x400A0008 16 16) else s5
  if w.ring = 2 then
    let s7 := s6.upd l fun L =>
      let L1 := { L with ben := { L.ben with wait := L.ben.wait.filter fun x => x.ring != 2 } }
      (L1.putN 0x400B0508 (st' * 2 ^ 16 + w.tag)).setFlag 0x400B0000 3 false
    s7.raise l 0x56
  else (s6.upd l fun L => L.waitUpd w.ring w.seq fun x => { x with final := some (st', flE, tb) }).benFlush l (Fin.ofNat 2 w.ring) 256

/-- A lane decides a job (R154, R157): its status goes to the paired lane, then it writes what the status asks for, and
waits for the agreement, or agrees with itself. -/
def State.benDecide [RegIO] (s : State) (l : LaneId) (w : BenWait) (writes : List (Nat × Bytes)) : State :=
  let o := other l
  let pair := s.agrees
  let s1 := if pair then s.upd o fun L => { L with ben := { L.ben with inbox := L.ben.inbox ++ [{ ring := w.ring, seq := w.seq, status := w.own, scen := w.scen }] } } else s
  let q := if w.ring = 2 then 17 else qBench
  let (s2, bad) := writes.foldl (fun (p : State × Bool) x =>
    if p.2 then p else p.1.winPut l w.wins q x.1 x.2) (s1, false)
  let w' := { w with failed := bad }
  let s3 := s2.upd l fun L => { L with ben := { L.ben with wait := L.ben.wait ++ [w'] } }
  if !pair then s3.benAgree l w' none false
  else match (s3.lane l).ben.got.find? fun p => p.ring == w.ring && p.seq == w.seq with
    | some p => (s3.upd l fun L => { L with ben := { L.ben with got := L.ben.got.erase p } }).benAgree l w' (some p) false
    | none => s3

/-- Instant of R158 on the count without steps: the later of now and DEADLINE + D_CHK (4,096 steps at the pace floor), and 5 us. -/
def State.benLimit (s : State) (deadline : Option Nat) : Nat :=
  let own := s.tb.run
  let d := match deadline with
    | some d => ((own : Int) + diff32 d s.tb32 * (2 ^ 40 : Int)).toNat + nsU 4096000 / 600
    | none => own
  max own d + usU 5

/-- A job ends without any result. -/
def State.benPlain [RegIO] (s : State) (l : LaneId) (ring seq op tag own : Nat) (deadline : Option Nat) : State :=
  s.benDecide l { ring := ring, seq := seq, op := op, tag := tag, own := own, flags := 0, header := [], resAddr := 0, scen := [], recSize := 0,
                  feed := none, limit := s.benLimit deadline, failed := false, final := none, wins := none } []

/-- The head of a ring leaves it: the next slot is the head. -/
def Lane.headGone (L : Lane) (r : Fin 2) (now : Nat) : Lane :=
  let q := L.runSeq r
  (L.setFld (aRing r 0x14) 0 16 (q + 1)).ringUpd r fun g => { g with posted := g.posted.filter (· != q), headAt := now }

/-- The head slot of a ring has stayed unposted for RESV_TO ms (R133). -/
def rowResvTimeout [RegIO] (lane : LaneId) (ring : Fin 2) (s : State) : Out :=
  let L := s.lane lane
  let to_ := L.fld 0x400A0004 16 8
  let q := L.runSeq ring
  let g := L.ben.rings[ring]
  if to_ = 0 || g.halted || !L.reservedSeq ring q || g.posted.contains q || s.benUnavail lane ring then .next s
  else
    let s1 := s.advRun (g.headAt + msU to_)
    let s2 := s1.upd lane fun L => (L.headGone ring s1.tb.run).incFld (aRing ring 0x18) 16 16
    .next (s2.benPlain lane ring.val q 0 0 stNotPosted none)

/-! Jobs. -/

/-- Descriptor checks of a general job (R137, R139 order 3, R144). -/
def jobDescOk (d : Bytes) : Bool :=
  let op := u8At d 0
  let fl := u8At d 1
  let pre := u8At d 0x1C
  let fin (o : Nat) : Bool := isFinite64 (f64At d o) && fle f0 (f64At d o)
  1 ≤ op && op ≤ 3 && fl < 8 && u32At d 0xC == 0 && u32At d 8 % 64 == 0 && u32At d 0x10 % 64 == 0 && u32At d 0x14 % 8 == 0 &&
  (if fl.testBit 0 then u32At d 0x18 % 8 == 0 else u32At d 0x18 == 0) && pre ≤ 4 && (op == 3 || pre ≤ 3) &&
  (if pre = 2 then 2 ≤ u8At d 0x1D && u8At d 0x1D ≤ 8 else u8At d 0x1D == 0) &&
  (if fl.testBit 2 then 20 ≤ u8At d 0x1E && u8At d 0x1E ≤ 60 else u8At d 0x1E == 0) && u8At d 0x1F == 0 && u32At d 0x20 ≤ 16777215 &&
  u32At d 0x24 == 0 && fin 0x28 && fin 0x30 && allAt d 0x38 8 0

/-- Descriptor checks of a network job (R108 order 4). -/
def netDescOk (d : Bytes) (n : Net) : Bool :=
  let ns := u8At d 0x10
  let feed := u8At d 0x11
  u8At d 1 < 2 && ns ≤ 64 && (feed < ns || feed == 0xFF) && u32At d 0xC == 0 && u16At d 0x12 == 0 && allAt d 0x20 32 0 &&
  u32At d 8 % 64 == 0 && u32At d 0x14 % 8 == 0 && u32At d 0x18 % 8 == 0 && (!(u8At d 1).testBit 0 || u32At d 0x1C % 64 == 0) &&
  (ns < 2 || n.bndLen ≤ u32At d 0x18)

/-- The deadline has passed (R151). -/
def State.pastDeadline (s : State) (d : Nat) : Bool := diff32 d s.tb32 ≤ 0
/-- D_CHK in ns: 4,096 handshake steps at the pace floor (R151). -/
def dChkNs : Nat := 6827
/-- A miss of the deadline has been found by now (R151). -/
def State.foundMissed (s : State) (d : Nat) : Bool := diff32 d s.tb32 < -(dChkNs : Int)

/-- Checks of a job at its start (R108, R139 orders 1 to 3): the status that ends it, if any. -/
def State.jobGate (s : State) (l : LaneId) (d : Bytes) : Option Nat :=
  if u8At d 0 = 0x20 then
    if u8At d 0x10 = 0 then some stEmpty
    else if s.pastDeadline (u32At d 4) then some stDeadline
    else match (s.lane l).net with
      | none => some stNoNetwork
      | some n => if netDescOk d n then none else some stBadDesc
  else if u32At d 0x20 = 0 then some stEmpty
  else if s.pastDeadline (u32At d 4) then some stDeadline
  else if jobDescOk d then none else some stBadDesc

/-- The words a job latches at its start. -/
def Lane.benTune (L : Lane) : List Word := L.get 0x400A0004 :: (List.range 6).map fun i => L.get (0x400A0820 + 4 * i)

/-- The ring whose head job starts next (R134): with both heads posted, that of the ring not started last. -/
def Lane.benPick (L : Lane) : Option (Fin 2) :=
  if L.headPosted 0 && L.headPosted 1 then some (if L.ben.lastRing = 0 then 1 else 0)
  else if L.headPosted 0 then some 0
  else if L.headPosted 1 then some 1
  else none

/-- The Bench starts a job (R134): with both heads posted, that of the ring it did not start last. -/
def rowBenchJobStart [RegIO] (lane : LaneId) (s : State) : Out :=
  let L := s.lane lane
  let m := s.mode.mode
  match L.benPick with
  | none => .next s
  | some r =>
    if L.ben.run.isSome || !s.isUp lane || m == .reset || m == .configure || m == .retain then .next s
    else
      let q := L.runSeq r
      let s1 := s.upd lane fun L => { L.headGone r s.tb.run with ben := { (L.headGone r s.tb.run).ben with lastRing := r } }
      match s1.winRead lane qBench (L.getN (aRing r 0) + 64 * (q % L.ringLen r)) 64 with
      | (s2, .inl f) => .next ((s2.winHit lane qBench f).benPlain lane r.val q 0 0 stMemFault none)
      | (s2, .inr d) => match s2.jobGate lane d with
        | some st => .next (s2.benPlain lane r.val q (u8At d 0) (u16At d 2) st (some (u32At d 4)))
        | none => .next (s2.upd lane fun L =>
            { L with ben := { L.ben with run := some { ring := r, seq := q, desc := d, tbStart := s.tb32, tune := L.benTune, wins := none } } }.benShow)

/-- What a job comes to: own status, flags, header (agreed fields still open), bytes still to write, scenario statuses,
the flows to feed. -/
structure JobOut where
  status : Nat
  flags : Nat
  header : Bytes
  writes : List (Nat × Bytes)
  scen : List Nat
  recSize : Nat
  feed : Option (Nat × List F64 × List F64 × List F64)
deriving Repr

def JobOut.plain (st : Nat) : JobOut := { status := st, flags := 0, header := [], writes := [], scen := [], recSize := 0, feed := none }

def matHeaderOk (h : Bytes) : Bool :=
  let n := u32At h 0
  let nnz := u32At h 4
  1 ≤ n && n ≤ 131072 && 1 ≤ nnz && nnz ≤ 2097152 && u8At h 8 ≤ 1 && allAt h 9 3 0 && u32At h 0xC % 4 == 0 && u32At h 0x10 % 4 == 0 &&
  u32At h 0x14 % (if u8At h 8 = 1 then 4 else 8) == 0 && allAt h 0x18 8 0

/-- Rows from CSR bytes; none where R140 fails. -/
def csrRows (n nnz : Nat) (wide : Bool) (rp ci va : Bytes) : Option Mat :=
  let rpt := (List.range (n + 1)).map fun i => u32At rp (4 * i)
  let val (k : Nat) : F64 := if wide then f64At va (8 * k) else f32to64 (f32At va (4 * k))
  let rows := (rpt.zip rpt.tail).map fun p => (List.range (p.2 - p.1)).map fun k => (u32At ci (4 * (p.1 + k)), val (p.1 + k))
  let rowOk (p : List (Nat × F64) × Nat) : Bool :=
    let cs := p.1.map (·.1)
    (cs.zip cs.tail).all (fun c => c.1 < c.2) && cs.all (· < n) && cs.contains p.2 && (p.1.any fun e => !feq e.2 f0) && p.1.all fun e => isFinite64 e.2
  if rpt.head? == some 0 && rpt.getLast? == some nnz && ((rpt.zip rpt.tail).all fun p => p.1 ≤ p.2) && rows.zipIdx.all rowOk then some rows.toArray else none

/-- Read several buffers in order; the first fault ends it. -/
def State.winReads [RegIO] (s : State) (l : LaneId) (q : Nat) : List (Nat × Nat) → State × Sum (Nat × Nat) (List Bytes)
  | [] => (s, .inr [])
  | (a, n) :: t => match s.winRead l q a n with
    | (s1, .inl f) => (s1, .inl f)
    | (s1, .inr b) => match s1.winReads l q t with
      | (s2, .inl f) => (s2, .inl f)
      | (s2, .inr bs) => (s2, .inr (b :: bs))

/-- A general job's solve on its matrix, right-hand side and start (R141-R154). `late`: the job goes on past the instant by which
its deadline is found missed (R151). -/
def generalSolve (r : BenRun) (cap : Option Nat) (late : Bool) (n : Nat) (b x0 : Vec) (a : Mat) : JobOut :=
  let d := r.desc
  let op := u8At d 0
  let res := u32At d 8
  let x0f := (u8At d 1).testBit 0
  if !vFinite b || !vFinite x0 then JobOut.plain stBadInput
  else
    let tauE := if (u8At d 1).testBit 2 then u8At d 0x1E else fieldOf (r.tune.getD 0 0) 0 8
    let tau := twoNeg tauE
    let zero := b.all fun v => feq v f0
    let maxIt := u32At d 0x20
    let rtol := f64At d 0x28
    let atol := f64At d 0x30
    let tolOf (bn : F64) : F64 := fmax (fmul rtol bn) atol
    let f : Factor := if zero then { m := .none, status := 0, shifts := 0, shift := f0, pivots := 0 }
      else buildPrecond a tau op (u8At d 0x1C) (u8At d 0x1D)
    if f.status ≠ 0 then JobOut.plain f.status
    else
      let bn := norm2 b
      let o : Solved := if zero then { status := 0, x := vZero n, its := 0, rn := f0, bn := f0 }
        else match op with
          | 1 => pcgRun a b x0 f.m (tolOf bn) bn maxIt cap
          | 2 => minresRun a b x0 f.m tolOf maxIt cap
          | _ => bicgRun a b x0 f.m (tolOf bn) bn maxIt cap
      let st := if late && o.status ≤ 1 then stDeadline else o.status
      let whole := st ≤ 1
      if !whole && o.its = 0 then JobOut.plain st
      else
        let fl := bit (!whole) + 2 * bit (f.shifts != 0) + 4 * bit (f.pivots != 0) + 8 * bit (x0f && !zero)
        let tr := if (u8At d 1).testBit 1 then norm2 (vMap2 fsub b (spmv a o.x)) else fNaN64
        let d8 (v : F64) : Bytes := leBytes 8 v.toNat
        let hdr := leBytes 1 op ++ leBytes 1 st ++ leBytes 2 (u16At d 2) ++ leBytes 4 o.its ++ leBytes 4 fl ++ leBytes 4 n ++ d8 o.rn ++ d8 o.bn ++
          leBytes 4 r.tbStart ++ leBytes 4 0 ++ leBytes 2 f.shifts ++ leBytes 2 0 ++ leBytes 4 f.pivots ++ d8 f.shift ++ d8 tr
        { status := st, flags := fl, header := hdr, writes := [(res + 64, (o.x.toList.map d8).flatten)], scen := [], recSize := 0, feed := none }

/-- A general job's solve (R141-R150), from its matrix header and the buffers it names. -/
def generalJob (r : BenRun) (cap : Option Nat) (late : Bool) (h : Bytes) (bs : List Bytes) : JobOut :=
  let n := u32At h 0
  let b := vecAt (bs.getD 3 []) 0 n
  let x0 := if (u8At r.desc 1).testBit 0 then vecAt (bs.getD 4 []) 0 n else vZero n
  (csrRows n (u32At h 4) (u8At h 8 = 0) (bs.getD 0 []) (bs.getD 1 []) (bs.getD 2 [])).elim (JobOut.plain stBadInput) (generalSolve r cap late n b x0)

/-- The buffers a general job reads, in order. -/
def generalBufs (d h : Bytes) : List (Nat × Nat) :=
  let n := u32At h 0
  let nnz := u32At h 4
  [(u32At h 0xC, 4 * (n + 1)), (u32At h 0x10, 4 * nnz), (u32At h 0x14, nnz * if u8At h 8 = 0 then 8 else 4), (u32At d 0x14, 8 * n)] ++
    if (u8At d 1).testBit 0 then [(u32At d 0x18, 8 * n)] else []

/-- A general job from its matrix on (R138-R154). `cap` iterations complete before the deadline is found missed. -/
def State.runGeneral [RegIO] (s : State) (l : LaneId) (r : BenRun) (cap : Option Nat) (late : Bool) : State × JobOut :=
  if cap = some 0 then (s, JobOut.plain stDeadline)
  else match s.winRead l qBench (u32At r.desc 0x10) 32 with
  | (s1, .inl f) => (s1.winHit l qBench f, JobOut.plain stMemFault)
  | (s1, .inr h) =>
    if !matHeaderOk h then (s1, JobOut.plain stBadDesc)
    else match s1.winReads l qBench (generalBufs r.desc h) with
      | (s2, .inl f) => (s2.winHit l qBench f, JobOut.plain stMemFault)
      | (s2, .inr bs) => (s2, generalJob r cap late h bs)

/-- The bytes of boundary set `j` (R109), or the fault of the access. -/
def State.scenSet [RegIO] (s : State) (l : LaneId) (n : Net) (a : Nat) : State × Sum (Nat × Nat) Bytes :=
  match s.winRead l qBench a n.bndLen with
  | (s1, .inl f) => (s1, .inl f)
  | (s1, .inr b) =>
    let k := u32At b 0
    if 49152 < k then (s1, .inr b)
    else match s1.winRead l qBench (a + n.bndLen) (16 * k) with
      | (s2, .inl f) => (s2, .inl f)
      | (s2, .inr b') => (s2, .inr (b ++ b'))

/-- The record of a scenario is written. -/
def State.scenPut [RegIO] (s : State) (l : LaneId) (a : Nat) (o : ScenOut) : State × Option ScenOut :=
  match s.winPut l ((s.lane l).heldWins qBench) qBench a o.body with
  | (s1, true) => (s1, none)
  | (s1, false) => (s1, some o)

/-- Scenario `j` of a network job (R109, R121): its boundary set is read, it is solved, its record is written; none where
an access of it faulted. -/
def State.scenStep [RegIO] (s : State) (l : LaneId) (n : Net) (t : NetTune) (d : Bytes) (warm : Option Bytes) (j : Nat) (cap : Option Nat) :
    State × Option ScenOut :=
  match s.scenSet l n (u32At d 0x14 + j * u32At d 0x18) with
  | (s1, .inl f) => (s1.winHit l qBench f, none)
  | (s1, .inr set) => s1.scenPut l (u32At d 8 + 64 + j * n.recSize) (n.scenario t set (u8At d 0x10) (u32At d 0x18) warm cap)

/-- The scenarios of a network job in order (R120, R121, R125): their records are written as they end. The cap counts
the scenarios begun and the Newton iterations completed, over the whole job, before the deadline is found missed. The Bool says
that an access faulted. -/
def State.runScenarios [RegIO] (s : State) (l : LaneId) (n : Net) (t : NetTune) (d : Bytes) (warm : Option Bytes) :
    Nat → Nat → Option Nat → List ScenOut → State × List ScenOut × Bool
  | 0, _, _, acc => (s, acc, false)
  | fuel + 1, j, cap, acc =>
    if cap = some 0 then (s, acc, false)
    else match s.scenStep l n t d warm j (cap.map (· - 1)) with
      | (s1, none) => (s1, acc, true)
      | (s1, some o) =>
        if o.status = scPartial || o.status = scNotRun then (s1, acc ++ [o], false)
        else s1.runScenarios l n t d warm fuel (j + 1) (cap.map fun c => c - 1 - o.its) (acc ++ [o])

/-- Solver settings of a network job. -/
def BenRun.netTune (r : BenRun) : NetTune :=
  let w (i : Nat) : Word := r.tune.getD i 0
  { newtonMax := fieldOf (w 1) 0 8, pcgMax := fieldOf (w 1) 8 16, cvMax := fieldOf (w 1) 24 4, qtol := f32to64 (w 2),
    itol := f32to64 (w 3), qfloor := f32to64 (w 4), pcgtol := f32to64 (w 5), rho := f32to64 (w 6), tau := twoNeg (fieldOf (w 0) 0 8) }
/-- A record that may start a solution warm. -/
def warmFits (n : Net) (rb : Bytes) : Bool :=
  u32At rb 0x38 == n.topoId && (u8At rb 0 == scConverged || u8At rb 0 == scNotConverged || u8At rb 0 == scPartial)
/-- What a network job leaves: status, flags, header, the scenario that feeds the tracker. -/
def State.netOut (s : State) (r : BenRun) (n : Net) (late : Bool) (warmReq warmOk : Bool) (outs : List ScenOut) : JobOut :=
  let d := r.desc
  let whole := outs.length == u8At d 0x10 && outs.all fun o => o.status != scPartial && !(o.status == scNotRun)
  let st := if late || !whole then stDeadline else stOk
  let part := st == stDeadline && outs.any fun o => 0 < o.its
  let fl := bit warmOk + 2 * bit (warmReq && !warmOk) + 8 * bit part
  let orFl := outs.foldl (fun k o => k ||| o.flags) 0
  let hdr := leBytes 1 0x20 ++ leBytes 1 st ++ leBytes 2 (u16At d 2) ++ leBytes 2 outs.length ++ leBytes 2 0 ++ leBytes 4 r.tbStart ++
    leBytes 4 s.tb32 ++ leBytes 4 orFl ++ leBytes 4 fl ++ leBytes 4 n.topoId ++ leBytes 4 n.recSize ++ zeros 32
  let feed := u8At d 0x11
  let fd := outs[feed]?.map fun o => (feed, o.flows, o.subs, o.qnodes)
  { status := st, flags := fl, header := if outs.isEmpty then [] else hdr, writes := [], scen := outs.map (·.status), recSize := n.recSize, feed := fd }
/-- The scenarios of a network job from a warm record or none. -/
def State.runWarm [RegIO] (s : State) (l : LaneId) (r : BenRun) (n : Net) (cap : Option Nat) (late warmReq : Bool) (rb : Bytes) : State × JobOut :=
  let warmOk := warmReq && warmFits n rb
  let q := s.runScenarios l n r.netTune r.desc (if warmOk then some rb else none) (u8At r.desc 0x10) 0 cap []
  if q.2.2 then (q.1, { JobOut.plain stMemFault with scen := q.2.1.map (·.status), recSize := n.recSize })
  else (q.1, q.1.netOut r n late warmReq warmOk q.2.1)
/-- A network job (R107-R127). -/
def State.runNetwork [RegIO] (s : State) (l : LaneId) (r : BenRun) (cap : Option Nat) (late : Bool) : State × JobOut :=
  match (s.lane l).net with
  | none => (s, JobOut.plain stNoNetwork)
  | some n =>
    let warmReq := (u8At r.desc 1).testBit 0
    match (if warmReq then s.winRead l qBench (u32At r.desc 0x1C) n.recSize else (s, .inr [])) with
    | (s1, .inl f) => (s1.winHit l qBench f, JobOut.plain stMemFault)
    | (s1, .inr rb) => s1.runWarm l r n cap late warmReq rb

/-- The running job ends, by itself or at a deadline miss found after `cap` (R121, R152); `late` as in `generalSolve`. -/
def State.benEnd [RegIO] (s : State) (l : LaneId) (r : BenRun) (cap : Option Nat) (late : Bool) : State :=
  let (s1, o) := if u8At r.desc 0 = 0x20 then s.runNetwork l r cap late else s.runGeneral l r cap late
  let s2 := s1.upd l fun L => { L with ben := { L.ben with run := none } }.benShow
  s2.benDecide l { ring := r.ring.val, seq := r.seq, op := u8At r.desc 0, tag := u16At r.desc 2, own := o.status, flags := o.flags, header := o.header,
                   resAddr := u32At r.desc 8, scen := o.scen, recSize := o.recSize, feed := o.feed,
                   limit := s2.benLimit (some (u32At r.desc 4)), failed := false, final := none, wins := r.wins } o.writes

def rowBenchJobEnd [RegIO] (lane : LaneId) (s : State) : Out :=
  match (s.lane lane).ben.run with
  | none => .next s
  | some r =>
    if s.foundMissed (u32At r.desc 4) then
      let (v, s1) := s.fresh
      .next (s1.benEnd lane r (some v.toNat) true)
    else .next (s.benEnd lane r none false)

/-- The deadline of the running job is found missed (R121, R152) after `iterations` completed iterations; in a network job, after
as many scenarios begun and Newton iterations completed together. A job that has ended before ends as it did. -/
def rowBenchDeadlineMiss [RegIO] (lane : LaneId) (iterations : Nat) (s : State) : Out :=
  match (s.lane lane).ben.run with
  | none => .next s
  | some r =>
    let d := u32At r.desc 4
    let wait := diff32 d s.tb32
    let s1 := if 0 < wait then s.advTo (s.tb.count + nsU wait.toNat) else s
    .next (s1.benEnd lane r (some iterations) false)

/-- A SEQ of a ring whose job this lane has decided or discarded: the peer's status for it comes too late (R158). Ring 2 stands for
predictions, of which the latest may still run. -/
def Lane.seqPassed (L : Lane) (ring seq : Nat) : Bool :=
  if ring = 2 then
    let d := seqDiff L.pcl.predSeq seq
    d != 0 && d < 32768 && !(L.pcl.pred.isSome && d == 1)
  else
    let r := Fin.ofNat 2 ring
    let running := L.ben.run.any fun x => x.ring == r && x.seq == seq
    !running && (L.ben.rings[r].halted || (seqDiff (L.runSeq r) seq != 0 && seqDiff (L.runSeq r) seq < 32768))

/-- The next status of the paired lane arrives (R157). One for a job that is gone has no effect; so has that of a condemned lane,
whose peer agrees with itself (R158). -/
def rowBenchPeerStatus [RegIO] (lane : LaneId) (s : State) : Out :=
  match (s.lane lane).ben.inbox with
  | [] => .next s
  | p :: rest =>
    let s1 := s.upd lane fun L => { L with ben := { L.ben with inbox := rest } }
    match (s.lane lane).ben.wait.find? fun w => w.ring == p.ring && w.seq == p.seq with
    | some w => if w.final.isSome then .next s1 else .next (s1.benAgree lane w (if s.agrees then some p else none) false)
    | none =>
      if !s.agrees || (s.lane lane).seqPassed p.ring p.seq then .next s1
      else .next (s1.upd lane fun L => { L with ben := { L.ben with got := L.ben.got ++ [p] } })

/-- The wait for an agreement that runs out first. -/
def Lane.firstWait (L : Lane) : Option BenWait :=
  (L.ben.wait.filter fun w => w.final.isNone).foldl (fun (b : Option BenWait) w => match b with
      | none => some w
      | some x => if w.limit < x.limit then some w else b) none

/-- The earliest wait for an agreement runs out (R158). Alone the lane agrees with itself. -/
def rowBenchAgreeTimeout [RegIO] (lane : LaneId) (s : State) : Out :=
  match (s.lane lane).firstWait with
  | none => .next s
  | some w =>
    if !s.agrees then .next (s.benAgree lane w none false)
    else
      let s1 := (s.advRun w.limit).benAgree lane w none true
      .next (s1.redTrigger 6 w.ring true false false)

/-- Entry to CONFIGURE (R136): the running job ends ABORTED with its completion entry, decided jobs agree with themselves,
the rest is discarded, the rings restart. -/
def State.benConfigure [RegIO] (s : State) (l : LaneId) : State :=
  let alone (s : State) : State := ((s.lane l).ben.wait.filter fun w => w.final.isNone).foldl (fun s w => s.benAgree l w none false) s
  let s1 := match (s.lane l).ben.run with
    | none => alone s
    | some r =>
      let s1 := s.upd l fun L => { L with ben := { L.ben with run := none, got := [], inbox := [] } }.benShow
      let w : BenWait := { ring := r.ring.val, seq := r.seq, op := u8At r.desc 0, tag := u16At r.desc 2, own := stAborted, flags := 0, header := [],
                           resAddr := 0, scen := [], recSize := 0, feed := none, limit := s.tb.run, failed := false, final := none, wins := none }
      alone (s1.upd l fun L => { L with ben := { L.ben with wait := L.ben.wait ++ [w] } })
  s1.upd l fun L =>
    let L1 := { L with ben := { L.ben with run := none, wait := [], got := [], inbox := [] } }.benShow
    (L1.ringRestart 0 s.tb.run).ringRestart 1 s.tb.run

/-- Entry to RETAIN (R136): nothing further is written. -/
def Lane.benRetain (L : Lane) (now : Nat) : Lane :=
  let L1 := { L with ben := { L.ben with run := none, wait := [], got := [], inbox := [] } }.benShow
  (L1.ringRestart 0 now).ringRestart 1 now

/-- A lane that loses its peer agrees with itself from then on (R158). -/
def State.benAlone [RegIO] (s : State) (l : LaneId) : State :=
  ((s.lane l).ben.wait.filter fun w => w.final.isNone).foldl (fun s w => s.benAgree l w none false) s

/-- Registers of network mode at load (04). -/
def Lane.netLoad (L : Lane) : Lane :=
  match L.net with
  | none => L.putWords 0x400A0800 [0, 0, 0, 0, 0]
  | some n => L.putWords 0x400A0800 [1, BitVec.ofNat 32 (n.links.size * 2 ^ 16 + n.nodes.size), BitVec.ofNat 32 (n.subs.size * 2 ^ 16 + n.pumps),
      BitVec.ofNat 32 (n.valves * 2 ^ 16 + n.fixh * 2 ^ 9 + n.qnodes), BitVec.ofNat 32 n.topoId]

/-- Value checks of BEN registers: refusals raise EV_BEN_CFG or EV_BEN_NET_CFG. -/
def benCheck (name : String) (v : Word) : Bool :=
  match name with
  | "BEN_CFG" => 20 ≤ fieldOf v 0 8 && fieldOf v 0 8 ≤ 60
  | "BEN_NET_RHO" => isFinite32 v && flt32 0 v
  | "BEN_NET_ITER" => true
  | _ => isFinite32 v && fle32 0 v

end Sys2Proof.Machine
end

