-- ==== Sys2Proof/Machine/Pcl.lean ====
section
/-! DEFINITION. Machine/Pcl.lean: the parcel tracker (06: R163-R186). A step is computed from the inputs latched at its
start and becomes the live state at its end. All quantities are FP64 (log 25). -/
namespace Sys2Proof.Machine

def aPclStat : Nat := 0x400B0000
def aPclCfg : Nat := 0x400B0004

structure PclLink where
  vol : F64
  tau : F64
  tInit : F64
  p : Nat
  zone : Nat
  outT : Nat
deriving Repr, Inhabited

structure PclStore where
  nodeA : Nat
  nodeB : Nat
  n : Nat
  la : Nat
  lb : Nat
  zone : Nat
  v : F64
  tau : F64
  tInit : F64
deriving Repr, Inhabited

/-- The STORE drawer (R163). -/
structure PclDesc where
  links : Array PclLink
  stores : Array PclStore
  ret0 : F64
deriving Repr

def pclLinkOf (e : Bytes) : PclLink :=
  { vol := f32to64 (f32At e 0), tau := f32to64 (f32At e 4), tInit := f32to64 (f32At e 8), p := u8At e 0xC, zone := u8At e 0xD, outT := u16At e 0xE }
def pclStoreOf (e : Bytes) : PclStore :=
  { nodeA := u16At e 0, nodeB := u16At e 2, n := u8At e 4, la := u8At e 5, lb := u8At e 6, zone := u8At e 7,
    v := f32to64 (f32At e 8), tau := f32to64 (f32At e 0xC), tInit := f32to64 (f32At e 0x10) }
def pclLinkB (d : Bytes) (i : Nat) : Bytes := slice d (32 + 16 * i) 16
def pclStoreB (d : Bytes) (j : Nat) : Bytes := slice d (32 + 16 * u32At d 0 + 32 * j) 32
def pclDescOf (d : Bytes) : PclDesc :=
  { links := ((List.range (u32At d 0)).map fun i => pclLinkOf (pclLinkB d i)).toArray,
    stores := ((List.range (u16At d 4)).map fun j => pclStoreOf (pclStoreB d j)).toArray, ret0 := f32to64 (f32At d 8) }

/-- The tracker is available: TOPO and STORE are loaded (R163). -/
def Lane.pclDesc (L : Lane) : Option (Net × PclDesc) :=
  if (L.dr 8).isEmpty then none else L.topo.map fun n => (n, pclDescOf (L.dr 8))

/-- Cross-checks of the STORE drawer (R163, R164). -/
def storeDrawerOk (t d : Bytes) : Bool :=
  if d.isEmpty then true
  else
    let net := topoOf t [] 0
    let n := u32At d 0
    let k := u16At d 4
    let tempOk (b : Bytes) (o : Nat) : Bool := f32Fin b o && fle (fOfInt (-50)) (f32to64 (f32At b o)) && fle (f32to64 (f32At b o)) (fOfNat 200)
    let ports := ((List.range k).map fun j => [(pclStoreOf (pclStoreB d j)).nodeA, (pclStoreOf (pclStoreB d j)).nodeB]).flatten
    let nonneg (b : Bytes) (o : Nat) : Bool := f32Fin b o && fle f0 (f32to64 (f32At b o))
    n == net.links.size && k ≤ 16 && u16At d 6 == 0 && tempOk d 8 && allAt d 0xC 20 0 && d.length == 32 + 16 * n + 32 * k &&
    (allBelow n fun i =>
      let b := pclLinkB d i
      let l := pclLinkOf b
      nonneg b 0 && nonneg b 4 && tempOk b 8 && (if flt f0 l.vol then 4 ≤ l.p && l.p ≤ 32 else l.p == 0) && l.zone ≤ 15 &&
      (if (net.links.getD i default).kind = 5 then l.outT == 0xFFFF else l.outT ≤ 255 || l.outT == 0xFFFF)) &&
    (allBelow k fun j =>
      let b := pclStoreB d j
      let x := pclStoreOf b
      let port (a : Nat) : Bool := (net.nodes[a]?).any fun y => y.kind == 4 && y.bidx != 0xFFFF
      port x.nodeA && port x.nodeB && x.nodeA != x.nodeB && 2 ≤ x.n && x.n ≤ 64 && x.la < x.n && x.lb < x.n && x.la != x.lb && x.zone ≤ 15 &&
      nonneg b 8 && flt f0 x.v && nonneg b 0xC && tempOk b 0x10 && allAt b 0x14 12 0) &&
    ports.Nodup

/-! Tracker area (R165). -/

def kib64 (n : Nat) : Nat := 65536 * ceilDiv n 65536
def pad64 (n : Nat) : Nat := 64 * ceilDiv n 64
def pclLive (n : Net) (d : PclDesc) : Nat :=
  kib64 (8 * (d.links.toList.map (·.p)).sum + 16 * n.links.size + 4 * n.nodes.size + 16 * n.subs.size + 512 * d.stores.size)
def pclOutLen (n : Net) (d : PclDesc) : Nat := kib64 (64 + pad64 (4 * n.nodes.size) + 16 * n.subs.size + 256 * d.stores.size)

/-- At load: availability and the area (R163, R165). -/
def Lane.pclLoad (L : Lane) : Lane :=
  let L0 := { L with pcl := { PclUnit.init with predSeq := L.pcl.predSeq } }
  match L.pclDesc with
  | none => ((L0.put aPclStat 0).clr 0x400B0010).put 0x400B0014 0
  | some (n, d) =>
    let len := 2 * pclLive n d + 2 * pclOutLen n d
    let L1 := ((L0.put aPclStat 1).putN 0x400B0010 (0x32800000 - len)).putN 0x400B0014 len
    { L1 with pcl := { L1.pcl with outAt := 0x32800000 - 2 * pclOutLen n d } }

/-! The step (R173-R178). -/

/-- What a step works from (R168-R171). -/
structure PclIn where
  flows : Vec
  subs : Vec
  qnodes : Vec
  tin : Vec
  tfix : Vec
  tg : Vec
  ret : List (F64 × Nat)
  qfloor : F64
  itol : F64
  subMax : Nat
deriving Repr

def PclIn.q (x : PclIn) (i : Nat) : F64 := vAt x.flows i
/-- A link moves water (R168); a flow of zero moves none. -/
def PclIn.moves (x : PclIn) (i : Nat) : Bool := fle x.qfloor (fabs (x.q i)) && !feq (x.q i) f0
def PclIn.tRet (x : PclIn) (k : Nat) : F64 := (x.ret.getD k (f0, 0)).1

/-- The temperature a link imposes on water that enters it (R169). -/
def pclImposed (n : Net) (d : PclDesc) (x : PclIn) (i : Nat) : Option F64 :=
  let l := n.links.getD i default
  let o := (d.links.getD i default).outT
  if !flt f0 (x.q i) then none
  else if o ≠ 0xFFFF then some (vAt x.tin o)
  else if l.kind = 5 then some (x.tRet l.bidx)
  else none

def pclInlet (n : Net) (x : PclIn) (i : Nat) : Nat := if flt f0 (x.q i) then (n.links.getD i default).from_ else (n.links.getD i default).to_
def pclOutlet (n : Net) (x : PclIn) (i : Nat) : Nat := if flt f0 (x.q i) then (n.links.getD i default).to_ else (n.links.getD i default).from_

/-- Substeps of a step of `dt` seconds (R173). -/
def pclNsub (n : Net) (d : PclDesc) (x : PclIn) (dt : F64) : Nat :=
  let need := (List.range n.links.size).foldl (fun k i =>
    let v := (d.links.getD i default).vol
    if x.moves i && flt f0 v then max k (-(fFloor (fneg (fdiv (fmul (fabs (x.q i)) dt) v)))).toNat else k) 1
  min (max need 1) (max x.subMax 1)

/-- Take a volume from the front of a list of parcels: the pieces taken, and what stays (phase 1). -/
def parcelsTake : List (F64 × F64) → F64 → List (F64 × F64) × List (F64 × F64)
  | [], _ => ([], [])
  | p :: t, v =>
    if !flt f0 v then ([], p :: t)
    else if fle p.1 v then
      let (a, b) := parcelsTake t (fsub v p.1)
      (p :: a, b)
    else ([(v, p.2)], (fsub p.1 v, p.2) :: t)

/-- Merge one adjacent pair (phase 6): least difference, then least volume, then lowest position. -/
def parcelsMerge (ps : List (F64 × F64)) : List (F64 × F64) :=
  let pairs := (ps.zip ps.tail).map fun q => (fabs (fsub q.1.2 q.2.2), fadd q.1.1 q.2.1)
  let best := pairs.zipIdx.foldl (fun (b : Option ((F64 × F64) × Nat)) e => match b with
    | none => some e
    | some c => if flt e.1.1 c.1.1 || (feq e.1.1 c.1.1 && flt e.1.2 c.1.2) then some e else b) none
  match best with
  | none => ps
  | some (_, k) =>
    let a := ps.getD k (f0, f0)
    let b := ps.getD (k + 1) (f0, f0)
    let v := fadd a.1 b.1
    ps.take k ++ (v, fdiv (fadd (fmul a.1 a.2) (fmul b.1 b.2)) v) :: ps.drop (k + 2)

/-- Layer advection of one part (R177): from the outlet layer back to the inlet layer, which mixes with the water that
enters. The layers are those of the span, the outlet layer first. -/
def layersMove (vl v tEnter : F64) : List F64 → List F64
  | [] => []
  | t :: rest =>
    let from_ := rest.headD tEnter
    fdiv (fadd (fmul t (fsub vl v)) (fmul from_ v)) vl :: layersMove vl v tEnter rest

/-- One pass of inversion mixing (R178), from the top layer on; whether it mixed. -/
def layersPass : F64 → List F64 → List F64 × Bool
  | a, [] => ([a], false)
  | a, b :: t =>
    if flt a b then
      let m := fdiv (fadd a b) two
      let (r, _) := layersPass m t
      (m :: r, true)
    else
      let (r, c) := layersPass b t
      (a :: r, c)
def layersSettle : Nat → List F64 → List F64
  | 0, xs => xs
  | _ + 1, [] => []
  | k + 1, a :: t => match layersPass a t with
    | (ys, true) => layersSettle k ys
    | (ys, false) => ys

def pclLoss (tg t tau h : F64) : F64 :=
  if feq tau f0 then t else fadd tg (fmul (fsub t tg) (fexp (fneg (fdiv h tau))))

/-- Inflow of the nodes in a substep: volume, and volume times temperature. -/
abbrev Inflow := Vec × Vec
def Inflow.add (a : Inflow) (node : Nat) (v t : F64) : Inflow :=
  (a.1.setIfInBounds node (fadd (vAt a.1 node) v), a.2.setIfInBounds node (fadd (vAt a.2 node) (fmul v t)))

/-- A store's flow (R177): into it at A. -/
def pclStoreQ (n : Net) (x : PclIn) (s : PclStore) (atB : Bool) : F64 :=
  match n.nodes[if atB then s.nodeB else s.nodeA]? with
  | some y => vAt x.qnodes y.bidx
  | none => f0

/-- A substep (R174, phases 1 to 8): the new state and the links it capped. -/
def pclSubstep (n : Net) (d : PclDesc) (x : PclIn) (h : F64) (st : PclState) : PclState × Nat :=
  let m := n.links.size
  let mix := st.mix.toArray
  let vol (i : Nat) : F64 := (d.links.getD i default).vol
  let v (i : Nat) : F64 := fmul (fabs (x.q i)) h
  let capped (i : Nat) : Bool := x.moves i && flt f0 (vol i) && flt (vol i) (v i)
  let flowing (i : Nat) : Bool := x.moves i && flt f0 (vol i) && !capped i
  let pass (i : Nat) : F64 := (pclImposed n d x i).getD (vAt mix (pclInlet n x i))
  -- phase 1
  let e1 := (List.range m).foldl (fun (p : Inflow × Array (List (F64 × F64))) i =>
    if !x.moves i then p
    else if flowing i then
      let fwd := flt f0 (x.q i)
      let ps := p.2.getD i []
      let (out, rest) := parcelsTake (if fwd then ps.reverse else ps) (v i)
      (out.foldl (fun a c => a.add (pclOutlet n x i) c.1 c.2) p.1, p.2.setIfInBounds i (if fwd then rest.reverse else rest))
    else
      (p.1.add (pclOutlet n x i) (v i) (pass i), if capped i then p.2.setIfInBounds i [(vol i, pass i)] else p.2))
    (((vZero n.nodes.size, vZero n.nodes.size) : Inflow), st.parcels.toArray)
  -- phase 2
  let e2 := (List.range d.stores.size).foldl (fun (a : Inflow) j =>
    let s := d.stores.getD j default
    let q := pclStoreQ n x s false
    let inA := flt f0 q
    if feq q f0 then a
    else a.add (if inA then s.nodeB else s.nodeA) (fmul (fabs q) h) (fAt (st.layers.getD j []) (if inA then s.lb else s.la))) e1.1
  -- phase 3
  let e3 := (List.range n.subs.size).foldl (fun (a : Inflow) k =>
    let s := n.subs.getD k default
    if s.mode = 0 then a.add s.ret (fmul (vAt x.subs k) h) (x.tRet k) else a) e2
  let isPort (k : Nat) : Bool := d.stores.any fun s => s.nodeA == k || s.nodeB == k
  let e3 := (List.range n.nodes.size).foldl (fun (a : Inflow) k => match n.nodes[k]? with
    | none => a
    | some y =>
      if y.kind = 5 then
        let net := (List.range m).foldl (fun (z : F64) i =>
          let l := n.links.getD i default
          if l.from_ = k then fadd z (x.q i) else if l.to_ = k then fsub z (x.q i) else z) f0
        if flt f0 net then a.add k (fmul net h) (vAt x.tfix y.bidx) else a
      else if y.bidx != 0xFFFF && !isPort k && flt (vAt x.qnodes y.bidx) f0 then
        a.add k (fmul (fabs (vAt x.qnodes y.bidx)) h) (vAt x.tin y.bidx)
      else a) e3
  -- phase 4
  let wet (k : Nat) : Bool := flt f0 (vAt e3.1 k)
  let mix' := (List.range n.nodes.size).map fun k => if wet k then fdiv (vAt e3.2 k) (vAt e3.1 k) else vAt mix k
  let dry' := (List.range n.nodes.size).map fun k => st.dry.getD k true && !wet k
  -- phases 5, 6
  let ps' := (List.range m).map fun i =>
    let ps := e1.2.getD i []
    if flowing i then
      let new := (v i, (pclImposed n d x i).getD (mix'.getD (pclInlet n x i) f0))
      let qs := if flt f0 (x.q i) then new :: ps else ps ++ [new]
      if (d.links.getD i default).p < qs.length then parcelsMerge qs else qs
    else ps
  -- phase 7
  let ly := (List.range d.stores.size).map fun j =>
    let s := d.stores.getD j default
    let t := st.layers.getD j []
    let q := pclStoreQ n x s false
    if feq q f0 then t
    else
      let inA := flt f0 q
      let lin := if inA then s.la else s.lb
      let lout := if inA then s.lb else s.la
      let tEnter := mix'.getD (if inA then s.nodeA else s.nodeB) f0
      let lo := min lin lout
      let span := (t.drop lo).take (max lin lout - lo + 1)
      let vv := fmul (fabs q) h
      let parts := max 1 (-(fFloor (fneg (fdiv vv s.v)))).toNat
      let part := fdiv vv (fOfNat parts)
      let one (w : List F64) : List F64 := if lout < lin then layersMove s.v part tEnter w else (layersMove s.v part tEnter w.reverse).reverse
      let moved := (List.range parts).foldl (fun w _ => one w) span
      layersSettle (s.n - 1) (t.take lo ++ moved ++ t.drop (lo + span.length))
  -- phase 8
  let ps8 := ps'.zipIdx.map fun p =>
    let l := d.links.getD p.2 default
    p.1.map fun c => (c.1, pclLoss (vAt x.tg l.zone) c.2 l.tau h)
  let ly8 := ly.zipIdx.map fun p =>
    let s := d.stores.getD p.2 default
    p.1.map fun t => pclLoss (vAt x.tg s.zone) t s.tau h
  ({ parcels := ps8, mix := mix', dry := dry', layers := ly8 }, (List.range m).countP capped)

/-- What a step of `dt` seconds makes of a state: the state, NSUB, the links capped. -/
def pclStep (n : Net) (d : PclDesc) (x : PclIn) (dt : F64) (st : PclState) : PclState × Nat × Nat :=
  let k := pclNsub n d x dt
  let h := fdiv dt (fOfNat k)
  let (st', caps) := (List.range k).foldl (fun (p : PclState × Nat) _ =>
    let (a, c) := pclSubstep n d x h p.1
    (a, p.2 + c)) ({ st with dry := st.dry.map fun _ => true }, 0)
  (st', k, caps)

/-- Some store's port flows do not balance (R177). -/
def pclImbal (n : Net) (d : PclDesc) (x : PclIn) : Bool :=
  d.stores.any fun s => fle x.itol (fabs (fadd (pclStoreQ n x s false) (pclStoreQ n x s true)))

/-! Inputs. -/

/-- The return value of a substation is older than RET_AGE (R170). -/
def State.retOld (s : State) (l : LaneId) (k : Nat) : Bool :=
  let L := s.lane l
  let age := L.fld aPclCfg 16 8
  let v := (L.mst.subs.getD k Sub.init).vis
  age != 0 && (v.stamps.getD 4 none).isSome && v.retAt + sU age < s.tb.run

/-- Return temperatures in use, with the flags RET_STALE and RET_DEFAULT (R170). -/
def State.pclRet (s : State) (l : LaneId) (n : Net) (d : PclDesc) : List (F64 × Nat) :=
  (List.range n.subs.size).map fun k =>
    let v := ((s.lane l).mst.subs.getD k Sub.init).vis
    if (v.stamps.getD 4 none).isNone then (d.ret0, 2) else (f32to64 v.tRet, bit (s.retOld l k))

def Lane.wordsF (L : Lane) (a n : Nat) : Vec := ((L.getWords a n).map f32to64).toArray

/-- Everything latched at a step start or a prediction's start (R171, R181). -/
def State.pclInputs (s : State) (l : LaneId) (n : Net) (d : PclDesc) (used : Option PclSet) : PclIn :=
  let L := s.lane l
  let fl (f : PclSet → List F64) (k : Nat) : Vec := match used with
    | some u => (f u).toArray
    | none => vZero k
  { flows := fl (·.flows) n.links.size, subs := fl (·.subs) n.subs.size, qnodes := fl (·.qnodes) n.qnodes,
    tin := L.wordsF 0x400B0100 256, tfix := L.wordsF 0x400B0080 16, tg := L.wordsF 0x400B0040 16, ret := s.pclRet l n d,
    qfloor := f32to64 (L.get 0x400A082C), itol := f32to64 (L.get 0x400A0828), subMax := L.fld aPclCfg 8 8 }

/-! Output (R175, R179). -/

def f32B (v : F64) : Bytes := leBytes 4 (f64to32 v).toNat

/-- Layer temperatures of the stores: 64 values each, unused ones quiet NaN. -/
def pclLayersB (st : PclState) : Bytes :=
  (st.layers.map fun t => ((List.range 64).map fun k => if k < t.length then f32B (fAt t k) else leBytes 4 0x7FC00000).flatten).flatten

/-- An output buffer. -/
def pclOutB (n : Net) (st : PclState) (ret : List (F64 × Nat)) (imbal : Bool) (seq tb flow nsub : Nat) : Bytes :=
  let head := slice (leBytes 4 seq ++ leBytes 4 tb ++ leBytes 4 flow ++ leBytes 1 nsub) 0 64
  let nodes := slice (st.mix.map f32B).flatten 0 (pad64 (4 * n.nodes.size))
  let subs := (List.range n.subs.size).map fun k =>
    let sup := (n.subs.getD k default).sup
    let r := ret.getD k (f0, 0)
    f32B (fAt st.mix sup) ++ f32B r.1 ++ leBytes 4 (r.2 + 4 * bit (st.dry.getD sup true) + 8 * bit imbal) ++ zeros 4
  head ++ nodes ++ subs.flatten ++ pclLayersB st

def Lane.pclBuf (L : Lane) (seq : Nat) : Nat := L.pcl.outAt + (0x32800000 - L.pcl.outAt) / 2 * (seq % 2)

/-- Initialisation of the tracker (R176). -/
def State.pclInit (s : State) (l : LaneId) : State :=
  match (s.lane l).pclDesc with
  | none => s
  | some (n, d) =>
    let mean (k : Nat) : F64 :=
      let ts := ((List.range n.links.size).filter fun i => (n.links.getD i default).from_ == k || (n.links.getD i default).to_ == k).map fun i =>
        (d.links.getD i default).tInit
      fdiv (fsum ts) (fOfNat ts.length)
    let st : PclState := { parcels := d.links.toList.map fun e => List.replicate e.p (fdiv e.vol (fOfNat e.p), e.tInit),
                           mix := (List.range n.nodes.size).map mean, dry := List.replicate n.nodes.size true,
                           layers := d.stores.toList.map fun e => List.replicate e.n e.tInit }
    s.upd l fun L =>
      let dt := L.fld aPclCfg 0 6
      let L1 := { L with pcl := { L.pcl with live := some st, used := none, fed := [], run := none, stale := [],
                                             nextAt := s.next250, dtQ := dt } }
      let L2 := (((L1.put 0x400B0008 0).put 0x400B000C 0).put 0x400B0018 0).putN aPclStat (3 + 8 * bit (L.flag aPclStat 3))
      L2.wrMem 0 L2.pcl.outAt (pclOutB n st (s.pclRet l n d) false 0 s.tb32 0 0)

/-- The fed set a step takes up: the latest that both lanes have completed 1 ms ago (R167). -/
def State.pclTake (s : State) (l : LaneId) : Option PclSet :=
  let theirs := (s.lane (other l)).pcl.fed
  let ready (x : PclSet) : Bool := x.doneAt + msU 1 ≤ s.tb.count && (!s.agrees || theirs.any fun y => y.seq == x.seq && y.doneAt + msU 1 ≤ s.tb.count)
  ((s.lane l).pcl.fed.filter ready).getLast?

/-- A regular step starts in a lane (R167, R171, R172). `take` is the set to take up. -/
def State.pclStart (s : State) (l : LaneId) (take : Option PclSet) : State :=
  match (s.lane l).pcl.live, (s.lane l).pclDesc with
  | some live, some (n, d) =>
    if (s.lane l).pcl.run.isSome then (s.upd l (·.incFld 0x400B001C 16 16)).raise l 0x51
    else
      let s1 := match take with
        | none => s
        | some x => (s.upd l fun L =>
            let L1 := { L with pcl := { L.pcl with used := some x, fed := (L.pcl.fed.dropWhile fun (y : PclSet) => y.seq != x.seq).drop 1 } }
            (L1.putN 0x400B000C (x.tag * 2 ^ 16 + x.scen * 2 ^ 8 + 1)).setFlag aPclStat 2 true).raise l 0x52
      let x := s1.pclInputs l n d (s1.lane l).pcl.used
      let (st, k, caps) := pclStep n d x (fRat (s1.lane l).pcl.dtQ 4) live
      let r : PclRun := { after := st, tb := s1.tb32, nsub := k, courant := caps, imbal := pclImbal n d x, ret := x.ret }
      s1.upd l fun L => { L with pcl := { L.pcl with run := some r, stale := L.pcl.stale.filter (s1.retOld l) } }
  | _, _ => s

/-- What the end of a step leaves in its lane (R179, R173). -/
def Lane.pclDone (L : Lane) (n : Net) (r : PclRun) : Lane :=
  let seq := (L.getN 0x400B0018 + 1) % 2 ^ 32
  let L1 := { L with pcl := { L.pcl with live := some r.after, run := none } }
  let L2 := L1.wrMem 0 (L1.pclBuf seq) (pclOutB n r.after r.ret r.imbal seq r.tb (L.getN 0x400B000C) r.nsub)
  let L3 := (L2.putN 0x400B0018 seq).wrapFld 0x400B0008 0 32
  ((L3.setFld aPclStat 24 8 r.nsub).setFlag aPclStat 4 (r.courant != 0)).setFld 0x400B001C 0 16 (satAdd 16 (L3.fld 0x400B001C 0 16) r.courant)

/-- The step that runs ends in a lane (R179, R173, R177). -/
def State.pclEnd (s : State) (l : LaneId) : State :=
  match (s.lane l).pcl.run, (s.lane l).pclDesc with
  | some r, some (n, _) =>
    let s2 := (s.upd l fun L => L.pclDone n r).raise l 0x50
    let s3 := if r.courant ≠ 0 then s2.raise l 0x53 else s2
    if r.imbal then s3.raise l 0x55 else s3
  | _, _ => s

def execPclStepEnd (s : State) : Out := .next (s.each s.ups fun l s => s.pclEnd l)

/-- A return value that is not older than RET_AGE ends its stale period (R170). -/
def State.retFresh (s : State) (l : LaneId) (k : Nat) : State :=
  if s.retOld l k then s else s.upd l fun L => { L with pcl := { L.pcl with stale := L.pcl.stale.filter (· != k) } }

/-- A return value passes RET_AGE (R170): one event per stale period. -/
def State.retStale (s : State) (l : LaneId) (k : Nat) : State :=
  if !s.retOld l k || (s.lane l).pcl.stale.contains k then s
  else (s.upd l fun L => { L with pcl := { L.pcl with stale := L.pcl.stale ++ [k] } }).raise l 0x54 k
def execRetStale (sub : Fin 4096) (s : State) : Out :=
  let L := s.lane s.act
  let v := L.mst.subs[sub].vis
  let age := L.fld aPclCfg 16 8
  let n := match L.pclDesc with
    | some (n, _) => n.subs.size
    | none => 0
  if age = 0 || n ≤ sub.val || L.pcl.live.isNone || (v.stamps.getD 4 none).isNone then .next s
  else
    let s1 := (s.each s.ups fun l s => s.retFresh l sub).advRun (v.retAt + sU age + 1)
    .next (s1.each s1.ups fun l s => s.retStale l sub)

/-! Predictions (R180-R184). -/

/-- Descriptor checks (R181 order 4). -/
def predDescOk (d : Bytes) : Bool :=
  let trace := (u8At d 1).testBit 0
  u8At d 0 == 0x30 && u8At d 1 < 2 && u32At d 8 % 64 == 0 && u32At d 0xC == 0 && u32At d 0x10 % 64 == 0 && u32At d 0x14 % 8 == 0 &&
  (u32At d 0x10 == 0) == (u32At d 0x14 == 0) && u32At d 0x18 % 4 == 0 && u32At d 0x1C ≤ 21600 && 1 ≤ u8At d 0x20 && u8At d 0x20 ≤ 40 &&
  u8At d 0x21 == 0 && (if trace then u16At d 0x22 != 0 && u32At d 0x24 % 64 == 0 else u16At d 0x22 == 0 && u32At d 0x24 == 0) &&
  f32Fin d 0x28 && fle f0 (f32to64 (f32At d 0x28)) && allAt d 0x2C 20 0

/-- Requester bit of the parcel tracker (R281). -/
def qPcl : Nat := 17

/-- The flows of a prediction's own scenario (R181 order 5): link flows, SUB, QNODE. -/
def State.predFlows [RegIO] (s : State) (l : LaneId) (n : Net) (d : Bytes) :
    State × Sum (Nat × Nat) (Option (List F64 × List F64 × List F64)) :=
  match s.winReads l qPcl [(u32At d 0x10, n.recSize), (u32At d 0x14, n.bndLen)] with
  | (s1, .inl f) => (s1, .inl f)
  | (s1, .inr bs) =>
    let r := bs.getD 0 []
    let b0 := bs.getD 1 []
    let k := u32At b0 0
    if u8At r 0 ≠ scConverged || u32At r 0x38 ≠ n.topoId || 49152 < k then (s1, .inr none)
    else match s1.winRead l qPcl (u32At d 0x14 + n.bndLen) (16 * k) with
      | (s2, .inl f) => (s2, .inl f)
      | (s2, .inr b1) =>
        let b := b0 ++ b1
        (s2, .inr (if !n.bndOk b 1 0 then none
          else some ((vecAt r (64 + 8 * n.nodes.size) n.links.size).toList, (n.bnd b).sub.toList, (n.bnd b).qnode.toList)))

/-- The temperatures in PCL_TIN's place (R181 order 5): none where the descriptor names none. -/
def State.predTin [RegIO] (s : State) (l : LaneId) (d : Bytes) : State × Sum (Nat × Nat) (Option Bytes) :=
  if u32At d 0x18 = 0 then (s, .inr none)
  else match s.winRead l qPcl (u32At d 0x18) 1024 with
    | (s1, .inl f) => (s1, .inl f)
    | (s1, .inr b) => (s1, .inr (some b))

/-- The prediction that runs on the inputs read, `t` in place of the inflow temperatures where the descriptor names some; a value
that is not finite ends it (R181). -/
def predGo (live : PclState) (d : Bytes) (tb : Nat) (x : PclIn) (fl su qn : List F64) (t : Option Bytes) : Sum (Nat × Option (Nat × Nat)) PredRun :=
  let ok := match t with
    | some b => allBelow 256 fun i => f32Fin b (4 * i)
    | none => true
  let tv := match t with
    | some b => (List.range 256).map fun i => f32to64 (f32At b (4 * i))
    | none => x.tin.toList
  if !ok then .inl (stBadInput, none)
  else .inr { desc := d, from_ := live, flows := fl, subs := su, qnodes := qn, tin := tv, tfix := x.tfix.toList, tg := x.tg.toList, ret := x.ret,
              qfloor := x.qfloor, itol := x.itol, subMax := x.subMax, tbStart := tb }

/-- The last input read is that of the inflow temperatures (R181 order 5); none of the flows were usable where `o` is none. -/
def State.predRead [RegIO] (s : State) (l : LaneId) (d : Bytes) (live : PclState) (x : PclIn) (o : Option (List F64 × List F64 × List F64)) :
    State × Sum (Nat × Option (Nat × Nat)) PredRun :=
  match o with
  | none => (s, .inl (stBadInput, none))
  | some (fl, su, qn) => match s.predTin l d with
    | (s1, .inl f) => (s1, .inl (stMemFault, some f))
    | (s1, .inr t) => (s1, predGo live d s.tb32 x fl su qn t)

/-- The inputs that the descriptor names are read, or taken from the tracker's (R181). -/
def State.predReads [RegIO] (s : State) (l : LaneId) (d : Bytes) (live : PclState) (n : Net) (x : PclIn) : State × Sum (Nat × Option (Nat × Nat)) PredRun :=
  if u32At d 0x10 = 0 then s.predRead l d live x (some (x.flows.toList, x.subs.toList, x.qnodes.toList))
  else match s.predFlows l n d with
    | (s1, .inl f) => (s1, .inl (stMemFault, some f))
    | (s1, .inr o) => s1.predRead l d live x o

/-- The prediction a lane starts, or the status that ends it at once (R181), with the fault that did. -/
def State.predOpen [RegIO] (s : State) (l : LaneId) (d : Bytes) : State × Sum (Nat × Option (Nat × Nat)) PredRun :=
  let L := s.lane l
  if u32At d 0x1C = 0 then (s, .inl (stEmpty, none))
  else match L.pcl.live, L.pclDesc with
    | some live, some (n, e) =>
      if s.pastDeadline (u32At d 4) then (s, .inl (stDeadline, none))
      else if !predDescOk d then (s, .inl (stBadDesc, none))
      else
        s.predReads l d live n (s.pclInputs l n e L.pcl.used)
    | _, _ => (s, .inl (stNoNetwork, none))

def State.predBusy (s : State) (l : LaneId) : Bool := (s.lane l).flag aPclStat 3
def Lane.predShow (L : Lane) (busy : Bool) : Lane := (L.setFlag aPclStat 3 busy).setFlag 0x400B0508 31 busy

/-- The descriptor of an accepted START is opened (R181, R182). -/
def State.predDesc [RegIO] (s : State) (l : LaneId) (q : Nat) (d : Bytes) (o : Sum (Nat × Option (Nat × Nat)) PredRun) : State :=
  match o with
  | .inl (st, some f) => (s.winHit l qPcl f).benPlain l 2 q 0x30 (u16At d 2) st (some (u32At d 4))
  | .inl (st, none) => s.benPlain l 2 q 0x30 (u16At d 2) st (some (u32At d 4))
  | .inr r => s.upd l fun L => { L with pcl := { L.pcl with pred := some r } }

/-- An accepted START: its descriptor is read and opened; what does not open ends at once (R180-R182). -/
def State.predTake [RegIO] (s : State) (l : LaneId) (q : Nat) : State :=
  match s.winRead l qPcl ((s.lane l).getN 0x400B0500) 64 with
  | (s1, .inl f) => (s1.winHit l qPcl f).benPlain l 2 q 0x30 0 stMemFault none
  | (s1, .inr d) => let o := s1.predOpen l d; o.1.predDesc l q d o.2

/-- START (R180). -/
def State.predStart [RegIO] (s : State) (l : LaneId) (key : Half) : State :=
  if key ≠ 0x5044 || s.predBusy l then s.refuse l 0x57
  else
    let q := (s.lane l).pcl.predSeq
    (s.upd l fun L => { L.predShow true with pcl := { L.pcl with predSeq := (q + 1) % 65536 } }).ok.predTake l q
def rowPredStart [RegIO] (src : Src) (key : Half) (s : State) : Out := .next (s.perLane src fun l s => s.predStart l key)

/-- Number of the prediction that runs (R157). -/
def Lane.predNo (L : Lane) : Nat := (L.pcl.predSeq + 65535) % 65536

def PredRun.steps (r : PredRun) : Nat := ceilDiv (4 * u32At r.desc 0x1C) (u8At r.desc 0x20)
def PredRun.inputs (r : PredRun) : PclIn :=
  { flows := r.flows.toArray, subs := r.subs.toArray, qnodes := r.qnodes.toArray, tin := r.tin.toArray, tfix := r.tfix.toArray, tg := r.tg.toArray, ret := r.ret,
    qfloor := r.qfloor, itol := r.itol, subMax := r.subMax }

/-- What a prediction accumulates: state, links capped, NSUB, arrival step of each substation, trace rows. -/
structure PredAcc where
  st : PclState
  caps : Nat
  nsub : Nat
  arrived : List (Option Nat)
  rows : List (Nat × Bytes)
deriving Repr

/-- One step of a prediction, the `k`-th from 1 on (R181-R183). -/
def PredRun.step (r : PredRun) (n : Net) (d : PclDesc) (k : Nat) (a : PredAcc) : PredAcc :=
  let (st, ns, caps) := pclStep n d r.inputs (fRat (u8At r.desc 0x20) 4) a.st
  let front := f32to64 (f32At r.desc 0x28)
  let sup (i : Nat) : Nat := (n.subs.getD i default).sup
  let arr := (List.range n.subs.size).map fun i => match a.arrived.getD i none with
    | some m => some m
    | none => if flt f0 front && fle front (fabs (fsub (fAt st.mix (sup i)) (fAt r.from_.mix (sup i)))) then some k else none
  let every := u16At r.desc 0x22
  let rows := if every != 0 && k % every == 0 then
      a.rows ++ [(u32At r.desc 0x24 + (k / every - 1) * pad64 (4 * n.subs.size), ((List.range n.subs.size).map fun i => f32B (fAt st.mix (sup i))).flatten)]
    else a.rows
  { st := st, caps := a.caps + caps, nsub := ns, arrived := arr, rows := rows }

/-- The first `done` steps of a prediction. -/
def PredRun.run (r : PredRun) (n : Net) (d : PclDesc) (done : Nat) : PredAcc :=
  (List.range done).foldl (fun a k => r.step n d (k + 1) a)
    { st := r.from_, caps := 0, nsub := 1, arrived := List.replicate n.subs.size none, rows := [] }

/-- A prediction leaves its lane before its end: the trace rows of the steps it has completed, a free number of them, are written
(R183); the Bool says that a window fault met one. -/
def State.predCut [RegIO] (s : State) (l : LaneId) (r : PredRun) : State × Bool :=
  match (s.lane l).pclDesc with
  | none => (s, false)
  | some (n, d) =>
    let (v, s1) := s.fresh
    (r.run n d (v.toNat % (r.steps + 1))).rows.foldl (fun (p : State × Bool) x => if p.2 then p else p.1.winPut l none qPcl x.1 x.2) (s1, false)

/-- The prediction that runs ends ABORTED (R180, R44); MEM_FAULT where a trace row met a fault before. -/
def State.predStop [RegIO] (s : State) (l : LaneId) : State :=
  match (s.lane l).pcl.pred with
  | none => s
  | some r =>
    let (s1, bad) := s.predCut l r
    (s1.upd l fun L => { L with pcl := { L.pcl with pred := none } }).benPlain l 2 (s.lane l).predNo 0x30 (u16At r.desc 2) (if bad then stMemFault else stAborted)
      (some (u32At r.desc 4))
def State.predAbort [RegIO] (s : State) (l : LaneId) (key : Half) : State := if key ≠ 0x5044 then s.ok else (s.predStop l).ok
def rowPredAbort [RegIO] (src : Src) (key : Half) (s : State) : Out := .next (s.perLane src fun l s => s.predAbort l key)

/-- The prediction ends after `done` steps, all of them or those before the deadline (R183, R184). -/
def State.predEnd [RegIO] (s : State) (l : LaneId) (r : PredRun) (cap : Option Nat) : State :=
  let L := s.lane l
  let s1 := s.upd l fun L => { L with pcl := { L.pcl with pred := none } }
  let st := if cap.isSome then stDeadline else stOk
  let done := match cap with
    | some k => min k r.steps
    | none => r.steps
  match L.pclDesc with
  | none => s1.benPlain l 2 L.predNo 0x30 (u16At r.desc 2) stNoNetwork (some (u32At r.desc 4))
  | some (n, d) =>
    if done = 0 then s1.benPlain l 2 L.predNo 0x30 (u16At r.desc 2) st (some (u32At r.desc 4))
    else
      let a := r.run n d done
      let dt := fRat (u8At r.desc 0x20) 4
      let front := flt f0 (f32to64 (f32At r.desc 0x28))
      let anyStale := r.ret.any fun p => p.2 % 2 == 1
      let fl := bit (done < r.steps || cap.isSome) + 256 * bit (a.caps != 0) + 512 * bit (pclImbal n d r.inputs) + 1024 * bit anyStale
      let recs := (List.range n.subs.size).map fun i =>
        let sup := (n.subs.getD i default).sup
        let arr := a.arrived.getD i none
        let delay := match arr with
          | some k => f32B (fmul (fOfNat k) dt)
          | none => leBytes 4 0x7FC00000
        let f := bit (front && arr.isNone) + 2 * bit (a.st.dry.getD sup true) + 4 * ((r.ret.getD i (f0, 0)).2 % 2)
        f32B (fAt r.from_.mix sup) ++ f32B (fAt a.st.mix sup) ++ delay ++ leBytes 4 f
      let res := u32At r.desc 8
      let hdr := slice (leBytes 1 0x30 ++ leBytes 1 st ++ leBytes 2 (u16At r.desc 2) ++ leBytes 4 done ++ leBytes 4 fl ++ leBytes 2 n.subs.size ++
        leBytes 2 d.stores.size ++ leBytes 8 (fmul (fOfNat done) dt).toNat ++ leBytes 4 r.tbStart ++ leBytes 4 0 ++ leBytes 1 a.nsub) 0 64
      let w : BenWait := { ring := 2, seq := L.predNo, op := 0x30, tag := u16At r.desc 2, own := st, flags := fl, header := hdr, resAddr := res, scen := [],
                           recSize := 0, feed := none, limit := s.benLimit (some (u32At r.desc 4)), failed := false, final := none, wins := none }
      s1.benDecide l w (a.rows ++ [(res + 64, recs.flatten ++ pclLayersB a.st)])

def rowPredEnd [RegIO] (lane : LaneId) (s : State) : Out :=
  match (s.lane lane).pcl.pred with
  | none => .next s
  | some r => .next (s.predEnd lane r none)

/-- A prediction misses its deadline after `steps` completed steps (R184). -/
def rowPredDeadlineMiss [RegIO] (lane : LaneId) (steps : Nat) (s : State) : Out :=
  match (s.lane lane).pcl.pred with
  | none => .next s
  | some r =>
    let wait := diff32 (u32At r.desc 4) s.tb32
    let s1 := if 0 < wait then s.advTo (s.tb.count + nsU wait.toNat) else s
    .next (s1.predEnd lane r (some steps))

/-- Entry to CONFIGURE (R44, R176): a prediction ends ABORTED, the state is discarded. -/
def State.pclConfigure [RegIO] (s : State) (l : LaneId) : State :=
  (s.predStop l).upd l fun L =>
    { L.setFld aPclStat 1 2 0 with pcl := { L.pcl with live := none, used := none, fed := [], run := none, stale := [], pred := none } }

/-- Entry to RETAIN (R44, R176): nothing but the trace rows already due is written. -/
def State.pclRetain [RegIO] (s : State) (l : LaneId) : State :=
  let s1 := match (s.lane l).pcl.pred with
    | some r => (s.predCut l r).1.upd l fun L => (L.putN 0x400B0508 (stAborted * 2 ^ 16 + u16At r.desc 2)).setFlag aPclStat 3 false
    | none => s
  s1.upd l fun L => { L.setFlag aPclStat 1 false with pcl := { L.pcl with run := none, pred := none, live := none } }

/-- Value checks of PCL registers. -/
def pclCheck (name : String) (v : Word) : Bool :=
  match name with
  | "PCL_CFG" => 1 ≤ fieldOf v 8 8 && fieldOf v 8 8 ≤ 64 && 1 ≤ fieldOf v 0 6 && fieldOf v 0 6 ≤ 40
  | "PCL_PRED_ADDR" => true
  | _ => isFinite32 v && fle (fOfInt (-50)) (f32to64 v) && fle (f32to64 v) (fOfNat 200)

end Sys2Proof.Machine
end

