-- ==== Sys2Proof/Machine/Apply.lean ====
section
/-! DEFINITION. Machine/Apply.lean: a register takes a new word (R9, R85, R88): what its unit does at that, and the commit
instant at which staged words apply. -/
namespace Sys2Proof.Machine

/-- A register of a lane takes the word `v`, with what its unit does at that: CHS_CFG stands in the Chest die (18), CTL
(R203, R218), CAN timing (R353), LIMIT (R417), the key slot of the host channel (HCH_CFG), a force entry whose orphan
mark ends with EN or with a new ID (R274), words without a place in the register file (R459, R468). -/
def State.applyWord (s : State) (l : LaneId) (a : Nat) (v : Word) : State :=
  let old := (s.lane l).get a
  let s0 := s.upd l (·.tvClear a)
  let s1 := s0.upd l (·.put a v)
  if a = 0x40160008 then s0.chsWrite l a v
  else if 0x400C0000 ≤ a ∧ a < 0x400D0000 then s1.upd l (·.ctlApplied a)
  else if 0x40111000 ≤ a ∧ a < 0x4011F000 ∧ (a - 0x40111000) % 0x1C00 ≤ 0xC ∧ old ≠ v then
    s1.upd l (·.canChanged (Fin.ofNat 8 ((a - 0x40111000) / 0x1C00)) ((a - 0x40111000) % 0x1C00) old s.tbW)
  else if 0x400E0100 ≤ a ∧ a < 0x400E0500 ∧ a % 0x10 = 4 ∧ s.act = l then
    s1.diUpd (Fin.ofNat 64 ((a - 0x400E0100) / 0x10)) fun d => { d with c := min d.c (fieldOf v 0 16) }
  else if a = 0x40120010 ∧ !bitOf old 0 ∧ bitOf v 0 ∧ s.act = l then s1.prpStart
  else if a = 0x40150000 ∧ fieldOf old 8 5 ≠ fieldOf v 8 5 then s1.hcEnd l
  else if 0x40024000 ≤ a ∧ a < 0x40025000 ∧ a % 0x10 = 0 ∧ !bitOf v 0 then s1.upd l (·.setFlag a 8 false)
  else if 0x40024000 ≤ a ∧ a < 0x40025000 ∧ a % 0x10 = 4 then s1.upd l (·.setFlag (a - 4) 8 false)
  else if (0x40180020 ≤ a ∧ a < 0x40180040) ∨ (0x40190040 ≤ a ∧ a < 0x40190060) then s0.upd l (·.keyStage a v)
  else s1

/-- The instant at which a sealed transaction commits (R88): of the cycle starts of task 0 in RUN, SINGLE and HOLD where the
image defines it, of the 250 us ticks otherwise, the first at least 100 us of elapsed time after the COMMIT, and not before now. -/
def State.commitAt (s : State) (L : Lane) (sealed : Nat) : Nat :=
  let earliest := s.tb.count + (sealed + usU 100 - s.tb.run)
  match s.mode.tR with
  | some tR =>
    if s.running && L.taskDef 0 then
      let first := nsU (tR + 250000 * L.tPhase 0)
      let per := nsU (250000 * L.tPeriod 0)
      if earliest ≤ first then first else first + ceilDiv (earliest - first) per * per
    else tick250 earliest
  | none => tick250 earliest

/-- A Bench job and a DMA descriptor in progress keep the windows that a commit may change (R89). -/
def Lane.holdWins (L : Lane) : Lane :=
  let w := some L.winRegs
  { L with dma := L.dma.map fun c => if c.desc.isSome && c.wins.isNone then { c with wins := w } else c,
           ben := { L.ben with run := L.ben.run.map fun r => if r.wins.isNone then { r with wins := w } else r,
                               wait := L.ben.wait.map fun x => if x.wins.isNone then { x with wins := w } else x } }

/-- The journal of a lane applies: every block takes its words together; a write to a ·P member in it needs no partner
(R88, R95). A standby that has not sealed commits the journal sent to it (R90). -/
def State.commitLane (s : State) (l : LaneId) : State :=
  let L := s.lane l
  let s0 := match L.txn.sent with
    | some x => (s.upd l fun L => L.txnTake x).txnCompare l L.txn.journal x.journal
    | none => s
  let s1 := (s0.lane l).txn.journal.foldl (fun s e => s.applyWord l e.addr e.value) (s0.upd l Lane.holdWins)
  (s1.upd l fun L => (((L.txnClose 1).wrapFld 0x40060010 0 32).put 0x40060014 s1.tbW)).txnEvent l 1

/-- Lanes that commit, each with its instant: in dual running both at the active lane's (R90), otherwise each lane at its own. -/
def State.commits (s : State) : List (Nat × LaneId) :=
  let own (l : LaneId) : Option Nat := match (s.lane l).txn.sealedAt with
    | some t => if (s.lane l).txnState = 2 then some (s.commitAt (s.lane l) t) else none
    | none => none
  if s.dualRun then
    match own s.act with
    | none => []
    | some d => (d, s.act) :: (let P := s.lane (other s.act); if P.txnState = 2 ∨ P.txn.sent.isSome then [(d, other s.act)] else [])
  else s.ups.filterMap fun l => (own l).map fun d => (d, l)
/-- Transactions whose instant has come commit. -/
def State.commitDue (s : State) : State :=
  s.each ((s.commits.filter fun p => p.1 ≤ s.tb.count).map (·.2)) fun l s => s.commitLane l

/-- The commit instant of the earliest sealed transaction; the lanes that sealed with it commit at the same instant. -/
def rowCommitInstant (s : State) : Out :=
  match (s.commits.map (·.1)).min? with
  | none => .next s
  | some d => .next (s.advTo d).commitDue

end Sys2Proof.Machine
end

