-- ==== Sys2Proof/Machine/Load.lean ====
section
/-! DEFINITION. Machine/Load.lean: check 7 of R530 and the load of an image into a lane (03: R72-R78; R307 for CMP). -/
namespace Sys2Proof.Machine

/-- Cross-checks of the CMP drawer (R307). -/
def cmpDrawerOk (ds : List Drawer) : Bool :=
  let d := drOf ds 0x11
  let n := u16At d 0
  let es := (List.range n).map fun i => slice d (32 + 32 * i) 32
  let loops := loopEntries (drOf ds 9)
  let fin (e : Bytes) (o : Nat) : Bool := isFinite32 (f32At e o)
  d.isEmpty || (n ≤ 4096 && d.length == 32 + 32 * n && allAt d 2 30 0 && ((es.map fun e => (u8At e 0, u16At e 2)).Nodup) &&
    es.all fun e =>
      let i := u16At e 2
      u16At e 6 == 0 && allAt e 0x18 8 0 &&
      (match u8At e 0 with
        | 1 => i < 32 && (u8At (drOf ds 0xB) (544 + 8 * i)).testBit 0 && 1 ≤ u8At e 1 && u8At e 1 ≤ 3 && u16At e 4 ≤ 60000 && allAt e 8 16 0
        | 2 => i < 16 && (u8At (drOf ds 0xA) (32 + 96 * i)).testBit 0 && u8At e 1 == 0 && u16At e 4 == 0 && allAt e 8 4 0 &&
            fin e 0xC && fin e 0x10 && fin e 0x14 && fle32 (f32At e 0xC) (f32At e 0x10)
        | 3 => i / 8 < loops.length && i % 8 < loopOut (loops.getD (i / 8) []) && u8At e 1 == 0 && u16At e 4 == 0 &&
            fin e 8 && fle32 0 (f32At e 8) && fin e 0xC && fin e 0x10 && fin e 0x14 && fle32 (f32At e 0xC) (f32At e 0x10)
        | _ => false))

/-- Entries of the PARAM drawer (R77): each address a 32-bit register of blocks 0x01 to 0x1A with an RW field; of the TB and
PMU blocks only in a lane's own drawer (R75). -/
def paramOk (d : Bytes) (laneSpec : Bool) : Bool :=
  d.length % 8 == 0 && d.length / 8 ≤ 65536 && (List.range (d.length / 8)).all fun i =>
    let a := u32At d (8 * i)
    let blk := (a - 0x40000000) / 0x10000
    a % 4 == 0 && 0x40010000 ≤ a && a < 0x401B0000 && (!laneSpec || blk == 0x13 || blk == 0x1A) &&
    (match regAt a with
      | some (r, _, _) => r.rw != 0
      | none => false)

/-- Drawer types whose chapter gives their content format as version 1. -/
def formatOne (typ : Nat) : Bool := [3, 5, 9, 0xA, 0xB, 0xC, 0xD, 0xE, 0xF, 0x10, 0x11, 0x12].contains typ

def segsIn (d : Drawer) : List (Nat × Nat × Nat × Nat) := if d.bytes.isEmpty then [] else if d.typ ≤ 2 then segsOf d.bytes (d.typ == 1) else []

/-- A drawer beside the others of its image passes the cross-checks of its owning chapter (R73, R74); `enc` are the key slots
of encrypted drawers. -/
def drawerOk (ds : List Drawer) (enc : List Nat) (d : Drawer) : Bool :=
  let td := drOf ds 3
  let task := taskEntryOf td d.inst
  let eng : Nat := (task.map fun e => u16At e 8).getD 0
  let others := ds.filter fun x => x.typ != d.typ || x.inst != d.inst
  let segs := segsIn d
  let apart := allPairs segsApart segs && segs.all fun x => others.all fun y => (segsIn y).all (segsApart x)
  let reg (r : Nat × Nat × Nat) : Nat × Nat × Nat × Nat := (r.1, r.2.1, 0, r.2.2)
  let topo := drOf ds 6
  let pmp := pmpOk (pmpRuns (drOf ds 1 d.inst) true) (pmpRuns (drOf ds 2 d.inst) false)
  let nSubs := if topo.isEmpty then 0 else u16At topo 4
  match d.typ with
  | 1 => task.isSome && codeDrawerOk d.bytes eng && apart && pmp
  | 2 => task.isSome && dataDrawerOk d.bytes eng && apart && pmp
  | 3 => taskDrawerOk d.bytes && destsOk ds && (!(drOf ds 0x0C).isEmpty || canBindsOk ds) && allBelow 8 fun t =>
      (bindingsOf d.bytes t).all (bindingOk ds t) && bindingBytesOk d.bytes t && (match taskEntryOf d.bytes t with
        | some e => windowOk (u16At e 6) (u16At e 2) (mirrorBytes (if (drOf ds 5 t).isEmpty then [] else mirrorRegs (drOf ds 5 t)))
        | none => true)
  | 4 => task.isSome && mapDrawerOk d.bytes && mapIdsOk ds
  | 5 => task.isSome && windowsOk td (fun t => if (drOf ds 5 t).isEmpty then 0 else mirrorBytes (mirrorRegs (drOf ds 5 t))) && mirrorOk d.bytes eng (if (drOf ds 2 d.inst).isEmpty then [] else segsOf (drOf ds 2 d.inst) false) &&
      (d.bytes.isEmpty || (allPairs segsApart ((mirrorRegs d.bytes).map reg) && (mirrorRegs d.bytes).all fun r =>
        (others.filter fun x => x.typ == 5 && !x.bytes.isEmpty).all fun x => (mirrorRegs x.bytes).all fun q => segsApart (reg r) (reg q)))
  | 6 => d.bytes.isEmpty || topoDrawerOk d.bytes
  | 7 => d.bytes.isEmpty || (!topo.isEmpty && pipeDrawerOk topo d.bytes)
  | 8 => d.bytes.isEmpty || (!topo.isEmpty && storeDrawerOk topo d.bytes)
  | 9 => loopDrawerOk ds
  | 0xA => axisDrawerOk d.bytes (fun t => (taskEntryOf td t).isSome) (loopAxisNames ds)
  | 0xB => dioDrawerOk d.bytes
  | 0xC => canDrawerOk ds
  | 0xD => mstDrawerOk ds nSubs
  | 0xE => mtrDrawerOk ds
  | 0xF => thqDrawerOk ds
  | 0x10 => recDrawerOk ds
  | 0x11 => cmpDrawerOk ds
  | 0x12 => keyrefDrawerOk ds enc
  | _ => true

/-- The same with its manifest entry: FORMAT, and R77 for PARAM. -/
def entryOk (ds : List Drawer) (enc : List Nat) (x : Bytes × Drawer) : Bool :=
  (!formatOne x.2.typ || x.2.bytes.isEmpty || entFmt x.1 == 1) &&
  (if x.2.typ = 0x13 then paramOk x.2.bytes (entFlag x.1 2) else drawerOk ds enc x.2)

/-- A CODE, DATA, MAP or MIRROR drawer whose task no TASK drawer defines: that fails the image, OPTIONAL or not (R73). -/
def taskless (ds : List Drawer) (d : Drawer) : Bool := [1, 2, 4, 5].contains d.typ && (taskEntryOf (drOf ds 3) d.inst).isNone
/-- OPTIONAL drawers that fail their cross-check are left out, the first in manifest order first, as long as one fails (R74).
PARAM entries (R77) and drawers without their task (R73) are never skipped. -/
def skipBad (enc : List Nat) : Nat → List (Bytes × Drawer) → List (Bytes × Drawer)
  | 0, xs => xs
  | n + 1, xs =>
    let ds := xs.map (·.2)
    match indexOf (fun x => entFlag x.1 0 && x.2.typ != 0x13 && !taskless ds x.2 && !entryOk ds enc x) xs with
    | none => xs
    | some i => skipBad enc n (xs.eraseIdx i)

/-- What a lane would load of an image (R75, R76): its entries, with the content after decryption. A LANE_SPEC PARAM drawer's
addresses are checked by the lane that loads it (DESIGN CHOICE, R75 does not say which lane checks them; log 48). -/
def Lane.imgBodies (L : Lane) (l : LaneId) (rd : ImgRd) : List (Bytes × Option Drawer) :=
  ((manAll rd).filter fun e => !entFlag e 2 || entFlag e 3 == (l == .b)).map fun e =>
    (e, (L.drawerBytes 2 rd e).map fun b =>
      { typ := entTyp e, inst := entInst e, flags := entFlags e, source := 0, digest := entDigest e, bytes := b : Drawer })

/-- Check 7 of R530 in one lane, drawer by drawer in manifest order: the code of the first failure, or the drawers with the
number of those skipped. -/
def Lane.loadPlan (L : Lane) (l : LaneId) (rd : ImgRd) : Sum Nat (List Drawer × Nat) :=
  let bodies := L.imgBodies l rd
  let enc := (manAll rd).filterMap fun e => if entFlag e 4 && entLen e != 0 then some (entKey e) else none
  let have_ := bodies.filterMap fun p => p.2.map fun d => (p.1, d)
  let kept := skipBad enc have_.length have_
  let ds := kept.map (·.2)
  let code (p : Bytes × Option Drawer) : Option Nat := match p.2 with
    | none => some 7
    | some d => if kept.contains (p.1, d) && !entryOk ds enc (p.1, d) then some 3 else none
  match (bodies.filterMap code).head? with
  | some c => .inl c
  | none => if keyrefDrawerOk ds enc then .inr (ds, have_.length - kept.length) else .inl 3

/-- Addresses of the registers that a drawer sets, as ranges. -/
def drawerRegs : List (Nat × Nat) :=
  (List.range 16).map (fun a => (aAx a 0x18, aAx a 0x38)) ++ (List.range 16).map (fun a => (aAx a 0x3C, aAx a 0x40)) ++
  ((List.range 8).map fun c => [(aCan c 0, aCan c 0x10), (aCan c 0x100, aCan c 0x300), (aCan c 0x400, aCan c 0x500)]).flatten ++
  (List.range 8).map (fun t => (aT t 0, aT t 0xC)) ++
  (List.range 64).map (fun i => (aDi i, aDi i + 8)) ++ (List.range 32).map (fun j => (aDq j, aDq j + 4)) ++
  [(0x40090040, 0x40090060), (0x40140000, 0x4014000C), (0x40141000, 0x40145000), (0x400F0000, 0x400F0004),
   (0x400F0100, 0x400F0800), (0x40100000, 0x40100004), (0x40100100, 0x40100900)]
/-- A register file with the registers of some ranges back at their reset values. -/
def rfCut (rf : List (Nat × Word)) (ps : List (Nat × Nat)) : List (Nat × Word) := ps.foldl (fun rf p => spErase rf p.1 p.2) rf

/-- Registers that a drawer sets go back before the drawers of an image are taken. The engines are idle; a locked one stays locked
(R294). -/
def Lane.loadClear (L : Lane) : Lane :=
  { L with rf := rfCut L.rf drawerRegs,
           tasks := Vector.replicate 8 Task.init, engines := L.engines.map fun g => { g with cur := none, stack := [], waiting := [] }, published := [],
           can := L.can.map fun c => { c with marks := [], reint := false, held := none } }

/-- The blocks take what the drawers of the lane's image say, each from its reset values; without an image every feature is unused
and the tracker and network mode are unavailable (R73, R82). -/
def Lane.takeDrawers (L : Lane) (now : Nat) : Lane :=
  ((((((((L.taskLoad.axLoad).dioLoad).canLoad).mstLoad).meterLoad now).ctlLoad).netLoad).pclLoad).recLoad

/-- PARAM entries apply in drawer order, past the journal and the pair rule, to the RW bits (R78). CHS_PROT acts on the
Chest die (R435); a ring register restarts its ring. -/
def State.paramApply (s : State) (l : LaneId) : State :=
  let d := (s.lane l).dr 0x13
  (List.range (d.length / 8)).foldl (fun s i =>
    let a := u32At d (8 * i)
    let v : Word := BitVec.ofNat 32 (u32At d (8 * i + 4))
    if a = 0x4016000C then
      let c := s.chest
      { s with chest := { c with prot := if c.lock then c.prot else Fin.ofNat 4 (fieldOf v 0 2), lock := c.lock || bitOf v 31 } }
    else match regAt a with
      | none => s
      | some (r, _, _) =>
        let m := BitVec.ofNat 32 r.rw
        let s1 := s.applyWord l a (((s.lane l).get a &&& ~~~ m) ||| (v &&& m))
        if 0x400A0100 ≤ a ∧ a < 0x400A0180 then s1.upd l fun L => L.ringRestart (if a < aRing 1 0 then 0 else 1) s.tb.run else s1) s

/-- An image is loaded into a lane (R58 steps 9 and 10, R80): drawers, programs, registers, PARAM last. -/
def State.loadLane (s : State) (l : LaneId) (img : LoadedImg) (chestToo : Bool) : State :=
  let s1 := s.upd l fun L =>
    let L0 := { L.loadClear with img := some img, olc := { OlcUnit.init with runDigest := img.digest } }
    let L1 := L0.putWords 0x40060120 ((List.range 8).map fun i => img.digest.extractLsb' (32 * i) 32)
    let L2 := ((((L1.setFlag 0x40060108 30 true).setFlag 0x40060108 29 (img.slot == 1)).put aOlcStat 0).put aOlcSeq 0).olcDigest img.digest
    L2.takeDrawers s.tb.run
  (s1.loadPrograms l chestToo).paramApply l

/-- Load into every lane of a list (R80, R82): each lane's check 7 must pass; the code of the first that fails. Chest
segments are written once. -/
def State.loadAll (s : State) (ls : List LaneId) (slot : Fin 2) (rd : ImgRd) (anchor : Nat) (fallback chestToo : Bool) : State × Nat :=
  let plans := ls.map fun l => (l, (s.lane l).loadPlan l rd)
  match (plans.filterMap fun p => match p.2 with | .inl c => some c | .inr _ => none).head? with
  | some c => (s, c)
  | none =>
    let s1 := { s with field := { s.field with di := s.field.di.map fun d => { d with cnt := 0 } } }
    (plans.foldl (fun s p => match p.2 with
      | .inl _ => s
      | .inr (ds, skipped) =>
        s.loadLane p.1 { slot := slot, digest := cabinetDigest rd, anchor := anchor, autoRun := (u32At (rd 0x24 4) 0).testBit 0,
                         fallback := fallback, skipped := skipped, fresh := true, drawers := ds } (chestToo && ls.head? == some p.1)) s1, 1)

/-- The loaded image is no longer one (R82): nothing is configured from it any more. -/
def Lane.unload (L : Lane) (now : Nat) : Lane :=
  ({ (L.loadClear.setFlag 0x40060108 30 false).putWords 0x40060120 (List.replicate 8 0) with img := none }).takeDrawers now

end Sys2Proof.Machine
end

