-- ==== Sys2Proof/Machine/Pmu.lean ====
section
/-! DEFINITION. Machine/Pmu.lean: the pace monitor (01: R21-R24), supply feeds, sprint and thermal limits (22: R500-R509)
and the event queues' pop (R497). -/
namespace Sys2Proof.Machine

def aPmuStat : Nat := 0x401A0000
def aPmuTemp : Nat := 0x401A0008
def aPaceStat : Nat := 0x40000048

/-- A pace window ends (R21, R24): PACE is a quarter of the count, rounded down. The second of two low windows, and each low
window behind it, finds LOW: where it is 0 it is set, with the health bit and the event. -/
def execPaceWindowEnd (lane : LaneId) (steps : Nat) (s : State) : Out :=
  let pace := min (steps / 4) 0xFFFF
  let low := if pace < 600 then min 2 ((s.lane lane).lowWindows + 1) else 0
  let s1 := s.upd lane fun L =>
    let L1 := ((L.setFld 0x40000040 0 16 pace).wrapFld 0x40000040 16 12).setFlag aPaceStat 2 true
    { L1.setFld 0x4000004C 0 16 (min (L1.fld 0x4000004C 0 16) pace) with lowWindows := low }
  if low = 2 ∧ !(s.lane lane).flag aPaceStat 0 then .next (((s1.upd lane fun L => (L.setFlag aPaceStat 0 true).tvClear aPaceStat).raise lane 0x02).setHealth lane 2)
  else .next s1

def State.paceMinClr (s : State) (l : LaneId) : State := (s.upd l (·.setFld 0x4000004C 0 16 0xFFFF)).ok
def execPaceMinClr (src : Src) (s : State) : Out := .next (s.perLane src fun l s => s.paceMinClr l)

/-- EVT_Q_POP in one lane (R497): bit 0 removes the head record; a queue with room reports a later overflow again. -/
def State.evtPop (s : State) (l : LaneId) (e : Fin 16) (data : Word) : State :=
  if bitOf data 0 then
    (s.upd l fun L =>
      let q := L.evt.q[e]
      { L with evt := { L.evt with q := L.evt.q.set e q.tail,
                                   ovf := if q.isEmpty then L.evt.ovf else L.evt.ovf &&& ~~~ BitVec.ofNat 16 (2 ^ e.val) } }).ok
  else s.ok
def execEvtQPop (src : Src) (engine : Fin 16) (data : Word) (s : State) : Out :=
  .next (s.perLane src fun l s => s.evtPop l engine data)

/-- A feed is lost (R502): OK clears, FEED_LOSS counts, EV_PMU_FEED. Nothing else changes. -/
def execFeedLost (feed : Fin 2) (s : State) : Out :=
  let ok := if feed = 0 then s.supply.paOk else s.supply.pbOk
  if !ok then .next s
  else
    let s1 := { s with supply := if feed = 0 then { s.supply with paOk := false } else { s.supply with pbOk := false } }
    let s2 := s1.updBoth (·.incFld 0x401A0018 0 16)
    .next (s2.raiseUp 0xF8 feed.val 1)

/-- A feed is restored (R502). In RETAIN one restored feed is power good (R505), from which HOLDUP_OK reads 0 (R501). -/
def execFeedRestored (feed : Fin 2) (s : State) : Out :=
  let ok := if feed = 0 then s.supply.paOk else s.supply.pbOk
  if ok then .next s
  else
    let s1 := { s with supply := if feed = 0 then { s.supply with paOk := true } else { s.supply with pbOk := true } }
    let s2 := if s.mode.mode = .retain ∧ !s.supply.feedsBack then
        { s1 with supply := { s1.supply with feedsBack := true, good := true, holdupOk := false } } else s1
    .next (s2.raiseUp 0xF8 feed.val 2)

/-- The hold-up bank is charged (R501). -/
def execHoldupCharged (s : State) : Out := .next { s with supply := { s.supply with holdupOk := true } }

/-- The lane is at or above the sprint point's supply, or on its way to or from it. -/
def Lane.sprintBusy (L : Lane) : Bool := L.sprint.above || L.sprint.entry.isSome || L.sprint.step.isSome

/-- Sprint seconds left (R507). -/
def Lane.budget (L : Lane) : Nat := L.fld aPmuStat 24 8

/-- ENTER (R506): STOP, RUN, SINGLE, HOLD or SAFE, back plate at or below 50 °C, 1 s of budget in every running lane, no
lane sprinting. Lane A reaches the point at the next tick, lane B 1 ms later; a lane alone at the tick. -/
def State.sprintEnter (s : State) (key : Half) : State :=
  if key ≠ 0x5350 then s.ok
  else
    let modeOk := s.roleMode || s.mode.mode == .stop
    let plate := signed 16 ((s.lane s.act).fld aPmuTemp 0 16)
    let ups := s.ups
    if modeOk && decide (plate ≤ 500) && ups.all (fun l => decide (1 ≤ (s.lane l).budget) && !(s.lane l).sprintBusy) then
      let t := s.next250
      (s.each ups fun l s => s.upd l fun L => { L with sprint := { L.sprint with entry := some (if l == .b && ups.length == 2 then t + msU 1 else t) } }).ok
    else (s.raiseUp 0xFA).busErr

def execSprintEnter (src : Src) (key : Half) (s : State) : Out :=
  .next (s.joined src 0x401A0010 (BitVec.ofNat 32 (key.toNat * 0x10000 + 1)) fun s => s.sprintEnter key)

/-- A lane starts to leave the sprint point, or drops an entry not yet reached (R508). -/
def State.sprintLeave (s : State) (l : LaneId) (reason : Nat) : State :=
  s.upd l fun L =>
    if L.sprint.step.isSome then L
    else if L.sprint.above then { L with sprint := { L.sprint with step := some (s.tb.count, 3, reason), entry := none } }
    else { L with sprint := { L.sprint with entry := none } }

def State.sprintLeaveCmd (s : State) (key : Half) : State :=
  if key ≠ 0x5350 then s.ok else (s.each s.ups fun l s => s.sprintLeave l 1).ok

def execSprintLeave (src : Src) (key : Half) (s : State) : Out :=
  .next (s.joined src 0x401A0010 (BitVec.ofNat 32 (key.toNat * 0x10000 + 2)) fun s => s.sprintLeaveCmd key)

/-- The lane reaches the sprint point (R506). -/
def execSprintPointReached (lane : LaneId) (s : State) : Out :=
  match (s.lane lane).sprint.entry with
  | none => .next s
  | some due =>
    let s1 := (s.advTo due).upd lane fun L =>
      let L1 := ((L.setFlag aPaceStat 1 true).setFlag aPmuStat 4 true).incFld 0x401A0018 16 16
      { L1 with sprint := { L1.sprint with entry := none, above := true, touched := true } }
    .next (s1.raise lane 0x03)

/-- One step of 0.86 V, 0.82 V, 0.78 V, 1 ms apart; the last ends the sprint (R508). -/
def execSprintStepDown (lane : LaneId) (s : State) : Out :=
  match (s.lane lane).sprint.step with
  | none => .next s
  | some (due, left, reason) =>
    let s1 := s.advTo due
    if 1 < left then .next (s1.upd lane fun L => { L with sprint := { L.sprint with step := some (due + msU 1, left - 1, reason) } })
    else
      let s2 := s1.upd lane fun L =>
        let L1 := ((L.setFlag aPaceStat 1 false).setFlag aPmuStat 4 false).setFld aPmuStat 8 3 reason
        { L1 with sprint := { L1.sprint with step := none, above := false } }
      .next (s2.raise lane 0x04 0 reason)

/-- A 1 s bin ends (R507): it counts when the lane spent any of it above 0.78 V. A budget of 0 ends the sprint (R508). -/
def execSprintBudgetBin (lane : LaneId) (s : State) : Out :=
  let s0 := s.advRun ((s.lane lane).sprint.binAt + sU 1)
  let s1 := s0.upd lane fun L =>
    let bins := (L.sprint.touched :: L.sprint.bins).take 600
    let L1 := { L with sprint := { L.sprint with bins := bins, touched := L.sprint.above, binAt := L.sprint.binAt + sU 1 } }
    L1.setFld aPmuStat 24 8 (120 - bins.count true)
  .next (if (s1.lane lane).budget = 0 ∧ (s1.lane lane).sprint.above then s1.sprintLeave lane 2 else s1)

/-- The lane's junction is measured; 105 °C ends its sprint (R508). -/
def execJunctionLimit (lane : LaneId) (tenths : Half) (s : State) : Out :=
  let s1 := s.upd lane (·.setFld aPmuTemp 16 16 tenths.toNat)
  .next (if 1050 ≤ tenths.toInt ∧ (s1.lane lane).sprint.above then s1.sprintLeave lane 3 else s1)

/-- TEMP_HIGH follows the back plate across WARN with 2 °C of hysteresis (R509). -/
def State.tempHigh (s : State) (l : LaneId) : State :=
  let L := s.lane l
  let t := signed 16 (L.fld aPmuTemp 0 16)
  let warn : Int := (L.fld 0x401A0014 0 8 : Int) * 10
  if warn < t ∧ !L.flag aPmuStat 2 then (s.upd l (·.setFlag aPmuStat 2 true)).raise l 0xF9 0 1
  else if t < warn - 20 ∧ L.flag aPmuStat 2 then (s.upd l (·.setFlag aPmuStat 2 false)).raise l 0xF9 0 2
  else s

/-- The back plate is measured: above 60 °C it ends the sprint of both lanes, and an entry not yet reached (R508); TEMP_HIGH follows it
(R509). -/
def State.backplate (s : State) (tenths : Half) : State :=
  let s1 := s.updBoth (·.setFld aPmuTemp 0 16 tenths.toNat)
  let s2 := if 600 < tenths.toInt then s1.each s1.ups fun l s => s.sprintLeave l 4 else s1
  s2.each s2.ups fun l s => s.tempHigh l
def execBackplateLimit (tenths : Half) (s : State) : Out := .next (s.backplate tenths)
def execBackplateWarnCross (tenths : Half) (s : State) : Out := .next (s.backplate tenths)

end Sys2Proof.Machine
end

