-- ==== Sys2Proof/Machine/Modes.lean ====
section
/-! DEFINITION. Machine/Modes.lean: mode changes, what each unit does at them, mode commands, power-fail and RETAIN
(02: R42-R51, R64; 18: R430; 22: R503-R505). -/
namespace Sys2Proof.Machine

/-! What a change does to the units of a lane and to the shared dies. -/

/-- Tasks with a cycle in progress are cut (R46, R289, R433, R438), then every task rests. -/
def State.tasksCut [RegIO] (s : State) (l : LaneId) : State :=
  let s1 := (List.finRange 8).foldl (fun (s : State) (t : Fin 8) =>
    if (s.lane l).taskDef t && (s.lane l).tBusy t then ((s.dmaAbortTask l t).chestStopped l t).grpDiscardTask t else s) s
  s1.upd l (·.tasksEnd)

/-- The mode logic forgets what belongs to a run. -/
def State.runOver (s : State) : State :=
  if s.running then s else { s with mode := { s.mode with held := none, tR := none }, twins := [] }

/-- Entry to STOP in a lane: after a boot or a LOAD counters, tracker and slot references start (R176, R413, R466), the
recorder begins (R448, R454), and events report how the image was loaded (R60, R74). -/
def State.laneStop (s : State) (l : LaneId) : State :=
  let L := s.lane l
  let first := match L.img with
    | some g => g.fresh
    | none => false
  let s1 := if first then s.countersRestore l else s
  let s2 := if first || (s1.lane l).pcl.live.isNone then s1.pclInit l else s1
  let s3 := ((s2.keyRefs l).recEnter l).upd l fun L => { L with img := L.img.map fun g => { g with fresh := false } }
  match L.img with
  | some g =>
    let s4 := if first && g.fallback then s3.raise l 0x05 else s3
    if first then (List.range g.skipped).foldl (fun s _ => s.raise l 0x07) s4 else s4
  | none => s3

/-- Entry to CONFIGURE in a lane (R44, R92, R260, R277, R382, R437, R454, R478, R498). -/
def State.laneConfigure [RegIO] (s : State) (l : LaneId) : State :=
  let s1 := ((s.txnDiscard l).pclConfigure l).benConfigure l
  let s2 := (s1.dmaAbortIf l fun _ _ => true).upd l fun L =>
    let L1 := L.grpDropIf fun _ => true
    ({ L1.recLeave with rf := spErase L1.recLeave.rf 0x40024000 0x40025000 } : Lane).thqPause
  s2.ptpEnd l

/-- Entry to RETAIN in a lane (R44, R92, R289, R385, R431, R455): it halts. -/
def State.laneRetain [RegIO] (s : State) (l : LaneId) : State :=
  let s1 := ((s.txnDiscard l).dmaAbortIf l fun _ _ => true).ptpEnd l
  (s1.pclRetain l).upd l fun L => (L.benRetain s.tb.run).recLeave

/-- The engine event queues are emptied (R497). -/
def Lane.evtEmpty (L : Lane) : Lane := { L with evt := { L.evt with q := Vector.replicate 16 [], ovf := 0 } }
/-- What ends at a change of mode before the mode shows: event queues and a resynchronisation at CONFIGURE. -/
def State.enterShow (s : State) (m : Mode) : State :=
  let from_ := s.mode.mode
  let s0 := if m == .configure then s.updBoth Lane.evtEmpty else s
  ((if m == .configure || m == .retain then s0.resyncFail 6 else s0).setMode m).updBoth fun L => L.keyMode from_ m
/-- Tasks, loops, axes, channels and links of the lanes at a change of mode. -/
def State.enterUnits [RegIO] (s : State) (ls : List LaneId) (m : Mode) : State :=
  ((((s.each ls fun l s => (s.tasksCut l).loopsMode l m).runOver).axMode m).canMode m).each ls fun l s => s.olcMode l m
/-- STOP, SAFE, CONFIGURE and RETAIN: the outputs and what each lane does. -/
def State.enterStop (s : State) (ls : List LaneId) (from_ : Mode) : State :=
  let s4 := if from_ == .reset || from_ == .configure then s.diStart else s
  let s5 := s4.dqKeepPub (from_ == .run || from_ == .single || from_ == .hold)
  (s5.dqApply s5.dqStopImage).each ls fun l s => s.laneStop l
def State.enterConfigure [RegIO] (s : State) (ls : List LaneId) (from_ : Mode) : State :=
  let s4 := s.dqAllOff.each ls fun l s => (s.laneConfigure l).sprintLeave l 5
  if from_ == .reset then s4 else s4.each ls fun l s => s.hcEnd l
def State.enterRetain [RegIO] (s : State) (ls : List LaneId) : State := s.dqAllOff.each ls fun l s => (s.laneRetain l).sprintLeave l 5

/-- A mode takes effect, with what every unit does at it (R42-R47). Changes among RUN, SINGLE and HOLD touch only the mode:
their tasks go on. -/
def State.enter [RegIO] (s : State) (m : Mode) : State :=
  let s1 := s.enterShow m
  let s3 := s1.enterUnits s.ups m
  match m with
  | .run => s1
  | .single => s1
  | .hold => s1
  | .stop => s3.enterStop s.ups s.mode.mode
  | .safe => (s3.dqKeepPub s.running).dqApply s3.dqSafeImage
  | .configure => s3.enterConfigure s.ups s.mode.mode
  | .retain => s3.enterRetain s.ups
  | .reset => s3.dqAllOff

/-! Mode commands (R49-R51). -/

/-- An accepted change (R50). -/
def State.accept (s : State) (m : Mode) (task : Fin 8) (due : Nat) (cmd : Bool := true) : State :=
  { s with mode := { s.mode with pend := some { target := m, task := task, due := due, cmd := cmd } } }

/-- A lane with a verified image, and one that is healthy as well (R45). -/
def State.verified (s : State) (l : LaneId) : Bool := s.isUp l && (s.lane l).img.isSome
def State.healthy (s : State) (l : LaneId) : Bool := s.verified l && !s.sick l && (s.red.condemned.map (·.1)) != some l

/-- t_R of a run accepted now: the first 250 us tick at least 1 ms later (R246). -/
def State.runAt (s : State) : Nat := tick250 (s.tb.count + msU 1)

/-- The next grid instant of a task, strictly after now (R45, R246). -/
def State.boundary (s : State) (t : Fin 8) : Nat :=
  let L := s.lane s.act
  let first := nsU (s.mode.tR.getD 0 + 250000 * L.tPhase t)
  let per := max 1 (nsU (250000 * L.tPeriod t))
  if s.tb.count < first then first else first + ((s.tb.count - first) / per + 1) * per

/-- A mode command with its key (R51): one command of the module (R531). -/
def State.modeCmd (s : State) (src : Src) (key : Half) (low : Nat) (f : State → State) : State :=
  s.joined src 0x40000008 (BitVec.ofNat 32 (key.toNat * 2 ^ 16 + low)) fun s =>
    if (s.lanesOf src).isEmpty then s.busErr
    else if key ≠ 0x4D4F then (s.modeRefused 5).ok
    else (f s).ok

/-- No other command while a change is pending (R50). -/
def State.whenIdle (s : State) (f : State → State) : State := if s.mode.pend.isSome then s.modeRefused 2 else f s

/-- STOP: from CONFIGURE with a verified image, once the lanes have configured the shared dies; from RUN, SINGLE, HOLD and
SAFE at the next 250 us tick. -/
def State.cmdStop (s : State) : State :=
  s.whenIdle fun s =>
    if s.mode.mode == .configure then (if s.ups.any s.verified then s.accept .stop 0 s.tb.count else s.modeRefused 3)
    else if s.roleMode then s.accept .stop 0 s.next250
    else s.modeRefused 1
def execModeCmdStop (src : Src) (key : Half) (s : State) : Out := .next (s.modeCmd src key 2 State.cmdStop)

def State.cmdConfigure (s : State) : State :=
  s.whenIdle fun s => if s.mode.mode == .stop then s.accept .configure 0 s.next250 else s.modeRefused 1
def execModeCmdConfigure (src : Src) (key : Half) (s : State) : Out := .next (s.modeCmd src key 1 State.cmdConfigure)

/-- RUN: from STOP, or back from HOLD at the held task's next period boundary. -/
def State.cmdRun (s : State) : State :=
  s.whenIdle fun s =>
    if s.mode.mode == .stop then
      (if !s.ups.any s.verified then s.modeRefused 3
       else if !s.ups.any s.healthy then s.modeRefused 4
       else s.accept .run 0 s.runAt)
    else match s.mode.mode, s.mode.held with
      | .hold, some t => s.accept .run t (s.boundary t)
      | _, _ => s.modeRefused 1
def execModeCmdRun (src : Src) (key : Half) (s : State) : Out := .next (s.modeCmd src key 3 State.cmdRun)

/-- HOLD of a task at its next cycle boundary. -/
def State.cmdHold (s : State) (task : Fin 8) : State :=
  s.whenIdle fun s =>
    if !(s.mode.mode == .run || s.mode.mode == .single) then s.modeRefused 1
    else if !(s.lane s.act).taskDef task then s.modeRefused 6
    else s.accept .hold task (s.boundary task)
def execModeCmdHold (src : Src) (key : Half) (task : Fin 8) (s : State) : Out :=
  .next (s.modeCmd src key (16 * task.val + 5) (·.cmdHold task))

/-- SAFE replaces a pending command (R50). In SAFE and CONFIGURE it is no transition of R45's table: refused NOT_PERMITTED even
while STOP is pending there, which goes on (DESIGN CHOICE: R50 lets SAFE replace any pending command, R45 has no such
transition; log 42). -/
def State.cmdSafe (s : State) : State := if s.running || s.mode.mode == .stop then s.askSafe true else s.modeRefused 1
def execModeCmdSafe (src : Src) (key : Half) (s : State) : Out := .next (s.modeCmd src key 6 State.cmdSafe)

/-- RESET, SINGLE, RETAIN and codes without a mode are not commandable. -/
def execModeCmdNotCommandable (src : Src) (key : Half) (target : Fin 16) (s : State) : Out :=
  .next (s.modeCmd src key target fun s => s.modeRefused 1)

/-! Changes take effect. -/

/-- One task is held, or goes on, in a lane: HOLD ends its cycle without publishing (R253). A STOPPED task stays so. -/
def State.holdTask (s : State) (l : LaneId) (t : Fin 8) : State :=
  if (s.lane l).tState t = 5 then s
  else
    let s1 := if (s.lane l).tBusy t then s.chestStopped l t else s
    ((s1.upd l fun L => ((L.engDropAll t).setTState t 4).taskUpd t fun T =>
      { T with finished := none, faulted := false, image := [], running := 0, stepReq := false, suspended := false, axisWr := [] }).raise l 0x26 t).ctxCheck
def Lane.unholdTask (L : Lane) (t : Fin 8) : Lane := if L.tState t = 4 then L.setTState t 1 else L

/-- A pending change other than the start of a run takes effect at its instant (R45). One that is no longer a transition of
the table is dropped as BUSY (R49). -/
def rowModeChangeTakesEffect [RegIO] (s : State) : Out :=
  match s.mode.pend with
  | none => .next s
  | some p =>
    if p.target = .run ∧ s.mode.mode = .stop then .next s
    else
      let s1 := s.advTo p.due
      let s2 := { s1 with mode := { s1.mode with pend := none } }
      let no := s1.dropPend
      match p.target with
      | .stop => .next (if s2.roleMode || s2.mode.mode == .configure then s2.enter .stop else no)
      | .configure => .next (if s2.mode.mode == .stop then s2.enter .configure else no)
      | .safe => .next (if s2.running || s2.mode.mode == .stop then s2.enter .safe else no)
      | .hold => .next (
          if s2.mode.mode == .run || s2.mode.mode == .single then
            let s3 := { s2 with mode := { s2.mode with held := some p.task, heldFrom := s2.mode.mode } }
            (s3.enter .hold).each s3.ups fun l s => s.holdTask l p.task
          else no)
      | .run => .next (
          if s2.mode.mode == .hold then
            let s3 := (s2.enter s2.mode.heldFrom).updBoth fun L => (match s2.mode.held with
              | some t => L.unholdTask t
              | none => L)
            { s3 with mode := { s3.mode with held := none } }
          else no)
      | _ => .next s2

/-- The run starts at t_R (R45-R48, R192, R245, R246): with two healthy lanes RUN, with one SINGLE, in which the other takes
no part. Lane A takes the role at the first RUN of two healthy lanes; without that the lane that holds it keeps it. -/
def rowRunStart [RegIO] (s : State) : Out :=
  match s.mode.pend with
  | none => .next s
  | some p =>
    if p.target ≠ .run ∨ s.mode.mode ≠ .stop then .next s
    else
      let s1 := s.advTo p.due
      let s2 := { s1 with mode := { s1.mode with pend := none } }
      let ls := s2.ups.filter s2.healthy
      match ls with
      | [] => .next (if p.cmd then s2.modeRefused 4 else s2)
      | l :: rest =>
        let act := match s2.mode.active with
          | some cur => if ls.contains cur then cur else l
          | none => l
        let both := !rest.isEmpty
        let s3 := if both then s2 else s2.each (s2.ups.filter (· != l)) fun o s => s.upd o fun L => { L with phase := .failed }
        let s4 := { s3 with mode := { s3.mode with active := some act, tR := some (p.due / nsU 1) } }
        let s5 := s4.enter (if both then .run else .single)
        let s6 := s5.each s5.ups fun l s => ((s.initPrograms l).upd l (·.tasksBegin)).loopsBegin l
        .next (s6.each s6.ups fun l s => s.recEnter l)

/-! Power-fail and RETAIN (R430, R503-R505). -/

/-- The Chest's ports close: pending stores are dropped, a running one is cut (R430 step 4). -/
def Chest.closePorts (c : Chest) : Chest :=
  { (match c.storing with
      | some b => c.cutBank b
      | none => c) with pend := 0, held := [], logHeld := [] }

/-- RETAIN from tPF to the closing of the ports (R430 steps 1 to 4): the lanes halt, received group commits complete, the
active lane saves its counters. -/
def State.failRetain [RegIO] (s : State) : State :=
  let s1 := s.enter .retain
  let s2 := s1.each s1.ups fun l s => s.pairCut l
  let s3 := (s2.chestPowerFail.mtrSaveNow).thqSaveNow
  { s3 with chest := s3.chest.closePorts }

/-- Power-fail (R503). In RESET the boot stops and nothing else. Otherwise RETAIN begins: a pending change is dropped, the
lanes halt, received group commits complete, the active lane saves its counters, the ports close, pending commanded stores are
dropped and a running one is cut (R430). -/
def rowPowerFail [RegIO] (s : State) : Out :=
  let s0 := { s with supply := { s.supply with good := false, feedsBack := false } }
  match s.mode.mode with
  | .reset =>
    let stopped (L : Lane) : Lane := { L with phase := .off }
    .next { s0.updBoth stopped with boot := none, supply := { s0.supply with brownout := s.supply.good || s.supply.brownout } }
  | .retain => .next s0
  | _ =>
    .next ({ s0 with supply := { s0.supply with storeDone := false } }.dropPend).failRetain

end Sys2Proof.Machine
end

