-- ==== Sys2Proof/Machine/Boot.lean ====
section
/-! DEFINITION. Machine/Boot.lean: resets, the power-up sequence, boot end (02: R45, R52-R64; 22: R501-R505) and the image
loader (03: R79-R82). -/
namespace Sys2Proof.Machine

/-! The image loader (R80). -/

def aImgStat : Nat := 0x40060108

/-- Both lanes show the same TXN_IMG_STAT. -/
def State.imgShow (s : State) (f : Lane → Lane) : State := s.updBoth f

/-- Erase a slot; the loaded image goes with its slot (R82). -/
def State.slotErase (s : State) (slot : Fin 2) : State :=
  let lo := slot.val * slotLen
  let s1 := { s with flash := { s.flash with cells := spErase s.flash.cells lo (lo + slotLen) } }
  let unload (L : Lane) : Lane := match L.img with
    | some g => if g.slot = slot then L.unload s.tb.run else L
    | none => L
  s1.updBoth unload

def flashWrite (m : Mem) (a : Nat) : Bytes → Mem
  | [] => m
  | b :: bs => flashWrite (spSet flashByte m a b) (a + 1) bs

/-- The bytes [from_, len) of an image programmed into an erased slot: the header goes in last (R80), so an image is
programmed from its end to its start. -/
def State.slotProgram (s : State) (slot : Fin 2) (rd : ImgRd) (from_ len : Nat) : State :=
  { s with flash := { s.flash with cells := flashWrite s.flash.cells (slot.val * slotLen + from_) (rd from_ (len - from_)) } }

/-- The source image of a WRITE, in the DRAM of the lane where the loader runs: TXN_IMG_SRC and the DRAM as they stand when the
operation completes (DESIGN CHOICE, R80 does not say when they are sampled; log 49). -/
def State.imgSrc (s : State) : Nat := (s.lane s.loader.lane).getN 0x40060104 / 64 * 64
def State.srcRd (s : State) : ImgRd := fun off n => s.rdMem s.loader.lane 0 (s.imgSrc + off) n

/-- The checks of a WRITE before it erases anything, in the order of R80: 1, or the code that ends it. -/
def State.writeCheck (s : State) : Nat :=
  let src := s.imgSrc
  if src < 0x80000000 ∨ 2 ^ 32 < src + 4096 then 9
  else
    let h := headerCode s.srcRd 0
    if h ≠ 1 then h
    else if 2 ^ 32 < src + imgLen s.srcRd then 9
    else (s.imgCheck s.srcRd).1

/-- A WRITE or ERASE ends before its time (R81; a worn slot, R79): a WRITE whose image is good leaves the slot erased but for
a free part behind the header, an ERASE leaves a free part erased. -/
def State.loaderCut (s : State) : State :=
  if !s.loader.busy then s
  else
    let (v, s1) := s.fresh
    if s.loader.op = 1 then
      if s.writeCheck ≠ 1 then s1
      else
        let rd := s1.srcRd
        let n := imgLen rd
        (s1.slotErase s.loader.slot).slotProgram s.loader.slot rd (256 + v.toNat % (n - 255)) n
    else if s.loader.op = 2 then
      let lo := s.loader.slot.val * slotLen
      let keep := { s1 with flash := { s1.flash with cells := spErase s1.flash.cells lo (lo + v.toNat % (slotLen + 1)) } }
      { (s1.slotErase s.loader.slot) with flash := keep.flash }
    else s1

/-- A refused loader command: RESULT in both lanes, a bus error, no event. -/
def State.imgRefuse (s : State) (code : Nat) : State := (s.imgShow fun L => L.setFld aImgStat 0 4 code).busErr

/-- A write of TXN_IMG_CMD (R80): any write while the loader runs is code 0xB; then KEY, OP and mode. The loader runs an HC
command in lane A while lane A runs, otherwise in lane B; another requester's in its own lane. -/
def State.imgCmd (s : State) (src : Src) (key : Half) (op : Nat) (slot : Fin 2) : State :=
  s.joined src 0x40060100 (BitVec.ofNat 32 (key.toNat * 2 ^ 16 + slot.val * 2 ^ 8 + op)) fun s =>
    match s.lanesOf src with
    | [] => s.busErr
    | l :: _ =>
      if s.loader.busy then s.imgRefuse 0xB
      else if key ≠ 0x494D then s.imgRefuse 0xD
      else if op = 0 ∨ 4 < op then s.imgRefuse 0xE
      else if s.mode.mode ≠ .configure then s.imgRefuse 0xA
      else ({ s with loader := { busy := true, op := op, slot := slot, lane := l } }.imgShow fun L =>
        (L.setFlag aImgStat 31 true).setFld aImgStat 8 4 op).ok

def execImgWrite (src : Src) (key : Half) (slot : Fin 2) (s : State) : Out := .next (s.imgCmd src key 1 slot)
def execImgErase (src : Src) (key : Half) (slot : Fin 2) (s : State) : Out := .next (s.imgCmd src key 2 slot)
def execImgCheck (src : Src) (key : Half) (slot : Fin 2) (s : State) : Out := .next (s.imgCmd src key 3 slot)
def execImgLoad (src : Src) (key : Half) (slot : Fin 2) (s : State) : Out := .next (s.imgCmd src key 4 slot)

/-- The slot write of the loader (R79, R80): its source is checked first; `worn` cuts it. -/
def State.loaderWrite (s : State) (worn : Bool) : State × Nat :=
  let c := s.writeCheck
  if c ≠ 1 then (s, c)
  else if worn then (s.loaderCut, 0xC)
  else ((s.slotErase s.loader.slot).slotProgram s.loader.slot s.srcRd 0 (imgLen s.srcRd), 1)
/-- The load of a slot into the lanes that run (R82): the slot must verify. -/
def State.loaderLoad (s : State) : State × Nat :=
  let rd := s.slotRd s.loader.slot
  let v := s.imgCheck rd
  if v.1 ≠ 1 then (s, v.1) else s.loadAll s.ups s.loader.slot rd v.2 false true
/-- What the running operation of the loader comes to, with its RESULT. -/
def State.loaderRun (s : State) (worn : Bool) : State × Nat :=
  if s.loader.op = 1 then s.loaderWrite worn
  else if s.loader.op = 2 then (if worn then (s.loaderCut, 0xC) else (s.slotErase s.loader.slot, 2))
  else if s.loader.op = 3 then (s, (s.imgCheck (s.slotRd s.loader.slot)).1)
  else s.loaderLoad
/-- The loader shows a RESULT and is idle. -/
def State.loaderEnd (s : State) (code : Nat) : State :=
  { s with loader := { s.loader with busy := false } }.imgShow fun L => (L.setFlag aImgStat 31 false).setFld aImgStat 0 4 code
/-- A loader operation ends (R80, R82); `worn` says that a slot write found no replacement block (R79). -/
def execLoaderDone (worn : Bool) (s : State) : Out :=
  if !s.loader.busy then .next s
  else
    let r := s.loaderRun worn
    .next (r.1.loaderEnd r.2)

/-! Resets (R52-R57). -/

/-- A lane die and its DRAM are reset (R53): everything at its reset value but the reset causes (R56), the key slots with
KEY_GEN (R457), and FEED_LOSS, which a power-on reset alone clears. `cause` is its bit in SYS_RST_CAUSE, 0 power-on. -/
def Lane.wiped (L : Lane) (release cause : Nat) : Lane :=
  let causes := if cause = 0 then 1 else withField (L.get 0x4000000C) cause 1 1
  let loss := if cause = 0 then 0 else L.fld 0x401A0018 0 16
  let L0 : Lane := { Lane.init with phase := .booting, bootAt := release, keys := { KeyUnit.init with slots := L.keys.slots },
                                    red := { RedLane.init with hbLink := release, hbField := release, lastSent := release },
                                    sprint := { SprintUnit.init with binAt := release } }
  ((L0.put 0x4000000C causes).put 0x40180004 (L.get 0x40180004)).setFld 0x401A0018 0 16 loss

/-- The Chest die as a full reset leaves it (R52, R435): stores that still ran end, then every bank is recalled (R427). -/
def Chest.fullReset (c : Chest) (por : Bool) : Chest :=
  let left := (List.range 8).filter fun b => c.pend.getLsbD b || (c.storing.map (·.val)) == some b
  let c1 := left.foldl (fun c b => (c.storeBank b).bankUpd b fun k => { k with dirty := false, deferred := false }) c
  ({ c1 with pend := 0, storing := none, held := [], log := [], logHeld := [], prot := 0, lock := false,
             logStall := c.logStall && !por, deferRefresh := c.deferRefresh && !por }).recall

/-- A full reset, or a power-on reset (cause 0), with the power-up sequence that follows (R52, R56, R58, R372, R467): lane A's
reset is released after 10 ms, lane B's 20 ms later, the count starts at 0, the Chest recalls, the keeper samples PROV_EN. -/
def State.fullReset (s : State) (cause : Nat) (facts : BootFacts) : State :=
  let c := s.loaderCut
  let start := c.tb.run
  let run := start + msU 10
  let por := cause = 0
  { c with
    tb := { TimeBase.init with run := run },
    mode := ModeUnit.init,
    boot := some { facts := facts },
    laneA := c.laneA.wiped run cause,
    laneB := c.laneB.wiped (run + msU 20) cause,
    field := { FieldDie.init with ax := Vector.ofFn fun i => c.field.ax[i].kept },
    link := { LinkDie.init with lanAt := Vector.replicate 2 run, lifeAt := run, tokenAt := run, sent := c.link.sent },
    chest := c.chest.fullReset (decide por),
    keeper := { c.keeper with provLatch := facts.provEn, wdgA := if por then 0 else c.keeper.wdgA, wdgB := if por then 0 else c.keeper.wdgB },
    loader := LoaderUnit.init,
    supply := { c.supply with powerGoodAt := start, storeDone := false, feedsBack := false, brownout := false, pinReset := none },
    red := RedUnit.init,
    twins := [] }

/-- Power is gone: no lane runs, no output is on. -/
def State.powerOff (s : State) (brownout : Bool) : State :=
  let off (L : Lane) : Lane := { L with phase := .off }
  { (s.updBoth off) with
    mode := ModeUnit.init, boot := none,
    field := { FieldDie.init with ax := Vector.ofFn fun i => s.field.ax[i].kept },
    supply := { s.supply with good := false, storeDone := false, feedsBack := false, brownout := brownout, pinReset := none } }

/-- The reset input acts (R45, R55): a full reset, whose boot waits for power good where the feeds are not back. -/
def State.pinNow (s : State) (facts : BootFacts) : State :=
  if s.mode.mode == .retain && !s.supply.feedsBack then
    (s.powerOff true).updBoth fun L => L.setFlag 0x4000000C 1 true
  else s.fullReset 1 facts

/-- Power good (R58): a power-on reset, the boot after a power-fail in RESET (R504), or, in RETAIN, the return of the feeds
(R505). HOLDUP_OK reads 0 until the bank is charged (R501). -/
def execPowerGood (pa pb : Bool) (facts : BootFacts) (s : State) : Out :=
  if !pa && !pb then .next s
  else
    let on := { s.supply with paOk := pa, pbOk := pb, holdupOk := false, good := true }
    if s.mode.mode = .retain then .next { s with supply := { on with feedsBack := true } }
    else if s.mode.mode = .reset ∧ !s.supply.good then
      .next ({ s with supply := on }.fullReset (if s.supply.brownout then 4 else 0) facts)
    else .next s

/-- A lane that has not reported ready 1,000 ms after power good is left out of the broadcast (R59). -/
def execLaneReadyTimeout (lane : LaneId) (s : State) : Out :=
  match s.boot with
  | none => .next s
  | some b =>
    let ready := match lane with
      | .a => b.facts.readyA
      | .b => b.facts.readyB
    if ready || (s.lane lane).phase != .booting then .next s
    else .next ((s.advRun (s.supply.powerGoodAt + sU 1)).upd lane fun L => { L with phase := .leftOut })

/-- Reset input low for at least 10 us (R45), in every mode; in RETAIN it acts once the Chest store has ended (R55). Without
power good nothing runs that a reset could stop: its cause is recorded (R56). -/
def execResetPin (lowNs : Nat) (facts : BootFacts) (s : State) : Out :=
  if lowNs < 10000 then .next s
  else if s.mode.mode = .retain then
    .next (if s.supply.storeDone then s.pinNow facts else { s with supply := { s.supply with pinReset := some facts } })
  else if s.supply.good then .next (s.fullReset 1 facts)
  else .next (s.updBoth fun L => L.setFlag 0x4000000C 1 true)

/-- SYS_RESET_CMD reaches the mode logic: through a lane that runs, or in RESET, where R55 accepts it although no lane is up. -/
def State.resetCmdOpen (s : State) (src : Src) : Bool := !(s.lanesOf src).isEmpty || (s.mode.mode == .reset && s.supply.good)
/-- SYS_RESET_CMD with FULL (R52, R55). -/
def State.resetFull (s : State) (src : Src) (key : Half) (facts : BootFacts) : State :=
  if !s.resetCmdOpen src then s.busErr
  else if key ≠ 0xB007 ∨ s.mode.mode = .retain then s.ok
  else (s.fullReset 2 facts).ok
def execResetCmdFull (src : Src) (key : Half) (facts : BootFacts) (s : State) : Out := .next (s.resetFull src key facts)

/-- The power-fail store ends (R430): every dirty bank, and the bank of the cut store, holds a new plane; a held reset input
acts. -/
def execChestPowerFailStoreEnd (s : State) : Out :=
  if s.mode.mode ≠ .retain ∨ s.supply.storeDone then .next s
  else
    let c := s.chest
    let s1 := { s with chest := { c.failStore c.failBanks with storing := none }, supply := { s.supply with storeDone := true } }
    .next (match s.supply.pinReset with
      | some f => s1.pinNow f
      | none => s1)

/-- RETAIN ends when the store is complete and the feeds have recovered: a full reset of cause BROWNOUT (R505). -/
def execRetainEnd (facts : BootFacts) (s : State) : Out :=
  if s.mode.mode = .retain ∧ s.supply.storeDone ∧ s.supply.feedsBack then .next (s.fullReset 4 facts) else .next s

/-- The hold-up bank is spent before the feeds recover (R504, R505): the module loses power, the next power-up is a power-on
reset. A store not yet complete has reached a free number of its banks, the next one cut (R426). -/
def execHoldupBankSpent (s : State) : Out :=
  let inRetain := s.mode.mode == .retain && !s.supply.feedsBack
  if inRetain || (s.mode.mode == .reset && s.supply.brownout && !s.supply.good) then
    let (c, s1) :=
      if inRetain && !s.supply.storeDone then
        let banks := s.chest.failBanks
        let (v, s1) := s.fresh
        let n := v.toNat % (banks.length + 1)
        let c := { s.chest.failStore (banks.take n) with storing := none }
        (match banks.drop n with
          | b :: _ => c.cutBank b
          | [] => c, s1)
      else (s.chest, s)
    let s2 := { s1 with chest := { c with array := [], recalled := false } }.powerOff false
    .next { s2 with supply := { s2.supply with paOk := false, pbOk := false, holdupOk := false } }
  else .next s

/-- A lane begins to join (R319): BOOT, attempt `tries`. -/
def State.resyncBegin (s : State) (l : LaneId) (tries : Nat) : State :=
  let s1 := (s.upd l fun L => { L with phase := .resync }).resyncShow 1 0 tries 0
  { s1 with red := { s1.red with
      resync := some { lane := l, phase := 1, phaseAt := (s1.lane l).bootAt, tries := tries, passes := 0, retryAt := none, held := false } } }

/-! The end of boot (R58-R62). -/

def setWdg (k : Keeper) (l : LaneId) (n : Nat) : Keeper :=
  match l with
  | .a => { k with wdgA := n }
  | .b => { k with wdgB := n }

/-- A slot at boot: its result, and the image loaded into the lanes unless PROV_EN holds the module in CONFIGURE (R60,
R61). -/
def State.bootSlot (s : State) (ls : List LaneId) (slot : Fin 2) (fallback : Bool) : State × Nat × Nat :=
  let rd := s.slotRd slot
  let v := s.imgCheck rd
  if v.1 ≠ 1 ∨ s.keeper.provLatch then (s, v)
  else
    let r := s.loadAll ls slot rd v.2 fallback false
    (r.1, r.2, v.2)

/-- SYS_BOOT_STAT (R60): SLOT is undefined while neither slot is valid. -/
def bootWord (s : State) (resA resB : Nat) (slot anchor : Nat) (fallback : Bool) : Word × State :=
  let w := resA + resB * 16 + bit fallback * 512 + anchor * 2 ^ 14
  if resA = 1 ∨ resB = 1 then (BitVec.ofNat 32 (w + slot * 256), s)
  else let (v, s1) := s.fresh; (BitVec.ofNat 32 (w + v.toNat % 2 * 256), s1)

/-- Auto-run on entering STOP at the end of boot (R62). -/
def State.autoRun (s : State) : State :=
  let img := (s.ups.filterMap fun l => (s.lane l).img).head?
  match img with
  | none => s
  | some g =>
    if !g.autoRun then s
    else if bitOf s.keeper.bootCfg 1 || s.keeper.provLatch || g.fallback || (s.ups.any fun l => (s.lane l).flag 0x4000000C 5) then s.raiseUp 0x06
    else s.accept .run 0 s.runAt false

/-- First transmit number of the telegrams (R347). -/
def State.mstFirst (s : State) : Word := if s.osf then 1 else BitVec.ofNat 32 (s.rtcSecs * 16)

/-- The lanes that report ready. -/
def State.bootLanes (s : State) (f : BootFacts) : List LaneId :=
  [LaneId.a, .b].filter fun l => (s.lane l).phase == .booting && (match l with
    | .a => f.readyA
    | .b => f.readyB)
/-- The slot that boot tries first and the other one (R60). -/
def State.bootPref (s : State) : Fin 2 := if bitOf s.keeper.bootCfg 0 then 1 else 0
/-- The second slot, where the first one's result `c1` calls for it (R60). Under PROV_EN (R61) it is left "not tried" too where the
first slot is valid, and SYS_BOOT_STAT shows the verified slot's ANCHOR though nothing is loaded: DESIGN CHOICE, R61 says only
that the slots are verified and reported (log 44). -/
def State.bootOther (s : State) (ls : List LaneId) (c1 : Nat) : State × Nat × Nat :=
  if c1 ≠ 1 ∧ !bitOf s.keeper.bootCfg 2 then s.bootSlot ls (if s.bootPref = 0 then 1 else 0) true else (s, 0, 0)
/-- SYS_BOOT_STAT of a boot whose slots gave `r1` (the preferred one) and `r2`. -/
def State.bootStat (s : State) (pref : Fin 2) (r1 r2 : Nat × Nat) (loaded : Bool) : Word × State :=
  let oth : Fin 2 := if pref = 0 then 1 else 0
  let resOf (slot : Fin 2) : Nat := if slot = pref then r1.1 else r2.1
  bootWord s (resOf 0) (resOf 1) (if r1.1 = 1 then pref else oth).val (if r1.1 = 1 then r1.2 else if r2.1 = 1 then r2.2 else 0)
    (decide (r1.1 ≠ 1) && loaded)
/-- The lanes come up with SYS_BOOT_STAT, lane B failed where `apart` (R59); key stores are brought together (R463), the
lanes have their identity (R468). -/
def State.bootUp (s : State) (ls : List LaneId) (w : Word) (apart : Bool) : State :=
  let s4 := s.each ls fun l s =>
    let s' := s.upd l fun L => { (L.put 0x40000010 w).mstBoot s.mstFirst with phase := if apart && l == .b then .failed else .up }
    { s' with keeper := setWdg s'.keeper l 0 }
  let s5 := { s4 with boot := none }.keyReconcile
  s5.each s5.ups fun l s => s.identity l
/-- The mode that boot ends in, the lanes that join later, what boot reports, and auto-run (R58 steps 9 to 11, R62). -/
def State.bootMode [RegIO] (s : State) (loaded : Bool) : State :=
  let bad := s.chest.badRecall
  let s7 := s.enter (if loaded then .stop else .configure)
  let joins := [LaneId.a, .b].filter fun l => (s7.lane l).phase == .leftOut || (s7.lane l).phase == .booting
  let s8 := (bad.foldl (fun s b => s.raiseUp 0xE9 b) (s7.each joins fun l s => s.resyncBegin l 1)).rtcBoot
  if loaded then s8.autoRun else s8

/-- The end of boot for the lanes that are ready. -/
def State.bootEnd [RegIO] (s : State) (f : BootFacts) (ls : List LaneId) : State :=
  let r1 := s.bootSlot ls s.bootPref false
  let r2 := r1.1.bootOther ls r1.2.1
  let loaded := (r1.2.1 == 1 || r2.2.1 == 1) && !s.keeper.provLatch
  let r3 := r2.1.bootStat s.bootPref r1.2 r2.2 loaded
  (r3.2.bootUp ls r3.1 (loaded && ls.length == 2 && !f.digestsAgree)).bootMode loaded

/-- Boot ends (R58 steps 7 to 11) for the lanes that are ready: slots tried in the order of R60, lane B left failed where the
lanes' digests differ (R59), key stores brought together (R463), identity keys (R468), the mode, what it reports, and
auto-run. A lane left out joins later through resynchronisation. With no lane ready the module stays in RESET. -/
def rowBootEnd [RegIO] (s : State) : Out :=
  match s.boot with
  | none => .next s
  | some b => if (s.bootLanes b.facts).isEmpty then .next s else .next (s.bootEnd b.facts (s.bootLanes b.facts))

/-- SYS_BOOT_CFG (R64): written in CONFIGURE and STOP. -/
def State.bootCfgWrite (s : State) (src : Src) (data : Word) : State :=
  s.joined src 0x40000014 data fun s =>
    if (s.lanesOf src).isEmpty then s.busErr
    else if s.mode.mode == .configure || s.mode.mode == .stop then
      ({ s with keeper := { s.keeper with bootCfg := data &&& 7 } }.updBoth (·.tvClear 0x40000014)).ok
    else (s.modeRefused 1).ok
def execBootCfgWrite (src : Src) (data : Word) (s : State) : Out := .next (s.bootCfgWrite src data)

end Sys2Proof.Machine
end

