-- ==== Sys2Proof/Machine/Dma.lean ====
section
/-! DEFINITION. Machine/Dma.lean: DMA channels (11: R285-R292): commands, descriptor fetch, the pieces of a transfer, faults,
completion. -/
namespace Sys2Proof.Machine

def Lane.dmaUpd (L : Lane) (c : Fin 16) (f : DmaCh → DmaCh) : Lane := { L with dma := L.dma.set c (f L.dma[c]) }

/-- A fault halts the channel (R291): kind, phase, requester address and bytes completed are recorded, in the WIN fault
registers as well. -/
def State.dmaHalt (s : State) (l : LaneId) (c : Fin 16) (kind phase addr done : Nat) : State :=
  let s1 := s.upd l fun L =>
    let st := aDma c 0xC
    let L1 := (((L.setFld st 0 3 2).setFld st 4 4 kind).setFld st 8 2 phase).setFlag st 10 false
    (((L1.put (aDma c 0x14) (L1.get (aDma c 0x10))).putN (aDma c 0x18) done).putN (aDma c 0x1C) addr).dmaUpd c fun d => { d with done := done }
  (s1.raise l 0x34 c).winHit l c (kind, addr)

/-- Fetch the descriptor at CUR (R285, R286). -/
def State.dmaFetch [RegIO] (s0 : State) (l : LaneId) (c : Fin 16) : State :=
  let cur := (s0.lane l).getN (aDma c 0x10)
  let r := (s0.upd l fun L => L.dmaUpd c fun d => { d with desc := none, wins := none }).winRead l c cur 32
  match r.2 with
  | .inl (k, _) => r.1.dmaHalt l c k 0 cur 0
  | .inr bs =>
    let d : DmaDesc := { ctrl := u32At bs 0, len := u32At bs 4, src := u32At bs 8, dst := u32At bs 12, next := u32At bs 16 }
    if 16 ≤ d.ctrl ∨ !allAt bs 0x18 8 0 ∨ 67108864 < d.len ∨ (!d.ctrl.testBit 0 ∧ d.next % 32 ≠ 0) then r.1.dmaHalt l c fkDesc 0 cur 0
    else r.1.upd l fun L => L.dmaUpd c fun x => { x with desc := some d, done := 0, copied := false }

/-! Commands (R288, R292). -/

/-- A DMA command with its key; in a state that does not take it, refused. -/
def State.dmaCmd (s : State) (l : LaneId) (key : Half) (c : Fin 16) (states : List Nat) (f : State → State) : State :=
  if key ≠ 0x444D then s.ok
  else if !states.contains ((s.lane l).dmaState c) then s.refuse l 0x36 c
  else (f s).ok

/-- START (R288): the descriptor at DMA_CH_NEXT is fetched, FKIND cleared. -/
def State.dmaStart [RegIO] (s : State) (l : LaneId) (c : Fin 16) : State :=
  (s.upd l fun L => (((L.putN (aDma c 0xC) 1).put (aDma c 0x10) (L.get (aDma c 8)))).dmaUpd c fun x => { x with desc := none, done := 0, copied := false }).dmaFetch l c
def rowDmaStart [RegIO] (src : Src) (key : Half) (ch : Fin 16) (s : State) : Out :=
  .next (s.perLane src fun l s => s.dmaCmd l key ch [0, 3, 4] fun s => s.dmaStart l ch)

/-- RESUME (R292): the failed step again: the fetch, or the rest of the transfer, or STATUS. -/
def State.dmaResume [RegIO] (s : State) (l : LaneId) (c : Fin 16) : State :=
  let s1 := s.upd l fun L => L.setFld (aDma c 0xC) 0 3 1
  if (s.lane l).dma[c].desc.isNone then s1.dmaFetch l c else s1
def rowDmaResume [RegIO] (src : Src) (key : Half) (ch : Fin 16) (s : State) : Out :=
  .next (s.perLane src fun l s => s.dmaCmd l key ch [2] fun s => s.dmaResume l ch)

/-! Completion (R287, R290). -/

/-- A piece of the descriptor lies in the Chest. -/
def Lane.dmaChest (L : Lane) (c : Fin 16) (d : DmaDesc) : Bool :=
  let hit (a : Nat) (write : Bool) : Bool := anyBelow (d.len / 64 + 2) fun i =>
    let x := max a (a / 64 * 64 + 64 * i)
    x < a + d.len && (match L.winMap (L.heldWins c) c x 1 write with
      | .inr g => g.region == .chest
      | .inl _ => false)
  hit d.dst true || (!d.ctrl.testBit 2 && hit d.src false)

/-- What follows the last piece: STATUS, the count, the events, then NEXT. -/
def State.dmaFinish [RegIO] (s : State) (l : LaneId) (c : Fin 16) (d : DmaDesc) : State :=
  let cur := (s.lane l).getN (aDma c 0x10)
  let (s1, bad) := if d.ctrl.testBit 3 then s.winWrite l c (cur + 0x14) (leBytes 4 (2 ^ 31 + d.len)) else (s, none)
  match bad with
  | some (k, _) => (s1.upd l fun L => L.dmaUpd c fun x => { x with copied := true }).dmaHalt l c k 3 cur d.len
  | none =>
    let s2 := s1.upd l fun L => ((L.putN (aDma c 0x20) (L.getN (aDma c 0x20) + 1)).setFlag (aDma c 0xC) 10 false).dmaUpd c fun x =>
      { x with desc := none, done := 0, copied := false }
    let s3 := if d.ctrl.testBit 1 then s2.raise l 0x32 c else s2
    if d.ctrl.testBit 0 then (s3.raise l 0x33 c).upd l fun L => L.setFld (aDma c 0xC) 0 3 3
    else (s3.upd l fun L => L.putN (aDma c 0x10) d.next).dmaFetch l c

/-- The active lane has reported more completions than this lane has signalled. -/
def Lane.dmaConfirmed (L : Lane) (c : Fin 16) : Bool := decide (0 < signed 32 ((L.dma[c].confirmed + 2 ^ 32 - L.getN (aDma c 0x20)) % 2 ^ 32))

/-- All pieces are done: a standby holds the completion of a Chest descriptor until the active lane has reported it. -/
def State.dmaCopied [RegIO] (s : State) (l : LaneId) (c : Fin 16) (d : DmaDesc) : State :=
  let waits := s.dualRun && !s.isAct l && (s.lane l).dmaChest c d && !(s.lane l).dmaConfirmed c
  if waits then s.upd l fun L => (L.setFlag (aDma c 0xC) 10 true).dmaUpd c fun x => { x with done := d.len, copied := true }
  else s.dmaFinish l c d

/-- The active lane's report arrives (R290). -/
def rowDmaChestConfirm [RegIO] (ch : Fin 16) (s : State) : Out :=
  if !s.dualRun then .next s
  else
    let sb := other s.act
    let n := (s.lane s.act).getN (aDma ch 0x20)
    let s1 := s.upd sb fun L => L.dmaUpd ch fun x => { x with confirmed := n }
    let L := s1.lane sb
    .next (match L.dma[ch].desc with
      | some d => if L.dmaState ch = 1 ∧ L.flag (aDma ch 0xC) 10 ∧ L.dmaConfirmed ch then s1.dmaFinish sb ch d else s1
      | none => s1)

/-- A takeover (R290): the new active lane restarts from its first byte every Chest descriptor not reported complete. -/
def State.dmaTakeover (s : State) (l : LaneId) : State :=
  (List.finRange 16).foldl (fun (s : State) (c : Fin 16) =>
    let L := s.lane l
    match L.dma[c].desc with
    | none => s
    | some d =>
      if (L.dmaState c == 1 || L.dmaState c == 2) && L.dmaChest c d && !L.dmaConfirmed c then
        s.upd l fun L => (L.setFlag (aDma c 0xC) 10 false).dmaUpd c fun x => { x with done := 0, copied := false }
      else s) s

end Sys2Proof.Machine
end

