-- ==== Sys2Proof/Machine/Grid.lean ====
section
/-! DEFINITION. Machine/Grid.lean: the grid instants at which a commit, an online switch and a cycle start fall together: in that
order (R88, R271, R246). -/
namespace Sys2Proof.Machine

/-- Lanes whose online change is scheduled, and the active lane's instant and delta. -/
def State.olcPlanned (s : State) : Option (Nat × Delta) :=
  let L := s.lane s.act
  match L.olc.ts, L.olc.pendDelta with
  | some t, some x => if L.olcState = 3 then some (t, x) else none
  | _, _ => none

/-- The switch at tS (R270, R271), or its postponement while a task of the delta is not quiescent in the active lane. -/
def State.olcSwitchNow (s : State) : State :=
  let L := s.lane s.act
  match s.olcPlanned with
  | none => s
  | some (t, x) =>
    let ls := s.ups.filter fun l => (s.lane l).olcState == 3
    let busy := s.running && (bitsOf 8 x.tasks.toNat).any fun k => L.tBusy k || (L.tasks.getD k Task.init).windowEnd.isSome || (L.tasks.getD k Task.init).suspended
    if !busy then s.each ls fun l s => s.olcSwitchLane l
    else if 8 ≤ L.fld aOlcStat 13 4 then s.each ls fun l s => s.olcAbandon l 0xF
    else match s.commonStart s.act x.tasks (t + 250000) with
      | none => s.each ls fun l s => s.olcAbandon l 0xC
      | some t' => s.each ls fun l s => s.upd l fun L =>
          let L1 := ((L.incFld aOlcStat 13 4).putN 0x4006020C t').putN 0x40060210 (t' / 2 ^ 32)
          { L1 with olc := { L1.olc with ts := some t' } }

/-- What is due at a grid instant before any input latch: the commit, then the switch (R88, R271 step 1). -/
def State.gridDue (s : State) : State :=
  let s1 := s.commitDue
  match s1.olcPlanned with
  | some (t, _) => if nsU t ≤ s1.tb.count then s1.olcSwitchNow else s1
  | none => s1

/-- tS (R271): a commit of the same instant, then the switch. -/
def rowOlcSwitch (s : State) : Out :=
  match s.olcPlanned with
  | none => .next s
  | some (t, _) => .next (s.advTo (nsU t)).gridDue

/-- A grid instant of a task (R246): what is due there first; then a cycle starts in both lanes, or the start is skipped, or the
task is held or stopped. The active lane decides (R251). -/
def rowCycleStart (task : Fin 8) (saveFault : Option (LaneId × Fin 16)) (s : State) : Out :=
  let act := s.act
  if !s.running || !(s.lane act).taskDef task then .next s
  else
    let k := (s.lane act).tasks[task].gridK
    let s0 := (s.advTo (nsU (s.gridNs act task k))).gridDue
    let L := s0.lane act
    let T := L.tasks[task]
    let s1 := { s0 with twins := s0.twins.filter fun w => !(L.tEngines task).testBit w.2.1.val }
    let s2 := s1.each s1.ups fun l s => s.upd l fun L => L.taskUpd task fun T => { T with gridK := k + 1 }
    let st := L.tState task
    let begin_ := s2.each s2.ups fun l s => s.cycleBegin l task k saveFault
    if st = 5 then .next (match T.restartAt with
      | some r => if r ≤ s2.tb.count then begin_ else s2
      | none => s2)
    else if st = 4 then .next (if T.stepReq then begin_ else s2)
    else if L.tBusy task || T.windowEnd.isSome then .next (s2.each s2.ups fun l s => s.cycleSlip l task)
    else .next begin_

/-- The next sample of a loop, in both lanes at one instant (R192, R196). The output instant of the previous sample comes
first. -/
def rowLoopSample (loop : Fin 128) (s : State) : Out :=
  match s.sampleAt loop with
  | none => .next s
  | some d =>
    let s1 := (s.advTo d).gridDue
    .next (s1.each s1.ups fun l s => s.loopSample l loop)

/-- A regular step starts in both lanes at t_k (R172). The step that follows a commit still has the old DT; the one after it has the
DT that stands at its predecessor's start. -/
def rowPclStepStart (s : State) : Out :=
  let ls := s.ups.filter fun l => (s.lane l).pcl.live.isSome
  if ls.isEmpty then .next s
  else
    let s0 := (s.advTo (s.lane (ls.headD .a)).pcl.nextAt).gridDue
    let s1 := s0.each ls fun l s => s.pclStart l (s0.pclTake l)
    .next (s1.each ls fun l s => s.upd l fun L =>
      { L with pcl := { L.pcl with nextAt := L.pcl.nextAt + usU (250000 * L.pcl.dtQ), dtQ := L.fld aPclCfg 0 6 } })

end Sys2Proof.Machine
end

