-- ==== Sys2Proof/Machine/Red.lean ====
section
/-! DEFINITION. Machine/Red.lean: heartbeats, takeovers, lane resets and resynchronisation (12: R309-R322; 02: R53, R54,
R57). -/
namespace Sys2Proof.Machine

def aRedStat : Nat := 0x40090000

/-! Switch points (R315). -/

/-- The next publish instant of a task in the active lane: of the cycle under way, otherwise of the next grid instant. -/
def State.nextPublish (s : State) (t : Fin 8) : Nat :=
  let L := s.lane s.act
  let T := L.tasks[t]
  if L.tBusy t && s.tb.count ≤ nsU T.pubAt then nsU T.pubAt
  else nsU (s.boundary t / 2 ^ 40 + L.pubOfs t)

/-- The switch point: the next publish instant of any task, or the next 250 us tick when none falls within 1 ms. -/
def State.switchPoint (s : State) : Nat :=
  let L := s.lane s.act
  let ps := if s.running then ((List.finRange 8).filter fun (t : Fin 8) => L.taskDef t).map fun t => s.nextPublish t else []
  match ps.min? with
  | some p => if p ≤ s.tb.count + msU 1 then p else s.next250
  | none => s.next250

/-! Role exchange. -/

/-- The roles are exchanged (R315, R316): the port of every shared die, RED_STAT and SYS_MODE in both lanes, the event, which
carries the task of a stale mirror (R303). -/
def State.exchange (s : State) (newAct : LaneId) (task : Nat := 0) : State :=
  let s1 := { s with mode := { s.mode with active := some newAct }, red := { s.red with takeover := none } }
  let s2 := s1.updBoth fun L =>
    (((L.tvClear aRedStat).put 0x4009001C s.tbW).putN 0x40090020 (L.getN 0x40090020 + 1)).attTaken
  (s2.upd newAct Lane.txnTakeSent).raiseUp 0x10 task

/-- A lane that has lost its peer: agreements and online changes go on alone (R158, R277). -/
def State.alone [RegIO] (s : State) (l : LaneId) : State := (s.benAlone l).olcAlone l

/-- The lane that goes on where one of two is condemned (R318). -/
def State.survivor (s : State) : Option LaneId :=
  match s.red.condemned with
  | some (l, _) => some (other l)
  | none => match s.red.takeover with
    | some (.condemned _) => some (other s.act)
    | _ => none
/-- From a condemnation on, before the switch point that ends the condemned lane, the other agrees with itself (R158, R318). -/
def State.settle [RegIO] (s : State) : State :=
  match s.survivor with
  | some l => if s.isUp l then s.alone l else s
  | none => s
/-- The same of what a command answers. -/
def Out.settle [RegIO] : Out → Out
  | .next s => .next s.settle
  | o => o

/-- A reset of the lane in which the loader runs cuts its operation (R81). -/
def State.loaderReset (s : State) (l : LaneId) : State :=
  if s.loader.busy && s.loader.lane == l then
    let s1 := s.loaderCut
    { s1 with loader := LoaderUnit.init }.upd (other l) fun L => (L.setFlag aImgStat 31 false).setFld aImgStat 0 4 ((s1.imgCheck (s1.slotRd s.loader.slot)).1)
  else s
/-- One lane die and its DRAM are reset (R53); the lane boots and joins through resynchronisation. -/
def State.laneReset [RegIO] (s0 : State) (l : LaneId) (cause : Nat) : State :=
  let s := s0.loaderReset l
  let release := s.tb.run + usU 20
  let c := s.chest
  let mine (w : ChestWr) : Bool := w.lane == l
  let s1 := { (s.upd l fun L => L.wiped release cause) with
    chest := { c with held := c.held.filter fun w => !mine w, log := c.log.filter fun w => !mine w, logHeld := c.logHeld.filter fun w => !mine w },
    twins := s.twins.filter fun t => t.1 != l }
  let s2 := { s1 with red := { s1.red with suspects := [], resetReq := none, condemned := match s1.red.condemned with
    | some (x, b) => if x = l then none else some (x, b)
    | none => none } }
  let s3 := s2.upd (other l) fun L => L.setFlag aRedStat 19 false
  let s4 := s3.resyncBegin l 1
  if s4.isUp (other l) then s4.alone (other l) else s4

/-- A reset of a lane whose peer goes on: in RUN the module falls to SINGLE first (R45, R54). -/
def State.laneResetNow [RegIO] (s : State) (l : LaneId) (cause : Nat) : State :=
  let dual := s.dualRun
  let s1 := s.upd l fun L => { L with phase := .failed }
  (if dual then s1.toSingle else s1).laneReset l cause

/-- SYS_RESET_CMD for one lane (R54): refused without effect for the only running lane; the lane that holds the role
passes it on at the next switch point first. -/
def State.resetLane [RegIO] (s : State) (l : LaneId) : State :=
  if s.isUp l && !s.isUp (other l) then s
  else if s.isUp l && s.isAct l then
    { s with red := { s.red with takeover := some .laneReset, resetReq := some l } }
  else s.laneResetNow l 3

/-- LANE_A and LANE_B in one write: the standby's first (Caution of R64's register). While no lane holds the active role, outside
RUN, lane A's is carried out first and lane B's then refused: DESIGN CHOICE, the spec gives no order there (log 43). In RESET
no lane runs beside another, so R54 refuses both. -/
def State.resetLanes [RegIO] (s : State) (src : Src) (key : Half) (a b : Bool) : State :=
  s.joined src 0x40000018 (BitVec.ofNat 32 (key.toNat * 2 ^ 16 + bit b * 4 + bit a * 2)) fun s =>
    if !s.resetCmdOpen src then s.busErr
    else if key ≠ 0xB007 ∨ s.mode.mode = .retain ∨ s.mode.mode = .reset then s.ok
    else
      let want (l : LaneId) : Bool := match l with
        | .a => a
        | .b => b
      let order : List LaneId := if s.isAct .a then [.b, .a] else [.a, .b]
      (s.each (order.filter want) fun l s => s.resetLane l).ok
def rowResetCmdLane [RegIO] (src : Src) (key : Half) (laneA laneB : Bool) (s : State) : Out := .next (s.resetLanes src key laneA laneB)

/-- A hitless takeover by lane `new` at its switch point (R315): the Chest die applies the logged writes, the CAN events that the
old lane has forwarded reach the new one, the new active lane restarts unconfirmed Chest DMA (R290), the roles are exchanged. -/
def State.handOver (s : State) (new : LaneId) : State :=
  (((((s.advTo (if s.running then s.switchPoint else s.next250))).chestTakeover).canHandOver).dmaTakeover new).exchange new

/-- The outcome of a pending hitless takeover at its switch point (R315): the old lane is out, or is reset, or stays as standby
after RED_SWITCH. -/
def rowHitlessTakeover [RegIO] (s : State) : Out :=
  match s.red.takeover with
  | none => .next s
  | some why =>
    let old := s.act
    let new := other old
    if !s.isUp new then .next { s with red := { s.red with takeover := none, resetReq := none } }
    else
      let s1 := s.handOver new
      .next (match why with
        | .switch => s1.raiseUp 0x19
        | .laneReset => s1.laneResetNow old 3
        | .condemned _ => (s1.dropLane old).alone new)

/-- Hard takeover (R316): as above at once, with the broken mirror window restored (R303), unconfirmed CAN frames queued again
(R370), and the module in SINGLE. -/
def State.hardTakeover [RegIO] (s : State) (new : LaneId) : State :=
  let old := other new
  let cut := (List.finRange 8).filter fun (t : Fin 8) => (s.lane old).tasks[t].windowEnd.isSome
  let stale := cut.filter fun t => (s.lane new).tasks[t].slotOld
  let s1 := s.upd new fun L => cut.foldl (fun (L : Lane) (t : Fin 8) => (L.mirrorPut t (L.slotGet t)).taskUpd t fun T => { T with windowEnd := none, slotOld := false }) L
  let s2 := match stale.head? with
    | some t => s1.upd new fun L => (L.setFlag aRedStat 18 true).setFld aRedStat 8 3 t
    | none => s1
  let s3 := (((s2.chestTakeover).canHardTake new).dmaTakeover new)
  let s4 := s3.dropLane old
  (s4.exchange new (match stale.head? with
    | some t => t.val
    | none => 0)).alone new

/-! Heartbeats (R310). -/

/-- A die's note of a heartbeat on the port of a lane. -/
def portSeen (l : LaneId) (now : Nat) (d : Nat × Nat) : Nat × Nat := match l with
  | .a => (now, d.2)
  | .b => (d.1, now)
/-- The instant from which every shared die has seen 5 us of silence on a lane's port (R310, R316). -/
def State.diesSilent (s : State) (l : LaneId) : Nat :=
  s.red.dies.foldl (fun m d => max m ((match l with
    | .a => d.1
    | .b => d.2) + usU 5)) 0

/-- A lane sends its heartbeat every 1 us, over the lane link and through its ports of the shared dies, which note it (R310). -/
def execHeartbeatSend (lane : LaneId) (s : State) : Out :=
  if !s.isUp lane then .next s
  else
    let s1 := s.advRun ((s.lane lane).red.lastSent + usU 1)
    let s2 := s1.upd lane fun L => { L with red := { L.red with lastSent := s1.tb.run } }
    .next { s2 with red := { s2.red with dies := s2.red.dies.map (portSeen lane s1.tb.run) } }

/-- A peer heartbeat arrives at a lane with the peer's health word; a new bit raises EV_RED_HEALTH and triggers the table
(R309-R311). -/
def rowHeartbeatReceived [RegIO] (lane : LaneId) (viaLink : Bool) (s : State) : Out :=
  if !s.isUp lane || !s.isUp (other lane) then .next s
  else
    let word := s.health (other lane)
    let was := (s.lane lane).fld aHealth 8 6
    let s1 := s.upd lane fun L =>
      let L1 := if was % 32 = word then L else (L.setFld aHealth 8 5 word).tvClear aHealth
      { L1 with red := if viaLink then { L1.red with hbLink := s.tb.run } else { L1.red with hbField := s.tb.run } }
    let new := (List.range 5).filter fun i => word.testBit i && !was.testBit i
    if new.isEmpty then .next s1
    else
      let s2 := s1.raise lane 0x14
      .next (if s2.tableDual && new.any (· != 4) then (s2.redTrigger 9 0 false false false).settle else s2)

/-- What a lost heartbeat in RUN, SINGLE or HOLD leads to (R311), by the table's row: hard takeover, as soon as every shared die has
seen the silence (R316), FAILSAFE, or a condemned standby. -/
def State.hbTable [RegIO] (s : State) (lane : LaneId) : State :=
  let lost := s.isAct (other lane)
  let row := s.tableRow lost false false false
  let s1 := s.redRecord 9 row 0
  if row = 8 then (s1.advRun (s1.diesSilent (other lane))).hardTakeover lane
  else if row = 10 ∨ row = 13 then s1.enterFailsafe.dqFailsafe
  else if row = 6 ∨ row = 9 then (s1.redApply row true).settle
  else s

/-- A lane that runs notes HB_LOSS of its peer 5 us after the last heartbeat of either path (R309, R310). -/
def State.hbNote (s : State) (lane : LaneId) : State :=
  let L := s.lane lane
  if s.isUp lane then
    ((s.advRun (max L.red.hbLink L.red.hbField + usU 5)).upd lane fun L => (L.setFlag aHealth 13 true).tvClear aHealth).raise lane 0x14
  else s

/-- The silent peer of a lane is out (R45, R311). -/
def State.peerOut (s : State) (lane : LaneId) : State :=
  let s1 := s.upd (other lane) fun L => { L with phase := .failed }
  { s1 with red := { s1.red with condemned := some (other lane, true) } }

/-- A lane declares HB_LOSS of its peer, 5 us after the last heartbeat of either path (R310, R311). In STOP and SAFE the roles
stay; the silent lane is out of the next run. -/
def rowHbLoss [RegIO] (lane : LaneId) (s : State) : Out :=
  if !s.isUp (other lane) then .next s
  else
    let s1 := s.hbNote lane
    if s1.running then .next (s1.hbTable lane)
    else if s1.isUp lane then .next ((s1.peerOut lane).alone lane)
    else .next s1

/-- The lane link is silent for 5 us while the field-die path lives (R309, R310): LINK in both words, item 8. -/
def rowLaneLinkFault [RegIO] (s : State) : Out :=
  if !s.bothUp then .next s
  else
    let s1 := (s.setHealth .a 4).setHealth .b 4
    .next (if s1.tableDual then (s1.redTrigger 8 0 true false true).settle else s1)

/-- A standby's frame hash is late: a telegram's (item 4) or a CAN frame's (item 5). -/
def rowHashTimeout [RegIO] (can : Bool) (index : Fin 8) (s : State) : Out :=
  .next (if can then s.canHashLate index else s.mstHashLate index).settle

/-- The oldest mismatch leaves the window (R313). -/
def execSuspectWindowExpiry (s : State) : Out :=
  match s.red.suspects.min? with
  | none => .next s
  | some t =>
    let L := s.lane s.act
    let win := suspectWindow L (shortestPeriod (L.dr 3))
    let s1 := s.advRun (t + win)
    .next { s1 with red := { s1.red with suspects := s1.red.suspects.filter fun x => s1.tb.run < x + win } }

/-! Automatic resets (R318). -/

/-- A condemned lane at the switch point after its condemnation: one by row 3 or 6 for an item already delivered takes effect
here (R312). -/
def State.condemnedDue [RegIO] (s : State) (l : LaneId) (inForce : Bool) : State :=
  let s1 := s.advTo s.switchPoint
  if inForce then s1 else (s1.dropLane l).alone (other l)

/-- The resets of the last 24 h, with `more` ones now (R318). -/
def State.resetsKept (s : State) (more : List Nat) : State :=
  { s with red := { s.red with condemned := none, autoResets := (s.red.autoResets.filter fun t => s.tb.run < t + sU 86400) ++ more } }

/-- The reset of a condemned lane at the first switch point after its condemnation; at MAX_AUTO resets in 24 h the lane is
given up (R318). -/
def rowRedLaneReset [RegIO] (s : State) : Out :=
  match s.red.condemned with
  | none => .next s
  | some (l, inForce) =>
    let s1 := s.condemnedDue l inForce
    if (s1.lane (other l)).fld 0x4009000C 8 2 ≤ (s1.resetsKept []).red.autoResets.length then .next ((s1.resetsKept []).giveUp l)
    else .next (((s1.resetsKept [s1.tb.run]).raise (other l) 0x15).laneReset l 6)

/-- An automatic reset is 24 h old (R318). -/
def execAutoResetAgeOut (s : State) : Out :=
  match s.red.autoResets.min? with
  | none => .next s
  | some t =>
    let s1 := s.advRun (t + sU 86400)
    .next { s1 with red := { s1.red with autoResets := s1.red.autoResets.filter fun x => s1.tb.run < x + sU 86400 } }

/-! RED_CMD (R322). -/

/-- One RED command with its key (R531). -/
def State.redCmd (s : State) (src : Src) (key : Half) (op : Nat) (f : State → State) : State :=
  s.joined src 0x40090008 (BitVec.ofNat 32 (key.toNat * 2 ^ 16 + op)) fun s =>
    if (s.lanesOf src).isEmpty then s.busErr else if key ≠ 0x5244 then s.ok else f s

def State.redRefuse (s : State) : State := (s.raiseUp 0xFF).busErr

/-- SWITCH: a hitless role exchange at the next publish instant. -/
def State.redSwitch (s : State) : State :=
  let clean (l : LaneId) : Bool := (s.lane l).fld aHealth 0 14 == 0
  if s.mode.mode == .run && s.bothUp && clean .a && clean .b && s.red.suspects.isEmpty && s.red.takeover.isNone then
    { s with red := { s.red with takeover := some .switch } }.ok
  else s.redRefuse
def execRedSwitch (src : Src) (key : Half) (s : State) : Out := .next (s.redCmd src key 1 State.redSwitch)

/-- DROP: the standby is condemned as under row 3, in RUN only. -/
def State.redDrop [RegIO] (s : State) : State := if s.mode.mode == .run && s.bothUp then (s.condemnStandby true).settle.ok else s.redRefuse
def rowRedDrop [RegIO] (src : Src) (key : Half) (s : State) : Out := .next (s.redCmd src key 2 State.redDrop)

def State.redClrCnt (s : State) : State := (s.updBoth (·.put 0x40090010 0)).ok
def execRedClrCnt (src : Src) (key : Half) (s : State) : Out := .next (s.redCmd src key 3 State.redClrCnt)

/-! Resynchronisation (R319-R321). -/

/-- The boot watchdog resets a lane for the `n`th time (R57): the third time it stays in RESET with NO_LANE; `joining`: it was
in the BOOT phase of its resync. -/
def State.wdgReset (s : State) (lane : LaneId) (n : Nat) (joining : Bool) : State :=
  let s2 := { s with keeper := setWdg s.keeper lane n }
  if n = 3 then
    let s3 := s2.upd lane fun L => { (L.setFlag 0x4000000C 5 true).setFlag 0x40000010 18 true with phase := .gaveUp }
    if joining then { s3 with red := { s3.red with resync := none } } else s3
  else
    let s3 := s2.upd lane fun L => L.wiped (s2.tb.run + usU 20) 5
    if s3.boot.isSome then s3.upd lane fun L => { L with phase := .leftOut } else s3.resyncBegin lane 1

/-- A lane in the BOOT phase of its resync, not held. -/
def State.wdgJoins (s : State) (lane : LaneId) : Bool :=
  match s.red.resync with
  | some r => r.lane == lane && r.phase == 1 && !r.held
  | none => false

/-- The boot watchdog (R57): a lane that has not ended its boot within 8 s of its release resets itself, the third time it
stays in RESET. -/
def execBootWatchdogExpiry (lane : LaneId) (s : State) : Out :=
  if !((s.lane lane).phase == .booting || (s.lane lane).phase == .leftOut || s.wdgJoins lane) then .next s
  else
    let s1 := s.advRun ((s.lane lane).bootAt + sU 8)
    .next (s1.wdgReset lane (min 3 (wdgOf s1.keeper lane + 1)) (s.wdgJoins lane))

/-- The joining lane's next phase. -/
def State.resyncPhase (s : State) (r : Resync) (phase pending : Nat) : State :=
  { s.resyncShow phase 0 r.tries pending with red := { s.red with resync := some { r with phase := phase, phaseAt := s.tb.run, held := false } } }

/-- All the memory that BULK copies, in KiB: engine TCMs, lane SRAM, Bench SRAM, DRAM, mirror store. -/
def bulkKiB : Nat := 8192 + 8192 + 65536 + 2097152 + 8192

/-- The joining lane loads the image `g` of the running lane (R319): its slot must verify with the same digest. -/
def State.joinLoad (s : State) (r : Resync) (g : LoadedImg) : State :=
  let rd := s.slotRd g.slot
  let v := s.imgCheck rd
  let stat : Word := BitVec.ofNat 32 (v.1 * (if g.slot = 1 then 16 else 1) + g.slot.val * 256 + v.2 * 2 ^ 14)
  let s1 := s.upd r.lane fun L => L.put 0x40000010 stat
  if v.1 ≠ 1 ∨ cabinetDigest rd ≠ g.digest then s1.resyncFail 1
  else match (s1.lane r.lane).loadPlan r.lane rd with
    | .inl _ => s1.resyncFail 1
    | .inr p => ((s1.loadLane r.lane { g with drawers := p.1, fresh := false } false).identity r.lane).resyncPhase r 2 0

/-- BOOT ends (R319): with no lane to join the lane holds; otherwise it reads the slot the running lane runs, whose digest must
be equal, loads it and goes on to CHAIN. -/
def execResyncBootEnd (s : State) : Out :=
  match s.red.resync with
  | none => .next s
  | some r =>
    if r.phase ≠ 1 then .next s
    else
      let run := other r.lane
      let s0 := { s with keeper := setWdg s.keeper r.lane 0 }
      if !s.isUp run then .next { s0 with red := { s0.red with resync := some { r with held := true } } }
      else match (s.lane run).img with
        | none => .next ((s0.raise run 0x16).resyncPhase r 2 0)
        | some g => .next ((s0.raise run 0x16).joinLoad r g)

/-- The running digest of a lane that has applied a chain of deltas to its image (R264). -/
def chainDigest (g : Option LoadedImg) (chain : List Delta) : Big :=
  match chain.getLast?, g with
  | some x, _ => x.digest
  | none, some g => g.digest
  | none, none => 0

/-- CHAIN ends (R319): the joining lane has applied the running lane's deltas to the drawers it loaded and holds the fallback set;
its running digest must equal TXN_OLC_DIGEST. -/
def execResyncChainEnd (s : State) : Out :=
  match s.red.resync with
  | none => .next s
  | some r =>
    if r.phase ≠ 2 then .next s
    else
      let R := s.lane (other r.lane)
      let d := chainDigest (s.lane r.lane).img R.olc.chain
      if d ≠ BitVec.ofNat 256 (leVal ((R.getWords 0x40060240 8).map fun w => leBytes 4 w.toNat).flatten) then .next (s.resyncFail 2)
      else
        let s1 := s.upd r.lane fun L =>
          { L.olcDigest d with img := L.img.map fun g => { g with drawers := R.olc.chain.foldl (fun ds x => putDrawers ds x.drawers) g.drawers },
                               olc := { R.olc with runDigest := d } }
        .next (s1.resyncPhase r 3 bulkKiB)

/-- The running lane's memories are copied. -/
def State.copyMem (s : State) (l : LaneId) : State :=
  let R := s.lane (other l)
  s.upd l fun L => { L with mem := R.mem, mirror := R.mirror }

/-- BULK ends; how much is dirty by then is not stated. -/
def execResyncBulkEnd (s : State) : Out :=
  match s.red.resync with
  | none => .next s
  | some r =>
    if r.phase ≠ 3 then .next s
    else
      let (v, s1) := s.fresh
      .next ((s1.copyMem r.lane).resyncPhase { r with passes := 0 } 4 (v.toNat % (bulkKiB + 1)))

/-- A dirty pass ends: at most 1 MiB left goes to WAIT; after 8 passes of DIRTY it fails. -/
def execResyncDirtyPassEnd (pendingKiB : Nat) (s : State) : Out :=
  match s.red.resync with
  | none => .next s
  | some r =>
    if r.phase ≠ 4 ∧ r.phase ≠ 8 then .next s
    else
      let s1 := s.copyMem r.lane
      let p := min pendingKiB bulkKiB
      if r.phase = 8 then .next s1
      else if p ≤ 1024 then .next (s1.resyncPhase { r with passes := r.passes + 1 } 8 0)
      else if 8 ≤ r.passes + 1 then .next (s1.resyncFail 3)
      else
        let s2 := s1.resyncShow 4 0 r.tries p
        .next { s2 with red := { s2.red with resync := some { r with passes := r.passes + 1 } } }

/-- What FINAL waits for in the running lane (R321). -/
def Lane.finalWaits (L : Lane) : Bool :=
  (L.engines.toList.any fun g => g.halted) || (1 ≤ L.olcState && L.olcState ≤ 4) || L.txnState == 2

/-- Read-only registers that tell of this die alone, which a lane keeps through FINAL (R320 copies every register that is not
read-only): boot, pace, ECC counts, vote corrections, health, attestation, supply and temperatures. -/
def ownRegs : List (Nat × Nat) :=
  [(0x40000010, 0x40000014), (0x40000040, 0x40000048), (0x4000004C, 0x40000050), (0x40050010, 0x40050018), (0x4007000C, 0x40070010),
   (0x40090004, 0x40090008), (0x40190000, 0x40190020), (0x40190200, 0x401A0000), (0x401A0000, 0x401A0010), (0x401A0018, 0x401A001C)]

/-- One snapshot of every unit state of the running lane, applied in the joining lane (R320). -/
def Lane.finalFrom (L R : Lane) (now : Nat) : Lane :=
  { R with phase := .up, bootAt := L.bootAt, tv := L.tv, badWords := L.badWords, red := { hbLink := now, hbField := now, lastSent := now },
           rf := ownRegs.foldl (fun m p => spCopy m L.rf p.1 p.2) R.rf, tbCap := [], hiCap := [], rtcFrozen := none,
           keys := { L.keys with slots := R.keys.slots }, sprint := L.sprint, lowWindows := L.lowWindows, eccCeAt := L.eccCeAt }

/-- tJ: the next publish instant of the slowest task of the running lane; with none, the next 250 us tick. -/
def State.finalDue (s : State) (R : Lane) : Nat :=
  let ts := (List.finRange 8).filter fun (t : Fin 8) => R.taskDef t
  let slow := ts.foldl (fun (b : Option (Fin 8)) (t : Fin 8) => match b with
    | none => some t
    | some u => if R.tPeriod u < R.tPeriod t then some t else some u) none
  match slow, s.running with
  | some t, true => s.nextPublish t
  | _, _ => s.next250
/-- The joining lane takes the running lane's state, and each shows the health of the other. -/
def State.finalCopy (s : State) (l run : LaneId) : State :=
  (s.upd l fun L => (L.finalFrom (s.lane run) s.tb.run).setFld aHealth 8 6 (s.health run)).upd run fun L =>
    (L.setFld aHealth 8 6 (s.health l)).tvClear aHealth
/-- The lane is standby; the module enters RUN, or returns from HOLD to RUN. -/
def State.finalMode (s : State) (tries : Nat) : State :=
  let s2 := s.resyncShow 6 0 tries 0
  let s3 := { s2 with red := { s2.red with resync := none, suspects := [] }, chest := { s.chest with log := [], logHeld := [] } }
  if s3.mode.mode == .single then s3.setMode .run
  else if s3.mode.mode == .hold then { s3 with mode := { s3.mode with heldFrom := .run } } else s3

/-- FINAL at tJ (R319-R321): the first publish instant of the slowest task at which nothing delays it. The lane is standby, the
module enters RUN; in HOLD entered from SINGLE the return goes to RUN. -/
def execResyncFinal (s : State) : Out :=
  match s.red.resync with
  | none => .next s
  | some r =>
    let run := other r.lane
    if r.phase ≠ 8 ∨ !s.isUp run ∨ (s.lane run).finalWaits then .next s
    else
      let s1 := s.advTo (s.finalDue (s.lane run))
      .next (((s1.finalCopy r.lane run).finalMode r.tries).raiseUp 0x17)

/-- A phase exceeds its bound (R319, R321). WAIT and a lane that holds have none. -/
def execResyncTimeout (s : State) : Out :=
  match s.red.resync with
  | none => .next s
  | some r =>
    let bound : Option Nat := match r.phase with
      | 1 => if r.held then none else some 3050
      | 2 => some 200
      | 3 => some 400
      | 4 => some 1500
      | _ => none
    match bound with
    | none => .next s
    | some ms => .next ((s.advRun (r.phaseAt + msU ms)).resyncFail 4)

/-- The next attempt, from BOOT, 1 s after a failure (R321). -/
def execResyncRetry (s : State) : Out :=
  match s.red.resync with
  | none => .next s
  | some r => match r.retryAt with
    | none => .next s
    | some t =>
      let s1 := s.advRun t
      let cause := (s1.lane r.lane).get 0x4000000C
      .next ((s1.upd r.lane fun L => (L.wiped s1.tb.run 6).put 0x4000000C cause).resyncBegin r.lane (r.tries + 1))

end Sys2Proof.Machine
end

