-- ==== Sys2Proof/Machine/Views.lean ====
section
/-! DEFINITION. Machine/Views.lean: what a register reads as (R9). Most registers read as their word in the register file of
the lane; the ones below are computed from the unit or shared die that holds the value. ·TV fields read as their majority
(R488). Temperatures read as the last measurement a row has reported; feed voltages, the module draw and the current of an
output that is on are measured values, and free (log 30). -/
namespace Sys2Proof.Machine

/-- The four words of an event record (R483). -/
def EvtRec.bytes (r : EvtRec) : Bytes :=
  leBytes 1 r.id ++ leBytes 1 (laneNo r.lane) ++ leBytes 1 r.prio ++ [0] ++ leBytes 4 r.seq.toNat ++ leBytes 4 r.tb.toNat ++ leBytes 4 r.data.toNat

def maskIf (n : Nat) (f : Nat → Bool) : Nat := (List.range n).foldl (fun m i => m + bit (f i) * 2 ^ i) 0

/-- SYS (R42, R51, R57). -/
def State.sysView (s : State) (l : LaneId) (a : Nat) : Word :=
  let w := (s.lane l).get a
  if a = 0x40000000 then
    BitVec.ofNat 32 (0x10000000 + Config.laneRev.toNat * 256 + bit Config.gradeE * 2 + laneNo l)
  else if a = aModeReg then
    withField (withField (withField (withField w 0 4 s.mode.mode.code) 6 1 (bit (s.isAct l))) 7 1 (bit s.mode.pend.isSome)) 16 4 s.mode.prev.code
  else if a = 0x40000010 then s.bootStatOf l
  else if a = 0x40000014 then s.keeper.bootCfg
  else w

/-- EVT queues (R497). -/
def Lane.evtView (L : Lane) (a : Nat) : Word :=
  if 0x40011000 ≤ a ∧ a < 0x40011200 then
    let e := (a - 0x40011000) / 0x20
    let off := (a - 0x40011000) % 0x20
    let q := L.evt.q.getD e []
    if off < 0x10 then (match q with
      | [] => 0
      | r :: _ => BitVec.ofNat 32 (u32At r.bytes off))
    else if off = 0x10 then withField (L.get a) 0 7 q.length
    else L.get a
  else L.get a

/-- RED_STAT (12). -/
def State.redStat (s : State) (l : LaneId) : Word :=
  let L := s.lane l
  let pair := if s.red.resync.isSome then 3 else if s.bothUp then 1 else if s.isUp .a || s.isUp .b then 2 else 0
  let up := decide (s.tb.run ≤ max L.red.hbLink L.red.hbField + usU 5) && s.isUp (other l)
  BitVec.ofNat 32 (min s.red.suspects.length 15 * 2 ^ 24 + min s.red.autoResets.length 3 * 2 ^ 20 + bit (L.flag aRedStat 19) * 2 ^ 19 +
    bit (L.flag aRedStat 18) * 2 ^ 18 + pair * 2 ^ 16 + L.fld aRedStat 8 3 * 256 + bit (!s.red.suspects.isEmpty) * 128 + bit up * 8 +
    (match s.mode.active with
      | some .b => 4
      | _ => 0) + bit (s.isAct l))

/-- AXS: the half that stands in the field die. A disabled axis reads 0. -/
def State.axsView (s : State) (l : LaneId) (a : Nat) : Word :=
  let L := s.lane l
  let die (i : Nat) (f : AxDie → Bool) : Bool := L.axEn i && f (s.field.ax.getD i AxDie.init)
  if a = 0x400D0000 then
    BitVec.ofNat 32 (maskIf 16 (fun i => die i (·.uncertain)) * 2 ^ 16 + maskIf 16 (fun i => die i (·.enableAt.any (· ≤ s.tb.run))))
  else
    let i := (a - 0x400D0100) / 0x40
    if !L.axEn i then 0
    else if (a - 0x400D0100) % 0x40 = 4 then withField (L.get a) 3 1 (bit (die i (·.uncertain)))
    else L.get a

/-- DIO: the channels stand in the field die (R415-R423). A disabled channel reads 0. -/
def State.dioView (s : State) (l : LaneId) (a : Nat) : Word :=
  let L := s.lane l
  if a = 0x400E0000 then s.diWord false (·.f)
  else if a = 0x400E0004 then s.diWord true (·.f)
  else if a = 0x400E0008 then s.diWord false (·.wb)
  else if a = 0x400E000C then s.diWord true (·.wb)
  else if a = 0x400E0010 then s.dqWord (·.target)
  else if a = 0x400E0014 then s.dqWord (·.on)
  else if a = 0x400E0018 then s.dqWord (·.faulty)
  else if a = 0x400E001C then BitVec.ofNat 32 s.field.lplusLow.toNat
  else if 0x400E0100 ≤ a ∧ a < 0x400E0500 then
    let i : Fin 64 := Fin.ofNat 64 ((a - 0x400E0100) / 0x10)
    if !L.diEn i then 0
    else if a % 0x10 = 8 then s.field.di[i].cnt
    else if a % 0x10 = 0xC then s.field.di[i].stamp
    else L.get a
  else if 0x400E0800 ≤ a ∧ a < 0x400E0A00 then
    let j : Fin 32 := Fin.ofNat 32 ((a - 0x400E0800) / 0x10)
    let d := s.field.dq[j]
    if !L.dqEn j then 0
    else if a % 0x10 = 4 then BitVec.ofNat 32 d.diag
    else if a % 0x10 = 8 then
      (if !d.on then 0 else if d.overload then 1200 else BitVec.ofNat 32 ((Config.freeValue s.free).toNat % 1201))
    else L.get a
  else L.get a

/-- A register word as requester `req` reads it in lane `l`, before the vote on its ·TV fields. -/
def State.viewRaw (s : State) (l : LaneId) (req : Requester) (a : Nat) : Word :=
  let L := s.lane l
  match a / 0x10000 with
  | 0x4000 => s.sysView l a
  | 0x4001 => L.evtView a
  | 0x4002 =>
    if a = 0x40020000 then
      BitVec.ofNat 32 (maskIf 8 L.taskDef * 2 ^ 24 + maskIf 8 (fun t => L.tState t == 5) * 2 ^ 16 + maskIf 8 (fun t => L.tState t == 4) * 256 +
        maskIf 8 (fun t => L.tState t == 2))
    else L.get a
  | 0x4004 =>
    if a = 0x40040000 then BitVec.ofNat 32 (maskIf 16 (fun c => L.dmaState c == 2) * 2 ^ 16 + maskIf 16 (fun c => L.dmaState c == 1)) else L.get a
  | 0x4007 =>
    if a = 0x40070000 then (L.indOf req).addr
    else if a = 0x40070008 then BitVec.ofNat 32 (bit (L.indOf req).busy.isSome * 2 ^ 31 + (L.indOf req).err)
    else L.get a
  | 0x4009 => if a = aRedStat then s.redStat l else L.get a
  | 0x400C => L.ctlView a
  | 0x400D => s.axsView l a
  | 0x400E => s.dioView l a
  | 0x400F =>
    (match L.counterAt a with
      | some (c, true) => L.counterHi req a c
      | some (c, false) => BitVec.ofNat 32 c
      | none => L.mtrView a)
  | 0x4010 =>
    (match L.counterAt a with
      | some (c, true) => L.counterHi req a c
      | some (c, false) => BitVec.ofNat 32 c
      | none => L.thqView a)
  | 0x4011 => L.canView a
  | 0x4013 =>
    if a = aTb 8 then
      withField (withField (L.get a) 3 1 (L.fld (aTb 0x2C) 31 1)) 0 3 (bit (s.act == l) * 4 + bit s.tb.step.isSome * 2 + bit s.tb.used)
    else if a = aTb 0x120 then BitVec.ofNat 32 L.ptp.rxq.length
    else if a = aTb 0x130 then (match L.ptp.txs with
      | [] => 0
      | x :: _ => BitVec.ofNat 32 (2 ^ 16 + x.tag.toNat * 256 + x.status))
    else if a = aTb 0x134 then ((L.ptp.txs.head?).map (·.depart)).getD 0
    else if aTb 0x200 ≤ a ∧ a < aTb 0x2A0 then BitVec.ofNat 32 (u32At (L.ptp.rxq.headD []) (a - aTb 0x200))
    else L.get a
  | 0x4015 => if a = 0x40150004 then withField (L.get a) 0 11 L.evt.hcq.length else L.get a
  | 0x4016 => s.chsView L a
  | 0x4017 => L.recView req a
  | 0x4018 => s.keyView L a
  | 0x4019 => s.keyView L a
  | 0x401A =>
    if a = aPmuStat then
      withField (withField (withField (L.get a) 3 1 (bit s.supply.holdupOk)) 1 1 (bit s.supply.pbOk)) 0 1 (bit s.supply.paOk)
    else if a = 0x401A0004 then (Config.freeValue s.free).truncate 32
    else if a = 0x401A000C then (Config.freeValue s.free).truncate 32 &&& 0xFFFF
    else L.get a
  | _ => L.get a

/-- The word as it reads: ·TV fields by their majority, or copy 0 where the three differ (R488). -/
def State.viewWord (s : State) (l : LaneId) (req : Requester) (a : Nat) : Word :=
  tvVoted (s.lane l).tv a (s.viewRaw l req a)

/-- Whether an engine reaches a block only in machine mode (R280): KEY, ATT and WIN, through normal access or any alias, are
closed to a task without PRIV. -/
def State.closed (s : State) (src : Src) (a : Nat) : Bool :=
  let blk := a % 0x1000000 / 0x10000
  (blk == 0x05 || blk == 0x18 || blk == 0x19) && (match src.req with
    | .engine e => match (s.lane src.lane).engines[e].cur with
      | some t => !(s.lane src.lane).tPriv t
      | none => false
    | _ => false)

/-! Forerunner compatibility window (R491, R492, R409). -/

/-- PAR filled in: the word holds an even number of ones. -/
def frParity (w : Word) : Word := withField w 31 1 (popCount (withField w 31 1 0) % 2)

/-- Code of the mode in the window. -/
def frMode : Mode → Nat
  | .reset => 0
  | .configure => 0
  | .stop => 1
  | .retain => 1
  | .run => 2
  | .single => 2
  | .hold => 2
  | .safe => 3

/-- A word of the window as it reads in a lane, none where no register stands. -/
def State.frView (s : State) (l : LaneId) (off : Nat) : Option Word :=
  let L := s.lane l
  let mtr (n k : Nat) : Nat := L.mtr.e.getD ((n * 4 + 3) * 7 + k) 0 / 2 ^ 32
  let thq (i : Nat) : Nat := (L.thq.acc.getD i ThqAcc.init).fwd / 2 ^ 32
  let wrap (v u : Nat) : Nat := v / (u * 2 ^ 32) % 16
  if off % 4 ≠ 0 then none
  else if off = 0 then some 0x00010400
  else if off = 4 then some (frParity (BitVec.ofNat 32 (frMode s.mode.mode)))
  else if off = 8 ∨ off = 0xC then some 0
  else if off = 0x10 then some (frParity (BitVec.ofNat 32 (L.fld 0x40080004 0 16)))
  else if 0x1000 ≤ off ∧ off < 0x2000 then
    let i := (off - 0x1000) / 4
    some (frParity (BitVec.ofNat 32 (bit (L.flag (aSub i) 5) * 2 + bit (L.flag (aSub i) 0))))
  else if 0x2000 ≤ off ∧ off < 0x2100 then
    let n := (off - 0x2000) / 0x20
    let k := off % 0x20 / 4
    some (BitVec.ofNat 32 (if k < 7 then mtr n k / 100000 else (List.range 7).foldl (fun w j => w + wrap (mtr n j) 100000 * 16 ^ j) 0))
  else if 0x2100 ≤ off ∧ off < 0x2500 then some (BitVec.ofNat 32 (thq ((off - 0x2100) / 4) / 100))
  else if 0x2500 ≤ off ∧ off < 0x2580 then
    some (BitVec.ofNat 32 ((List.range 8).foldl (fun w j => w + wrap (thq (8 * ((off - 0x2500) / 4) + j)) 100 * 16 ^ j) 0))
  else none

end Sys2Proof.Machine
end

