-- ==== Sys2Proof/Machine/Slow.lean ====
section
/-! DEFINITION. Machine/Slow.lean: the indirect window (21: R489; R17, R38, R39) and the snapshot (R490). -/
namespace Sys2Proof.Machine

/-- The state a row leaves. -/
def Out.st (s : State) (o : Out) : State :=
  match o with
  | .next t => t
  | _ => s

/-- Which time register of the calendar a slow address names. -/
def rtcTimeReg (a : Nat) : Option Nat := if 0x010000 ≤ a ∧ a ≤ 0x010018 ∧ a % 4 = 0 then some ((a - 0x010000) / 4) else none

/-- A word of the keeper as stored, before the vote on its ·TV fields. -/
def State.kprRaw (s : State) (l : LaneId) (a : Nat) : Word :=
  if a = 0x01002C then BitVec.ofNat 32 (bit s.keeper.rtc.setPend.isSome * 16 + bit (s.lane l).rtcFrozen.isSome * 8 + s.keeper.fld a 0 3)
  else s.kprView a

/-- A slow register read through a lane (R38, R388, R488): the state with the word as its reply, none where no register stands. -/
def State.slowRead (s : State) (l : LaneId) (a : Nat) : Option State :=
  match rtcTimeReg a with
  | some r => some (s.rtcRead l r)
  | none =>
    if a = 0x020000 ∨ a = 0x030000 then some (s.ok (BitVec.ofNat 32 Config.pmicRev.toNat))
    else if a = 0x040000 then some (s.ok (BitVec.ofNat 32 Config.chestRev.toNat))
    else match regAt a with
      | some (r, _, _) => some (s.ok (if r.wo = allOnes then 0 else tvVoted s.keeper.tv a (s.kprRaw l a)))
      | none => none

/-- The lane on whose PMIC a slow address stands. -/
def pmicOwner (a : Nat) : Option LaneId := if a / 0x10000 = 2 then some .a else if a / 0x10000 = 3 then some .b else none
/-- A slow register of the keeper whose write is a command, by name. -/
def State.kprCmd (s : State) (src : Src) (name : String) (w : Word) : Option State :=
  let key : Half := w.extractLsb' 16 16
  let anchor : Fin 4 := Fin.ofNat 4 (fieldOf w 4 2)
  if name == "RTC_CMD" then some (if bitOf w 0 then (execRtcGo src key s).st s else s.ok)
  else if name == "RTC_WAKE" then some ((execRtcWakeWrite src w s).st s)
  else if name == "KPR_OTP_CMD" then
    some (if fieldOf w 0 2 = 1 then (execAnchorProgram src key anchor s).st s
      else if fieldOf w 0 2 = 2 then (execAnchorRevoke src key anchor s).st s else s.ok)
  else none
/-- A plain slow register of the keeper. -/
def State.kprWrite (s : State) (src : Src) (r : RegRow) (a : Nat) (w : Word) : State :=
  if !s.dieOpen src then s.ok
  else
    let v := r.merge (s.keeper.get a) w
    if !rtcCheck r.name v then s.indFail src 2
    else ((if r.name == "RTC_TRIM" then s.rtcSettle else s).keep fun k => (k.put a v).tvClear a).ok

/-- A slow register written by a source (R16, R17, R38): ERR 1 NO_TARGET, 2 REFUSED, 3 WRONG_PMIC. -/
def State.slowWrite (s : State) (src : Src) (a : Nat) (w : Word) : State :=
  match pmicOwner a with
  | some o => s.perLane src fun l s =>
      if l ≠ o then s.indFailIn l src.req 3
      else if a % 0x10000 = 0 then s.ok
      else s.indFailIn l src.req 1
  | none =>
    match regAt a with
    | none => s.indFail src 1
    | some p => (s.kprCmd src p.1.name w).getD (s.kprWrite src p.1 a w)

/-! IND_DATA of one lane's requester. -/

/-- The requester's address after an access (R489). -/
def IndSt.step (i : IndSt) : IndSt := if bitOf i.addr 31 then { i with addr := withField i.addr 0 24 (i.addr.toNat % 2 ^ 24 + 4) } else i

/-- A read of IND_DATA in one lane: it stalls while a posted write waits. -/
def State.indRead (s : State) (l : LaneId) (req : Requester) : State :=
  let i := (s.lane l).indOf req
  if i.busy.isSome then { s with reply := .stall }
  else
    let s1 := s.upd l fun L => L.setInd { i.step with err := 0 }
    match s1.slowRead l (i.addr.toNat % 2 ^ 24) with
    | some s2 => s2
    | none => { (s1.upd l fun L => L.setInd { L.indOf req with err := 1 }).raise l 0x08 with reply := .indError }
def execIndDataRead (src : Src) (s : State) : Out := .next (s.perLaneRead src fun l s => s.indRead l src.req)

/-- A write of IND_DATA in one lane is posted. -/
def State.indPost (s : State) (l : LaneId) (req : Requester) (data : Word) : State :=
  let i := (s.lane l).indOf req
  if i.busy.isSome then { s with reply := .stall }
  else (s.upd l fun L => L.setInd { i.step with err := 0, busy := some (i.addr.toNat % 2 ^ 24, data) }).ok
def execIndDataWrite (src : Src) (data : Word) (s : State) : Out := .next (s.perLane src fun l s => s.indPost l src.req data)

/-- A write through an alias of IND_DATA (R36): the slow register is read and the word made of it is posted, as one access. Where no
register stands the access ends as its read does, and writes nothing. -/
def State.indAlias (s : State) (l : LaneId) (req : Requester) (f : Word → Word) : State :=
  let i := (s.lane l).indOf req
  if i.busy.isSome then { s with reply := .stall }
  else match s.slowRead l (i.addr.toNat % 2 ^ 24) with
    | none => s.indRead l req
    | some s1 => match s1.reply with
      | .ok w => s1.indPost l req (f w)
      | _ => s1

/-- The target applies the posted write of a source, and BUSY clears. -/
def State.indApplied (s : State) (src : Src) : State :=
  let waiting := (s.lanesOf src).filterMap fun l => ((s.lane l).indOf src.req).busy.map fun b => (l, b)
  match waiting with
  | [] => s
  | (_, (a, w)) :: _ =>
    (s.each (waiting.map (·.1)) fun l s => s.upd l fun L => L.setInd { L.indOf src.req with busy := none }).slowWrite src a w
def execIndWriteApplied (src : Src) (s : State) : Out := .next (s.indApplied src)

/-! Snapshot. -/

/-- A request (R490): at the first 250 us tick after it, in both lanes. -/
def State.snapAsk (s : State) : State :=
  (s.each s.ups fun l s => s.upd l fun L => { L with snapAt := some (L.snapAt.getD s.next250) }).ok
def State.snapCmd (s : State) (src : Src) (key : Half) : State :=
  if (s.lanesOf src).isEmpty then s.busErr else if key ≠ 0x534E then s.ok else s.snapAsk
def execSnapTake (src : Src) (key : Half) (s : State) : Out := .next (s.snapCmd src key)

/-- The lane copies its counters and the count at one handshake boundary within 2 us of the tick (R490). -/
def State.snapLane (s : State) (l : LaneId) : State :=
  if (s.lane l).snapAt.isNone then s
  else
    let (v, s1) := s.fresh
    let ns := s1.ns + v.toNat % 2001
    (s1.upd l fun L =>
      let L1 := L.countersHold.putWords 0x40080100 (s1.field.di.toList.map (·.cnt))
      { (((L1.putN 0x40080008 ns).putN 0x4008000C (ns / 2 ^ 32)).putN 0x40080004 (L.getN 0x40080004 + 1)) with snapAt := none }).raise l 0x0A
def State.snapNow (s : State) : State :=
  match (s.ups.filterMap fun l => (s.lane l).snapAt).min? with
  | none => s
  | some due => let s1 := s.advTo due; s1.each s1.ups fun l s => s.snapLane l
def execSnapCapture (s : State) : Out := .next s.snapNow

end Sys2Proof.Machine
end

