-- ==== Sys2Proof/Machine/Regs.lean ====
section
/-! DEFINITION. Machine/Regs.lean: register accesses (21: R486, R487; R9, R35-R37, R85, R86, R93, R280): reads and writes of
one word, the alias regions, accesses of other widths, and the pieces of DMA transfers that lie in register space. A write to
a register whose command has a row of its own is that row's command. -/
namespace Sys2Proof.Machine

/-- Facts of a power-up that a plain write of SYS_RESET_CMD starts: free. -/
def State.freeFacts (s : State) : BootFacts × State :=
  let (v, s1) := s.fresh
  ({ readyA := v.getLsbD 0, readyB := v.getLsbD 1, provEn := v.getLsbD 2, digestsAgree := v.getLsbD 3 }, s1)

/-! Command registers: their word as the rows' operands. -/

/-- A write to a command register, in every lane it reaches; none for a register that is no command. -/
def State.cmdWrite [RegIO] (s : State) (src : Src) (name : String) (i a : Nat) (w : Word) : Option State :=
  let key : Half := w.extractLsb' 16 16
  let op := fieldOf w 0 2
  let pl (f : LaneId → State → State) : State := s.perLane src f
  let none_ : State := pl fun _ s => s.ok
  match name with
  | "SYS_MODE_CMD" =>
    let t := fieldOf w 0 4
    let task : Fin 8 := Fin.ofNat 8 (fieldOf w 4 3)
    let low := fieldOf w 0 7
    some (match t with
      | 1 => s.modeCmd src key low State.cmdConfigure
      | 2 => s.modeCmd src key low State.cmdStop
      | 3 => s.modeCmd src key low State.cmdRun
      | 5 => s.modeCmd src key low (·.cmdHold task)
      | 6 => s.modeCmd src key low State.cmdSafe
      | _ => s.modeCmd src key low fun s => s.modeRefused 1)
  | "SYS_BOOT_CFG" => some (s.bootCfgWrite src w)
  | "SYS_RESET_CMD" =>
    if bitOf w 0 then
      let (f, s1) := s.freeFacts
      some (s1.resetFull src key f)
    else some (s.resetLanes src key (bitOf w 1) (bitOf w 2))
  | "TXN_IMG_CMD" => some (s.imgCmd src key (fieldOf w 0 4) (if bitOf w 8 then 1 else 0))
  | "RED_CMD" =>
    some (s.redCmd src key op (match op with
      | 1 => State.redSwitch
      | 2 => State.redDrop
      | 3 => State.redClrCnt
      | _ => State.ok))
  | "PMU_SPRINT_CMD" =>
    some (match op with
      | 1 => (execSprintEnter src key s).st s
      | 2 => (execSprintLeave src key s).st s
      | _ => none_)
  | "TB_CMD" => some (if op = 1 then (execTbStep src key s).st s else none_)
  | "MTR_CMD" => some (if bitOf w 0 then (execMtrSave src key s).st s else none_)
  | "THQ_CMD" => some (if bitOf w 0 then (execThqSave src key s).st s else none_)
  | "EVT_Q_POP" => some (pl fun l s => s.evtPop l (Fin.ofNat 16 i) w)
  | "CYC_TCMD" =>
    let t : Fin 8 := Fin.ofNat 8 (fieldOf w 8 3)
    some (pl fun l s => match op with
      | 1 => s.taskRestart l key t
      | 2 => s.taskStep l key t
      | 3 => s.taskClrCnt l key t
      | _ => s.ok)
  | "DMA_CH_CMD" =>
    let c : Fin 16 := Fin.ofNat 16 i
    some (match op with
      | 1 => pl fun l s => s.dmaCmd l key c [0, 3, 4] fun s => s.dmaStart l c
      | 2 => pl fun l s => s.dmaCmd l key c [2] fun s => s.dmaResume l c
      | 3 => pl fun l s => s.dmaCmd l key c [1, 2] fun s => s.dmaAbortFree l c
      | _ => none_)
  | "TXN_CMD" =>
    some (pl fun l s => match op with
      | 1 => s.txnCommit l src.req key
      | 2 => s.txnRollback l src.req key
      | 3 => s.txnClrCnt l src.req
      | _ => s.ok)
  | "TXN_OLC_CMD" =>
    some (pl fun l s => match fieldOf w 0 3 with
      | 1 => s.olcStart l key
      | 2 => s.olcAbort l key
      | 3 => s.olcRevert l key
      | 4 => s.olcRelease l key
      | _ => s.ok)
  | "IND_DATA" => some (pl fun l s => s.indPost l src.req w)
  | "SNAP_CMD" => some (if bitOf w 0 then s.snapCmd src key else none_)
  | "BEN_POST" => some (pl fun l s => s.benPost l src.req (Fin.ofNat 2 i) w)
  | "PCL_PRED_CMD" =>
    some (pl fun l s => match op with
      | 1 => s.predStart l key
      | 2 => s.predAbort l key
      | _ => s.ok)
  | "CTL_INJ_CMD" =>
    let n : Fin 128 := Fin.ofNat 128 (fieldOf w 8 7)
    some (pl fun l s => match op with
      | 1 => s.injStart l key n
      | 2 => s.injStop l key n
      | _ => s.ok)
  | "CTL_CAP_CMD" =>
    let c : Fin 4 := Fin.ofNat 4 i
    some (pl fun l s => match op with
      | 1 => s.capArm l key c
      | 2 => s.capAbortCmd l key c
      | _ => s.ok)
  | "AXS_CMD" =>
    let x : Fin 16 := Fin.ofNat 16 i
    some (match op with
      | 1 => pl fun l s => s.axRef l key x
      | 2 => (execAxisStop src key x s).st s
      | 3 => pl fun l s => s.axSetPos l key x
      | _ => pl fun l s => if (s.lane l).axEn i then s.ok else s.busErr)
  | "DIO_CMD" =>
    let ch : Byte := w.extractLsb' 8 8
    some (pl fun l s => match op with
      | 1 => s.dqClear l key ch
      | 2 => s.diClrCnt l key ch
      | _ => s.ok)
  | "CAN_FIFO_POP" => some (pl fun l s => s.canFifoPop l (Fin.ofNat 8 i) w)
  | "TB_PTP_RXQ" => some (pl fun l s => if bitOf w 31 then s.ptpPop l else s.ok)
  | "TB_PTP_TXS" => some (pl fun l s => if bitOf w 31 then s.ptpTxsPop l else s.ok)
  | "TB_PTP_TX_CMD" => some (pl fun l s => if op = 1 then s.ptpSend l key (w.extractLsb' 8 8) (bitOf w 2) else s.ok)
  | "MST_CMD" =>
    let k : Fin 4096 := Fin.ofNat 4096 (fieldOf w 4 12)
    some (match op with
      | 1 => (execMstSend src key k s).st s
      | 2 => pl fun l s => s.mstResume l key
      | 3 => (execMstEpoch src key k s).st s
      | _ => none_)
  | "CHS_CMD" => some (pl fun l s => if op = 1 then s.chestStore l key (w.extractLsb' 8 8) else s.ok)
  | "CHS_GRP_CMD" =>
    let g : Fin 8 := Fin.ofNat 8 i
    some (pl fun l s => s.grpCmd key fun s => match op with
      | 1 => s.grpOpen l g (fieldOf w 8 7) (fieldOf w 4 4)
      | 2 => s.grpClose l g
      | 3 => s.grpDiscard l g
      | _ => s.ok)
  | "CHS_PAIR_CMD" =>
    some (pl fun l s => match op with
      | 1 => s.pairCmd l key true
      | 2 => s.pairCmd l key false
      | _ => s.ok)
  | "REC_CMD" =>
    some (pl fun l s => match op with
      | 1 => s.recClear l key
      | 2 => s.recClrCnt l key
      | _ => s.ok)
  | "REC_RAISE" => some (pl fun l s => s.recRaise l src.req key (fieldOf w 0 10))
  | "KEY_CMD" =>
    let k : Fin 32 := Fin.ofNat 32 (fieldOf w 8 5)
    some (pl fun l s => match op with
      | 1 => s.keyWrite l src.req key k
      | 2 => s.keyErase l src.req key k
      | 3 => s.keyDerive l src.req key k
      | _ => s.ok)
  | "ATT_CMD" =>
    some (match op with
      | 1 => pl fun l s => s.attest l src.req key none
      | 2 => s.seedSet src key
      | _ => none_)
  | _ => let _ := a; none

/-! Plain registers of one lane. -/

/-- A write refused for its value: the block's CFG event (chapters' register texts; log 31 for what a block without one does). -/
def State.regRefuse (s : State) (l : LaneId) (name : String) (a i : Nat) : State :=
  match a / 0x10000 with
  | 0x4001 => s.refuse l 0x0D i
  | 0x4002 => s.refuse l 0x29 i
  | 0x4004 => s.refuse l 0x36 i
  | 0x4005 => s.refuse l 0x3A i
  | 0x4006 => s.olcRefuse l
  | 0x4007 => s.refuse l 0x09
  | 0x4009 => s.refuse l 0xFF
  | 0x400A => s.refuse l (if name == "BEN_CFG" then 0x47 else 0x46)
  | 0x400B => s.refuse l 0x57
  | 0x400C => s.refuse l 0x62 (if a < 0x400C1000 then (a - 0x400C0100) / 0x40 else if a < 0x400C2000 then i else i / 8)
  | 0x400D => s.refuse l 0x76 i
  | 0x400E => s.refuse l 0x88 i
  | 0x400F => s.refuse l 0x96 i
  | 0x4010 => s.refuse l 0x9D i
  | 0x4011 => s.canRefuse l i
  | 0x4012 => s.refuse l 0xC2 (if a < 0x40120100 then 0 else i)
  | 0x4013 => s.refuse l 0xC6
  | 0x4014 => s.refuse l 0xD7
  | 0x4015 => s.refuse l 0xDE
  | 0x4016 => s.refuse l 0xEC i
  | 0x4017 => s.refuse l 0xEF
  | 0x4018 => s.keyRefuse l 6
  | 0x4019 => s.attRefuse l 5
  | 0x401A => s.refuse l 0xFA
  | _ => s.busErr

/-- Whether a register takes a value, as its block checks it (R529): `v` is the word the write produces. -/
def State.regOk (s : State) (l : LaneId) (req : Requester) (name : String) (a i j : Nat) (v : Word) : Bool :=
  let L := s.lane l
  match a / 0x10000 with
  | 0x4001 => if name == "EVT_SRC_CFG" then !evtReserved i && 1 ≤ fieldOf v 24 4 else true
  | 0x4002 => L.cycCheck req s.mode.mode name i v
  | 0x4004 =>
    if name == "DMA_CH_CFG" then
      (fieldOf v 0 4 ≤ 7 || fieldOf v 0 4 == 15) && (L.dmaState i == 0 || L.dmaState i == 3 || L.dmaState i == 4)
    else true
  | 0x4005 => L.winCheck req name i v
  | 0x4006 => name != "TXN_OLC_SRC" || L.olcState == 0 || L.olcState == 5
  | 0x4009 => if name == "RED_CFG" then 1 ≤ fieldOf v 16 8 && 1 ≤ fieldOf v 12 4 else true
  | 0x400A => benCheck name v
  | 0x400B => pclCheck name v
  | 0x400C => L.ctlCheck req name a v
  | 0x400D => L.axCheck req name i v
  | 0x400E =>
    dioCheck name v && (if a < 0x400E0100 then true else if a < 0x400E0800 then L.diEn i else L.dqEn i)
  | 0x400F => L.mtrCheck name i v
  | 0x4010 => L.mtrCheck name i v
  | 0x4011 => s.canCheck l req name i j v
  | 0x4012 => ethCheck name v
  | 0x4013 => tbCheck name v
  | 0x4014 => mstRegOk name v
  | 0x4015 => if name == "HCH_CFG" then 1 ≤ fieldOf v 16 12 && fieldOf v 16 12 ≤ 3600 else true
  | 0x4016 => L.chsCheck name i
  | 0x4018 => L.keyCheck name v
  | 0x401A => if name == "PMU_CFG" then fieldOf v 0 8 ≤ 70 else true
  | _ => true

/-- A write of CAN_BUF_CTRL (14): W1C bits act on every buffer; the frame fields, REQ and ABORT on a transmit buffer. -/
def State.canCtrlWrite (s : State) (l : LaneId) (req : Requester) (c : Fin 8) (b : Fin 64) (a : Nat) (r : RegRow) (w : Word) : State :=
  let L := s.lane l
  if !L.canEn c then s.canRefuse l c
  else if !L.canIsTx c b then
    ((s.upd l fun L => L.put a (({ r with rw := 0, w1s := 0 } : RegRow).merge (L.get a) w)).ok)
  else
    let v := ({ r with w1s := 0 } : RegRow).merge (L.get a) w
    let changes := v &&& 0x1EF ≠ L.get a &&& 0x1EF
    let busy := L.canTxs c b = 1 ∨ L.canTxs c b = 2
    if changes && (decide busy || !canFrameOk (L.get (aCan c 0)) (L.get (aBuf c b 0)) v) then s.canRefuse l c
    else
      let s1 := (s.upd l (·.put a v)).ok
      let s2 := if bitOf w 15 then s1.canReq l req c b else s1
      if bitOf w 14 then s2.canAbort l c b else s2

/-- A write to a register whose unit keeps it in its own way; none for the others. -/
def State.ownWrite (s : State) (l : LaneId) (src : Src) (r : RegRow) (i j a : Nat) (w : Word) : Option State :=
  match r.name with
  | "SYS_MODE" => some (s.upd l fun L => if bitOf w 8 then (L.setFlag a 8 false).setFld a 12 4 0 else L).ok
  | "SYS_PACE_STAT" =>
    let s1 := (s.upd l fun L => if bitOf w 0 then (L.setFlag a 0 false).tvClear a else L).ok
    some (if bitOf w 3 then s1.paceMinClr l else s1)
  | "TXN_CFG" => some (if (s.lane l).txnState = 0 then s.upd l (·.put a (w &&& 0x3FF)) else s).ok
  | "TB_RATE" => some (s.rateWrite l w)
  | "BEN_RING_BASE" => some (s.benRingWrite l a w)
  | "BEN_RING_LEN" => some (s.benRingWrite l a w)
  | "BEN_CPL_BASE" => some (s.benRingWrite l a w)
  | "AXS_TGT_POS" => some (s.axTargetWrite l src.req (Fin.ofNat 16 i) false w)
  | "AXS_TGT_SPD" => some (s.axTargetWrite l src.req (Fin.ofNat 16 i) true w)
  | "REC_RAISE_VAL" => some (s.recLatch l src.req w)
  | "CHS_PROT" =>
    let s1 := s.chestSetProt l (Fin.ofNat 4 (fieldOf w 0 2))
    some (if bitOf w 31 ∧ s1.reply ≠ .busError then s1.chestLockIt l else s1)
  | "CHS_STAT" => some (s.chsWrite l a w).ok
  | "CHS_BANK" => some (s.chsWrite l a w).ok
  | "CAN_BUF_CTRL" => some (s.canCtrlWrite l src.req (Fin.ofNat 8 i) (Fin.ofNat 64 j) a r w)
  | "CAN_BUF_ID" => if (s.lane l).canEn (Fin.ofNat 8 i) && !(s.lane l).canIsTx (Fin.ofNat 8 i) (Fin.ofNat 64 j) then some s.ok else none
  | "CAN_BUF_DATA" => if (s.lane l).canEn (Fin.ofNat 8 i) && !(s.lane l).canIsTx (Fin.ofNat 8 i) (Fin.ofNat 64 j) then some s.ok else none
  | "IND_ADDR" =>
    some (if w.getLsbD 0 || w.getLsbD 1 then s.refuse l 0x09
      else (s.upd l fun L => L.setInd { L.indOf src.req with addr := w &&& 0x80FFFFFF }).ok)
  | "KEY_VAL" => some (s.upd l (·.keyStage a w)).ok
  | "ATT_SEED" => some (s.upd l (·.keyStage a w)).ok
  | _ => none

/-- A checked write takes its course (R85, R86, R93): staged by the owner of an open transaction, refused for another while a
transaction is not closed, held as a pair member, or applied. -/
def State.place (s : State) (l : LaneId) (req : Requester) (r : RegRow) (a : Nat) (v : Word) : State :=
  let L := s.lane l
  let mine := decide (L.txnOwner = reqCode req)
  let apply (a : Nat) (v : Word) (s : State) : State := s.applyWord l a v
  if r.t ≠ 0 ∧ L.txnState ≠ 0 then
    (if mine ∧ L.txnState = 1 then s.txnStage l a v else s.txnRefuse l 9)
  else match r.pair with
    | .lo => s.pairWrite l req a (a + 4) v apply
    | .hi => s.pairWrite l req a (a - 4) v apply
    | .none => (s.applyWord l a v).ok

/-- A plain 32-bit write in one lane. The value check of R529 comes before the refusals of R86 and R94 (DESIGN CHOICE, the spec gives
no order; log 46). -/
def State.regWrite (s : State) (l : LaneId) (src : Src) (r : RegRow) (i j a : Nat) (w : Word) : State :=
  let L := s.lane l
  if 0x400D0100 ≤ a ∧ a < 0x400D0500 ∧ !L.axEn i then s.busErr
  else match s.ownWrite l src r i j a w with
    | some s1 => s1
    | none =>
      if r.rw = 0 ∧ r.w1c = 0 ∧ r.w1s = 0 then
        (if (a / 0x10000 = 0x400C ∨ a / 0x10000 = 0x4002) ∧ !s.regOk l src.req r.name a i j w then s.regRefuse l r.name a i else s.ok)
      else
        let v := r.merge (if r.t ≠ 0 ∨ r.pair ≠ .none then s.baseOf l src.req a else L.get a) w
        if !s.regOk l src.req r.name a i j v then s.regRefuse l r.name a i
        else s.place l src.req r a v

/-- A 32-bit write of the register space. -/
def State.write32 [RegIO] (s : State) (src : Src) (a : Nat) (w : Word) : State :=
  if (s.lanesOf src).isEmpty ∨ a % 4 ≠ 0 ∨ s.closed src a then s.busErr
  else match regAt a with
    | none => s.busErr
    | some (r, i, j) =>
      if ringDenied r.name i src.req then s.busErr
      else match s.cmdWrite src r.name i a w with
        | some s1 => s1
        | none => s.perLane src fun l s => s.regWrite l src r i j a w

/-! Aliases (R36, R37). -/

/-- The word an alias write produces on the RW bits: 1 set, 2 clear, 3 toggle. -/
def aliasWord (op : Nat) (old data : Word) : Word :=
  match op with
  | 1 => old ||| data
  | 2 => old &&& ~~~ data
  | _ => old ^^^ data

/-- A write through an alias, `a` the address in the normal region: the RW bits take the new value, written bits of every
other access code are treated as 0. -/
def State.alias32 [RegIO] (s : State) (src : Src) (op a : Nat) (data : Word) : State :=
  if (s.lanesOf src).isEmpty ∨ a % 4 ≠ 0 ∨ s.closed src a then s.busErr
  else match regAt a with
    | none => s.busErr
    | some (r, i, j) =>
      let m : Word := BitVec.ofNat 32 r.rw
      if ringDenied r.name i src.req then s.busErr
      else if r.name == "SYS_BOOT_CFG" then s.write32 src a (aliasWord op s.keeper.bootCfg data &&& m)
      else if r.name == "IND_DATA" then s.perLane src fun l s => s.indAlias l src.req fun w => aliasWord op w data
      else s.perLane src fun l s =>
        if r.rw = 0 ∧ a / 0x10000 ≠ 0x400C ∧ a / 0x10000 ≠ 0x4002 then s.ok
        else
          let old := if r.t ≠ 0 ∨ r.pair ≠ .none then s.baseOf l src.req a else s.viewWord l src.req a
          s.regWrite l src r i j a (aliasWord op old data &&& m)

/-! Forerunner window (R491, R492). -/

/-- Odd parity, or a bit outside the field (R492). -/
def State.frRefuse (s : State) (l : LaneId) : State := (s.raise l 0xFE 0x4F 2).busErr

/-- A write of the window with the field's mask and what the word does. -/
def State.frWrite (s : State) (src : Src) (word mask : Word) (f : State → State) : State :=
  if (s.lanesOf src).isEmpty then s.busErr
  else if popCount word % 2 = 1 ∨ word &&& ~~~ (mask ||| 0x80000000) ≠ 0 then s.perLane src fun l s => s.frRefuse l
  else f s

/-- FR_CMD is carried out as SYS_MODE_CMD with a valid key. -/
def State.frCmd (s : State) (src : Src) (word : Word) : State :=
  s.frWrite src word 7 fun s => match fieldOf word 0 3 with
    | 1 => s.modeCmd src 0x4D4F 2 State.cmdStop
    | 2 => s.modeCmd src 0x4D4F 3 State.cmdRun
    | 3 => s.modeCmd src 0x4D4F 6 State.cmdSafe
    | _ => s.ok
def State.frSnapCmd (s : State) (src : Src) (word : Word) : State :=
  s.frWrite src word 1 fun s => if bitOf word 0 then s.snapAsk else s.ok

/-- The rows of FR_CMD: their word carries their code. -/
def State.frRow (s : State) (src : Src) (word : Word) (code low : Nat) (f : State → State) : State :=
  if fieldOf word 0 3 = code then s.frWrite src word 7 fun s => s.modeCmd src 0x4D4F low f else s.frCmd src word
def execFrCmdStop (src : Src) (word : Word) (s : State) : Out := .next (s.frRow src word 1 2 State.cmdStop)
def execFrCmdRun (src : Src) (word : Word) (s : State) : Out := .next (s.frRow src word 2 3 State.cmdRun)
def execFrCmdSafe (src : Src) (word : Word) (s : State) : Out := .next (s.frRow src word 3 6 State.cmdSafe)
def execFrSnap (src : Src) (word : Word) (s : State) : Out := .next (s.frSnapCmd src word)

/-- The defined field of a register of the window that is read only. -/
def frField (off : Nat) : Word := if off = 0 then 0x7FFFFFFF else if off = 4 then 7 else if off = 0x10 then 0xFFFF else 3
/-- Words written to the window: read-only registers take a word of even parity without effect (R9, R492); the counters carry
no parity. -/
def State.frWrite32 (s : State) (src : Src) (off : Nat) (w : Word) : State :=
  if off = 8 then s.frCmd src w
  else if off = 0xC then s.frSnapCmd src w
  else if (s.lanesOf src).isEmpty then s.busErr
  else if (s.frView (s.readLane src) off).isNone then s.busErr
  else if off < 0x2000 then s.frWrite src w (frField off) State.ok
  else s.ok

/-! One word of register space, wherever it lies. -/

/-- A 32-bit write to register space, an alias or the window. -/
def State.writeAny [RegIO] (s : State) (src : Src) (a : Nat) (w : Word) : State :=
  match regionOf a with
  | .reg => s.write32 src a w
  | .aliasSet => s.alias32 src 1 (a - 0x1000000) w
  | .aliasClr => s.alias32 src 2 (a - 0x2000000) w
  | .aliasTgl => s.alias32 src 3 (a - 0x3000000) w
  | .fr => s.frWrite32 src (a - 0x4F000000) w
  | _ => s.busErr

/-- A read of a register whose read does something, or of any other (R9). -/
def State.readReg (s : State) (l : LaneId) (src : Src) (r : RegRow) (i a : Nat) : State :=
  if ringDenied r.name i src.req then s.busErr
  else if r.name == "TXN_BEGIN" then s.txnBegin l src.req
  else if r.name == "BEN_RESV" then s.benResv l src.req (Fin.ofNat 2 i)
  else if r.name == "TB_NOW_LO" then s.tbLoRead l src.req
  else if r.name == "TB_NOW_HI" then s.tbHiRead l src.req
  else if r.name == "IND_DATA" then s.indRead l src.req
  else if r.side then s.counterLo l src.req a
  else { s.ok (s.viewWord l src.req a &&& ~~~ BitVec.ofNat 32 r.wo) with free := s.free + 1 }
/-- A 32-bit read in one lane: the state with its reply. -/
def State.readIn (s : State) (l : LaneId) (src : Src) (a : Nat) : State :=
  if regionOf a = .fr then (match s.frView l (a - 0x4F000000) with
    | some w => s.ok w
    | none => s.busErr)
  else if regionOf a = .reg then (match regAt a with
    | none => s.busErr
    | some p => s.readReg l src p.1 p.2.1 a)
  else s.busErr

/-- A 32-bit read: in every lane its source reaches, answered with the active lane's data (R481). -/
def State.readAny (s : State) (src : Src) (a : Nat) : State :=
  if (s.readersOf src).isEmpty ∨ a % 4 ≠ 0 ∨ s.closed src a then s.busErr
  else s.perLaneRead src fun l s => s.readIn l src a

/-- The word of a completed read. -/
def Reply.word? : Reply → Option Word
  | .ok w => some w
  | _ => Option.none

/-! Register accesses for the units that reach them through the window table. -/

/-- Accesses whose own effects reach registers through `io`. -/
def regIOver (io : RegIO) : RegIO :=
  { rd := fun s src a => let s1 := s.readAny src a; (s1, s1.reply.word?),
    wr := fun s src a w => let s1 := @State.writeAny io s src a w; (s1, s1.reply.word?.isSome) }
/-- The accesses of every unit. One access may make another through the window table (a command that writes a status to
register space), to a depth of three; beyond it an access is refused (log 52). -/
def regIO : RegIO := regIOver (regIOver (regIOver { rd := fun s _ _ => (s, none), wr := fun s _ _ _ => (s, false) }))

/-- A 32-bit register write, as every requester makes it. -/
def State.regStore (s : State) (src : Src) (a : Nat) (w : Word) : State := @State.writeAny regIO s src a w

/-- ABORT after a given number of pieces (R288). -/
def execDmaAbort (src : Src) (key : Half) (ch : Fin 16) (pieces : Nat) (s : State) : Out :=
  .next (s.perLane src fun l s => s.dmaCmd l key ch [1, 2] fun s => @State.dmaAbort regIO s l ch pieces)

/-- All remaining pieces of the held descriptor. -/
def State.dmaRun [RegIO] (s : State) (l : LaneId) (c : Fin 16) (d : DmaDesc) : State × Nat × Option (Nat × Nat × Nat) :=
  dmaPieces l c d (d.len + 1) s (s.lane l).dma[c].done

/-- A descriptor completes (R287, R290); where one of its pieces would fault, nothing happens: that is the DMA_FAULT row. -/
def rowDmaDescComplete [RegIO] (lane : LaneId) (ch : Fin 16) (s : State) : Out :=
  let L := s.lane lane
  match L.dma[ch].desc with
  | none => .next s
  | some d =>
    if L.dmaState ch ≠ 1 ∨ L.flag (aDma ch 0xC) 10 then .next s
    else if L.dma[ch].copied then .next (s.dmaFinish lane ch d)
    else
      match s.dmaRun lane ch d with
      | (_, _, some _) => .next s
      | (s1, _, none) => .next (s1.dmaCopied lane ch d)

/-- A word with an uncorrectable error stands in the source at an offset (R295). -/
def State.dmaEcc (s : State) (l : LaneId) (ch : Fin 16) (d : DmaDesc) (eccAt : Option Nat) : State :=
  match eccAt with
  | none => s
  | some o =>
    if d.ctrl.testBit 2 ∨ d.len ≤ o then s
    else match (s.lane l).winMap ((s.lane l).heldWins ch) ch (d.src + o) 1 false with
      | .inl _ => s
      | .inr g =>
        if scrubbed g.region then
          let k := memKey g.engine g.addr
          s.upd l fun L => { L with badWords := (L.badWords.filter (· != k / eccGrain k * eccGrain k)) ++ [k / eccGrain k * eccGrain k] }
        else s
/-- A piece faults (R291, R295): `eccAt` is an offset in the source at which a word with an uncorrectable error is met. -/
def rowDmaFault [RegIO] (lane : LaneId) (ch : Fin 16) (eccAt : Option Nat) (s : State) : Out :=
  let L := s.lane lane
  match L.dma[ch].desc with
  | none => .next s
  | some d =>
    if L.dmaState ch ≠ 1 ∨ L.dma[ch].copied then .next s
    else
      match (s.dmaEcc lane ch d eccAt).dmaRun lane ch d with
      | (s1, done, some (kind, phase, addr)) => .next (s1.dmaHalt lane ch kind phase addr done)
      | (_, _, none) => .next s

/-! The rows of plain accesses. -/

/-- REGISTER_WRITE (R486, R487): 32 bits as such, 64 bits as two words, the lower address first; narrow writes are ignored and
reported. -/
def execRegisterWrite (src : Src) (addr : Word) (width : Width) (data : DWord) (s : State) : Out :=
  let a := addr.toNat
  match width with
  | .w32 => .next (s.regStore src a (data.truncate 32))
  | .w64 =>
    if a % 8 ≠ 0 then .next s.busErr
    else
      let s1 := s.regStore src a (data.truncate 32)
      let s2 := s1.regStore src (a + 4) (data.extractLsb' 32 32)
      .next (if s1.reply.word?.isNone then { s2 with reply := s1.reply } else s2)
  | _ =>
    let blk := if regionOf a = .fr then 0x4F else a % 0x1000000 / 0x10000
    let word := a / 4 * 4
    let here := match regionOf a with
      | .reg => (regAt word).isSome
      | .aliasSet => (regAt (word - 0x1000000)).isSome
      | .aliasClr => (regAt (word - 0x2000000)).isSome
      | .aliasTgl => (regAt (word - 0x3000000)).isSome
      | .fr => (s.frView (s.readLane src) (word - 0x4F000000)).isSome
      | _ => false
    if !here || (width == .w16 && a % 2 ≠ 0) || s.closed src a then .next s.busErr
    else .next (s.perLane src fun l s => (s.raise l 0xFE blk 1).busErr)

/-- Alias writes (R36): `addr` is the address in the alias region. -/
def State.aliasRow (s : State) (src : Src) (r : Region) (op base : Nat) (addr data : Word) : State :=
  if regionOf addr.toNat = r then @State.alias32 regIO s src op (addr.toNat - base) data else s.regStore src addr.toNat data
def execAliasSetWrite (src : Src) (addr data : Word) (s : State) : Out := .next (s.aliasRow src .aliasSet 1 0x1000000 addr data)
def execAliasClearWrite (src : Src) (addr data : Word) (s : State) : Out := .next (s.aliasRow src .aliasClr 2 0x2000000 addr data)
def execAliasToggleWrite (src : Src) (addr data : Word) (s : State) : Out := .next (s.aliasRow src .aliasTgl 3 0x3000000 addr data)

/-- A read through an alias is a bus error without effect (R37). -/
def execAliasRead (src : Src) (addr : Word) (s : State) : Out := .next (s.readAny src addr.toNat)

/-! Triple voting (R488). -/

/-- The runs of ones in a mask: lowest bit and width. -/
def maskRuns (m : Nat) : List (Nat × Nat) :=
  (List.range 32).filterMap fun i =>
    if m.testBit i && (i == 0 || !m.testBit (i - 1)) then
      some (i, ((List.range 33).find? fun k => !m.testBit (i + k)).getD 32)
    else none

/-- The scrub meets a register's ·TV fields, in the lane or in the keeper, with the three copies as given (R488). -/
def State.tvScrub (s : State) (l : LaneId) (a : Nat) (c0 c1 c2 : Word) : State :=
  match regAt a with
  | none => s
  | some (r, _, _) =>
    let slow := decide (a < 0x50000)
    let raw := if slow then s.kprRaw l a else s.viewRaw l .hc a
    (maskRuns r.tv).foldl (fun (s : State) f =>
      let v0 := fieldOf c0 f.1 f.2
      let v1 := fieldOf c1 f.1 f.2
      let v2 := fieldOf c2 f.1 f.2
      let show_ (v : Nat) (s : State) : State :=
        if slow then { s with keeper := { s.keeper with tv := tvShow s.keeper.tv a f.1 f.2 (fieldOf raw f.1 f.2) v } }
        else s.upd l fun L => { L with tv := tvShow L.tv a f.1 f.2 (fieldOf raw f.1 f.2) v }
      if v0 = v1 ∧ v1 = v2 then show_ v0 s
      else if v0 = v1 ∨ v0 = v2 ∨ v1 = v2 then
        show_ (if v0 = v1 ∨ v0 = v2 then v0 else v1) (s.upd l (·.incFld 0x4007000C 0 32))
      else ((show_ v0 s).setHealth l 3).raise l 0xFD) s
def execTvScrub (lane : LaneId) (addr c0 c1 c2 : Word) (s : State) : Out :=
  .next (if s.isUp lane then s.tvScrub lane addr.toNat c0 c1 c2 else s)

end Sys2Proof.Machine
end

