-- ==== Sys2Proof/Machine/Hc.lean ====
section
/-! DEFINITION. Machine/Hc.lean: the host channel (21: R475-R484) and the service UART (R485). Datagrams stand as their UDP
payload with the address and port of the host; the cryptography is that of Config. -/
namespace Sys2Proof.Machine

def aHch (off : Nat) : Nat := 0x40150000 + off
def State.hcBoth (s : State) (f : HcUnit → HcUnit) : State := s.each s.ups fun l s => s.upd l fun L => { L with hc := f L.hc }

/-! Datagrams (R475, R476). -/

/-- The 16-byte header. -/
def hcHeader (typ : Nat) (session : Half) (len : Nat) (seq xinfo : Word) : Bytes :=
  leBytes 2 0x4348 ++ [1] ++ leBytes 1 typ ++ leBytes 2 session.toNat ++ leBytes 2 len ++ leBytes 4 seq.toNat ++ leBytes 4 xinfo.toNat
def hcHead (d : HcDatagram) : Bytes :=
  leBytes 2 d.magic.toNat ++ leBytes 1 d.version.toNat ++ leBytes 1 d.typ.toNat ++ leBytes 2 d.session.toNat ++ leBytes 2 d.body.length ++
    leBytes 4 d.seq.toNat ++ leBytes 4 d.xinfo.toNat
/-- A well-formed datagram of a type: other magic, version or length is dropped. -/
def hcFits (d : HcDatagram) (typ : Nat) : Bool :=
  d.magic == 0x4348 && d.version == 1 && d.typ.toNat == typ && decide (d.body.length ≤ 1420)

def State.hcSend (s : State) (ip : Bytes) (port : Half) (payload : Bytes) : State := { s with hcOut := s.hcOut ++ [(ip, port, payload)] }

/-- Session key and salt (R464). -/
def Lane.hcKey (L : Lane) (slot : Fin 32) (nH nD : Bytes) : Big :=
  BitVec.ofNat 256 (Config.kmac256 L.keys.slots[slot].value (nH ++ nD) 256 "EMKOLE-HC-KEY")
def Lane.hcSalt (L : Lane) (slot : Fin 32) (nH nD : Bytes) : Nat := Config.kmac256 L.keys.slots[slot].value (nH ++ nD) 32 "EMKOLE-HC-SALT"
/-- The 96-bit nonce: SALT, DIR, SEQ. -/
def hcNonce (salt dir : Nat) (seq : Word) : Bytes := leBytes 4 salt ++ leBytes 4 dir ++ leBytes 4 seq.toNat
/-- Open an encrypted datagram of direction 0. -/
def Lane.hcPlain (L : Lane) (slot : Fin 32) (nH nD : Bytes) (d : HcDatagram) : Option Bytes :=
  Config.gcmOpen (L.hcKey slot nH nD) (hcNonce (L.hcSalt slot nH nD) 0 d.seq) (hcHead d) d.body d.tag
/-- A datagram of the session to the host. -/
def State.hcReply (s : State) (l : LaneId) (h : HcSess) (typ dir : Nat) (seq xinfo : Word) (text : Bytes) : State :=
  let L := s.lane l
  let head := hcHeader typ (BitVec.ofNat 16 (L.fld (aHch 4) 16 16)) text.length seq xinfo
  s.hcSend h.ip h.port (head ++ Config.gcmSeal (L.hcKey h.slot h.nH h.nD) (hcNonce (L.hcSalt h.slot h.nH h.nD) dir seq) head text)

/-- A failed tag (R476): counted; its event at most once per second. -/
def State.hcAuthFail (s : State) (l : LaneId) : State :=
  let due := match (s.lane l).hc.authEvAt with
    | none => true
    | some t => decide (t + sU 1 ≤ s.tb.run)
  let s1 := s.upd l (·.incFld (aHch 0xC) 16 16)
  if due then (s1.upd l fun L => { L with hc := { L.hc with authEvAt := some s.tb.run } }).raise l 0xDB else s1

/-! Opening a session (R477). -/

/-- The host is answered at all: a lane runs, or the module is in RESET with power. -/
def State.hcListens (s : State) : Bool := s.mode.mode != .retain && (!s.ups.isEmpty || s.supply.good)

/-- HELLO. -/
def State.hcHello (s : State) (d : HcDatagram) : State :=
  let L := s.lane s.act
  let cfg := L.get (aHch 0)
  let slot : Fin 32 := Fin.ofNat 32 (fieldOf cfg 8 5)
  let live := match L.hc.sess with
    | none => false
    | some h => decide (s.tb.run < h.lastAt + sU (fieldOf cfg 16 12))
  if !hcFits d 1 || d.body.length ≠ 32 || !s.hcListens then s
  else if s.mode.mode == .reset || s.ups.isEmpty || (L.imgKey 0 slot).isNone || !bitOf cfg 0 || live then
    (s.hcSend d.ip d.port (hcHeader 8 0 0 0 0)).raiseUp 0xDA
  else
    let nD := slice (Config.randomNonce s.hello) 0 32
    let num := Config.sessionNumber s.hello
    let s1 := { s.each s.ups (fun l s => s.hcEnd l) with hello := s.hello + 1 }
    (s1.hcBoth fun u => { u with chal := some { session := num, ip := d.ip, port := d.port, nH := d.body, nD := nD, slot := slot, at_ := s.tb.run } }).hcSend
      d.ip d.port (hcHeader 2 num 32 0 0 ++ nD)
def execHcHello (dg : HcDatagram) (s : State) : Out := .next (s.hcHello dg)

/-- HCH_PEER: the address, IPv4-mapped for IPv4, and the port. -/
def hcPeer (ip : Bytes) (port : Half) : List Word :=
  let a := if ip.length = 4 then zeros 10 ++ [0xFF, 0xFF] ++ ip else slice ip 0 16
  ((List.range 4).map fun w => BitVec.ofNat 32 (u32At a (4 * w))) ++ [BitVec.ofNat 32 port.toNat]

/-- The session a CHALLENGE opens, in every running lane (R477). -/
def State.hcBegun (s : State) (d : HcDatagram) (c : HcChal) : State :=
  let h : HcSess := { ip := d.ip, port := d.port, nH := c.nH, nD := c.nD, slot := c.slot, lastAt := s.tb.run }
  let s1 := s.each s.ups fun l s => s.upd l fun L =>
    { (((L.setFld (aHch 4) 16 16 c.session.toNat).put (aHch 8) 0).putWords (aHch 0x10) (hcPeer d.ip d.port)) with
      hc := { L.hc with chal := none, sess := some h, cache := none, confirm := [], evFrame := none, evSeq := 1, closing := false } }
  (s1.hcReply s1.act h 4 1 0 0 []).raiseUp 0xD8
/-- An OPEN after its tag: none where it failed (R476). -/
def State.hcOpened (s : State) (d : HcDatagram) (c : HcChal) : Option Bytes → State
  | none => s.each s.ups fun l s => s.hcAuthFail l
  | some _ => if d.seq ≠ 0 ∨ !d.body.isEmpty then s else s.hcBegun d c
/-- OPEN. -/
def State.hcOpen (s : State) (d : HcDatagram) : State :=
  match (s.lane s.act).hc.chal with
  | none => s
  | some c =>
    if !hcFits d 3 || d.session ≠ c.session || decide (c.at_ + sU 2 < s.tb.run) || s.mode.mode == .retain || s.mode.mode == .reset then s
    else s.hcOpened d c ((s.lane s.act).hcPlain c.slot c.nH c.nD d)
def execHcOpen (dg : HcDatagram) (s : State) : Out := .next (s.hcOpen dg)

/-- A CHALLENGE is forgotten 2 s after it was sent. -/
def execHcChallengeTimeout (s : State) : Out :=
  match (s.lane s.act).hc.chal with
  | none => .next s
  | some c => .next ((s.advRun (c.at_ + sU 2)).hcBoth fun u => { u with chal := none })

/-! Operations of a REQUEST (R480). -/

structure HcOp where
  code : Nat
  count : Nat
  addr : Nat
  data : Bytes
deriving DecidableEq, Repr

/-- A result record. -/
structure HcRec where
  op : Nat
  status : Nat
  done : Nat
  data : Bytes
deriving DecidableEq, Repr

def HcRec.bytes (r : HcRec) : Bytes := leBytes 1 r.op ++ leBytes 1 r.status ++ leBytes 2 r.done ++ r.data

/-- Bytes of data an operation brings, none where its code, flags or count are not well formed. -/
def hcDataLen (code flags count : Nat) : Option Nat :=
  if flags ≠ 0 then none
  else if code = 1 ∨ code = 6 then (if count ≤ 350 then some 0 else none)
  else if code = 2 ∨ (3 ≤ code ∧ code ≤ 5) ∨ code = 7 then (if count ≤ 350 then some (4 * count) else none)
  else if code = 0xC then (if count ≤ 1024 ∧ count % 4 = 0 then some 0 else none)
  else if code = 0xD then (if count ≤ 1024 ∧ count % 4 = 0 then some count else none)
  else if code = 0xF then (if count = 8 then some 32 else none)
  else if (8 ≤ code ∧ code ≤ 0xB) ∨ code = 0xE ∨ code = 0x10 then (if count = 0 then some 0 else none)
  else none

/-- The operations of a body, or the code of the first head that is not well formed. -/
def hcParse : Nat → Bytes → Sum Nat (List HcOp)
  | 0, bs => if bs.isEmpty then .inr [] else .inl (u8At bs 0)
  | fuel + 1, bs =>
    if bs.isEmpty then .inr []
    else if bs.length < 8 then .inl (u8At bs 0)
    else
      let code := u8At bs 0
      match hcDataLen code (u8At bs 1) (u16At bs 2) with
      | none => .inl code
      | some n =>
        if bs.length < 8 + n then .inl code
        else match hcParse fuel (bs.drop (8 + n)) with
          | .inl c => .inl c
          | .inr ops => .inr ({ code := code, count := u16At bs 2, addr := u32At bs 4, data := (bs.drop 8).take n } :: ops)

/-- Bytes of data an operation returns at most. -/
def HcOp.outLen (o : HcOp) : Nat :=
  if o.code = 1 ∨ o.code = 6 then 4 * o.count else if o.code = 0xC then o.count else if o.code = 8 ∨ o.code = 9 then 4 else 0

/-- What one lane has done of an operation: words done, data, the status that ended it. -/
structure HcAcc where
  done : Nat
  data : Bytes
  bad : Option Nat
deriving DecidableEq, Repr

/-- One word's completion. -/
def HcAcc.note (read ind : Bool) (r : Reply) (x : HcAcc) : HcAcc :=
  if x.bad.isSome then x
  else match r with
    | .busError => { x with bad := some 1 }
    | .indError => if ind then { x with bad := some 3 } else { x with done := x.done + 1, data := if read then x.data ++ zeros 4 else x.data }
    | .ok w => { x with done := x.done + 1, data := if read then x.data ++ leBytes 4 w.toNat else x.data }
    | _ => { x with done := x.done + 1 }
def HcAcc.init : HcAcc := { done := 0, data := [], bad := none }

/-- `n` words from index `i` on, until one fails in the active lane. -/
def hcWords (step : Nat → State → State) (read ind : Bool) : Nat → Nat → State → HcAcc → HcAcc → State × HcAcc × HcAcc
  | 0, _, s, x, y => (s, x, y)
  | n + 1, i, s, x, y =>
    if x.bad.isSome then (s, x, y)
    else
      let s1 := step i { s with peerReply := .none }
      hcWords step read ind n (i + 1) s1 (x.note read ind s1.reply) (y.note read ind (if s1.peerReply = .none then s1.reply else s1.peerReply))

/-- An access that meets the requester's own posted IND write waits for it. -/
def State.hcWait (s : State) (src : Src) (f : State → State) : State :=
  let s1 := f s
  if s1.reply = .stall then f (s.indApplied src) else s1

def HcAcc.rec_ (x : HcAcc) (op : Nat) : HcRec := { op := op, status := x.bad.getD 0, done := x.done, data := x.data }
def hcPlainRec (op status : Nat) (data : Bytes := []) : HcRec := { op := op, status := status, done := 0, data := data }

/-- Whether every word of an operation lies in register space or the window, aligned. -/
def hcAddrOk (a n : Nat) : Bool :=
  a % 4 == 0 && allBelow n fun i => regionOf (a + 4 * i) == .reg || regionOf (a + 4 * i) == .fr
/-- The address of an alias write in the normal region; ADDR may stand in the alias region itself (R480, the worked case of
R484). -/
def hcAliasAddr (code a : Nat) : Nat :=
  let off := (code - 2) * 0x1000000
  if 0x40000000 + off ≤ a ∧ a < 0x41000000 + off then a - off else a

/-- A bulk operation in one lane (R482): the record; a fault is recorded and raised. -/
def State.hcFault (s : State) (l : LaneId) (f : Nat × Nat) : State := (s.winHit l 18 f).raise l 0xDC
def State.hcBulkRead [RegIO] (s : State) (l : LaneId) (o : HcOp) : State × HcRec :=
  let r := s.winReadGo l ((s.lane l).heldWins 18) 18 (o.count + 1) o.addr o.count []
  match r.2.2 with
  | none => (r.1, { op := o.code, status := 0, done := o.count, data := r.2.1 })
  | some f => (r.1.hcFault l f, { op := o.code, status := 4, done := f.2 - o.addr, data := leBytes 1 f.1 ++ r.2.1 })
def State.hcBulkWrite [RegIO] (s : State) (l : LaneId) (o : HcOp) : State × HcRec :=
  let r := s.winWrite l 18 o.addr o.data
  match r.2 with
  | none => (r.1, { op := o.code, status := 0, done := o.count, data := [] })
  | some f => (r.1.hcFault l f, { op := o.code, status := 4, done := f.2 - o.addr, data := leBytes 1 f.1 })
def State.hcBulk [RegIO] (s : State) (l : LaneId) (o : HcOp) : State × HcRec := if o.code = 0xC then s.hcBulkRead l o else s.hcBulkWrite l o

/-- The records of the lane that answers and of the other. -/
abbrev HcAns := State × HcRec × HcRec
def hcSame (s : State) (r : HcRec) : HcAns := (s, r, r)
/-- Up to `n` words by a step. -/
def State.hcRun (s : State) (o : HcOp) (step : Nat → State → State) (read ind : Bool) (n : Nat) : HcAns :=
  let p := hcWords step read ind n 0 s HcAcc.init HcAcc.init
  (p.1, p.2.1.rec_ o.code, p.2.2.rec_ o.code)
/-- RD, WR. -/
def State.hcRead (s : State) (src : Src) (o : HcOp) : HcAns :=
  if !hcAddrOk o.addr o.count then hcSame s (hcPlainRec o.code 2)
  else s.hcRun o (fun i s => s.hcWait src fun s => s.readAny src (o.addr + 4 * i)) true false o.count
def State.hcWrite (s : State) (src : Src) (o : HcOp) : HcAns :=
  if !hcAddrOk o.addr o.count then hcSame s (hcPlainRec o.code 2)
  else s.hcRun o (fun i s => s.hcWait src fun s => s.regStore src (o.addr + 4 * i) (BitVec.ofNat 32 (u32At o.data (4 * i)))) false false o.count
/-- The requester's IND address for a run of slow words. -/
def State.hcIndAddr (s : State) (src : Src) (a : Nat) : State :=
  (s.indApplied src).perLane src fun l s => s.upd l fun L => L.setInd { L.indOf src.req with addr := BitVec.ofNat 32 (2 ^ 31 + a) }
/-- IND_RD, IND_WR. -/
def State.hcIndRead (s : State) (src : Src) (o : HcOp) : HcAns :=
  if o.addr % 4 ≠ 0 ∨ 2 ^ 24 ≤ o.addr then hcSame s (hcPlainRec o.code 2)
  else (s.hcIndAddr src o.addr).hcRun o (fun _ s => s.perLane src fun l s => s.indRead l src.req) true true o.count
def State.hcIndWrite (s : State) (src : Src) (o : HcOp) : HcAns :=
  if o.addr % 4 ≠ 0 ∨ 2 ^ 24 ≤ o.addr then hcSame s (hcPlainRec o.code 2)
  else (s.hcIndAddr src o.addr).hcRun o
    (fun i s => (s.perLane src fun l s => s.indPost l src.req (BitVec.ofNat 32 (u32At o.data (4 * i)))).indApplied src) false true o.count
/-- SNAP: the number of the snapshot taken. -/
def State.hcSnap (s : State) (l : LaneId) : HcAns :=
  let s1 := s.snapAsk.snapNow
  let out (l : LaneId) : HcRec := hcPlainRec 8 0 (leBytes 4 ((s1.lane l).getN 0x40080004))
  (s1, out l, out (other l))
/-- TXN_BEGIN. -/
def State.hcBegin (s : State) (src : Src) (o : HcOp) : HcAns :=
  let r := s.hcRun o (fun _ s => s.readAny src 0x40060000) true false 1
  (r.1, { r.2.1 with done := 0 }, { r.2.2 with done := 0 })
/-- TXN_COMMIT, TXN_ROLLBACK. -/
def State.hcTxn (s : State) (src : Src) (l : LaneId) (o : HcOp) : HcAns :=
  let s1 := s.regStore src 0x40060004 (BitVec.ofNat 32 (o.addr % 2 ^ 16 * 2 ^ 16 + (o.code - 9)))
  let st (l : LaneId) : HcRec := hcPlainRec o.code (if [6, 7].contains ((s1.lane l).fld aTxnStat 20 4) then 5 else 0)
  (s1, st l, st (other l))
/-- SET, CLR, TGL. -/
def State.hcAlias (s : State) (src : Src) (o : HcOp) : HcAns :=
  let a := hcAliasAddr o.code o.addr
  if !(hcAddrOk a o.count && allBelow o.count fun i => regionOf (a + 4 * i) == .reg) then hcSame s (hcPlainRec o.code 2)
  else s.hcRun o (fun i s => @State.alias32 regIO s src (o.code - 2) (a + 4 * i) (BitVec.ofNat 32 (u32At o.data (4 * i)))) false false o.count
/-- MEM_RD, MEM_WR: in both lanes for the host. -/
def State.hcMove [RegIO] (s : State) (src : Src) (l : LaneId) (o : HcOp) : HcAns :=
  if o.addr % 4 ≠ 0 then hcSame s (hcPlainRec o.code 2)
  else if src.req = .hc ∧ s.isUp (other l) then
    let p := s.hcBulk (other l) o
    let q := p.1.hcBulk l o
    (q.1, q.2, p.2)
  else
    let q := s.hcBulk l o
    hcSame q.1 q.2
/-- EVT_ACK of the outstanding frame. -/
def State.hcAck (s : State) (src : Src) (l : LaneId) (o : HcOp) : HcAns :=
  let seq : Word := BitVec.ofNat 32 o.addr
  let hit := match (s.lane l).hc.evFrame with
    | some f => f.1 == seq
    | none => false
  hcSame (if hit && src.req == .hc then s.hcBoth fun u => { u with evFrame := none, closing := u.closing || seq == 0xFFFFFFFF } else s) (hcPlainRec o.code 0)
/-- ATTEST. -/
def State.hcAttest (s : State) (src : Src) (o : HcOp) : HcAns :=
  let s1 := s.perLane src fun l s => s.attest l src.req 0x4154 (some (BitVec.ofNat 256 (leVal o.data)))
  hcSame s1 (hcPlainRec o.code (if s1.reply = .busError then 5 else 0))

/-- Operations that move a COUNT of words or bytes. -/
def hcCounted (code : Nat) : Bool := decide (code ≤ 7) || code == 0xC || code == 0xD
/-- One operation: the state with the records of the lane that answers and of the other. A COUNT of 0 is no access (R12). -/
def State.hcOp [RegIO] (s : State) (src : Src) (o : HcOp) : HcAns :=
  if hcCounted o.code && o.count == 0 then hcSame s (hcPlainRec o.code 0)
  else if o.code = 1 then s.hcRead src o
  else if o.code = 2 then s.hcWrite src o
  else if o.code = 6 then s.hcIndRead src o
  else if o.code = 7 then s.hcIndWrite src o
  else if o.code = 8 then s.hcSnap (s.readLane src)
  else if o.code = 9 then s.hcBegin src o
  else if o.code = 0xC ∨ o.code = 0xD then s.hcMove src (s.readLane src) o
  else if o.code = 0xE then s.hcAck src (s.readLane src) o
  else if o.code = 0xF then s.hcAttest src o
  else if o.code = 0x10 then hcSame (if src.req = .hc then s.hcBoth fun u => { u with closing := true } else s) (hcPlainRec o.code 0)
  else if o.code = 0xA ∨ o.code = 0xB then s.hcTxn src (s.readLane src) o
  else s.hcAlias src o

/-- Operations in order; a failing one ends the request. -/
def State.hcOps [RegIO] (s : State) (src : Src) : List HcOp → List HcRec → List HcRec → State × List HcRec × List HcRec
  | [], xs, ys => (s, xs, ys)
  | o :: os, xs, ys =>
    let r := s.hcOp src o
    if r.2.1.status = 0 then r.1.hcOps src os (xs ++ [r.2.1]) (ys ++ [r.2.2])
    else
      let rest := os.map fun o => hcPlainRec o.code 6
      (r.1, xs ++ [r.2.1] ++ rest, ys ++ [r.2.2] ++ rest)

/-- A REQUEST body carried out: the response body of the lane that answers and that of the other. -/
def State.hcBody [RegIO] (s : State) (src : Src) (body : Bytes) : State × Bytes × Bytes :=
  match hcParse body.length body with
  | .inl c => (s, (hcPlainRec c 7).bytes, (hcPlainRec c 7).bytes)
  | .inr ops =>
    if 1420 < (ops.map fun o => 4 + o.outLen).foldl (· + ·) 0 then
      let c := ((ops.head?).map (·.code)).getD 0
      (s, (hcPlainRec c 8).bytes, (hcPlainRec c 8).bytes)
    else
      let r := s.hcOps src ops [] []
      (r.1, (r.2.1.map HcRec.bytes).flatten, (r.2.2.map HcRec.bytes).flatten)

/-! Requests, responses, events (R479, R481, R483). -/

def hcSrc : Src := { lane := .a, req := .hc }

/-- The session of a lane ends once its closing answer is out (R478). -/
def State.hcClose (s : State) : State := if (s.lane s.act).hc.closing then s.each s.ups fun l s => s.hcEnd l else s

/-- The active lane sends its first waiting frame. -/
def State.hcFlush (s : State) : State :=
  let l := s.act
  let L := s.lane l
  match L.hc.sess, L.hc.confirm with
  | some h, (isEv, seq, text) :: _ =>
    let s1 := s.each s.ups fun l s => s.upd l fun L => { L with hc := { L.hc with confirm := L.hc.confirm.filter fun c => !(c.1 == isEv && c.2.1 == seq) } }
    if isEv then
      match L.hc.evFrame with
      | some f => (s1.hcBoth fun u => { u with evSentAt := s.tb.run }).hcReply l h 7 2 f.1 f.2.1 f.2.2
      | none => s1
    else (s1.hcReply l h 6 1 seq 0 text).hcClose
  | _, _ => s

/-- A REQUEST with the next SEQ is carried out; its answer waits for the standby (R481). -/
def State.hcExecute [RegIO] (s : State) (l : LaneId) (seq : Word) (body : Bytes) : State :=
  let r := s.hcBody hcSrc body
  let s2 := r.1.each r.1.ups fun l' s => s.upd l' fun L =>
    let text := if l' = l then r.2.1 else r.2.2
    { L.put (aHch 8) seq with hc := { L.hc with cache := some (seq, text), closing := L.hc.closing || seq == 0xFFFFFFFF,
                                                confirm := L.hc.confirm ++ [(false, seq, text)] } }
  if s2.bothUp then s2 else s2.hcFlush
/-- Any other SEQ: the last one is answered again, unless its answer still waits; the rest is counted (R479). -/
def State.hcRepeat (s : State) (l : LaneId) (h : HcSess) (seq : Word) : State :=
  let L := s.lane l
  match L.hc.cache.filter (·.1 == seq) with
  | some c => if L.hc.confirm.any fun c => !c.1 && c.2.1 == seq then s else s.hcReply l h 6 1 seq 0 c.2
  | none => s.each s.ups fun l s => s.upd l (·.incFld (aHch 0xC) 0 16)

/-- A REQUEST after its tag: none where it failed; executed, answered again, or dropped. -/
def State.hcServe [RegIO] (s : State) (d : HcDatagram) (h : HcSess) : Option Bytes → State
  | none => s.each s.ups fun l s => s.hcAuthFail l
  | some body =>
    let s0 := s.hcBoth fun u => { u with sess := u.sess.map fun h => { h with lastAt := s.tb.run } }
    if d.seq.toNat = (s.lane s.act).getN (aHch 8) + 1 then s0.hcExecute s.act d.seq body else s0.hcRepeat s.act h d.seq
/-- REQUEST: of the session alone, decrypted. -/
def State.hcRequest [RegIO] (s : State) (d : HcDatagram) : State :=
  let L := s.lane s.act
  match L.hc.sess with
  | none => s
  | some h =>
    if !hcFits d 5 || d.ip ≠ h.ip || d.port ≠ h.port || d.session.toNat ≠ L.fld (aHch 4) 16 16 || s.mode.mode == .retain || s.mode.mode == .reset then s
    else s.hcServe d h (L.hcPlain h.slot h.nH h.nD d)
def rowHcRequest [RegIO] (dg : HcDatagram) (s : State) : Out := .next (s.hcRequest dg)

/-- Records that an EVENT frame carries leave a stream. -/
def hcKept (text : Bytes) (q : List EvtRec) : List EvtRec :=
  q.filter fun r => !anyBelow (text.length / 16) fun i => u8At text (16 * i) == r.id && u32At text (16 * i + 4) == r.seq.toNat
/-- The standby holds what the active lane is about to send. -/
def State.hcTaken (s : State) (isEv : Bool) (seq : Word) (text : Bytes) : State :=
  if !s.isUp (other s.act) then s
  else if isEv then
    match (s.lane s.act).hc.evFrame with
    | none => s
    | some f => s.upd (other s.act) fun L =>
        { L with evt := { L.evt with hcq := hcKept f.2.2 L.evt.hcq }, hc := { L.hc with evFrame := some f, evSeq := f.1 + 1, dropped := 0 } }
  else s.upd (other s.act) fun L => { L with hc := { L.hc with cache := some (seq, text) } }

/-- The standby has received the frame: it holds the response, or the EVENT frame with the next SEQ, its own copies of the
records gone (R481, R483). The active lane sends. -/
def State.hcConfirm (s : State) : State :=
  let l := s.act
  match (s.lane l).hc.confirm with
  | [] => s
  | (isEv, seq, text) :: _ =>
    (s.hcTaken isEv seq text).hcFlush
def execHcResponseConfirm (s : State) : Out := .next s.hcConfirm

/-- An EVENT frame of up to 64 records (R483). -/
def State.hcEvent (s : State) : State :=
  let l := s.act
  let L := s.lane l
  if L.hc.sess.isNone || L.hc.evFrame.isSome || L.evt.hcq.isEmpty || L.hc.closing then s
  else
    let recs := ((L.evt.hcq.take 64).map EvtRec.bytes).flatten
    let s1 := s.upd l fun L =>
      { L with evt := { L.evt with hcq := L.evt.hcq.drop 64 },
               hc := { L.hc with evFrame := some (L.hc.evSeq, BitVec.ofNat 32 L.hc.dropped, recs), evSeq := L.hc.evSeq + 1, dropped := 0,
                                 evSentAt := s.tb.run, confirm := L.hc.confirm ++ [(true, L.hc.evSeq, [])] } }
    if s1.bothUp then s1 else s1.hcFlush
def execHcEventFrameSend (s : State) : Out := .next s.hcEvent

/-- Every 200 ms until the frame is acknowledged, unchanged (R483). -/
def execHcEventResend (s : State) : Out :=
  let l := s.act
  let L := s.lane l
  match L.hc.sess, L.hc.evFrame with
  | some h, some f =>
    if L.hc.confirm.any (·.1) then .next s
    else
      let s1 := s.advRun (L.hc.evSentAt + msU 200)
      .next ((s1.hcBoth fun u => { u with evSentAt := s1.tb.run }).hcReply l h 7 2 f.1 f.2.1 f.2.2)
  | _, _ => .next s

/-! Service UART (R485). -/

/-- A frame on X14. -/
def State.uartFrame [RegIO] (s : State) (f : Bytes) : State :=
  let len := u16At f 1
  let l := s.act
  if !s.provLatch || u8At f 0 ≠ 0x7E || len < 1 || 1420 < len || f.length ≠ len + 5 || crc16 ((f.drop 1).take (len + 2)) ≠ u16At f (len + 3) || !s.isUp l then s
  else
    let r := s.hcBody { lane := l, req := .uart } ((f.drop 3).take len)
    let head := leBytes 2 r.2.1.length ++ r.2.1
    { r.1 with uartOut := r.1.uartOut ++ [[0x7E] ++ head ++ leBytes 2 (crc16 head)] }
def rowUartFrame [RegIO] (frame : Bytes) (s : State) : Out := .next (s.uartFrame frame)

end Sys2Proof.Machine
end

