-- ==== Sys2Proof/Machine/Rows.lean ====
section
/-! DEFINITION. Machine/Rows.lean: the commands whose effect reaches registers through the window table (R283), each with the register
accesses of the module, and those that can condemn a lane (R311-R313), after which the other lane's Bench jobs agree with
themselves (R158). What each command does stands at its `row…` definition. -/
namespace Sys2Proof.Machine

def execBenchAgreeTimeout (lane : LaneId) (s : State) : Out := @Out.settle regIO (@rowBenchAgreeTimeout regIO lane s)
def execBenchDeadlineMiss (lane : LaneId) (iterations : Nat) (s : State) : Out := @Out.settle regIO (@rowBenchDeadlineMiss regIO lane iterations s)
def execBenchJobEnd (lane : LaneId) (s : State) : Out := @Out.settle regIO (@rowBenchJobEnd regIO lane s)
def execBenchJobStart (lane : LaneId) (s : State) : Out := @rowBenchJobStart regIO lane s
def execBenchPeerStatus (lane : LaneId) (s : State) : Out := @Out.settle regIO (@rowBenchPeerStatus regIO lane s)
def execBootEnd (s : State) : Out := @rowBootEnd regIO s
def execCanTxAttemptStart (ch : Fin 8) (s : State) : Out := @Out.settle regIO (rowCanTxAttemptStart ch s)
def execCommitInstant (s : State) : Out := @Out.settle regIO (rowCommitInstant s)
def execCycleStart (task : Fin 8) (saveFault : Option (LaneId × Fin 16)) (s : State) : Out := @Out.settle regIO (rowCycleStart task saveFault s)
def execDmaChestConfirm (ch : Fin 16) (s : State) : Out := @rowDmaChestConfirm regIO ch s
def execDmaDescComplete (lane : LaneId) (ch : Fin 16) (s : State) : Out := @rowDmaDescComplete regIO lane ch s
def execDmaFault (lane : LaneId) (ch : Fin 16) (eccAt : Option Nat) (s : State) : Out := @rowDmaFault regIO lane ch eccAt s
def execDmaResume (src : Src) (key : Half) (ch : Fin 16) (s : State) : Out := @rowDmaResume regIO src key ch s
def execDmaStart (src : Src) (key : Half) (ch : Fin 16) (s : State) : Out := @rowDmaStart regIO src key ch s
def execHashTimeout (can : Bool) (index : Fin 8) (s : State) : Out := @rowHashTimeout regIO can index s
def execHbLoss (lane : LaneId) (s : State) : Out := @rowHbLoss regIO lane s
def execHcRequest (dg : HcDatagram) (s : State) : Out := @rowHcRequest regIO dg s
def execHeartbeatReceived (lane : LaneId) (viaLink : Bool) (s : State) : Out := @rowHeartbeatReceived regIO lane viaLink s
def execHitlessTakeover (s : State) : Out := @rowHitlessTakeover regIO s
def execLaneLinkFault (s : State) : Out := @rowLaneLinkFault regIO s
def execLoopOutputInstant (loop : Fin 128) (lateA lateB : Bool) (s : State) : Out := @Out.settle regIO (@rowLoopOutputInstant regIO loop lateA lateB s)
def execLoopSample (loop : Fin 128) (s : State) : Out := @Out.settle regIO (rowLoopSample loop s)
def execModeChangeTakesEffect (s : State) : Out := @rowModeChangeTakesEffect regIO s
def execMstSetpointEval (s : State) : Out := @Out.settle regIO (rowMstSetpointEval s)
def execMstTelegramProcess (lane : LaneId) (s : State) : Out := @rowMstTelegramProcess regIO lane s
def execOlcSwitch (s : State) : Out := @Out.settle regIO (rowOlcSwitch s)
def execOverrunInstant (task : Fin 8) (s : State) : Out := @rowOverrunInstant regIO task s
def execPclStepStart (s : State) : Out := @Out.settle regIO (rowPclStepStart s)
def execPowerFail (s : State) : Out := @rowPowerFail regIO s
def execPredAbort (src : Src) (key : Half) (s : State) : Out := @rowPredAbort regIO src key s
def execPredDeadlineMiss (lane : LaneId) (steps : Nat) (s : State) : Out := @Out.settle regIO (@rowPredDeadlineMiss regIO lane steps s)
def execPredEnd (lane : LaneId) (s : State) : Out := @Out.settle regIO (@rowPredEnd regIO lane s)
def execPredStart (src : Src) (key : Half) (s : State) : Out := @rowPredStart regIO src key s
def execProfilePeriod (s : State) : Out := @Out.settle regIO (rowProfilePeriod s)
def execPublishInstant (s : State) : Out := @Out.settle regIO (rowPublishInstant s)
def execRedDrop (src : Src) (key : Half) (s : State) : Out := @rowRedDrop regIO src key s
def execRedLaneReset (s : State) : Out := @rowRedLaneReset regIO s
def execResetCmdLane (src : Src) (key : Half) (laneA laneB : Bool) (s : State) : Out := @rowResetCmdLane regIO src key laneA laneB s
def execResvTimeout (lane : LaneId) (ring : Fin 2) (s : State) : Out := @Out.settle regIO (@rowResvTimeout regIO lane ring s)
def execRunStart (s : State) : Out := @rowRunStart regIO s
def execUartFrame (frame : Bytes) (s : State) : Out := @rowUartFrame regIO frame s

end Sys2Proof.Machine
end

