-- ==== Sys2Proof/Machine/Dispatch.lean ====
section
/-! DEFINITION. Machine/Dispatch.lean: one arm per constructor of Instr, each one direct call of that command's meaning. -/
namespace Sys2Proof.Machine

/-- The effect of a command on everything but the queue. -/
def exec (i : Instr) (s : State) : Host.Outcome State Fault Refusal :=
  match i with
  | .powerGood pa pb facts => Sys2Proof.Machine.execPowerGood pa pb facts s
  | .laneReadyTimeout lane => Sys2Proof.Machine.execLaneReadyTimeout lane s
  | .bootEnd => Sys2Proof.Machine.execBootEnd s
  | .bootWatchdogExpiry lane => Sys2Proof.Machine.execBootWatchdogExpiry lane s
  | .resetPin lowNs facts => Sys2Proof.Machine.execResetPin lowNs facts s
  | .resetCmdFull src key facts => Sys2Proof.Machine.execResetCmdFull src key facts s
  | .resetCmdLane src key laneA laneB => Sys2Proof.Machine.execResetCmdLane src key laneA laneB s
  | .bootCfgWrite src data => Sys2Proof.Machine.execBootCfgWrite src data s
  | .modeCmdStop src key => Sys2Proof.Machine.execModeCmdStop src key s
  | .modeCmdConfigure src key => Sys2Proof.Machine.execModeCmdConfigure src key s
  | .modeCmdRun src key => Sys2Proof.Machine.execModeCmdRun src key s
  | .modeCmdHold src key task => Sys2Proof.Machine.execModeCmdHold src key task s
  | .modeCmdSafe src key => Sys2Proof.Machine.execModeCmdSafe src key s
  | .modeCmdNotCommandable src key target => Sys2Proof.Machine.execModeCmdNotCommandable src key target s
  | .modeChangeTakesEffect => Sys2Proof.Machine.execModeChangeTakesEffect s
  | .runStart => Sys2Proof.Machine.execRunStart s
  | .powerFail => Sys2Proof.Machine.execPowerFail s
  | .chestPowerFailStoreEnd => Sys2Proof.Machine.execChestPowerFailStoreEnd s
  | .retainEnd facts => Sys2Proof.Machine.execRetainEnd facts s
  | .feedLost feed => Sys2Proof.Machine.execFeedLost feed s
  | .feedRestored feed => Sys2Proof.Machine.execFeedRestored feed s
  | .holdupCharged => Sys2Proof.Machine.execHoldupCharged s
  | .paceWindowEnd lane steps => Sys2Proof.Machine.execPaceWindowEnd lane steps s
  | .paceMinClr src => Sys2Proof.Machine.execPaceMinClr src s
  | .registerWrite src addr width data => Sys2Proof.Machine.execRegisterWrite src addr width data s
  | .aliasSetWrite src addr data => Sys2Proof.Machine.execAliasSetWrite src addr data s
  | .aliasClearWrite src addr data => Sys2Proof.Machine.execAliasClearWrite src addr data s
  | .aliasToggleWrite src addr data => Sys2Proof.Machine.execAliasToggleWrite src addr data s
  | .aliasRead src addr => Sys2Proof.Machine.execAliasRead src addr s
  | .txnBegin src => Sys2Proof.Machine.execTxnBegin src s
  | .txnCommit src token => Sys2Proof.Machine.execTxnCommit src token s
  | .txnRollback src token => Sys2Proof.Machine.execTxnRollback src token s
  | .txnClrCnt src => Sys2Proof.Machine.execTxnClrCnt src s
  | .commitInstant => Sys2Proof.Machine.execCommitInstant s
  | .txnIdleTimeout lane => Sys2Proof.Machine.execTxnIdleTimeout lane s
  | .pairTimeout lane addr => Sys2Proof.Machine.execPairTimeout lane addr s
  | .imgWrite src key slot => Sys2Proof.Machine.execImgWrite src key slot s
  | .imgErase src key slot => Sys2Proof.Machine.execImgErase src key slot s
  | .imgCheck src key slot => Sys2Proof.Machine.execImgCheck src key slot s
  | .imgLoad src key slot => Sys2Proof.Machine.execImgLoad src key slot s
  | .loaderDone worn => Sys2Proof.Machine.execLoaderDone worn s
  | .benResv src ring => Sys2Proof.Machine.execBenResv src ring s
  | .benPost src ring data => Sys2Proof.Machine.execBenPost src ring data s
  | .benRingConfigWrite src addr data => Sys2Proof.Machine.execBenRingConfigWrite src addr data s
  | .resvTimeout lane ring => Sys2Proof.Machine.execResvTimeout lane ring s
  | .benchJobStart lane => Sys2Proof.Machine.execBenchJobStart lane s
  | .benchDeadlineMiss lane iterations => Sys2Proof.Machine.execBenchDeadlineMiss lane iterations s
  | .benchJobEnd lane => Sys2Proof.Machine.execBenchJobEnd lane s
  | .benchPeerStatus lane => Sys2Proof.Machine.execBenchPeerStatus lane s
  | .benchAgreeTimeout lane => Sys2Proof.Machine.execBenchAgreeTimeout lane s
  | .pclStepStart => Sys2Proof.Machine.execPclStepStart s
  | .pclStepEnd => Sys2Proof.Machine.execPclStepEnd s
  | .retStale sub => Sys2Proof.Machine.execRetStale sub s
  | .predStart src key => Sys2Proof.Machine.execPredStart src key s
  | .predAbort src key => Sys2Proof.Machine.execPredAbort src key s
  | .predDeadlineMiss lane steps => Sys2Proof.Machine.execPredDeadlineMiss lane steps s
  | .predEnd lane => Sys2Proof.Machine.execPredEnd lane s
  | .loopSample loop => Sys2Proof.Machine.execLoopSample loop s
  | .loopOutputInstant loop lateA lateB => Sys2Proof.Machine.execLoopOutputInstant loop lateA lateB s
  | .injStart src key loop => Sys2Proof.Machine.execInjStart src key loop s
  | .injStop src key loop => Sys2Proof.Machine.execInjStop src key loop s
  | .capArm src key unit => Sys2Proof.Machine.execCapArm src key unit s
  | .capAbort src key unit => Sys2Proof.Machine.execCapAbort src key unit s
  | .profilePeriod => Sys2Proof.Machine.execProfilePeriod s
  | .setpointLate axis => Sys2Proof.Machine.execSetpointLate axis s
  | .holdCurrentDelay axis => Sys2Proof.Machine.execHoldCurrentDelay axis s
  | .stallWindowEnd axis delta emf => Sys2Proof.Machine.execStallWindowEnd axis delta emf s
  | .bridgeFault axis => Sys2Proof.Machine.execBridgeFault axis s
  | .axisRef src key axis => Sys2Proof.Machine.execAxisRef src key axis s
  | .axisStop src key axis => Sys2Proof.Machine.execAxisStop src key axis s
  | .axisSetPos src key axis => Sys2Proof.Machine.execAxisSetPos src key axis s
  | .axisTargetWrite src axis speed data => Sys2Proof.Machine.execAxisTargetWrite src axis speed data s
  | .cycleStart task saveFault => Sys2Proof.Machine.execCycleStart task saveFault s
  | .cycleFinish lane task writes => Sys2Proof.Machine.execCycleFinish lane task writes s
  | .engineTrap lane engine cause epc tval => Sys2Proof.Machine.execEngineTrap lane engine cause epc tval s
  | .publishInstant => Sys2Proof.Machine.execPublishInstant s
  | .mirrorWindowEnd task => Sys2Proof.Machine.execMirrorWindowEnd task s
  | .overrunInstant task => Sys2Proof.Machine.execOverrunInstant task s
  | .rtInfo lane engine => Sys2Proof.Machine.execRtInfo lane engine s
  | .rtNow lane engine => Sys2Proof.Machine.execRtNow lane engine s
  | .rtTmr lane engine sym input => Sys2Proof.Machine.execRtTmr lane engine sym input s
  | .rtEdge lane engine sym input => Sys2Proof.Machine.execRtEdge lane engine sym input s
  | .rtHwtStart lane engine timer duration evt => Sys2Proof.Machine.execRtHwtStart lane engine timer duration evt s
  | .rtHwtStop lane engine timer => Sys2Proof.Machine.execRtHwtStop lane engine timer s
  | .rtHwtQuery lane engine timer => Sys2Proof.Machine.execRtHwtQuery lane engine timer s
  | .rtForced lane engine sym => Sys2Proof.Machine.execRtForced lane engine sym s
  | .hwtExpiry lane timer => Sys2Proof.Machine.execHwtExpiry lane timer s
  | .taskRestart src key task => Sys2Proof.Machine.execTaskRestart src key task s
  | .taskStep src key task => Sys2Proof.Machine.execTaskStep src key task s
  | .taskClrCnt src key task => Sys2Proof.Machine.execTaskClrCnt src key task s
  | .debugHalt lane engine => Sys2Proof.Machine.execDebugHalt lane engine s
  | .debugResume lane engine => Sys2Proof.Machine.execDebugResume lane engine s
  | .olcStart src key => Sys2Proof.Machine.execOlcStart src key s
  | .olcVerifyDone lane => Sys2Proof.Machine.execOlcVerifyDone lane s
  | .olcPeerResult lane => Sys2Proof.Machine.execOlcPeerResult lane s
  | .olcPeerTimeout lane => Sys2Proof.Machine.execOlcPeerTimeout lane s
  | .olcSwitch => Sys2Proof.Machine.execOlcSwitch s
  | .olcAbort src key => Sys2Proof.Machine.execOlcAbort src key s
  | .olcRevert src key => Sys2Proof.Machine.execOlcRevert src key s
  | .olcRelease src key => Sys2Proof.Machine.execOlcRelease src key s
  | .dmaStart src key ch => Sys2Proof.Machine.execDmaStart src key ch s
  | .dmaResume src key ch => Sys2Proof.Machine.execDmaResume src key ch s
  | .dmaAbort src key ch pieces => Sys2Proof.Machine.execDmaAbort src key ch pieces s
  | .dmaDescComplete lane ch => Sys2Proof.Machine.execDmaDescComplete lane ch s
  | .dmaFault lane ch eccAt => Sys2Proof.Machine.execDmaFault lane ch eccAt s
  | .dmaChestConfirm ch => Sys2Proof.Machine.execDmaChestConfirm ch s
  | .scrubRead lane engine addr ecc => Sys2Proof.Machine.execScrubRead lane engine addr ecc s
  | .heartbeatSend lane => Sys2Proof.Machine.execHeartbeatSend lane s
  | .heartbeatReceived lane viaLink => Sys2Proof.Machine.execHeartbeatReceived lane viaLink s
  | .hbLoss lane => Sys2Proof.Machine.execHbLoss lane s
  | .laneLinkFault => Sys2Proof.Machine.execLaneLinkFault s
  | .hashTimeout can index => Sys2Proof.Machine.execHashTimeout can index s
  | .suspectWindowExpiry => Sys2Proof.Machine.execSuspectWindowExpiry s
  | .hitlessTakeover => Sys2Proof.Machine.execHitlessTakeover s
  | .redLaneReset => Sys2Proof.Machine.execRedLaneReset s
  | .redSwitch src key => Sys2Proof.Machine.execRedSwitch src key s
  | .redDrop src key => Sys2Proof.Machine.execRedDrop src key s
  | .redClrCnt src key => Sys2Proof.Machine.execRedClrCnt src key s
  | .resyncBootEnd => Sys2Proof.Machine.execResyncBootEnd s
  | .resyncChainEnd => Sys2Proof.Machine.execResyncChainEnd s
  | .resyncBulkEnd => Sys2Proof.Machine.execResyncBulkEnd s
  | .resyncDirtyPassEnd pendingKiB => Sys2Proof.Machine.execResyncDirtyPassEnd pendingKiB s
  | .resyncFinal => Sys2Proof.Machine.execResyncFinal s
  | .resyncTimeout => Sys2Proof.Machine.execResyncTimeout s
  | .resyncRetry => Sys2Proof.Machine.execResyncRetry s
  | .ethFrameReceived port frame fcsOk => Sys2Proof.Machine.execEthFrameReceived port frame fcsOk s
  | .ethLinkChange port up speed => Sys2Proof.Machine.execEthLinkChange port up speed s
  | .prpSupervisionSend => Sys2Proof.Machine.execPrpSupervisionSend s
  | .prpLanSilent lanB => Sys2Proof.Machine.execPrpLanSilent lanB s
  | .mstDatagramReceived port vid source payload => Sys2Proof.Machine.execMstDatagramReceived port vid source payload s
  | .mstTelegramProcess lane => Sys2Proof.Machine.execMstTelegramProcess lane s
  | .mstValuesVisible => Sys2Proof.Machine.execMstValuesVisible s
  | .mstSubTimeout sub => Sys2Proof.Machine.execMstSubTimeout sub s
  | .mstSetpointEval => Sys2Proof.Machine.execMstSetpointEval s
  | .mstAckTimeout sub => Sys2Proof.Machine.execMstAckTimeout sub s
  | .mstSend src key sub => Sys2Proof.Machine.execMstSend src key sub s
  | .mstResume src key => Sys2Proof.Machine.execMstResume src key s
  | .mstEpoch src key sub => Sys2Proof.Machine.execMstEpoch src key sub s
  | .canFrameReceived ch frame sof => Sys2Proof.Machine.execCanFrameReceived ch frame sof s
  | .canReq src ch buf => Sys2Proof.Machine.execCanReq src ch buf s
  | .canAbort src ch buf => Sys2Proof.Machine.execCanAbort src ch buf s
  | .canTxAttemptStart ch => Sys2Proof.Machine.execCanTxAttemptStart ch s
  | .canTxSuccess ch => Sys2Proof.Machine.execCanTxSuccess ch s
  | .canArbLost ch => Sys2Proof.Machine.execCanArbLost ch s
  | .canTxError ch lec => Sys2Proof.Machine.execCanTxError ch lec s
  | .canBusoffRecovery ch => Sys2Proof.Machine.execCanBusoffRecovery ch s
  | .canPeerTxEvent ch => Sys2Proof.Machine.execCanPeerTxEvent ch s
  | .canFifoPop src ch data => Sys2Proof.Machine.execCanFifoPop src ch data s
  | .tbNowLoRead src => Sys2Proof.Machine.execTbNowLoRead src s
  | .tbNowHiRead src => Sys2Proof.Machine.execTbNowHiRead src s
  | .tbWrap => Sys2Proof.Machine.execTbWrap s
  | .tbRateWrite src data => Sys2Proof.Machine.execTbRateWrite src data s
  | .tbStep src key => Sys2Proof.Machine.execTbStep src key s
  | .tbStepApply => Sys2Proof.Machine.execTbStepApply s
  | .ppsOut => Sys2Proof.Machine.execPpsOut s
  | .ppsInEdge falling => Sys2Proof.Machine.execPpsInEdge falling s
  | .ref10CountEnd count => Sys2Proof.Machine.execRef10CountEnd count s
  | .ptpRx port transport vlan mac ip msg => Sys2Proof.Machine.execPtpRx port transport vlan mac ip msg s
  | .ptpRxPop src => Sys2Proof.Machine.execPtpRxPop src s
  | .ptpSend src key tag oneStep => Sys2Proof.Machine.execPtpSend src key tag oneStep s
  | .ptpTxDepart linkUp => Sys2Proof.Machine.execPtpTxDepart linkUp s
  | .ptpTxLate => Sys2Proof.Machine.execPtpTxLate s
  | .ptpTxsPop src => Sys2Proof.Machine.execPtpTxsPop src s
  | .rtcTimeRead src reg => Sys2Proof.Machine.execRtcTimeRead src reg s
  | .rtcFreezeTimeout lane => Sys2Proof.Machine.execRtcFreezeTimeout lane s
  | .rtcGo src key => Sys2Proof.Machine.execRtcGo src key s
  | .rtcSetApply => Sys2Proof.Machine.execRtcSetApply s
  | .rtcOscStop => Sys2Proof.Machine.execRtcOscStop s
  | .rtcSecond => Sys2Proof.Machine.execRtcSecond s
  | .rtcWake => Sys2Proof.Machine.execRtcWake s
  | .rtcWakeWrite src n => Sys2Proof.Machine.execRtcWakeWrite src n s
  | .mtrIntervalEnd point raw => Sys2Proof.Machine.execMtrIntervalEnd point raw s
  | .mtrModFault ch => Sys2Proof.Machine.execMtrModFault ch s
  | .mtrModOk ch => Sys2Proof.Machine.execMtrModOk ch s
  | .mtrZeroCrossing point phase vals => Sys2Proof.Machine.execMtrZeroCrossing point phase vals s
  | .mtrZcTimeout point phase => Sys2Proof.Machine.execMtrZcTimeout point phase s
  | .thqInstant => Sys2Proof.Machine.execThqInstant s
  | .mtrSave src key => Sys2Proof.Machine.execMtrSave src key s
  | .thqSave src key => Sys2Proof.Machine.execThqSave src key s
  | .counterSavePeriod thq => Sys2Proof.Machine.execCounterSavePeriod thq s
  | .counterLoRead src addr => Sys2Proof.Machine.execCounterLoRead src addr s
  | .diFilterChange ch level => Sys2Proof.Machine.execDiFilterChange ch level s
  | .diWireBreak ch => Sys2Proof.Machine.execDiWireBreak ch s
  | .diWireBreakEnd ch => Sys2Proof.Machine.execDiWireBreakEnd ch s
  | .dqSwitchOnSlot => Sys2Proof.Machine.execDqSwitchOnSlot s
  | .lplusLow group => Sys2Proof.Machine.execLplusLow group s
  | .lplusReturn group => Sys2Proof.Machine.execLplusReturn group s
  | .dqOverload ch => Sys2Proof.Machine.execDqOverload ch s
  | .dqOvertemp ch => Sys2Proof.Machine.execDqOvertemp ch s
  | .dqCooled ch => Sys2Proof.Machine.execDqCooled ch s
  | .dqOpenWire ch => Sys2Proof.Machine.execDqOpenWire ch s
  | .dqOpenWireClear ch => Sys2Proof.Machine.execDqOpenWireClear ch s
  | .dqClear src key ch => Sys2Proof.Machine.execDqClear src key ch s
  | .diClrCnt src key ch => Sys2Proof.Machine.execDiClrCnt src key ch s
  | .chestStoreCmd src key mask => Sys2Proof.Machine.execChestStoreCmd src key mask s
  | .chestBankStoreEnd => Sys2Proof.Machine.execChestBankStoreEnd s
  | .chestMarginRead bank page weak => Sys2Proof.Machine.execChestMarginRead bank page weak s
  | .chestProtWrite src prot => Sys2Proof.Machine.execChestProtWrite src prot s
  | .chestLock src => Sys2Proof.Machine.execChestLock src s
  | .chestGroupOpen src key group words owner => Sys2Proof.Machine.execChestGroupOpen src key group words owner s
  | .chestGroupClose src key group => Sys2Proof.Machine.execChestGroupClose src key group s
  | .chestGroupDiscard src key group => Sys2Proof.Machine.execChestGroupDiscard src key group s
  | .chestGroupCommitApplied lane => Sys2Proof.Machine.execChestGroupCommitApplied lane s
  | .pairRecordWrite src key => Sys2Proof.Machine.execPairRecordWrite src key s
  | .pairRecordRead src key => Sys2Proof.Machine.execPairRecordRead src key s
  | .pairUnitDone lane => Sys2Proof.Machine.execPairUnitDone lane s
  | .recWatchSample watch => Sys2Proof.Machine.execRecWatchSample watch s
  | .recPeriodEnd watch => Sys2Proof.Machine.execRecPeriodEnd watch s
  | .recRaise src key code => Sys2Proof.Machine.execRecRaise src key code s
  | .recRaiseVal src data => Sys2Proof.Machine.execRecRaiseVal src data s
  | .recTallyRewriteDue code => Sys2Proof.Machine.execRecTallyRewriteDue code s
  | .recRecordWrite lane => Sys2Proof.Machine.execRecRecordWrite lane s
  | .recScanEnd lane => Sys2Proof.Machine.execRecScanEnd lane s
  | .recClear src key => Sys2Proof.Machine.execRecClear src key s
  | .recClrCnt src key => Sys2Proof.Machine.execRecClrCnt src key s
  | .keyWrite src key slot => Sys2Proof.Machine.execKeyWrite src key slot s
  | .keyErase src key slot => Sys2Proof.Machine.execKeyErase src key slot s
  | .keyDerive src key slot => Sys2Proof.Machine.execKeyDerive src key slot s
  | .keyCmdDone lane => Sys2Proof.Machine.execKeyCmdDone lane s
  | .keyForwardedOp lane => Sys2Proof.Machine.execKeyForwardedOp lane s
  | .keyScrub lane slot tagOk => Sys2Proof.Machine.execKeyScrub lane slot tagOk s
  | .attest src key => Sys2Proof.Machine.execAttest src key s
  | .attestDone lane => Sys2Proof.Machine.execAttestDone lane s
  | .seedSet src key => Sys2Proof.Machine.execSeedSet src key s
  | .anchorProgram src key anchor => Sys2Proof.Machine.execAnchorProgram src key anchor s
  | .anchorRevoke src key anchor => Sys2Proof.Machine.execAnchorRevoke src key anchor s
  | .anchorBurnDone => Sys2Proof.Machine.execAnchorBurnDone s
  | .hcHello dg => Sys2Proof.Machine.execHcHello dg s
  | .hcOpen dg => Sys2Proof.Machine.execHcOpen dg s
  | .hcChallengeTimeout => Sys2Proof.Machine.execHcChallengeTimeout s
  | .hcRequest dg => Sys2Proof.Machine.execHcRequest dg s
  | .hcResponseConfirm => Sys2Proof.Machine.execHcResponseConfirm s
  | .hcEventFrameSend => Sys2Proof.Machine.execHcEventFrameSend s
  | .hcEventResend => Sys2Proof.Machine.execHcEventResend s
  | .uartFrame frame => Sys2Proof.Machine.execUartFrame frame s
  | .indDataRead src => Sys2Proof.Machine.execIndDataRead src s
  | .indDataWrite src data => Sys2Proof.Machine.execIndDataWrite src data s
  | .indWriteApplied src => Sys2Proof.Machine.execIndWriteApplied src s
  | .tvScrub lane addr c0 c1 c2 => Sys2Proof.Machine.execTvScrub lane addr c0 c1 c2 s
  | .snapTake src key => Sys2Proof.Machine.execSnapTake src key s
  | .snapCapture => Sys2Proof.Machine.execSnapCapture s
  | .frCmdStop src word => Sys2Proof.Machine.execFrCmdStop src word s
  | .frCmdRun src word => Sys2Proof.Machine.execFrCmdRun src word s
  | .frCmdSafe src word => Sys2Proof.Machine.execFrCmdSafe src word s
  | .frSnap src word => Sys2Proof.Machine.execFrSnap src word s
  | .evtQPop src engine data => Sys2Proof.Machine.execEvtQPop src engine data s
  | .sprintEnter src key => Sys2Proof.Machine.execSprintEnter src key s
  | .sprintLeave src key => Sys2Proof.Machine.execSprintLeave src key s
  | .sprintPointReached lane => Sys2Proof.Machine.execSprintPointReached lane s
  | .sprintBudgetBin lane => Sys2Proof.Machine.execSprintBudgetBin lane s
  | .junctionLimit lane tenths => Sys2Proof.Machine.execJunctionLimit lane tenths s
  | .backplateLimit tenths => Sys2Proof.Machine.execBackplateLimit tenths s
  | .sprintStepDown lane => Sys2Proof.Machine.execSprintStepDown lane s
  | .backplateWarnCross tenths => Sys2Proof.Machine.execBackplateWarnCross tenths s
  | .canBusIntegrated ch => Sys2Proof.Machine.execCanBusIntegrated ch s
  | .canRxError ch lec by8 => Sys2Proof.Machine.execCanRxError ch lec by8 s
  | .axFltNHigh axis => Sys2Proof.Machine.execAxFltNHigh axis s
  | .holdupBankSpent => Sys2Proof.Machine.execHoldupBankSpent s
  | .chestWrite lane engine addr data => Sys2Proof.Machine.execChestWrite lane engine addr data s
  | .autoResetAgeOut => Sys2Proof.Machine.execAutoResetAgeOut s
  | .keygenDone lane => Sys2Proof.Machine.execKeygenDone lane s

end Sys2Proof.Machine
end

