-- ==== Sys2Proof/Safety.lean ====
section
/-! DEFINITION. Safety.lean: what counts as a sound state and a safe step. A sound state has every memory and register
file in its one canonical form and no event queue beyond its size; a safe step undoes nothing that the hardware cannot
undo. -/
namespace Sys2Proof.Machine

/-- A register file in canonical form over the reset values. -/
def rfWf (m : List (Nat × Word)) : Bool := spWf resetWord none m

/-- Event queues within their sizes: 64 records per engine (R497), 1,024 for the HC stream (R483). -/
def EvtUnit.wf (u : EvtUnit) : Prop := (∀ e : Fin 16, u.q[e].length ≤ 64) ∧ u.hcq.length ≤ 1024

/-- A lane: its register file, its memories, its mirror store canonical; its event queues within their sizes. -/
def Lane.wf (L : Lane) : Prop := rfWf L.rf = true ∧ L.mem.wf = true ∧ L.mirror.wf = true ∧ L.evt.wf

def Bank.wf (b : Bank) : Prop := b.p0.data.wf = true ∧ b.p1.data.wf = true

/-- The Chest: the array and both planes of every bank canonical (R425, R426). -/
def Chest.wf (c : Chest) : Prop := c.array.wf = true ∧ ∀ b : Fin 8, c.banks[b].wf

/-- The module: both lanes, the Chest, the image flash and the keeper's slow registers. -/
def State.wf (s : State) : Prop :=
  s.laneA.wf ∧ s.laneB.wf ∧ s.chest.wf ∧ Mem.flashWf s.flash.cells = true ∧ rfWf s.keeper.slow = true

/-- A burn that programs an anchor finds it blank (R469): the command that starts it has checked so. -/
def Keeper.burnWf (k : Keeper) : Prop := ∀ a : Fin 4, k.burn = some (false, a) → k.anchors[a].programmed = false

/-- `b` is what an anchor's one-time-programmable bits may become from `a` (R469): a programmed anchor stays programmed
with its digest, a revoked one stays revoked. -/
def Anchor.onward (a b : Anchor) : Prop :=
  (a.programmed = true → b.programmed = true ∧ b.digest = a.digest) ∧ (a.revoked = true → b.revoked = true)

/-! What a command may change, in the terms the statements use. -/

/-- Registers that the delivery of an event writes: EVT_SEQ (R496), the lost counts of the event queues (R497), the lost
records and suppressed writes of the recorder (R451, R456). -/
def evtReg (a : Nat) : Bool :=
  (0x40010500 ≤ a && a < 0x40010900) || (0x40011000 ≤ a && a < 0x40011200) || a == 0x40170008

/-- `M` is `L` after the delivery of events: event queues and sequences, the recorder's tallies and its queue of records,
the counts of dropped records. Everything else of the lane is as before. -/
def Lane.evtFrame (L M : Lane) : Prop :=
  M = { L with rf := M.rf, evt := M.evt,
               recU := { L.recU with tallies := M.recU.tallies, queue := M.recU.queue, dropEvAt := M.recU.dropEvAt },
               hc := { L.hc with dropped := M.hc.dropped, dropEvAt := M.hc.dropEvAt } } ∧
    (rfWf L.rf = true → rfWf M.rf = true ∧ ∀ a, evtReg a = false → M.get a = L.get a)

/-- `t` is `s` after the delivery of events in its lanes. -/
def State.evtFrame (s t : State) : Prop :=
  t = { s with laneA := t.laneA, laneB := t.laneB } ∧ s.laneA.evtFrame t.laneA ∧ s.laneB.evtFrame t.laneB

/-- A mode goes on, or RUN has lost a lane and is SINGLE (R45, R311). -/
def Mode.drift (m n : Mode) : Prop := n = m ∨ (m = .run ∧ n = .single)

/-- From `s` to `t` no mode command took effect; the supply, the image flash and the boot are as they were. -/
def Calm (s t : State) : Prop :=
  s.mode.mode.drift t.mode.mode ∧ t.supply = s.supply ∧ t.flash = s.flash ∧ t.boot = s.boot

/-- `t` differs from `s` at most in its lanes and in the completions of an access. -/
def State.offLanes (s t : State) : Prop :=
  t = { s with laneA := t.laneA, laneB := t.laneB, reply := t.reply, peerReply := t.peerReply }

/-- `t` is `s` after an access whose effect in each lane of a list is `f`: that effect, and the events it raises, in those lanes,
nothing in the other, nothing outside the lanes. -/
def State.inThe (s : State) (ls : List LaneId) (f : LaneId → Lane → Lane) (t : State) : Prop :=
  s.offLanes t ∧ ∀ l, if l ∈ ls then (f l (s.lane l)).evtFrame (t.lane l) else t.lane l = s.lane l

/-- The same for a command of `src`: in every lane the source acts in (R481). -/
def State.inLanes (s : State) (src : Src) (f : LaneId → Lane → Lane) (t : State) : Prop := s.inThe (s.lanesOf src) f t

/-- The write is a command of its own: it is not the second of the two identical writes that twin engines make in dual
running (R531). -/
def State.first (s : State) (src : Src) (addr : Nat) (word : Word) : Bool :=
  match src.req with
  | .engine e => !(s.dualRun && s.twins.any fun t => t.1 == other src.lane && t.2.1 == e && t.2.2.1 == addr && t.2.2.2.1 == word)
  | _ => true

end Sys2Proof.Machine
end

