-- ==== Sys2Proof/Certificates/Slice0/Obligations.lean ====
section
/-! DEFINITION. Certificates/Slice0/Obligations.lean: the statements for the provers, family by family. Each says in its
docstring which rules of spec/ it states, and names the assumption log's entry where it rests on a choice of the model. -/
open Sys2Proof Sys2Proof.Machine

/-- For every command c and state s, a step of s with c at the front of its queue is exec c on s with the queue's rest. -/
def Obligations.StepRunsFront : Prop :=
  ∀ (c : Instr) (s : State), step { s with pending := c :: s.pending } = exec c s

/-- With no command waiting a step adds one tick of 250 MHz to the time base and changes nothing else. That a tick is what an empty queue means is the model's choice (log 2). -/
def Obligations.IdleTick : Prop :=
  ∀ s : State, s.pending = [] →
    step s = .next { s with tb := { s.tb with count := s.tb.count + s.tickU, run := s.tb.run + s.tickU } }

/-- After reset every memory and register file is in canonical form, no event queue is over its size, and no burn is under way on a programmed anchor. Memories without stated contents read 0 by the model's choice (log 5). -/
def Obligations.ResetSound : Prop :=
  State.reset.wf ∧ State.reset.keeper.burnWf

/-- From every sound state, sound or reached or not, a step that answers a next state answers a sound one: register files, lane memories, mirror stores, the Chest array and its planes, the image flash and the keeper's registers stay in canonical form, an engine's event queue holds at most 64 records and the host channel's stream at most 1,024. -/
def Obligations.SoundnessKept : Prop :=
  ∀ s t : State, s.wf → step s = .next t → t.wf

/-- From every state in which a running burn that programs finds its anchor blank, every step keeps that so, keeps every programmed anchor programmed with its digest, and keeps every revoked anchor revoked. -/
def Obligations.AnchorsOneWay : Prop :=
  ∀ s t : State, s.keeper.burnWf → step s = .next t →
    t.keeper.burnWf ∧ ∀ a : Fin 4, s.keeper.anchors[a].onward t.keeper.anchors[a]

/-- Whatever command a step runs, the queue it leaves is the rest of the queue it found: no meaning adds, drops or reorders waiting commands (the queue is the model's own, log 2). -/
def Obligations.QueueFirstInFirstOut : Prop :=
  ∀ (s t : State), step s = .next t → t.pending = s.pending.tail

/-- In every step the count without steps, which supervisions and elapsed times use, stays or grows, whatever a command does to the time base. -/
def Obligations.ElapsedTimeForward : Prop :=
  ∀ s t : State, step s = .next t → s.tb.run ≤ t.tb.run

/-- For every command and every state the module answers a next state: a command that is refused is answered by a bus error or a record, never by a stop. -/
def Obligations.EveryCommandCompletes : Prop :=
  ∀ (c : Instr) (s : State), ∃ t, exec c s = .next t

/-- With a feed up, POWER_GOOD in RETAIN notes that the feeds are back and leaves HOLDUP_OK at 0; in RESET without power it is a power-on reset, or a BROWNOUT reset after a power-fail in RESET. A lane that has not reported ready 1,000 ms after power good is left out. The end of boot runs the slots of R60 for the lanes that are ready. That a row comes at its instant, to which it advances the clock, is the model's form of the table (log 8), and RETAIN's way out is its reading (log 89). -/
def Obligations.PowerUpCommands : Prop :=
  (∀ (s : State) (pa pb : Bool) (facts : BootFacts), (pa || pb) = true → s.mode.mode = .retain →
    exec (.powerGood pa pb facts) s =
      .next { s with supply := { s.supply with paOk := pa, pbOk := pb, holdupOk := false, good := true, feedsBack := true } }) ∧
  (∀ (s : State) (pa pb : Bool) (facts : BootFacts), (pa || pb) = true → s.mode.mode = .reset → s.supply.good = false →
    exec (.powerGood pa pb facts) s =
      .next ({ s with supply := { s.supply with paOk := pa, pbOk := pb, holdupOk := false, good := true } }.fullReset
        (if s.supply.brownout then 4 else 0) facts)) ∧
  (∀ (s : State) (l : LaneId) (b : BootSt), s.boot = some b → (match l with | .a => b.facts.readyA | .b => b.facts.readyB) = false →
    (s.lane l).phase = .booting →
    exec (.laneReadyTimeout l) s =
      .next ((s.advRun (s.supply.powerGoodAt + sU 1)).upd l fun L => { L with phase := .leftOut })) ∧
  (∀ (s : State) (b : BootSt), s.boot = some b → s.bootLanes b.facts ≠ [] →
    exec .bootEnd s = .next (@State.bootEnd regIO s b.facts (s.bootLanes b.facts)))

/-- The reset input held low for at least 10 us is a full reset of cause PIN in every mode but RETAIN, in RETAIN it waits for the end of the Chest store; held shorter it does nothing. SYS_RESET_CMD with FULL and KEY 0xB007 is a full reset of cause SW in every mode but RETAIN; in RETAIN, or with another KEY, the write completes without effect. The reset input in RETAIN is the model's reading where the feeds are not back (log 89). -/
def Obligations.FullResetCommands : Prop :=
  (∀ (s : State) (n : Nat) (facts : BootFacts), n < 10000 → exec (.resetPin n facts) s = .next s) ∧
  (∀ (s : State) (n : Nat) (facts : BootFacts), 10000 ≤ n → s.mode.mode ≠ .retain → s.supply.good = true →
    exec (.resetPin n facts) s = .next (s.fullReset 1 facts)) ∧
  (∀ (s : State) (n : Nat) (facts : BootFacts), 10000 ≤ n → s.mode.mode = .retain → s.supply.storeDone = false →
    exec (.resetPin n facts) s = .next { s with supply := { s.supply with pinReset := some facts } }) ∧
  (∀ (s : State) (n : Nat) (facts : BootFacts), 10000 ≤ n → s.mode.mode = .retain → s.supply.storeDone = true → s.supply.feedsBack = true →
    exec (.resetPin n facts) s = .next (s.fullReset 1 facts)) ∧
  (∀ (s : State) (src : Src) (facts : BootFacts), s.resetCmdOpen src = true → s.mode.mode ≠ .retain →
    exec (.resetCmdFull src 0xB007 facts) s = .next (s.fullReset 2 facts).ok) ∧
  (∀ (s : State) (src : Src) (key : Half) (facts : BootFacts), s.resetCmdOpen src = true → s.mode.mode = .retain ∨ key ≠ 0xB007 →
    exec (.resetCmdFull src key facts) s = .next s.ok)

/-- With the loader idle, a full reset keeps the image flash, the keeper die (calendar, anchors, SYS_BOOT_CFG, slow registers, and, unless it is a power-on reset, the boot watchdog counts) and the key slots; it leaves mode RESET with no pending change and no active lane, both lanes booting, the single time-base step permitted again, the Chest protect lock released; every register of a lane other than SYS_RST_CAUSE, KEY_GEN and PMU_FEED reads its reset value, and SYS_RST_CAUSE holds POR alone after a power-on reset, else the earlier causes and this one. That KEY_GEN and FEED_LOSS are kept is the model's reading (log 13, 33). -/
def Obligations.FullResetEffect : Prop :=
  ∀ (s : State) (cause : Nat) (facts : BootFacts), s.loader.busy = false → 
    (s.fullReset cause facts).flash = s.flash ∧
    (s.fullReset cause facts).keeper.rtc = s.keeper.rtc ∧ (s.fullReset cause facts).keeper.anchors = s.keeper.anchors ∧
    (s.fullReset cause facts).keeper.bootCfg = s.keeper.bootCfg ∧ (s.fullReset cause facts).keeper.slow = s.keeper.slow ∧
    (cause ≠ 0 → (s.fullReset cause facts).keeper.wdgA = s.keeper.wdgA ∧ (s.fullReset cause facts).keeper.wdgB = s.keeper.wdgB) ∧
    (s.fullReset cause facts).mode.mode = .reset ∧ (s.fullReset cause facts).mode.pend = none ∧
    (s.fullReset cause facts).mode.active = none ∧
    (s.fullReset cause facts).tb.used = false ∧ (s.fullReset cause facts).chest.lock = false ∧
    ∀ l, ((s.fullReset cause facts).lane l).phase = .booting ∧
      ((s.fullReset cause facts).lane l).keys.slots = (s.lane l).keys.slots ∧
      (∀ a, a ≠ 0x4000000C → a ≠ 0x40180004 → a ≠ 0x401A0018 → ((s.fullReset cause facts).lane l).get a = resetWord a) ∧
      ((s.fullReset cause facts).lane l).get 0x4000000C =
        if cause = 0 then 1 else withField ((s.lane l).get 0x4000000C) cause 1 1

/-- A write of SYS_BOOT_CFG that is a command of its own stores its three bits in the keeper in CONFIGURE and STOP and completes; in every other mode it is refused as NOT_PERMITTED and the keeper stands. -/
def Obligations.BootConfigurationWrite : Prop :=
  (∀ (s : State) (src : Src) (data : Word), s.first src 0x40000014 data = true → s.lanesOf src ≠ [] →
    s.mode.mode = .configure ∨ s.mode.mode = .stop →
    ∃ tw, exec (.bootCfgWrite src data) s = .next
      { ({ s with keeper := { s.keeper with bootCfg := data &&& 7 } }.updBoth (·.tvClear 0x40000014)).ok with twins := tw }) ∧
  (∀ (s : State) (src : Src) (data : Word), s.first src 0x40000014 data = true → s.lanesOf src ≠ [] →
    s.mode.mode ≠ .configure → s.mode.mode ≠ .stop →
    ∃ tw, exec (.bootCfgWrite src data) s = .next { (s.modeRefused 1).ok with twins := tw })

/-- A mode command with KEY 0x4D4F that is a command of its own, with no change pending, becomes the pending change with its instant: STOP from CONFIGURE with a verified image, STOP from RUN, SINGLE, HOLD and SAFE at the next 250 us tick, CONFIGURE from STOP, RUN from STOP with a healthy lane at t_R, RUN from HOLD and HOLD from RUN or SINGLE at the task's boundary, SAFE from STOP, RUN, SINGLE and HOLD. The write completes; nothing else changes. That STOP from CONFIGURE is due from its acceptance on is the model's choice (log 40). -/
def Obligations.ModeCommandsAccepted : Prop :=
  (∀ (s : State) (src : Src), s.first src 0x40000008 0x4D4F0002 = true → s.lanesOf src ≠ [] → s.mode.pend = none →
    s.mode.mode = .configure → s.ups.any s.verified = true →
    ∃ tw, exec (.modeCmdStop src 0x4D4F) s = .next { (s.accept .stop 0 s.tb.count).ok with twins := tw }) ∧
  (∀ (s : State) (src : Src), s.first src 0x40000008 0x4D4F0002 = true → s.lanesOf src ≠ [] → s.mode.pend = none →
    s.roleMode = true →
    ∃ tw, exec (.modeCmdStop src 0x4D4F) s = .next { (s.accept .stop 0 s.next250).ok with twins := tw }) ∧
  (∀ (s : State) (src : Src), s.first src 0x40000008 0x4D4F0001 = true → s.lanesOf src ≠ [] → s.mode.pend = none →
    s.mode.mode = .stop →
    ∃ tw, exec (.modeCmdConfigure src 0x4D4F) s = .next { (s.accept .configure 0 s.next250).ok with twins := tw }) ∧
  (∀ (s : State) (src : Src), s.first src 0x40000008 0x4D4F0003 = true → s.lanesOf src ≠ [] → s.mode.pend = none →
    s.mode.mode = .stop → s.ups.any s.healthy = true →
    ∃ tw, exec (.modeCmdRun src 0x4D4F) s = .next { (s.accept .run 0 s.runAt).ok with twins := tw }) ∧
  (∀ (s : State) (src : Src) (k : Fin 8), s.first src 0x40000008 0x4D4F0003 = true → s.lanesOf src ≠ [] → s.mode.pend = none →
    s.mode.mode = .hold → s.mode.held = some k →
    ∃ tw, exec (.modeCmdRun src 0x4D4F) s = .next { (s.accept .run k (s.boundary k)).ok with twins := tw }) ∧
  (∀ (s : State) (src : Src) (k : Fin 8), s.first src 0x40000008 (BitVec.ofNat 32 (0x4D4F * 2 ^ 16 + (16 * k.val + 5))) = true →
    s.lanesOf src ≠ [] → s.mode.pend = none → s.mode.mode = .run ∨ s.mode.mode = .single → (s.lane s.act).taskDef k = true →
    ∃ tw, exec (.modeCmdHold src 0x4D4F k) s = .next { (s.accept .hold k (s.boundary k)).ok with twins := tw }) ∧
  (∀ (s : State) (src : Src), s.first src 0x40000008 0x4D4F0006 = true → s.lanesOf src ≠ [] → s.mode.pend = none →
    s.running = true ∨ s.mode.mode = .stop →
    ∃ tw, exec (.modeCmdSafe src 0x4D4F) s = .next { (s.accept .safe 0 s.next250).ok with twins := tw })

/-- A mode command that is a command of its own is refused with BAD_KEY where its KEY is not 0x4D4F; with BUSY, but for SAFE, while a change is pending; with NOT_PERMITTED where it is no transition of the table or names a mode that is not commandable; with NO_IMAGE, NO_LANE or BAD_TASK as R51 says. A SAFE that finds another command pending replaces it and reports that one as BUSY. The write completes. The order of the reasons is the model's reading (log 86), and SAFE in SAFE and CONFIGURE its choice (log 42). -/
def Obligations.ModeCommandsRefused : Prop :=
  (∀ (s : State) (src : Src) (key : Half) (n : Fin 16), s.lanesOf src ≠ [] →
    s.first src 0x40000008 (BitVec.ofNat 32 (key.toNat * 2 ^ 16 + n.val)) = true →
    ∃ tw, exec (.modeCmdNotCommandable src key n) s = .next { (s.modeRefused (if key = 0x4D4F then 1 else 5)).ok with twins := tw }) ∧
  (∀ (s : State) (src : Src) (key : Half), s.lanesOf src ≠ [] → s.first src 0x40000008 (BitVec.ofNat 32 (key.toNat * 2 ^ 16 + 3)) = true →
    key ≠ 0x4D4F → ∃ tw, exec (.modeCmdRun src key) s = .next { (s.modeRefused 5).ok with twins := tw }) ∧
  (∀ (s : State) (src : Src), s.lanesOf src ≠ [] → s.first src 0x40000008 0x4D4F0003 = true → s.mode.pend.isSome = true →
    ∃ tw, exec (.modeCmdRun src 0x4D4F) s = .next { (s.modeRefused 2).ok with twins := tw }) ∧
  (∀ (s : State) (src : Src), s.lanesOf src ≠ [] → s.first src 0x40000008 0x4D4F0001 = true → s.mode.pend = none → s.mode.mode ≠ .stop →
    ∃ tw, exec (.modeCmdConfigure src 0x4D4F) s = .next { (s.modeRefused 1).ok with twins := tw }) ∧
  (∀ (s : State) (src : Src), s.lanesOf src ≠ [] → s.first src 0x40000008 0x4D4F0003 = true → s.mode.pend = none → s.mode.mode = .stop →
    s.ups.any s.verified = false → ∃ tw, exec (.modeCmdRun src 0x4D4F) s = .next { (s.modeRefused 3).ok with twins := tw }) ∧
  (∀ (s : State) (src : Src), s.lanesOf src ≠ [] → s.first src 0x40000008 0x4D4F0003 = true → s.mode.pend = none → s.mode.mode = .stop →
    s.ups.any s.verified = true → s.ups.any s.healthy = false →
    ∃ tw, exec (.modeCmdRun src 0x4D4F) s = .next { (s.modeRefused 4).ok with twins := tw }) ∧
  (∀ (s : State) (src : Src) (k : Fin 8), s.lanesOf src ≠ [] →
    s.first src 0x40000008 (BitVec.ofNat 32 (0x4D4F * 2 ^ 16 + (16 * k.val + 5))) = true → s.mode.pend = none →
    s.mode.mode = .run ∨ s.mode.mode = .single → (s.lane s.act).taskDef k = false →
    ∃ tw, exec (.modeCmdHold src 0x4D4F k) s = .next { (s.modeRefused 6).ok with twins := tw }) ∧
  (∀ (s : State) (src : Src) (p : PendMode), s.lanesOf src ≠ [] → s.first src 0x40000008 0x4D4F0006 = true → s.running = true →
    s.mode.pend = some p → p.target ≠ .safe → p.cmd = true →
    ∃ (u : State) (tw : List (LaneId × Fin 16 × Nat × Word × Reply)), u = ({ s with mode := { s.mode with pend := none } } : State).modeRefused 2 ∧
      exec (.modeCmdSafe src 0x4D4F) s = .next { (u.accept .safe 0 u.next250).ok with twins := tw })

/-- A write of SYS_MODE_CMD that is a command of its own with a KEY other than 0x4D4F is refused with BAD_KEY: the mode logic stands as it was, every lane that runs shows REFUSED and the code 5 in SYS_MODE, its other registers outside event state stand, the memories stand, and EV_SYS_MODE_REFUSED (0x01) with the code is raised in every lane that runs. So for every command of the table and every other code: each refusal is this one with its own code. -/
def Obligations.ModeRefusalShown : Prop :=
  (∀ (s : State) (src : Src) (key : Half), s.lanesOf src ≠ [] → s.first src 0x40000008 (BitVec.ofNat 32 (key.toNat * 2 ^ 16 + 2)) = true →
    key ≠ 0x4D4F → ∃ tw, exec (.modeCmdStop src key) s = .next { (s.modeRefused 5).ok with twins := tw }) ∧
  ∀ (s : State) (code : Nat), rfWf s.laneA.rf = true → rfWf s.laneB.rf = true → code < 16 →
    (s.modeRefused code).mode = s.mode ∧
    (∃ u : State, s.modeRefused code = u.raiseUp 0x01 0 code) ∧
    ∀ l, ((s.modeRefused code).lane l).mem = (s.lane l).mem ∧
      (∀ a, evtReg a = false → a ≠ 0x40000004 → ((s.modeRefused code).lane l).get a = (s.lane l).get a) ∧
      (s.isUp l = true → ((s.modeRefused code).lane l).flag 0x40000004 8 = true ∧ ((s.modeRefused code).lane l).fld 0x40000004 12 4 = code)

/-- MODE_CHANGE_TAKES_EFFECT advances the clock to the instant of the pending change, ends its pending, and enters STOP, CONFIGURE, SAFE or HOLD, or goes back from HOLD to the mode it was entered from, where that is still a transition of the table. The run start does so at t_R with the lanes that are healthy: RUN with two, SINGLE with one. That the row advances the clock is the model's form (log 8). -/
def Obligations.ModeChangesTakeEffect : Prop :=
  (∀ (s : State) (p : PendMode), s.mode.pend = some p → p.target = .stop → (s.roleMode || s.mode.mode == .configure) = true →
    exec .modeChangeTakesEffect s = .next (@State.enter regIO { s.advTo p.due with mode := { s.mode with pend := none } } .stop)) ∧
  (∀ (s : State) (p : PendMode), s.mode.pend = some p → p.target = .configure → s.mode.mode = .stop →
    exec .modeChangeTakesEffect s = .next (@State.enter regIO { s.advTo p.due with mode := { s.mode with pend := none } } .configure)) ∧
  (∀ (s : State) (p : PendMode), s.mode.pend = some p → p.target = .safe → (s.running || s.mode.mode == .stop) = true →
    exec .modeChangeTakesEffect s = .next (@State.enter regIO { s.advTo p.due with mode := { s.mode with pend := none } } .safe)) ∧
  (∀ (s : State) (p : PendMode), s.mode.pend = some p → p.target = .hold → s.mode.mode = .run ∨ s.mode.mode = .single →
    ∃ u : State, u = { s.advTo p.due with mode := { s.mode with pend := none, held := some p.task, heldFrom := s.mode.mode } } ∧
      exec .modeChangeTakesEffect s = .next ((@State.enter regIO u .hold).each u.ups fun l s => s.holdTask l p.task)) ∧
  (∀ (s : State) (p : PendMode) (k : Fin 8), s.mode.pend = some p → p.target = .run → s.mode.mode = .hold → s.mode.held = some k →
    ∃ u : State, u = (@State.enter regIO { s.advTo p.due with mode := { s.mode with pend := none } } s.mode.heldFrom).updBoth (Lane.unholdTask · k) ∧
      exec .modeChangeTakesEffect s = .next { u with mode := { u.mode with held := none } }) ∧
  (∀ (s u : State) (p : PendMode), s.mode.pend = some p → p.target = .run → s.mode.mode = .stop →
    u = { s.advTo p.due with mode := { (s.advTo p.due).mode with pend := none } } → u.ups.filter u.healthy = [LaneId.a, .b] → u.mode.active = none →
    ∃ v w : State, v = @State.enter regIO { u with mode := { u.mode with active := some .a, tR := some (p.due / nsU 1) } } .run ∧
      w = v.each v.ups (fun l s => ((s.initPrograms l).upd l (·.tasksBegin)).loopsBegin l) ∧
      exec .runStart s = .next (w.each w.ups fun l s => s.recEnter l))

/-- POWER_FAIL in RESET stops the boot and both lanes halt; in RETAIN it takes the feeds away again; in every other mode RETAIN is entered, a pending change is reported as BUSY, received group commits complete, the counters are saved, pending stores are dropped and a running one is cut. The store's end stores every bank of R430 and notes it. RETAIN ends in a full reset of cause BROWNOUT once the store is complete and the feeds have recovered. When the bank is spent first, the module is off. A power-fail in RETAIN and the spent bank are the model's reading (log 89). -/
def Obligations.PowerFailCommands : Prop :=
  (∀ s : State, s.mode.mode = .reset →
    exec .powerFail s = .next { (s.updBoth fun L => { L with phase := .off }) with
      boot := none, supply := { s.supply with good := false, feedsBack := false, brownout := s.supply.good || s.supply.brownout } }) ∧
  (∀ s : State, s.mode.mode = .retain →
    exec .powerFail s = .next { s with supply := { s.supply with good := false, feedsBack := false } }) ∧
  (∀ s : State, s.mode.mode ≠ .reset → s.mode.mode ≠ .retain → s.mode.pend = none →
    exec .powerFail s = .next (@State.failRetain regIO { s with supply := { s.supply with good := false, feedsBack := false, storeDone := false } })) ∧
  (∀ (s : State) (p : PendMode), s.mode.mode ≠ .reset → s.mode.mode ≠ .retain → s.mode.pend = some p → p.cmd = true →
    exec .powerFail s = .next (@State.failRetain regIO (({ s with mode := { s.mode with pend := none }, supply := { s.supply with good := false, feedsBack := false, storeDone := false } } : State).modeRefused 2))) ∧
  (∀ (s : State) (p : PendMode), s.mode.mode ≠ .reset → s.mode.mode ≠ .retain → s.mode.pend = some p → p.cmd = false →
    exec .powerFail s = .next (@State.failRetain regIO { s with mode := { s.mode with pend := none }, supply := { s.supply with good := false, feedsBack := false, storeDone := false } })) ∧
  (∀ s : State, s.mode.mode = .retain → s.supply.storeDone = false → s.supply.pinReset = none →
    exec .chestPowerFailStoreEnd s = .next
      { s with chest := { s.chest.failStore s.chest.failBanks with storing := none }, supply := { s.supply with storeDone := true } }) ∧
  (∀ (s : State) (facts : BootFacts), s.mode.mode = .retain → s.supply.storeDone = true → s.supply.feedsBack = true →
    exec (.retainEnd facts) s = .next (s.fullReset 4 facts)) ∧
  (∀ s : State, s.mode.mode = .retain → s.supply.storeDone = true → s.supply.feedsBack = false →
    ∃ t, exec .holdupBankSpent s = .next t ∧ t.mode.mode = .reset ∧ t.supply.good = false ∧ t.supply.paOk = false ∧ t.supply.pbOk = false ∧
      t.laneA = { s.laneA with phase := .off } ∧ t.laneB = { s.laneB with phase := .off } ∧ t.chest.banks = s.chest.banks ∧ t.flash = s.flash ∧
      t.keeper = s.keeper)

/-- A feed that is present is lost: its OK bit clears, FEED_LOSS counts in both lanes, EV_PMU_FEED (0xF8) is raised with sub-code 1 in every lane that runs, and nothing else changes. A feed that is lost is restored: its OK bit sets and the event has sub-code 2; in RETAIN the first restored feed is power good, from which HOLDUP_OK reads 0. HOLDUP_OK reads 1 once the bank is charged. -/
def Obligations.FeedCommands : Prop :=
  (∀ s : State, s.supply.paOk = true →
    exec (.feedLost 0) s = .next (({ s with supply := { s.supply with paOk := false } }.updBoth (·.incFld 0x401A0018 0 16)).raiseUp 0xF8 0 1)) ∧
  (∀ s : State, s.supply.pbOk = true →
    exec (.feedLost 1) s = .next (({ s with supply := { s.supply with pbOk := false } }.updBoth (·.incFld 0x401A0018 0 16)).raiseUp 0xF8 1 1)) ∧
  (∀ s : State, s.supply.paOk = false → s.mode.mode ≠ .retain →
    exec (.feedRestored 0) s = .next (({ s with supply := { s.supply with paOk := true } } : State).raiseUp 0xF8 0 2)) ∧
  (∀ s : State, s.supply.pbOk = false → s.mode.mode ≠ .retain →
    exec (.feedRestored 1) s = .next (({ s with supply := { s.supply with pbOk := true } } : State).raiseUp 0xF8 1 2)) ∧
  (∀ s : State, s.supply.pbOk = false → s.mode.mode = .retain → s.supply.feedsBack = false →
    exec (.feedRestored 1) s = .next (({ s with supply := { s.supply with pbOk := true, feedsBack := true, good := true, holdupOk := false } } : State).raiseUp 0xF8 1 2)) ∧
  (∀ s : State, exec .holdupCharged s = .next { s with supply := { s.supply with holdupOk := true } })

/-- At the end of a window of `steps` steps the lane's SYS_PACE_NOW.PACE holds steps / 4, rounded down (no more than the field holds), SEQ counts on, VALID is set and MIN follows; the second low window in a row, and each one behind it, that finds LOW at 0 sets LOW and bit 2 of the health word and raises EV_SYS_PACE_LOW (0x02); a window at 600 or more, and the first low one, raises nothing. The state with the window written is the same in both cases. -/
def Obligations.PaceWindows : Prop :=
  (∀ (s u : State) (l : LaneId) (steps pace low : Nat), pace = min (steps / 4) 0xFFFF → low = (if pace < 600 then min 2 ((s.lane l).lowWindows + 1) else 0) →
    u = s.upd l (fun L =>
      let L1 := ((L.setFld 0x40000040 0 16 pace).wrapFld 0x40000040 16 12).setFlag 0x40000048 2 true
      { L1.setFld 0x4000004C 0 16 (min (L1.fld 0x4000004C 0 16) pace) with lowWindows := low }) →
    (pace < 600 ∧ 1 ≤ (s.lane l).lowWindows ∧ (s.lane l).flag 0x40000048 0 = false →
      exec (.paceWindowEnd l steps) s =
        .next (((u.upd l fun L => (L.setFlag 0x40000048 0 true).tvClear 0x40000048).raise l 0x02).setHealth l 2)) ∧
    (600 ≤ pace ∨ (s.lane l).lowWindows = 0 → exec (.paceWindowEnd l steps) s = .next u)) ∧
  (∀ (s : State) (l : LaneId) (steps : Nat), rfWf (s.lane l).rf = true → 600 ≤ steps / 4 → steps / 4 < 2 ^ 16 →
    ∃ t, exec (.paceWindowEnd l steps) s = .next t ∧ (t.lane l).fld 0x40000040 0 16 = steps / 4 ∧
      t = s.setLane l (t.lane l) ∧
      (∀ a, a ≠ 0x40000040 → a ≠ 0x40000048 → a ≠ 0x4000004C → (t.lane l).get a = (s.lane l).get a))

/-- A low window that finds LOW at 1 writes PACE, SEQ, VALID and MIN and raises nothing: that the event comes only when LOW goes to 1 is the model's reading (log 85). MIN_CLR sets SYS_PACE_MIN.MIN to 0xFFFF in every lane the source acts in, and EVT_Q_POP removes the head record of the engine's queue there; the write completes and nothing else changes. -/
def Obligations.PaceMinimumCleared : Prop :=
  (∀ (s : State) (l : LaneId) (steps : Nat), steps / 4 < 600 → (s.lane l).flag 0x40000048 0 = true →
    exec (.paceWindowEnd l steps) s = .next (s.upd l fun L =>
      let L1 := ((L.setFld 0x40000040 0 16 (steps / 4)).wrapFld 0x40000040 16 12).setFlag 0x40000048 2 true
      { L1.setFld 0x4000004C 0 16 (min (L1.fld 0x4000004C 0 16) (steps / 4)) with lowWindows := min 2 ((s.lane l).lowWindows + 1) })) ∧
  (∀ (s : State) (src : Src), s.lanesOf src ≠ [] →
    ∃ t, exec (.paceMinClr src) s = .next t ∧ s.inLanes src (fun _ L => L.setFld 0x4000004C 0 16 0xFFFF) t ∧ t.reply = .ok 0) ∧
  (∀ (s : State) (src : Src) (e : Fin 16) (data : Word), s.lanesOf src ≠ [] → bitOf data 0 = true →
    ∃ t, exec (.evtQPop src e data) s = .next t ∧ t.reply = .ok 0 ∧
      s.inLanes src (fun _ L => { L with evt := { L.evt with q := L.evt.q.set e L.evt.q[e].tail, ovf := if L.evt.q[e].isEmpty then L.evt.ovf else L.evt.ovf &&& ~~~ BitVec.ofNat 16 (2 ^ e.val) } }) t)

/-- ENTER with KEY 0x5350, in a mode that allows it, with the back plate at or below 50 °C and budget and rest in every running lane, sets each lane's entry: lane A and a lone lane at the next 250 us tick, lane B beside lane A 1 ms later. A lane that reaches its point sets SPRINT, counts it and raises EV_PACE_SPRINT_START (0x03). LEAVE starts the steps down in every running lane; a step 1 ms later is the next, the last ends the sprint with its reason and EV_PACE_SPRINT_END (0x04). A bin's end sets BUDGET from the last 600 bins. A refused ENTER raises EV_PMU_CFG (0xFA) and completes with a bus error. The instants of the steps are the model's reading (log 107). -/
def Obligations.SprintCommands : Prop :=
  (∀ (s : State) (src : Src), s.first src 0x401A0010 0x53500001 = true → (s.roleMode || s.mode.mode == .stop) = true →
    signed 16 ((s.lane s.act).fld 0x401A0008 0 16) ≤ 500 →
    (∀ l ∈ s.ups, 1 ≤ (s.lane l).fld 0x401A0000 24 8 ∧ (s.lane l).sprintBusy = false) →
    ∃ tw, exec (.sprintEnter src 0x5350) s = .next { (s.each s.ups fun l u => u.upd l fun L => { L with sprint := { L.sprint with
      entry := some (if l == .b && s.ups.length == 2 then s.next250 + msU 1 else s.next250) } }).ok with twins := tw }) ∧
  (∀ (s : State) (src : Src), s.first src 0x401A0010 0x53500001 = true →
    500 < signed 16 ((s.lane s.act).fld 0x401A0008 0 16) →
    ∃ tw, exec (.sprintEnter src 0x5350) s = .next { (s.raiseUp 0xFA).busErr with twins := tw }) ∧
  (∀ (s : State) (src : Src), s.first src 0x401A0010 0x53500002 = true →
    ∃ tw, exec (.sprintLeave src 0x5350) s = .next { (s.each s.ups fun l s => s.sprintLeave l 1).ok with twins := tw }) ∧
  (∀ (s : State) (l : LaneId) (due : Nat), (s.lane l).sprint.entry = some due →
    exec (.sprintPointReached l) s = .next (((s.advTo due).upd l fun L =>
      let L1 := ((L.setFlag 0x40000048 1 true).setFlag 0x401A0000 4 true).incFld 0x401A0018 16 16
      { L1 with sprint := { L1.sprint with entry := none, above := true, touched := true } }).raise l 0x03)) ∧
  (∀ (s : State) (l : LaneId) (due left reason : Nat), (s.lane l).sprint.step = some (due, left, reason) → 1 < left →
    exec (.sprintStepDown l) s = .next ((s.advTo due).upd l fun L => { L with sprint := { L.sprint with step := some (due + msU 1, left - 1, reason) } })) ∧
  (∀ (s : State) (l : LaneId) (due left reason : Nat), (s.lane l).sprint.step = some (due, left, reason) → left ≤ 1 →
    exec (.sprintStepDown l) s = .next (((s.advTo due).upd l fun L =>
      let L1 := ((L.setFlag 0x40000048 1 false).setFlag 0x401A0000 4 false).setFld 0x401A0000 8 3 reason
      { L1 with sprint := { L1.sprint with step := none, above := false } }).raise l 0x04 0 reason)) ∧
  (∀ (s u : State) (l : LaneId), u = (s.advRun ((s.lane l).sprint.binAt + sU 1)).upd l (fun L =>
      let bins := (L.sprint.touched :: L.sprint.bins).take 600
      ({ L with sprint := { L.sprint with bins := bins, touched := L.sprint.above, binAt := L.sprint.binAt + sU 1 } } : Lane).setFld 0x401A0000 24 8 (120 - bins.count true)) →
    exec (.sprintBudgetBin l) s = .next (if (u.lane l).fld 0x401A0000 24 8 = 0 ∧ (u.lane l).sprint.above then u.sprintLeave l 2 else u))

/-- A junction reading goes to PMU_TEMP of the lane, and at or above 105 °C ends its sprint with reason 3; a back-plate reading goes to PMU_TEMP of both lanes, and above 60 °C ends the sprint of every running lane with reason 4; across WARN, in the same command, it moves TEMP_HIGH of the running lanes with 2 °C of hysteresis and raises EV_PMU_THERMAL (0xF9) with sub-code 1 on the way up and 2 on the way down. -/
def Obligations.ThermalCommands : Prop :=
  (∀ (s u : State) (l : LaneId) (x : Half), u = s.upd l (·.setFld 0x401A0008 16 16 x.toNat) → x.toInt < 1050 ∨ (u.lane l).sprint.above = false →
    exec (.junctionLimit l x) s = .next u) ∧
  (∀ (s u : State) (l : LaneId) (x : Half), u = s.upd l (·.setFld 0x401A0008 16 16 x.toNat) → 1050 ≤ x.toInt → (u.lane l).sprint.above = true →
    exec (.junctionLimit l x) s = .next (u.sprintLeave l 3)) ∧
  (∀ (s u : State) (x : Half), u = s.updBoth (·.setFld 0x401A0008 0 16 x.toNat) → x.toInt ≤ 600 →
    exec (.backplateLimit x) s = .next (u.each u.ups fun l s => s.tempHigh l) ∧ exec (.backplateWarnCross x) s = .next (u.each u.ups fun l s => s.tempHigh l)) ∧
  (∀ (s u v : State) (x : Half), u = s.updBoth (·.setFld 0x401A0008 0 16 x.toNat) → 600 < x.toInt → v = u.each u.ups (fun l s => s.sprintLeave l 4) →
    exec (.backplateLimit x) s = .next (v.each v.ups fun l s => s.tempHigh l) ∧ exec (.backplateWarnCross x) s = .next (v.each v.ups fun l s => s.tempHigh l)) ∧
  (∀ (s : State) (l : LaneId), (s.lane l).flag 0x401A0000 2 = false →
    ((s.lane l).fld 0x401A0014 0 8 : Int) * 10 < signed 16 ((s.lane l).fld 0x401A0008 0 16) →
    s.tempHigh l = (s.upd l (·.setFlag 0x401A0000 2 true)).raise l 0xF9 0 1) ∧
  (∀ (s : State) (l : LaneId), (s.lane l).flag 0x401A0000 2 = true →
    signed 16 ((s.lane l).fld 0x401A0008 0 16) < ((s.lane l).fld 0x401A0014 0 8 : Int) * 10 - 20 →
    s.tempHigh l = (s.upd l (·.setFlag 0x401A0000 2 false)).raise l 0xF9 0 2)

/-- For every event source that is not reserved, with no transaction and no pair staged in the lanes the source acts in, and the block open to it: a 32-bit write of its EVT_SRC_CFG with a PRIO of at least 1 gives the RW bits the written values; a write through the set, clear and toggle alias gives them the old value OR, AND NOT, XOR the data, where that PRIO is at least 1; in every lane the source acts in, with every other register, memory and unit of the lanes as before. The write completes. -/
def Obligations.RegisterAndAliasWrites : Prop :=
  ∀ (s : State) (src : Src) (id : Fin 256) (w : Word) (a : Nat), a = 0x40010100 + 4 * id.val → evtReserved id.val = false →
    s.lanesOf src ≠ [] → s.closed src a = false →
    (∀ l ∈ s.lanesOf src, (s.lane l).txnState = 0 ∧ ∀ p ∈ (s.lane l).txn.pairs, p.addr ≠ a) →
    (1 ≤ fieldOf w 24 4 →
      ∃ t, exec (.registerWrite src (BitVec.ofNat 32 a) .w32 (w.setWidth 64)) s = .next t ∧ t.reply = .ok 0 ∧
        s.inLanes src (fun _ L => (L.tvClear a).put a ((L.get a &&& ~~~ 0x8F01FFFF) ||| (w &&& 0x8F01FFFF))) t) ∧
    ((∀ l ∈ s.lanesOf src, 1 ≤ fieldOf (((s.lane l).get a ||| w) &&& 0x8F01FFFF) 24 4) →
      ∃ t, exec (.aliasSetWrite src (BitVec.ofNat 32 (a + 0x1000000)) w) s = .next t ∧ t.reply = .ok 0 ∧
        s.inLanes src (fun _ L => (L.tvClear a).put a ((L.get a &&& ~~~ 0x8F01FFFF) ||| ((L.get a ||| w) &&& 0x8F01FFFF))) t) ∧
    ((∀ l ∈ s.lanesOf src, 1 ≤ fieldOf (((s.lane l).get a &&& ~~~ w) &&& 0x8F01FFFF) 24 4) →
      ∃ t, exec (.aliasClearWrite src (BitVec.ofNat 32 (a + 0x2000000)) w) s = .next t ∧ t.reply = .ok 0 ∧
        s.inLanes src (fun _ L => (L.tvClear a).put a ((L.get a &&& ~~~ 0x8F01FFFF) ||| ((L.get a &&& ~~~ w) &&& 0x8F01FFFF))) t) ∧
    ((∀ l ∈ s.lanesOf src, 1 ≤ fieldOf (((s.lane l).get a ^^^ w) &&& 0x8F01FFFF) 24 4) →
      ∃ t, exec (.aliasToggleWrite src (BitVec.ofNat 32 (a + 0x3000000)) w) s = .next t ∧ t.reply = .ok 0 ∧
        s.inLanes src (fun _ L => (L.tvClear a).put a ((L.get a &&& ~~~ 0x8F01FFFF) ||| ((L.get a ^^^ w) &&& 0x8F01FFFF))) t)

/-- A read through an alias is a bus error without effect in the lanes, whatever it names; a word of the forerunner window with odd parity is refused in every lane the source acts in: EV 0xFE is raised there and nothing else changes. -/
def Obligations.AccessesWithoutEffect : Prop :=
  (∀ (s : State) (src : Src) (addr : Word), s.lanesOf src ≠ [] → 0x41000000 ≤ addr.toNat → addr.toNat ≤ 0x431AFFFF →
    ∃ t, exec (.aliasRead src addr) s = .next t ∧ t.reply = .busError ∧ s.inLanes src (fun _ L => L) t) ∧
  (∀ (s : State) (src : Src) (w : Word), s.lanesOf src ≠ [] → popCount w % 2 = 1 →
    ∃ t, exec (.frSnap src w) s = .next t ∧ t.reply = .busError ∧ s.inLanes src (fun _ L => L) t) ∧
  (∀ (s : State) (src : Src) (a : Word) (w : DWord), s.lanesOf src ≠ [] → regionOf a.toNat = .reg → (regAt (a.toNat / 4 * 4)).isSome = true →
    s.closed src a.toNat = false →
    ∃ t, exec (.registerWrite src a .w8 w) s = .next t ∧ t.reply = .busError ∧ s.inLanes src (fun _ L => L) t)

/-- FR_CMD words of even parity with codes 1, 2 and 3 are STOP, RUN and SAFE with a valid key. FR_SNAP and SNAP_CMD with KEY 0x534E ask every running lane for a snapshot at the next 250 us tick; the capture advances to that tick and takes it in every lane that asked. The scrub of a running lane's SYS_PACE_STAT, two of whose copies agree with the unit, shows the unit's value again and counts a copy that differs. That one lane's request counts for both is the model's choice (log 34). -/
def Obligations.WindowAndSnapshotCommands : Prop :=
  (∀ (s : State) (src : Src) (w : Word), s.lanesOf src ≠ [] → popCount w % 2 = 0 → w &&& ~~~ 0x80000007 = 0 → fieldOf w 0 3 = 1 →
    exec (.frCmdStop src w) s = exec (.modeCmdStop src 0x4D4F) s) ∧
  (∀ (s : State) (src : Src) (w : Word), s.lanesOf src ≠ [] → popCount w % 2 = 0 → w &&& ~~~ 0x80000007 = 0 → fieldOf w 0 3 = 2 →
    exec (.frCmdRun src w) s = exec (.modeCmdRun src 0x4D4F) s) ∧
  (∀ (s : State) (src : Src) (w : Word), s.lanesOf src ≠ [] → popCount w % 2 = 0 → w &&& ~~~ 0x80000007 = 0 → fieldOf w 0 3 = 3 →
    exec (.frCmdSafe src w) s = exec (.modeCmdSafe src 0x4D4F) s) ∧
  (∀ (s : State) (src : Src), s.lanesOf src ≠ [] →
    exec (.snapTake src 0x534E) s = .next (s.each s.ups fun l u => u.upd l fun L => { L with snapAt := some (L.snapAt.getD u.next250) }).ok) ∧
  (∀ (s : State) (src : Src), s.lanesOf src ≠ [] → exec (.frSnap src 0x80000001) s = exec (.snapTake src 0x534E) s) ∧
  (∀ (s : State) (due : Nat), (s.ups.filterMap fun l => (s.lane l).snapAt).min? = some due →
    exec .snapCapture s = .next ((s.advTo due).each (s.advTo due).ups fun l s => s.snapLane l)) ∧
  (∀ (s : State) (l : LaneId) (c d : Word), s.isUp l = true → fieldOf c 0 1 = fieldOf (s.viewRaw l .hc 0x40000048) 0 1 →
    exec (.tvScrub l 0x40000048 c c d) s = .next ((if fieldOf c 0 1 = fieldOf d 0 1 then s else s.upd l (·.incFld 0x4007000C 0 32)).upd l fun L =>
      { L with tv := L.tv.filter fun t => !(t.1 == 0x40000048 && t.2.1 == 0) }))

/-- TXN_BEGIN by an engine or the host channel, in lanes whose transaction is CLOSED and whose counts agree, opens it in every lane the source acts in and answers the token, the count with 0 skipped. COMMIT by the owner with the right token seals an OPEN transaction, ROLLBACK closes an OPEN or ABORTED one with LAST 2; CLR_CNT clears the counts; every one of them by the owner restarts the idle limit. The commit instant applies the journal of every lane due; the idle limit closes with LAST 5 and raises EV_TXN_ABORT; the pair limit discards the staged member, counts it and raises EV_PAIR_TIMEOUT. Instants are reached as in log 8. -/
def Obligations.TransactionCommands : Prop :=
  (∀ (s : State) (src : Src) (tok : Half), s.lanesOf src ≠ [] → (src.req = .hc ∨ ∃ e, src.req = .engine e) →
    (∀ l ∈ s.lanesOf src, (s.lane l).txnState = 0 ∧ (s.lane l).txn.token = tok) →
    ∃ t, exec (.txnBegin src) s = .next t ∧ t.reply = .ok (BitVec.ofNat 32 (0x10000 + (if tok = 0xFFFF then 1 else tok + 1).toNat)) ∧
      s.inLanes src (fun _ L => { ((L.setFld 0x40060008 13 2 1).setFld 0x40060008 24 8 (reqCode src.req)).setFld 0x40060008 0 13 0 with
        txn := { L.txn with token := if tok = 0xFFFF then 1 else tok + 1, journal := [], lastAct := s.tb.run, sealedAt := none, sent := none } }) t) ∧
  (∀ (s : State) (src : Src), s.lanesOf src ≠ [] → (src.req = .hc ∨ ∃ e, src.req = .engine e) → (∀ l ∈ s.lanesOf src, (s.lane l).txnState ≠ 0) →
    ∃ t, exec (.txnBegin src) s = .next t ∧ t.reply = .ok 0 ∧ s.inLanes src (fun _ L => L.setFld 0x40060008 20 4 8) t) ∧
  (∀ (s : State) (src : Src) (tok : Half), s.lanesOf src ≠ [] → s.mode.mode ≠ .run → s.mode.mode ≠ .hold →
    (∀ l ∈ s.lanesOf src, (s.lane l).txnMine src.req tok = true ∧ (s.lane l).txnState = 1) →
    ∃ t, exec (.txnCommit src tok) s = .next t ∧ t.reply = .ok 0 ∧
      s.inLanes src (fun _ L => { (L.txnTouch src.req s.tb.run).setFld 0x40060008 13 2 2 with txn := { L.txn with lastAct := s.tb.run, sealedAt := some s.tb.run } }) t) ∧
  (∀ (s : State) (src : Src) (tok : Half), s.lanesOf src ≠ [] → (∀ l ∈ s.lanesOf src, (s.lane l).txnMine src.req tok = false) →
    ∃ t, exec (.txnCommit src tok) s = .next t ∧ t.reply = .ok 0 ∧ s.inLanes src (fun _ L => (L.txnTouch src.req s.tb.run).setFld 0x40060008 20 4 6) t) ∧
  (∀ (s : State) (src : Src) (tok : Half), s.lanesOf src ≠ [] →
    (∀ l ∈ s.lanesOf src, (s.lane l).txnMine src.req tok = true ∧ (s.lane l).txnState ≠ 2) →
    ∃ t, exec (.txnRollback src tok) s = .next t ∧ t.reply = .ok 0 ∧ s.inLanes src (fun _ L => (L.txnTouch src.req s.tb.run).txnClose 2) t) ∧
  (∀ (s : State) (src : Src), s.lanesOf src ≠ [] →
    ∃ t, exec (.txnClrCnt src) s = .next t ∧ t.reply = .ok 0 ∧ s.inLanes src (fun _ L => (L.txnTouch src.req s.tb.run).put 0x40060018 0) t) ∧
  (∀ (L : Lane) (req : Requester) (n : Nat), L.txnState ≠ 0 → L.txnOwner = reqCode req → L.txnTouch req n = { L with txn := { L.txn with lastAct := n } }) ∧
  (∀ (L : Lane) (req : Requester) (n : Nat), L.txnState = 0 ∨ L.txnOwner ≠ reqCode req → L.txnTouch req n = L) ∧
  (∀ (s : State) (d : Nat), (s.commits.map (·.1)).min? = some d →
    exec .commitInstant s = .next (@State.settle regIO ((s.advTo d).each (((s.advTo d).commits.filter fun p => p.1 ≤ (s.advTo d).tb.count).map (·.2)) fun l s => s.commitLane l))) ∧
  (∀ (s : State) (l : LaneId), (s.lane l).txnState = 1 ∨ (s.lane l).txnState = 3 → (s.lane l).fld 0x4006000C 0 10 ≠ 0 →
    exec (.txnIdleTimeout l) s =
      .next (((s.advRun ((s.lane l).txn.lastAct + sU ((s.lane l).fld 0x4006000C 0 10))).upd l (·.txnClose 5)).raise l 0xFB 0 2)) ∧
  (∀ (s : State) (l : LaneId) (a : Word) (p : PairStage), ((s.lane l).txn.pairs.find? fun p => p.addr == a.toNat) = some p →
    exec (.pairTimeout l a) s = .next (((s.advRun (p.at_ + msU 10)).upd l fun L =>
      { L.incFld 0x40060018 0 16 with txn := { L.txn with pairs := L.txn.pairs.filter fun q => q.addr != p.addr } }).raise l 0xFB 0 5))

/-- A write of IND_DATA with no posted write waiting is posted with its address and steps the address, in every lane the source acts in. A read of a slow address that answers w, with nothing waiting, completes with w and leaves the lanes as the window leaves them. The posted write is applied at its target once BUSY clears. While a write waits, an access of IND_DATA stalls and changes nothing. -/
def Obligations.IndirectWindow : Prop :=
  (∀ (s : State) (src : Src) (w : Word), s.lanesOf src ≠ [] → (∀ l ∈ s.lanesOf src, ((s.lane l).indOf src.req).busy = none) →
    ∃ t, exec (.indDataWrite src w) s = .next t ∧ t.reply = .ok 0 ∧
      s.inLanes src (fun _ L => L.setInd { (L.indOf src.req).step with err := 0, busy := some ((L.indOf src.req).addr.toNat % 2 ^ 24, w) }) t) ∧
  (∀ (s : State) (src : Src) (w : Word), s.lanesOf src ≠ [] → (∀ l ∈ s.lanesOf src, ((s.lane l).indOf src.req).busy.isSome = true) →
    ∃ t, exec (.indDataWrite src w) s = .next t ∧ t.reply = .stall ∧ s.inLanes src (fun _ L => L) t) ∧
  (∀ (s : State) (src : Src), s.readersOf src ≠ [] →
    (∀ l ∈ s.readersOf src, ((s.lane l).indOf src.req).busy = none ∧ ((s.lane l).indOf src.req).addr.toNat % 2 ^ 24 = 0x040000) →
    ∃ t, exec (.indDataRead src) s = .next t ∧ t.reply = .ok (BitVec.ofNat 32 Config.chestRev.toNat) ∧
      s.inThe (s.readersOf src) (fun _ L => L.setInd { (L.indOf src.req).step with err := 0 }) t) ∧
  (∀ (s : State) (src : Src) (l : LaneId) (a : Nat) (w : Word), s.lanesOf src = [l] → ((s.lane l).indOf src.req).busy = some (a, w) →
    exec (.indWriteApplied src) s = .next ((s.upd l fun L => L.setInd { L.indOf src.req with busy := none }).slowWrite src a w))

/-- WRITE, ERASE, CHECK and LOAD with KEY 0x494D, in CONFIGURE, with the loader idle, as commands of their own: the loader is busy with the operation for the slot in the first lane the source acts in, and both lanes show BUSY and the operation. LOADER_DONE ends it: an ERASE leaves the slot erased with RESULT 2, a CHECK shows what the slot's image is, a WRITE whose source image is good leaves it in the slot with RESULT 1, a LOAD of a good image loads the lanes that run; BUSY clears. In another mode the command is refused with RESULT 0xA. When WRITE samples its source is the model's choice (log 49). -/
def Obligations.ImageLoaderCommands : Prop :=
  (∀ (s : State) (src : Src) (slot : Fin 2) (l : LaneId) (ls : List LaneId),
    s.lanesOf src = l :: ls → s.loader.busy = false → s.mode.mode = .configure →
    (s.first src 0x40060100 (BitVec.ofNat 32 ((0x494D : Half).toNat * 2 ^ 16 + slot.val * 2 ^ 8 + 1)) = true →
      ∃ tw, exec (.imgWrite src 0x494D slot) s = .next { (({ s with loader := { busy := true, op := 1, slot := slot, lane := l } } : State).updBoth
        fun L => (L.setFlag 0x40060108 31 true).setFld 0x40060108 8 4 1).ok with twins := tw }) ∧
    (s.first src 0x40060100 (BitVec.ofNat 32 ((0x494D : Half).toNat * 2 ^ 16 + slot.val * 2 ^ 8 + 2)) = true →
      ∃ tw, exec (.imgErase src 0x494D slot) s = .next { (({ s with loader := { busy := true, op := 2, slot := slot, lane := l } } : State).updBoth
        fun L => (L.setFlag 0x40060108 31 true).setFld 0x40060108 8 4 2).ok with twins := tw }) ∧
    (s.first src 0x40060100 (BitVec.ofNat 32 ((0x494D : Half).toNat * 2 ^ 16 + slot.val * 2 ^ 8 + 3)) = true →
      ∃ tw, exec (.imgCheck src 0x494D slot) s = .next { (({ s with loader := { busy := true, op := 3, slot := slot, lane := l } } : State).updBoth
        fun L => (L.setFlag 0x40060108 31 true).setFld 0x40060108 8 4 3).ok with twins := tw }) ∧
    (s.first src 0x40060100 (BitVec.ofNat 32 ((0x494D : Half).toNat * 2 ^ 16 + slot.val * 2 ^ 8 + 4)) = true →
      ∃ tw, exec (.imgLoad src 0x494D slot) s = .next { (({ s with loader := { busy := true, op := 4, slot := slot, lane := l } } : State).updBoth
        fun L => (L.setFlag 0x40060108 31 true).setFld 0x40060108 8 4 4).ok with twins := tw })) ∧
  (∀ (s : State) (src : Src) (slot : Fin 2), s.lanesOf src ≠ [] → s.loader.busy = false → s.mode.mode ≠ .configure →
    s.first src 0x40060100 (BitVec.ofNat 32 ((0x494D : Half).toNat * 2 ^ 16 + slot.val * 2 ^ 8 + 1)) = true →
      ∃ tw, exec (.imgWrite src 0x494D slot) s = .next { (s.updBoth fun L => L.setFld 0x40060108 0 4 0xA).busErr with twins := tw }) ∧
  (∀ s : State, s.loader.busy = true → s.loader.op = 2 → exec (.loaderDone false) s = .next ((s.slotErase s.loader.slot).loaderEnd 2)) ∧
  (∀ s : State, s.loader.busy = true → s.loader.op = 3 →
    exec (.loaderDone false) s = .next (s.loaderEnd (s.imgCheck (s.slotRd s.loader.slot)).1)) ∧
  (∀ s : State, s.loader.busy = true → s.loader.op = 1 → s.writeCheck = 1 →
    exec (.loaderDone false) s = .next (((s.slotErase s.loader.slot).slotProgram s.loader.slot s.srcRd 0 (imgLen s.srcRd)).loaderEnd 1)) ∧
  (∀ (s : State) (r : State × Nat), s.loader.busy = true → s.loader.op = 4 → (s.imgCheck (s.slotRd s.loader.slot)).1 = 1 →
    r = s.loadAll s.ups s.loader.slot (s.slotRd s.loader.slot) (s.imgCheck (s.slotRd s.loader.slot)).2 false true →
    exec (.loaderDone false) s = .next (r.1.loaderEnd r.2))

/-- START with KEY 0x444D of a channel that is IDLE, DONE or ABORTED, whose descriptor at NEXT is fetched and is well formed, makes the channel RUNNING with that descriptor in every lane the source acts in; RESUME of a HALTED channel that holds a descriptor makes it RUNNING; ABORT of a HALTED channel makes it ABORTED and raises 0x35; ABORT of a RUNNING channel of one lane moves the given pieces first; a command in a state that does not take it is refused with 0x36. A descriptor whose pieces all succeed completes, with the events and NEXT of R287; a piece that faults halts the channel; the active lane's report lets the standby complete. That an ABORT carries its pieces as an operand is the model's form (log 7). -/
def Obligations.DmaCommands : Prop :=
  (∀ (s : State) (src : Src) (c : Fin 16) (bs : LaneId → Bytes) (g : LaneId → Target) (F : Lane → Lane), s.lanesOf src ≠ [] →
    (∀ l ∈ s.lanesOf src, (s.lane l).dmaState c = 0 ∨ (s.lane l).dmaState c = 3 ∨ (s.lane l).dmaState c = 4) →
    F = (fun L => ((L.putN (aDma c 0xC) 1).put (aDma c 0x10) (L.get (aDma c 8))).dmaUpd c fun x => { x with desc := none, done := 0, copied := false, wins := none }) →
    (∀ l ∈ s.lanesOf src, ((F (s.lane l)).getN (aDma c 0x10)) % 32 = 0 ∧
      (F (s.lane l)).winMap none c ((F (s.lane l)).getN (aDma c 0x10)) 32 false = .inr (g l) ∧ (g l).region = .dram ∧ regionOf (g l).addr = .dram ∧ (s.lane l).badWords = [] ∧
      s.rdMem l (g l).engine (g l).addr 32 = bs l ∧
      u32At (bs l) 0 < 16 ∧ allAt (bs l) 0x18 8 0 = true ∧ u32At (bs l) 4 ≤ 67108864 ∧ (u32At (bs l) 0 % 2 = 1 ∨ u32At (bs l) 16 % 32 = 0)) →
    ∃ t, exec (.dmaStart src 0x444D c) s = .next t ∧ t.reply = .ok 0 ∧
      s.inLanes src (fun l L => (F L).dmaUpd c fun x =>
        { x with desc := some { ctrl := u32At (bs l) 0, len := u32At (bs l) 4, src := u32At (bs l) 8, dst := u32At (bs l) 12, next := u32At (bs l) 16 },
                 done := 0, copied := false }) t) ∧
  (∀ (s : State) (src : Src) (c : Fin 16), s.lanesOf src ≠ [] → (∀ l ∈ s.lanesOf src, (s.lane l).dmaState c = 2 ∧ (s.lane l).dma[c].desc.isSome = true) →
    ∃ t, exec (.dmaResume src 0x444D c) s = .next t ∧ t.reply = .ok 0 ∧ s.inLanes src (fun _ L => L.setFld (aDma c 0xC) 0 3 1) t) ∧
  (∀ (s : State) (src : Src) (c : Fin 16) (n : Nat), s.lanesOf src ≠ [] → (∀ l ∈ s.lanesOf src, (s.lane l).dmaState c = 2) →
    ∃ t, exec (.dmaAbort src 0x444D c n) s = .next t ∧ t.reply = .ok 0 ∧
      s.inLanes src (fun _ L => (L.setFld (aDma c 0xC) 0 3 4).setFlag (aDma c 0xC) 10 false) t) ∧
  (∀ (s : State) (src : Src) (l : LaneId) (c : Fin 16) (n : Nat) (d : DmaDesc), s.lanesOf src = [l] → (s.lane l).dmaState c = 1 →
    (s.lane l).dma[c].desc = some d → (s.lane l).dma[c].copied = false →
    exec (.dmaAbort src 0x444D c n) s = .next ((((@dmaPieces regIO l c d n s (s.lane l).dma[c].done).1.upd l
      fun L => (L.setFld (aDma c 0xC) 0 3 4).setFlag (aDma c 0xC) 10 false).raise l 0x35 c).ok)) ∧
  (∀ (s : State) (src : Src) (c : Fin 16), s.lanesOf src ≠ [] → (∀ l ∈ s.lanesOf src, (s.lane l).dmaState c = 1) →
    ∃ t, exec (.dmaStart src 0x444D c) s = .next t ∧ t.reply = .busError ∧ s.inLanes src (fun _ L => L) t) ∧
  (∀ (s s1 : State) (l : LaneId) (c : Fin 16) (d : DmaDesc) (n : Nat), (s.lane l).dma[c].desc = some d → (s.lane l).dmaState c = 1 →
    (s.lane l).flag (aDma c 0xC) 10 = false → (s.lane l).dma[c].copied = false → @State.dmaRun regIO s l c d = (s1, n, none) →
    exec (.dmaDescComplete l c) s = .next (@State.dmaCopied regIO s1 l c d)) ∧
  (∀ (s : State) (l : LaneId) (c : Fin 16) (d : DmaDesc), d.ctrl.testBit 3 = false → d.ctrl.testBit 0 = true →
    @State.dmaFinish regIO s l c d = (((if d.ctrl.testBit 1 then (s.upd l fun L =>
        ((L.putN (aDma c 0x20) (L.getN (aDma c 0x20) + 1)).setFlag (aDma c 0xC) 10 false).dmaUpd c fun x => { x with desc := none, done := 0, copied := false }).raise l 0x32 c
      else s.upd l fun L =>
        ((L.putN (aDma c 0x20) (L.getN (aDma c 0x20) + 1)).setFlag (aDma c 0xC) 10 false).dmaUpd c fun x => { x with desc := none, done := 0, copied := false }).raise l 0x33 c).upd l
      fun L => L.setFld (aDma c 0xC) 0 3 3)) ∧
  (∀ (s s1 : State) (l : LaneId) (c : Fin 16) (d : DmaDesc) (n kind phase addr : Nat), (s.lane l).dma[c].desc = some d → (s.lane l).dmaState c = 1 →
    (s.lane l).dma[c].copied = false → @State.dmaRun regIO s l c d = (s1, n, some (kind, phase, addr)) →
    exec (.dmaFault l c none) s = .next (s1.dmaHalt l c kind phase addr n)) ∧
  (∀ (s : State) (c : Fin 16), s.dualRun = true → (s.lane (other s.act)).dma[c].desc = none →
    exec (.dmaChestConfirm c) s = .next (s.upd (other s.act) fun L => L.dmaUpd c fun x => { x with confirmed := (s.lane s.act).getN (aDma c 0x20) }))

/-- A scrub read of a running lane in a memory the scrubber walks changes nothing on a clean word, counts and reports a correctable error, and records an uncorrectable one. -/
def Obligations.ScrubbedWords : Prop :=
  (∀ (s : State) (l : LaneId) (e : Fin 16) (a : Word), s.isUp l = true → scrubbed (regionOf a.toNat) = true →
    exec (.scrubRead l e a .clean) s = .next s ∧ exec (.scrubRead l e a .correctable) s = .next (s.eccCe l) ∧
    exec (.scrubRead l e a .uncorrectable) s = .next (s.eccUe l (memKey e a.toNat) a.toNat)) ∧
  (∀ (s : State) (l : LaneId), (s.lane l).eccCeAt = none →
    s.eccCe l = ((s.upd l (·.incFld 0x40050010 16 16)).upd l fun L => { L with eccCeAt := some s.tb.run }).raise l 0x38) ∧
  (∀ (s : State) (l : LaneId) (at_ : Nat), (s.lane l).eccCeAt = some at_ → s.tb.run < at_ + sU 1 → s.eccCe l = s.upd l (·.incFld 0x40050010 16 16))

/-- At a grid instant, after what is due there first (a commit, a switch), for a task that waits, in a mode that runs, a cycle starts in every running lane, the grid moves on and notes of twin writes by the task's engines end; a task whose cycle is still in progress slips. When every engine has returned, the cycle takes the program's writes, forces and the image, and is FINISHED with its execution time. At the publish instant of tasks that are due together the DQ image of the active lane applies and each task publishes, where nothing is compared or nothing differs and the field die is not in FAILSAFE. The mirror window's end copies the active lane's slot into a standby. The overrun instant stops a cycle that still runs, in every running lane, with the action of the task. Instants are reached as in log 8, and an engine's program is the operand of CYCLE_FINISH (log 9). -/
def Obligations.CycleCommands : Prop :=
  (∀ (s u v : State) (k : Fin 8) (f : Option (LaneId × Fin 16)), s.running = true → (s.lane s.act).taskDef k = true →
    u = (s.advTo (nsU (s.gridNs s.act k (s.lane s.act).tasks[k].gridK))).gridDue →
    (u.lane s.act).tState k = 1 → (u.lane s.act).tasks[k].windowEnd = none →
    v = ({ u with twins := u.twins.filter fun w => !((u.lane s.act).tEngines k).testBit w.2.1.val } : State).each u.ups
      (fun l x => x.upd l fun L => L.taskUpd k fun T => { T with gridK := (s.lane s.act).tasks[k].gridK + 1 }) →
    exec (.cycleStart k f) s = .next (@State.settle regIO (v.each v.ups fun l x => x.cycleBegin l k (s.lane s.act).tasks[k].gridK f))) ∧
  (∀ (s u v : State) (k : Fin 8) (f : Option (LaneId × Fin 16)), s.running = true → (s.lane s.act).taskDef k = true →
    u = (s.advTo (nsU (s.gridNs s.act k (s.lane s.act).tasks[k].gridK))).gridDue →
    (u.lane s.act).tState k = 2 →
    v = ({ u with twins := u.twins.filter fun w => !((u.lane s.act).tEngines k).testBit w.2.1.val } : State).each u.ups
      (fun l x => x.upd l fun L => L.taskUpd k fun T => { T with gridK := (s.lane s.act).tasks[k].gridK + 1 }) →
    exec (.cycleStart k f) s = .next (@State.settle regIO (v.each v.ups fun l x => (x.upd l (·.incFld (aT k 0xC) 0 16)).raise l 0x21 k))) ∧
  (∀ (s u : State) (l : LaneId) (k : Fin 8) (w : List MemWrite), s.isUp l = true → (s.lane l).canFinish k = true →
    u = (s.upd l fun L => (w.filter fun w => ((s.lane l).tEngines k).testBit w.engine.val && (s.lane l).storeOk k w.addr.toNat w.data.length).foldl
      (fun L w => L.wrMem w.engine.val w.addr.toNat w.data) L).forceOthers l k →
    exec (.cycleFinish l k w) s = .next (((u.canTaken l k).upd l fun L =>
      let L2 := (((L.engDropAll k).taskUpd k fun T => { T with finished := some u.ns, running := 0, image := u.buildImage l k }).setTState k 3).putN (aT k 0x1C)
        ((u.ns - (s.lane l).tasks[k].t0) / 1000)
      if L2.getN (aT k 0x20) < (u.ns - (s.lane l).tasks[k].t0) / 1000 then L2.putN (aT k 0x20) ((u.ns - (s.lane l).tasks[k].t0) / 1000) else L2).ctxCheck)) ∧
  (∀ (s u : State) (d : Nat) (dues : List (Fin 8 × Nat)) (ts : List (Fin 8)),
    dues = ((List.finRange 8).filterMap fun t => ((s.lane s.act).pubDue t).map fun d => (t, d)) → (dues.map (·.2)).min? = some d →
    u = s.advTo (nsU d) → ts = ((dues.filter fun p => nsU p.2 ≤ u.tb.count).foldl (fun r p => (s.lane s.act).pubOrder p r) []).map (·.1) →
    u.red.failsafe = false → u.compares = false ∨ u.dqImage (ts.map fun t => (t, s.act)) =
      u.dqImage (ts.map fun t => (t, if (ts.filter u.stbyDone).contains t then other s.act else s.act)) →
    exec .publishInstant s = .next (@State.settle regIO (ts.foldl (fun s t => s.publishTask t) (u.dqApply (u.dqImage (ts.map fun t => (t, s.act))))).ctxCheck)) ∧
  (∀ (s u : State) (k : Fin 8) (w : Nat), (s.lane s.act).tasks[k].windowEnd = some w → u = s.advTo w → u.dualRun = true →
    ∃ v : State, v = u.upd (other s.act) (fun L => (L.mirrorPut k ((u.lane s.act).slotGet k)).slotPut k ((u.lane s.act).slotGet k)) ∧
      exec (.mirrorWindowEnd k) s = .next (v.each v.ups fun l x => x.upd l fun L => L.taskUpd k fun T => { T with windowEnd := none, slotOld := false })) ∧
  (∀ (s u v : State) (k : Fin 8) (a : Nat), s.running = true → (s.lane s.act).tState k = 2 → (s.lane s.act).tasks[k].suspended = false →
    a = (s.lane s.act).fld (aT k 4) 24 2 → u = s.advTo (nsU (s.lane s.act).tasks[k].ovrAt) →
    v = ((u.each u.ups fun l x =>
      let y := (@State.dmaAbortTask regIO (x.upd l fun L => ((L.engDropAll k).incFld (aT k 0x10) 16 16).setFlag (aT k 0) 10 true) l k).upd l fun L =>
        (L.mirrorPut k (L.slotGet k)).taskUpd k fun T => { T with finished := none, faulted := false, image := [], running := 0, axisWr := [] }
      ((if a = 1 then y.upd l (·.setTState k 5) else y.cycleOver l k).chestStopped l k).raise l 0x22 k).grpDiscardTask k).ctxCheck →
    exec (.overrunInstant k) s = .next (if a = 1 then v.raiseUp 0x27 k else if a = 2 then v.askSafe false else v))

/-- While an engine runs a task and is not halted: RT_INFO answers t0 and the period, RT_NOW the time, RT_HWT_START stores the expiry t0 + duration or answers -1 out of range, RT_HWT_STOP idles the timer, RT_HWT_QUERY answers state and expiry, RT_FORCED whether a symbol is forced, RT_TMR and RT_EDGE the rules of R256 and R258 with the object rewritten. A trap of an engine that runs a task records cause, epc and tval and faults the cycle. What a trap leaves in the registers that the spec does not name is free (log 61). -/
def Obligations.RuntimeCalls : Prop :=
  (∀ (s : State) (l : LaneId) (e : Fin 16) (k : Fin 8), s.rtTask l e = some k →
    (∀ u : State, u = s.rtEcall l e k 0 [] →
      exec (.rtInfo l e) s = .next (u.rtRet l e (BitVec.ofNat 32 (u.lane l).tasks[k].t0) (BitVec.ofNat 32 ((u.lane l).tasks[k].t0 / 2 ^ 32))
        (BitVec.ofNat 32 ((u.lane l).tPeriod k * 250000)))) ∧
    exec (.rtNow l e) s = .next ((s.rtEcall l e k 1 []).rtRet1 l e (s.rtEcall l e k 1 []).tbW) ∧
    (∀ (u : State) (n : Word) (d : DWord) (v : Bool), u = s.rtEcall l e k 0x12 [n, d.truncate 32, (d >>> 32).truncate 32, BitVec.ofNat 32 (bit v)] →
      (n.toNat ≤ 255 → d ≠ 0 → d.toNat ≤ 2 ^ 48 →
        exec (.rtHwtStart l e n d v) s = .next ((u.upd l fun L => ((L.putN (aHwt n.toNat) (k.val * 2 ^ 16 + bit v * 2 ^ 8 + 1)).putN (aHwt n.toNat + 4)
          ((u.lane l).tasks[k].t0 + d.toNat)).putN (aHwt n.toNat + 8) (((u.lane l).tasks[k].t0 + d.toNat) / 2 ^ 32)).rtRet1 l e 0)) ∧
      (255 < n.toNat ∨ d = 0 ∨ 2 ^ 48 < d.toNat → exec (.rtHwtStart l e n d v) s = .next (u.rtRet1 l e 0xFFFFFFFF))) ∧
    (∀ n : Word, n.toNat ≤ 255 → exec (.rtHwtStop l e n) s = .next (((s.rtEcall l e k 0x13 [n]).upd l (·.setFld (aHwt n.toNat) 0 2 0)).rtRet1 l e 0)) ∧
    (∀ (u : State) (n : Word), u = s.rtEcall l e k 0x14 [n] → n.toNat ≤ 255 → exec (.rtHwtQuery l e n) s = .next (u.rtRet l e
      (BitVec.ofNat 32 (if (u.lane l).fld (aHwt n.toNat) 0 2 = 0 then 0 else if (u.lane l).hwtE n.toNat ≤ (u.lane l).tasks[k].t0 then 2 else 1))
      (BitVec.ofNat 32 ((u.lane l).hwtE n.toNat)) (BitVec.ofNat 32 ((u.lane l).hwtE n.toNat / 2 ^ 32)))) ∧
    (∀ (u : State) (x : Word) (y : Sym), u = s.rtEcall l e k 0x20 [x] → (u.lane l).sym? k x.toNat = some y →
      exec (.rtForced l e x) s = .next (u.rtRet1 l e (BitVec.ofNat 32 (bit (u.force l 0 y.id).isSome)))) ∧
    (∀ (u : State) (x : Word) (y : Sym) (i : Bool) (o : Bytes) (r : Nat × Bool), u = s.rtEcall l e k 0x10 [x, BitVec.ofNat 32 (bit i)] →
      (u.lane l).sym? k x.toNat = some y → 0x10 ≤ y.typ → y.typ ≤ 0x12 →
      o = u.objRead l e y 32 → r = timerRule y.typ (u64At o 0) (u64At o 8) (u8At o 24 != 0) (u8At o 25 != 0) i
        (if u64At o 16 = 0 then 0 else (u.lane l).tasks[k].t0 - u64At o 16) →
      exec (.rtTmr l e x i) s = .next ((u.objWrite l e y (leBytes 8 (u64At o 0) ++ leBytes 8 r.1 ++ leBytes 8 (u.lane l).tasks[k].t0 ++
        leBytes 1 (bit i) ++ leBytes 1 (bit r.2) ++ o.drop 26)).rtRet1 l e (BitVec.ofNat 32 (bit r.2)))) ∧
    (∀ (u : State) (x : Word) (y : Sym) (i : Bool) (o : Bytes), u = s.rtEcall l e k 0x11 [x, BitVec.ofNat 32 (bit i)] →
      (u.lane l).sym? k x.toNat = some y → y.typ = 0x13 → o = u.objRead l e y 2 →
      exec (.rtEdge l e x i) s = .next ((u.objWrite l e y [BitVec.ofNat 8 (bit i), BitVec.ofNat 8 (u8At o 1 / 2 * 2)]).rtRet1 l e
        (BitVec.ofNat 32 (if (u8At o 1).testBit 0 then 0 else bit (i && !(u8At o 0 != 0)) + 2 * bit (!i && (u8At o 0 != 0)))))) ∧
    (∀ (u : State) (x : Word), u = s.rtEcall l e k 0x20 [x] → (u.lane l).sym? k x.toNat = none → exec (.rtForced l e x) s = .next (u.rtTrap l e))) ∧
  (∀ (s : State) (l : LaneId) (e : Fin 16) (k : Fin 8) (cause epc tval : Word), (s.lane l).engines[e].cur = some k → cause ≠ 1 → cause ≠ 5 → cause ≠ 7 →
    exec (.engineTrap l e cause epc tval) s = .next ((((s.engRan l e).engTrapCsr l e cause epc tval).upd l fun L =>
      let L1 := ((L.put (aEng e 4) cause).put (aEng e 8) epc).put (aEng e 0xC) tval
      let L2 := (L1.setFlag (aT k 0) 11 true).setFld (aT k 0) 16 4 e.val
      (L2.engDrop e k).taskUpd k fun T => { T with faulted := true, running := T.running &&& ~~~ BitVec.ofNat 16 (2 ^ e.val) }).raise l 0x24 k).ctxCheck) ∧
  (∀ (s : State) (l : LaneId) (n : Fin 256), (s.lane l).fld (aHwt n) 0 2 = 1 → (s.lane l).flag (aHwt n) 8 = true →
    exec (.hwtExpiry l n) s = .next (((s.advTo (nsU ((s.lane l).hwtE n))).upd l (·.setFld (aHwt n) 0 2 2)).raise l 0x25 n))

/-- For every preset, elapsed time, input and step: TON is off with its time at 0 while the input is 0, starts at 0 on the rising input, then counts up to the preset and is on exactly when it has reached it; TOF is on with its time at 0 while the input is 1 and goes off when the time since the falling input reaches the preset; TP starts on a rising input, runs to the preset whatever the input does, and is reset only once it has ended and the input is 0. In every case the time stays within the preset. -/
def Obligations.TimerRules : Prop :=
  ∀ (pt et dt : Nat) (w q i : Bool), et ≤ pt →
    timerRule 0x10 pt et w q false dt = (0, false) ∧
    timerRule 0x10 pt et true q true dt = (min (et + dt) pt, decide (pt ≤ et + dt)) ∧
    timerRule 0x11 pt et w q true dt = (0, true) ∧
    timerRule 0x11 pt et false true false dt = (min (et + dt) pt, decide (et + dt < pt)) ∧
    timerRule 0x12 pt et w true i dt = (min (et + dt) pt, decide (et + dt < pt)) ∧
    timerRule 0x12 pt et false false true dt = (0, true) ∧
    ∀ typ, (timerRule typ pt et w q i dt).1 ≤ pt

/-- With KEY 0x5443, for a task the image defines, in every lane the source acts in: RESTART of a STOPPED task in a mode that runs sets its restart 1 ms on, STEP of a held task asks for one cycle, CLR_CNT clears its counters. A debugger's halt where it is enabled and permitted halts the engine, suspends the tasks whose set contains it and raises 0x31; the resume of a halted engine lets them go on. -/
def Obligations.TaskAndDebugCommands : Prop :=
  (∀ (s : State) (src : Src) (k : Fin 8), s.lanesOf src ≠ [] → s.running = true → (∀ l ∈ s.lanesOf src, (s.lane l).taskDef k = true ∧ (s.lane l).tState k = 5) →
    ∃ t, exec (.taskRestart src 0x5443 k) s = .next t ∧ t.reply = .ok 0 ∧
      s.inLanes src (fun _ L => L.taskUpd k fun T => { T with restartAt := some (s.tb.count + msU 1) }) t) ∧
  (∀ (s : State) (src : Src) (k : Fin 8), s.lanesOf src ≠ [] → (∀ l ∈ s.lanesOf src, (s.lane l).taskDef k = true ∧ (s.lane l).tState k = 4) →
    ∃ t, exec (.taskStep src 0x5443 k) s = .next t ∧ t.reply = .ok 0 ∧ s.inLanes src (fun _ L => L.taskUpd k fun T => { T with stepReq := true }) t) ∧
  (∀ (s : State) (src : Src) (k : Fin 8), s.lanesOf src ≠ [] → (∀ l ∈ s.lanesOf src, (s.lane l).taskDef k = true) →
    ∃ t, exec (.taskClrCnt src 0x5443 k) s = .next t ∧ t.reply = .ok 0 ∧
      s.inLanes src (fun _ L => ((L.put (aT k 0xC) 0).put (aT k 0x10) 0).put (aT k 0x20) 0) t) ∧
  (∀ (s : State) (l : LaneId) (e : Fin 16), (s.lane l).flag 0x40020008 0 = true → s.running = true → s.dualRun = false → s.isUp l = true →
    (s.lane l).engines[e].halted = false →
    exec (.debugHalt l e) s = .next (((s.engRan l e).upd l fun L => (List.finRange 8).foldl (fun (L : Lane) (t : Fin 8) =>
      if (L.tEngines t).testBit e.val && L.taskDef t && !L.tasks[t].suspended then
        (L.taskUpd t fun T => { T with suspended := true, debugFrom := L.tState t }).setTState t 6 else L)
      (L.engUpd e fun g => { g with halted := true, dpc := g.regs.pc })).raise l 0x31 e)) ∧
  (∀ (s : State) (l : LaneId) (e : Fin 16), (s.lane l).flag 0x40020008 0 = true → (s.lane l).engines[e].halted = true →
    ∃ (r : EngRegs) (d : Word) (g4 : Vector (Word × Word) 4),
      exec (.debugResume l e) s = .next ((({ s with free := s.free + 1 } : State).upd l fun L =>
        let L1 := L.engUpd e fun g => { g with halted := false, regs := r, dpc := d, triggers := g4 }
        let L2 := if L1.engines[e].cur.isNone then L1.engNext e else L1
        (List.finRange 8).foldl (fun (L : Lane) (t : Fin 8) =>
          if L.tasks[t].suspended && !((bitsOf 16 (L.tEngines t)).any fun e => (L.engines.getD e Engine.init).halted) then
            (L.setTState t (s.debugBack t L.tasks[t])).taskUpd t fun T => { T with suspended := false }
          else L) L2).ctxCheck))

/-- The boot watchdog of a lane that boots or was left out resets the lane with cause WDG 8 s after its release, and counts; the third time the lane stays in RESET with NO_LANE shown. SYS_RESET_CMD with KEY 0xB007 resets each lane it names, the standby's first: nothing happens to the only lane that runs, the active lane of two passes its role on at the next switch point first, any other is reset at once with cause SW; in RESET and RETAIN and with another KEY the write completes without effect. Automatic resets of 24 h of age no longer count. -/
def Obligations.LaneResetCommands : Prop :=
  (∀ (s u : State) (l : LaneId), (s.lane l).phase = .booting ∨ (s.lane l).phase = .leftOut ∨ s.wdgJoins l = true →
    u = s.advRun ((s.lane l).bootAt + sU 8) →
    exec (.bootWatchdogExpiry l) s = .next (u.wdgReset l (min 3 (wdgOf u.keeper l + 1)) (s.wdgJoins l))) ∧
  (∀ (u v : State) (l : LaneId) (n : Nat), v = { u with keeper := setWdg u.keeper l n } →
    u.wdgReset l 3 false = { u with keeper := setWdg u.keeper l 3 }.upd l
      (fun L => { (L.setFlag 0x4000000C 5 true).setFlag 0x40000010 18 true with phase := .gaveUp }) ∧
    (n ≠ 3 → v.boot.isSome = true → u.wdgReset l n false = v.upd l fun L => { (L.wiped (v.tb.run + usU 20) 5) with phase := .leftOut }) ∧
    (∀ j, n ≠ 3 → v.boot = none → u.wdgReset l n j = (v.upd l fun L => L.wiped (v.tb.run + usU 20) 5).resyncBegin l 1)) ∧
  (∀ (s : State) (src : Src) (key : Half) (a b : Bool) (ls : List LaneId),
    s.first src 0x40000018 (BitVec.ofNat 32 (key.toNat * 2 ^ 16 + bit b * 4 + bit a * 2)) = true → s.resetCmdOpen src = true →
    ls = (if s.isAct .a then [LaneId.b, .a] else [.a, .b]).filter (fun l => if l = .a then a else b) →
    (key = 0xB007 → s.mode.mode ≠ .retain → s.mode.mode ≠ .reset →
      ∃ tw, exec (.resetCmdLane src key a b) s = .next { (s.each ls fun l s => @State.resetLane regIO s l).ok with twins := tw }) ∧
    (key ≠ 0xB007 ∨ s.mode.mode = .retain ∨ s.mode.mode = .reset →
      ∃ tw, exec (.resetCmdLane src key a b) s = .next { s.ok with twins := tw })) ∧
  (∀ (s : State) (l : LaneId), s.isUp l = true →
    (s.isUp (other l) = false → @State.resetLane regIO s l = s) ∧
    (s.isUp (other l) = true → s.isAct l = true → @State.resetLane regIO s l = { s with red := { s.red with takeover := some .laneReset, resetReq := some l } }) ∧
    (s.isUp (other l) = true → s.isAct l = false → @State.resetLane regIO s l = @State.laneResetNow regIO s l 3)) ∧
  (∀ (s : State) (d : Nat), s.red.autoResets.min? = some d →
    ∃ t, exec .autoResetAgeOut s = .next t ∧ t = { s.advRun (d + sU 86400) with red := t.red } ∧
      t.red = { (s.advRun (d + sU 86400)).red with
        autoResets := (s.advRun (d + sU 86400)).red.autoResets.filter fun x => (s.advRun (d + sU 86400)).tb.run < x + sU 86400 })

/-- A read of BEN_RESV by the requester the ring is for, in every lane it acts in: with the ring available and a slot free it grants the next SEQ and reserves it; with the ring full it answers FULL and reserves nothing; unavailable it answers UNAVAIL. A POST of a SEQ that is reserved and unposted, on a ring that runs, posts it; another SEQ is refused with 0x45 and no effect. Any other requester gets a bus error and nothing changes. A write of BASE, LEN or CPL_BASE with nothing outstanding is taken and the ring restarts empty; else it is a bus error. The head slot unposted for RESV_TO ms completes NOT_POSTED, counted. Readings: log 108, 109. -/
def Obligations.BenchRingCommands : Prop :=
  (∀ (s : State) (src : Src) (r : Fin 2) (q : Nat), s.lanesOf src ≠ [] → ringTakes r src.req = true →
    (∀ l ∈ s.lanesOf src, s.benUnavail l r = false ∧ (s.lane l).outstanding r < (s.lane l).ringLen r ∧ (s.lane l).ben.rings[r].nextSeq = q) →
    ∃ t, exec (.benResv src r) s = .next t ∧ t.reply = .ok (BitVec.ofNat 32 (2 ^ 31 + q)) ∧
      s.inLanes src (fun _ L => L.ringUpd r fun g =>
        { g with nextSeq := (q + 1) % 65536, headAt := if q == L.runSeq r then s.tb.run else g.headAt }) t) ∧
  (∀ (s : State) (src : Src) (r : Fin 2), s.lanesOf src ≠ [] → ringTakes r src.req = true →
    (∀ l ∈ s.lanesOf src, s.benUnavail l r = false ∧ (s.lane l).ringLen r ≤ (s.lane l).outstanding r) →
    ∃ t, exec (.benResv src r) s = .next t ∧ t.reply = .ok 0x40000000 ∧ s.inLanes src (fun _ L => L) t) ∧
  (∀ (s : State) (src : Src) (r : Fin 2), s.lanesOf src ≠ [] → ringTakes r src.req = true → (∀ l ∈ s.lanesOf src, s.benUnavail l r = true) →
    ∃ t, exec (.benResv src r) s = .next t ∧ t.reply = .ok 0x20000000 ∧ s.inLanes src (fun _ L => L) t) ∧
  (∀ (s : State) (src : Src) (r : Fin 2) (data : Word), s.lanesOf src ≠ [] → ringTakes r src.req = true →
    (∀ l ∈ s.lanesOf src, (s.lane l).reservedSeq r (fieldOf data 0 16) = true ∧
      (s.lane l).ben.rings[r].posted.contains (fieldOf data 0 16) = false ∧ (s.lane l).ben.rings[r].halted = false) →
    ∃ t, exec (.benPost src r data) s = .next t ∧ t.reply = .ok 0 ∧
      s.inLanes src (fun _ L => L.ringUpd r fun g => { g with posted := g.posted ++ [fieldOf data 0 16] }) t) ∧
  (∀ (s : State) (src : Src) (r : Fin 2) (data : Word), s.lanesOf src ≠ [] → ringTakes r src.req = true →
    (∀ l ∈ s.lanesOf src, (s.lane l).reservedSeq r (fieldOf data 0 16) = false ∨
      (s.lane l).ben.rings[r].posted.contains (fieldOf data 0 16) = true ∨ (s.lane l).ben.rings[r].halted = true) →
    ∃ t, exec (.benPost src r data) s = .next t ∧ t.reply = .busError ∧ s.inLanes src (fun _ L => L) t) ∧
  (∀ (s : State) (src : Src) (r : Fin 2) (data : Word), s.lanesOf src ≠ [] → ringTakes r src.req = false →
    (∃ t, exec (.benResv src r) s = .next t ∧ t.reply = .busError ∧ s.inLanes src (fun _ L => L) t) ∧
    (∃ t, exec (.benPost src r data) s = .next t ∧ t.reply = .busError ∧ s.inLanes src (fun _ L => L) t)) ∧
  (∀ (s : State) (src : Src) (r : Fin 2) (off : Nat) (data : Word), s.lanesOf src ≠ [] → off = 0 ∨ off = 4 ∨ off = 8 →
    (off = 4 → fieldOf data 0 9 ∈ [0, 4, 8, 16, 32, 64, 128, 256]) →
    ((∀ l ∈ s.lanesOf src, (s.lane l).outstanding r = 0) →
      ∃ t, exec (.benRingConfigWrite src (BitVec.ofNat 32 (aRing r off)) data) s = .next t ∧ t.reply = .ok 0 ∧
        s.inLanes src (fun _ L => (L.put (aRing r off) (if off = 4 then data &&& 0x1FF else data &&& 0xFFFFFFC0)).ringRestart r s.tb.run) t) ∧
    ((∀ l ∈ s.lanesOf src, (s.lane l).outstanding r ≠ 0) →
      ∃ t, exec (.benRingConfigWrite src (BitVec.ofNat 32 (aRing r off)) data) s = .next t ∧ t.reply = .busError ∧ s.inLanes src (fun _ L => L) t)) ∧
  (∀ (s u : State) (l : LaneId) (r : Fin 2), (s.lane l).fld 0x400A0004 16 8 ≠ 0 → s.benUnavail l r = false →
    (s.lane l).reservedSeq r ((s.lane l).runSeq r) = true → (s.lane l).ben.rings[r].posted.contains ((s.lane l).runSeq r) = false →
    u = s.advRun ((s.lane l).ben.rings[r].headAt + msU ((s.lane l).fld 0x400A0004 16 8)) →
    exec (.resvTimeout l r) s = .next (@State.settle regIO (@State.benPlain regIO (u.upd l fun L => (L.headGone r u.tb.run).incFld (aRing r 0x18) 16 16)
      l r.val ((s.lane l).runSeq r) 0 0 stNotPosted none)))

/-- In a mode that runs jobs, a lane that runs none starts the head of the ring R134 picks: its descriptor is read and taken and the job runs; a window fault ends it MEM_FAULT, a check of R139 that fails ends it with that check's status. A job that ends by itself before a miss of its DEADLINE can have been found, ends with its own status; after that, and at a miss, it ends after the iterations completed by then. The peer's status for a job that waits agrees it, with the worse status; without a peer that takes part the lane agrees with itself; the wait that runs out first is agreed with PEER_SUSPECT and the decision table gets the suspect mark. Readings: log 76, 77, 108. -/
def Obligations.BenchJobCommands : Prop :=
  (∀ (s u : State) (l : LaneId) (r : Fin 2), (s.lane l).benPick = some r → (s.lane l).ben.run = none → s.isUp l = true →
    s.mode.mode ≠ .reset → s.mode.mode ≠ .configure → s.mode.mode ≠ .retain →
    u = s.upd l (fun L => { L.headGone r s.tb.run with ben := { (L.headGone r s.tb.run).ben with lastRing := r } }) →
    (∀ v f, @State.winRead regIO u l qBench ((s.lane l).getN (aRing r 0) + 64 * ((s.lane l).runSeq r % (s.lane l).ringLen r)) 64 = (v, .inl f) →
      exec (.benchJobStart l) s = .next (@State.benPlain regIO (v.winHit l qBench f) l r.val ((s.lane l).runSeq r) 0 0 stMemFault none)) ∧
    (∀ v d st, @State.winRead regIO u l qBench ((s.lane l).getN (aRing r 0) + 64 * ((s.lane l).runSeq r % (s.lane l).ringLen r)) 64 = (v, .inr d) →
      v.jobGate l d = some st →
      exec (.benchJobStart l) s = .next (@State.benPlain regIO v l r.val ((s.lane l).runSeq r) (u8At d 0) (u16At d 2) st (some (u32At d 4)))) ∧
    (∀ v d, @State.winRead regIO u l qBench ((s.lane l).getN (aRing r 0) + 64 * ((s.lane l).runSeq r % (s.lane l).ringLen r)) 64 = (v, .inr d) →
      v.jobGate l d = none →
      exec (.benchJobStart l) s = .next (v.upd l fun L =>
        { L with ben := { L.ben with run := some { ring := r, seq := (s.lane l).runSeq r, desc := d, tbStart := s.tb32, tune := L.benTune, wins := none } } }.benShow))) ∧
  (∀ (s : State) (l : LaneId) (r : BenRun) (n : Nat), (s.lane l).ben.run = some r →
    exec (.benchDeadlineMiss l n) s = .next (@State.settle regIO (@State.benEnd regIO
      (if 0 < diff32 (u32At r.desc 4) s.tb32 then s.advTo (s.tb.count + nsU (diff32 (u32At r.desc 4) s.tb32).toNat) else s) l r (some n) false))) ∧
  (∀ (s : State) (l : LaneId) (r : BenRun), (s.lane l).ben.run = some r → s.foundMissed (u32At r.desc 4) = false →
    exec (.benchJobEnd l) s = .next (@State.settle regIO (@State.benEnd regIO s l r none false))) ∧
  (∀ (s : State) (l : LaneId) (r : BenRun), (s.lane l).ben.run = some r → s.foundMissed (u32At r.desc 4) = true →
    exec (.benchJobEnd l) s = .next (@State.settle regIO (@State.benEnd regIO s.fresh.2 l r (some s.fresh.1.toNat) true))) ∧
  (∀ (s : State) (l : LaneId) (p : BenPeer) (rest : List BenPeer) (w : BenWait), (s.lane l).ben.inbox = p :: rest →
    (s.lane l).ben.wait.find? (fun w => w.ring == p.ring && w.seq == p.seq) = some w → w.final = none →
    exec (.benchPeerStatus l) s = .next (@State.settle regIO (@State.benAgree regIO
      (s.upd l fun L => { L with ben := { L.ben with inbox := rest } }) l w (if s.agrees then some p else none) false))) ∧
  (∀ (s : State) (l : LaneId) (p : BenPeer) (rest : List BenPeer), (s.lane l).ben.inbox = p :: rest →
    (s.lane l).ben.wait.find? (fun w => w.ring == p.ring && w.seq == p.seq) = none → s.agrees = true → (s.lane l).seqPassed p.ring p.seq = false →
    exec (.benchPeerStatus l) s = .next (@State.settle regIO
      (s.upd l fun L => { L with ben := { L.ben with inbox := rest, got := L.ben.got ++ [p] } }))) ∧
  (∀ (s : State) (l : LaneId) (w : BenWait), (s.lane l).firstWait = some w →
    (s.agrees = false → exec (.benchAgreeTimeout l) s = .next (@State.settle regIO (@State.benAgree regIO s l w none false))) ∧
    (s.agrees = true → exec (.benchAgreeTimeout l) s = .next (@State.settle regIO
      ((@State.benAgree regIO (s.advRun w.limit) l w none true).redTrigger 6 w.ring true false false))))

/-- A regular step starts, after what is due at its instant first, in every running lane whose tracker has a state: the lane takes up the fed set that both lanes completed 1 ms ago, latches, and computes; the next step is due after the DT queued, and DT is queued again. A step that arrives while the former still runs is skipped, counted, with 0x51. The step's end writes the next output buffer and SEQ, raises 0x50, and 0x53 and 0x55 where links were capped or a store is out of balance. A return value older than RET_AGE becomes stale in every running lane with one 0x54. START with KEY 0x5044 and no prediction running begins one; else it is refused with 0x57. ABORT ends the one that runs. A prediction ends after all its steps, or after those before its deadline. Readings: log 99, 100. -/
def Obligations.TrackerCommands : Prop :=
  (∀ (s u v : State) (ls : List LaneId), ls = s.ups.filter (fun l => (s.lane l).pcl.live.isSome) → ls ≠ [] →
    u = (s.advTo (s.lane (ls.headD .a)).pcl.nextAt).gridDue → v = u.each ls (fun l x => x.pclStart l (u.pclTake l)) →
    exec .pclStepStart s = .next (@State.settle regIO (v.each ls fun l x => x.upd l fun L =>
      { L with pcl := { L.pcl with nextAt := L.pcl.nextAt + usU (250000 * L.pcl.dtQ), dtQ := L.fld aPclCfg 0 6 } }))) ∧
  (∀ (s : State) (l : LaneId) (x : Option PclSet), (s.lane l).pcl.live.isSome = true → (s.lane l).pclDesc.isSome = true → (s.lane l).pcl.run.isSome = true →
    s.pclStart l x = (s.upd l (·.incFld 0x400B001C 16 16)).raise l 0x51) ∧
  (∀ s : State, exec .pclStepEnd s = .next (s.each s.ups fun l s => s.pclEnd l)) ∧
  (∀ (s : State) (l : LaneId) (r : PclRun) (n : Net) (d : PclDesc), (s.lane l).pcl.run = some r → (s.lane l).pclDesc = some (n, d) →
    s.pclEnd l = (if r.imbal then (if r.courant ≠ 0 then ((s.upd l fun L => L.pclDone n r).raise l 0x50).raise l 0x53
        else (s.upd l fun L => L.pclDone n r).raise l 0x50).raise l 0x55
      else if r.courant ≠ 0 then ((s.upd l fun L => L.pclDone n r).raise l 0x50).raise l 0x53 else (s.upd l fun L => L.pclDone n r).raise l 0x50)) ∧
  (∀ (L : Lane) (n : Net) (r : PclRun), (L.pclDone n r).pcl.live = some r.after ∧ (L.pclDone n r).pcl.run = none ∧
    (L.pclDone n r).mem = (({ L with pcl := { L.pcl with live := some r.after, run := none } } : Lane).wrMem 0 (L.pclBuf ((L.getN 0x400B0018 + 1) % 2 ^ 32))
      (pclOutB n r.after r.ret r.imbal ((L.getN 0x400B0018 + 1) % 2 ^ 32) r.tb (L.getN 0x400B000C) r.nsub)).mem) ∧
  (∀ (s u : State) (k : Fin 4096) (n : Net) (d : PclDesc) (v : SubVals), v = (s.lane s.act).mst.subs[k].vis → (s.lane s.act).fld aPclCfg 16 8 ≠ 0 →
    (s.lane s.act).pclDesc = some (n, d) → k.val < n.subs.size → (s.lane s.act).pcl.live.isSome = true → (v.stamps.getD 4 none).isSome = true →
    u = (s.each s.ups fun l x => x.retFresh l k).advRun (v.retAt + sU ((s.lane s.act).fld aPclCfg 16 8) + 1) →
    exec (.retStale k) s = .next (u.each u.ups fun l x => x.retStale l k)) ∧
  (∀ (s : State) (l : LaneId) (k : Nat), s.retOld l k = true → (s.lane l).pcl.stale.contains k = false →
    s.retStale l k = (s.upd l fun L => { L with pcl := { L.pcl with stale := L.pcl.stale ++ [k] } }).raise l 0x54 k) ∧
  (∀ (s : State) (src : Src) (l : LaneId), s.lanesOf src = [l] → (s.lane l).flag aPclStat 3 = false →
    exec (.predStart src 0x5044) s = .next (@State.predTake regIO (s.upd l fun L =>
      { L.predShow true with pcl := { L.pcl with predSeq := ((s.lane l).pcl.predSeq + 1) % 65536 } }).ok l (s.lane l).pcl.predSeq)) ∧
  (∀ (s : State) (src : Src), exec (.predStart src 0x5044) s = .next (s.perLane src fun l x => if (x.lane l).flag aPclStat 3 then x.refuse l 0x57 else
      @State.predTake regIO (x.upd l fun L =>
        { L.predShow true with pcl := { L.pcl with predSeq := ((x.lane l).pcl.predSeq + 1) % 65536 } }).ok l (x.lane l).pcl.predSeq)) ∧
  (∀ (s : State) (src : Src), exec (.predAbort src 0x5044) s = .next (s.perLane src fun l x => (@State.predStop regIO x l).ok)) ∧
  (∀ (s : State) (l : LaneId) (r : PredRun) (n : Nat), (s.lane l).pcl.pred = some r →
    exec (.predDeadlineMiss l n) s = .next (@State.settle regIO (@State.predEnd regIO
      (if 0 < diff32 (u32At r.desc 4) s.tb32 then s.advTo (s.tb.count + nsU (diff32 (u32At r.desc 4) s.tb32).toNat) else s) l r (some n))) ∧
    exec (.predEnd l) s = .next (@State.settle regIO (@State.predEnd regIO s l r none)))

/-- The next sample of a loop, after what is due at its instant first, is taken in every running lane: its outcome waits for the output instant, and the sample index moves on. At the output instant every lane delivers its outputs, or holds them where the sample is late (LATE, counted, 0x5A); where both lanes count and an output differs by more than its tolerance, the decision table gets the mismatch. INJ START with KEY 0x494A that R209 accepts is taken and waits for the next sample, else it is refused with 0x62; STOP ends the injection that runs, or waits, with reason 3. ARM with KEY 0x4341 of a unit that does not record, with LEN at least PRE, starts it in PRE with nothing written, and ends it at once DONE with nothing to record; ABORT ends a unit that records. Another key has no effect. Readings: log 79 to 81. -/
def Obligations.LoopCommands : Prop :=
  (∀ (s u : State) (loop : Fin 128) (d : Nat), s.sampleAt loop = some d → u = (s.advTo d).gridDue →
    exec (.loopSample loop) s = .next (@State.settle regIO (u.each u.ups fun l x => x.loopSample l loop))) ∧
  (∀ (s : State) (l : LaneId) (n : Fin 128), ∃ p, s.loopSample l n = s.upd l fun L => L.loopUpd n fun t =>
      { t with k := t.k + 1, pend := some p, seen := (s.loopLatchIn l n (s.lane l).ctl.loops[n]).seen, manNew := [] }) ∧
  (∀ (s v : State) (loop : Fin 128) (lateA lateB : Bool) (late : LaneId → Bool) (bad : List Nat), s.running = true →
    (s.lane s.act).ctl.loops[loop].pend.isSome = true → late = (fun l => if l = .a then lateA else lateB) →
    v = (s.advTo (nsU (s.loopNs ((s.lane s.act).loopE loop) ((s.lane s.act).ctl.loops[loop].k - 1) +
        25000 * loopTout ((s.lane s.act).loopE loop)))).each
      (s.advTo (nsU (s.loopNs ((s.lane s.act).loopE loop) ((s.lane s.act).ctl.loops[loop].k - 1) +
        25000 * loopTout ((s.lane s.act).loopE loop)))).ups (fun l x => @State.loopOutput regIO x l loop (late l)) →
    bad = (s.lane s.act).loopBad loop (v.lane s.act).ctl.loops[loop].out (v.lane (other s.act)).ctl.loops[loop].out →
    (v.compares = false ∨ late (other s.act) = true ∨ bad = [] →
      exec (.loopOutputInstant loop lateA lateB) s = .next (@State.settle regIO v)) ∧
    (∀ b bs, v.compares = true → late (other s.act) = false → bad = b :: bs →
      exec (.loopOutputInstant loop lateA lateB) s = .next (@State.settle regIO (v.redTrigger 3 (8 * loop.val + b) true
        ((s.lane s.act).loopsOutside loop bad (v.lane s.act).ctl.loops[loop].out (s.lane s.act).ctl.loops[loop].out
          (v.ns - (s.lane s.act).ctl.loops[loop].outAt.getD (v.mode.tR.getD 0)))
        ((s.lane s.act).loopsOutside loop bad (v.lane (other s.act)).ctl.loops[loop].out (s.lane s.act).ctl.loops[loop].out
          (v.ns - (s.lane s.act).ctl.loops[loop].outAt.getD (v.mode.tR.getD 0))))))) ∧
  (∀ (s : State) (l : LaneId) (n : Fin 128) (p : LoopPend), (s.lane l).ctl.loops[n].pend = some p →
    @State.loopOutput regIO s l n true = @State.capSample regIO
      ((s.upd l fun L => ((L.setFlag (aLoop n 0) 10 true).loopUpd n fun t => { t with pend := none }).incFld 0x400C0008 16 16).raise l 0x5A n)
      l n p.tb false false) ∧
  (∀ (s : State) (src : Src) (n : Fin 128), s.lanesOf src ≠ [] → (∀ l ∈ s.lanesOf src, s.injMay l n = true) →
    ∃ t, exec (.injStart src 0x494A n) s = .next t ∧ t.reply = .ok 0 ∧
      s.inLanes src (fun _ L => L.loopUpd n fun t => { t with core := { t.core with injReq := true } }) t) ∧
  (∀ (s : State) (src : Src) (n : Fin 128), s.lanesOf src ≠ [] → (∀ l ∈ s.lanesOf src, s.injMay l n = false) →
    ∃ t, exec (.injStart src 0x494A n) s = .next t ∧ t.reply = .busError ∧ s.inLanes src (fun _ L => L) t) ∧
  (∀ (s : State) (src : Src) (n : Fin 128) (F : Lane → Lane), s.lanesOf src ≠ [] →
    (∀ l ∈ s.lanesOf src, (s.lane l).ctl.loops[n].core.inj.isSome = true ∨ (s.lane l).ctl.loops[n].core.injReq = true) →
    F = (fun L => (((L.setFld (aLoop n 0) 13 3 3).setFlag (aLoop n 0) 12 false).setFlag (aLoop n 0) 11 false).loopUpd n
      fun t => { t with core := { t.core with inj := none, injReq := false } }) →
    ∃ t, exec (.injStop src 0x494A n) s = .next t ∧ t.reply = .ok 0 ∧
      s.inLanes src (fun _ L => F (L.loopUpd n fun t => { t with pend := t.pend.map fun p => { p with core := { p.core with inj := none }, injCode := 0 } })) t) ∧
  (∀ (s : State) (src : Src) (c : Fin 4) (F : Lane → Lane), s.lanesOf src ≠ [] → s.running = true →
    F = (fun L => (((L.put (aCap c 0x30) 0).setFld (aCap c 0x2C) 0 17 0).setFld (aCap c 0x2C) 29 3 1).capUpd c
      fun _ => { written := 0, left := 0, count := 0, prev := none }) →
    (∀ l ∈ s.lanesOf src, (s.lane l).capState c ≠ 1 ∧ (s.lane l).capState c ≠ 2 ∧
      (s.lane l).fld (aCap c 0xC) 0 17 ≤ (s.lane l).fld (aCap c 8) 0 17) →
    ((∀ l ∈ s.lanesOf src, (s.lane l).fld (aCap c 8) 0 17 ≠ 0 ∧ (s.lane l).capNch c ≠ 0) →
      ∃ t, exec (.capArm src 0x4341 c) s = .next t ∧ t.reply = .ok 0 ∧ s.inLanes src (fun _ L => F L) t) ∧
    ((∀ l ∈ s.lanesOf src, (s.lane l).fld (aCap c 8) 0 17 = 0 ∨ (s.lane l).capNch c = 0) →
      ∃ t, exec (.capArm src 0x4341 c) s = .next t ∧ t.reply = .ok 0 ∧ s.inLanes src (fun _ L => (F L).setFld (aCap c 0x2C) 29 3 3) t)) ∧
  (∀ (s : State) (src : Src) (c : Fin 4), s.lanesOf src ≠ [] →
    ∃ t, exec (.capAbort src 0x4341 c) s = .next t ∧ t.reply = .ok 0 ∧ s.inLanes src (fun _ L => L.capAbort c) t)

/-- On the next 100 us grid instant every enabled axis advances one profile period in both lanes, and the field die takes the setpoints of the lane the decision table names; in FAILSAFE every axis holds. A setpoint 50 us late sets SP_LATE in every running lane and the die holds the position. After HOLD_DELAY at rest the current falls to HOLD_I. A 1 ms window of an axis slower than V_MIN is not valid and ends both counts; a valid one shows its means and counts; the 8th window with the angle above STALL_THR, or the 2nd with a collapsed EMF, freezes the axis at HOLD_I and declares the stall. AX_FLT_N low 10 us takes the bridge off, FAULT and UNCERTAIN, with BRIDGE_FAULT and 0x73 in every running lane; its return high changes nothing but the level. Readings: log 57 to 59. -/
def Obligations.AxisDieCommands : Prop :=
  (∀ (s u v : State) (axes : List (Fin 16)), u = s.advTo ((s.tb.count / nsU 100000 + 1) * nsU 100000) →
    axes = (List.finRange 16).filter (fun (a : Fin 16) => (u.lane u.act).axEn a) →
    v = axes.foldl (fun (s : State) (a : Fin 16) =>
      (s.each s.ups fun l s => ((s.axPeriod l a).axShow l a).axPeriodEnd l a).axDie a fun d => { d with stalled := false }) u →
    (v.red.failsafe = false → exec .profilePeriod s = .next (@State.settle regIO (v.axesApply axes))) ∧
    (v.red.failsafe = true → exec .profilePeriod s = .next (@State.settle regIO (axes.foldl (fun s a => s.axHold a) v)))) ∧
  (∀ (s u v : State) (a : Fin 16), (s.lane s.act).axEn a = true → u = s.advTo (s.field.ax[a].setAt + nsU 150000) →
    v = u.each u.ups (fun l x => x.upd l (·.setFlag (aAx a 4) 9 true)) →
    exec (.setpointLate a) s = .next (if v.red.failsafe then v.axHold a else v.axFreeze a)) ∧
  (∀ (s : State) (a : Fin 16) (t : Nat), s.field.ax[a].restAt = some t → s.field.ax[a].enableAt.isSome = true →
    exec (.holdCurrentDelay a) s = .next ((s.advRun (t + msU (u16At ((s.lane s.act).axE a) 0x1C))).axDie a fun d => { d with holdI := true })) ∧
  (∀ (s : State) (a : Fin 16) (delta emf : Half), (s.lane s.act).axEn a = true →
    s.field.ax[a].slow = true ∨ flt (fabs (s.lane s.act).axes[a].v) ((s.lane s.act).axVal a 0x24) = true →
    exec (.stallWindowEnd a delta emf) s = .next ((s.each s.ups fun l x => x.upd l fun L =>
      (L.setFlag (aAx a 4) 5 true).putN (aAx a 0x38) (emf.toNat * 0x10000)).axDie a fun d => { d with angleN := 0, collapseN := 0, slow := false })) ∧
  (∀ (s v : State) (a : Fin 16) (delta emf : Half) (x y : Nat), (s.lane s.act).axEn a = true → s.field.ax[a].slow = false →
    flt (fabs (s.lane s.act).axes[a].v) ((s.lane s.act).axVal a 0x24) = false →
    v = s.each s.ups (fun l x => x.upd l fun L => (L.setFlag (aAx a 4) 5 false).putN (aAx a 0x38) (emf.toNat * 0x10000 + delta.toNat)) →
    x = (if (s.lane s.act).fld (aAx a 0x34) 0 8 * 100 < delta.toNat then s.field.ax[a].angleN + 1 else 0) →
    y = (if flt (fRat emf.toNat 1000) (fmul (fmul (fRat ((s.lane s.act).fld (aAx a 0x34) 8 8) 100) (f32to64 (f32At ((s.lane s.act).axE a) 0x10)))
      (fdiv (fabs (s.lane s.act).axes[a].v) (fOfNat 1024))) then s.field.ax[a].collapseN + 1 else 0) →
    (8 ≤ x ∨ 2 ≤ y → exec (.stallWindowEnd a delta emf) s = .next ((v.axFreeze a).axDie a fun d =>
      { d with angleN := 0, collapseN := 0, stalled := true, holdI := true })) ∧
    (x < 8 → y < 2 → exec (.stallWindowEnd a delta emf) s = .next (v.axDie a fun d => { d with angleN := x, collapseN := y }))) ∧
  (∀ (s u : State) (a : Fin 16), u = (s.axDisable a).axDie a (fun d => { d with faulted := true, uncertain := true, fltLow := true }) →
    ((s.lane s.act).axEn a = true →
      exec (.bridgeFault a) s = .next (u.each u.ups fun l x => (x.upd l (·.setFlag (aAx a 4) 6 true)).raise l 0x73 a)) ∧
    ((s.lane s.act).axEn a = false → exec (.bridgeFault a) s = .next u)) ∧
  (∀ (s : State) (a : Fin 16), exec (.axFltNHigh a) s = .next (s.axDie a fun d => { d with fltLow := false }))

/-- REF with KEY 0x4158 of an enabled axis, in STOP or a mode that runs, with AX_FLT_N high, a referencing method and no referencing under way, starts referencing in SPEED mode and, from the lane whose field-die writes take effect, enables the bridge; else it is refused with 0x76. STOP ends referencing as failed: REF_FAIL, UNCERTAIN, at rest, 0x72; without referencing nothing changes. SET_POS in STOP with AX_FLT_N high sets p to REF_POS at rest, clears STALL, UNCERTAIN and the fault, and energises a bridge that was off at HOLD_I. A target the bound task writes waits for its publish, the last write of each register alone; any other write is refused with 0x76. Each acts so in every lane its source acts in. Readings: log 26 to 29, 57. -/
def Obligations.AxisCommands : Prop :=
  (∀ (s : State) (src : Src) (a : Fin 16),
    exec (.axisRef src 0x4158 a) s = .next (s.perLane src fun l x => x.axRef l 0x4158 a) ∧
    exec (.axisStop src 0x4158 a) s = .next (s.perLane src fun l x => if (x.lane l).axEn a then (x.axRefFail l a).ok else x.busErr) ∧
    exec (.axisSetPos src 0x4158 a) s = .next (s.perLane src fun l x => x.axSetPos l 0x4158 a)) ∧
  (∀ (s : State) (l : LaneId) (a : Fin 16), (s.lane l).axEn a = true → s.mode.mode = .stop ∨ s.running = true → s.field.ax[a].fltLow = false →
    u8At ((s.lane l).axE a) 3 ≠ 0 → (s.lane l).axStat a 7 = false →
    ∃ u : State, u = ((s.upd l fun L => (L.setFlag (aAx a 4) 7 true).setFlag (aAx a 4) 0 true).axGen l a fun g =>
        { g with refTravel := f0, refEdge := none, trail := [g.p], decel := false, moveTo := false, limit := none }) ∧
      (s.portOpen l = true → s.axRef l 0x4158 a = ((u.axEnable a).axDie a fun d => { d with faulted := false, angleN := 0, collapseN := 0, stalled := false }).ok) ∧
      (s.portOpen l = false → s.axRef l 0x4158 a = u.ok)) ∧
  (∀ (s : State) (l : LaneId) (a : Fin 16), (s.lane l).axEn a = true →
    (s.mode.mode ≠ .stop ∧ s.running = false) ∨ s.field.ax[a].fltLow = true ∨ u8At ((s.lane l).axE a) 3 = 0 ∨ (s.lane l).axStat a 7 = true →
    s.axRef l 0x4158 a = s.refuse l 0x76 a) ∧
  (∀ (s : State) (l : LaneId) (a : Fin 16), ((s.lane l).axStat a 7 = false → s.axRefFail l a = s) ∧
    ((s.lane l).axStat a 7 = true → s.axRefFail l a = (((s.upd l fun L => (L.setFlag (aAx a 4) 7 false).setFlag (aAx a 4) 8 true).axGen l a
      fun g => { g with decel := true, refEdge := none, trail := [] }).axDie a fun d => { d with uncertain := true }).raise l 0x72 a)) ∧
  (∀ (s u : State) (l : LaneId) (a : Fin 16) (p : F64), (s.lane l).axEn a = true → s.mode.mode = .stop → s.field.ax[a].fltLow = false →
    p = (s.lane l).axInt a 0x3C →
    u = (((s.upd l fun L => (L.setFlag (aAx a 4) 4 false).setFlag (aAx a 4) 7 false).axGen l a
      fun g => { g with p := p, v := f0, a := f0, decel := true, limit := none, refEdge := none, trail := [] }).axShow l a) →
    s.axSetPos l 0x4158 a = ((u.axEnable a).axDie a fun d => { d with
      holdI := d.holdI || s.field.ax[a].enableAt.isNone, faulted := false, uncertain := false, stalled := false, setpoint := p, prevSet := p, vel := f0 }).ok) ∧
  (∀ (s : State) (l : LaneId) (a : Fin 16), (s.lane l).axEn a = true → s.mode.mode ≠ .stop ∨ s.field.ax[a].fltLow = true →
    s.axSetPos l 0x4158 a = s.refuse l 0x76 a) ∧
  (∀ (s : State) (src : Src) (e a : Fin 16) (speed : Bool) (data : Word) (t : Nat), s.lanesOf src ≠ [] → src.req = .engine e →
    (speed = true → isFinite32 data = true) →
    (∀ l ∈ s.lanesOf src, (s.lane l).axEn a = true ∧ t = u8At ((s.lane l).axE a) 1 ∧ (u8At ((s.lane l).axE a) 0).testBit 2 = false ∧
      (s.lane l).engines[e].cur.any (·.val == t) = true) →
    ∃ t', exec (.axisTargetWrite src a speed data) s = .next t' ∧ t'.reply = .ok 0 ∧ s.inLanes src (fun _ L =>
      { L with tasks := L.tasks.setIfInBounds t { L.tasks.getD t Task.init with
          axisWr := ((L.tasks.getD t Task.init).axisWr.filter fun w => !(w.1 == a.val && w.2.1 == speed)) ++ [(a.val, speed, data)] } }) t') ∧
  (∀ (s : State) (src : Src) (a : Fin 16) (speed : Bool) (data : Word), s.lanesOf src ≠ [] → src.req = .hc →
    (∀ l ∈ s.lanesOf src, (s.lane l).axEn a = true) →
    ∃ t, exec (.axisTargetWrite src a speed data) s = .next t ∧ t.reply = .busError ∧ s.inLanes src (fun _ L => L) t)

/-- START with KEY 0x4F43 in STOP or a mode that runs, with no change under way, the loader idle, no resynchronisation and fewer than 16 applied, begins VERIFY in every lane the source acts in; else it is refused. A lane that ends its verification keeps its result, and its delta where the result is good, and decides; the peer's result, on its arrival, is kept and the lane decides; 500 ms without it both lanes abandon the change. At tS what is due there happens. ABORT in VERIFY, READY or SCHEDULED abandons the change with code 2; REVERT with a fallback held in SWITCHED schedules it; RELEASE there gives it up; in another state each is refused. Readings: log 104. -/
def Obligations.OnlineChangeCommands : Prop :=
  (∀ (s : State) (src : Src), s.lanesOf src ≠ [] → s.running = true ∨ s.mode.mode = .stop → s.loader.busy = false → s.red.resync = none →
    (∀ l ∈ s.lanesOf src, ((s.lane l).olcState = 0 ∨ 4 < (s.lane l).olcState) ∧ (s.lane l).olc.chain.length < 16) →
    ∃ t, exec (.olcStart src 0x4F43) s = .next t ∧ t.reply = .ok 0 ∧ s.inLanes src (fun _ L =>
      { ((L.setFld aOlcStat 0 3 1).setFld aOlcStat 13 4 0) with olc := { ((L.setFld aOlcStat 0 3 1).setFld aOlcStat 13 4 0).olc with
        pendDelta := none, own := none, sent := none, peer := none, revert := false, ts := none, fallback := none } }.olcShow) t) ∧
  (∀ (s : State) (l : LaneId), s.isUp l = true → (s.lane l).olcState = 1 → (s.lane l).olc.own = none →
    (∀ c, s.olcCheck l = .inl c → exec (.olcVerifyDone l) s =
      .next ((s.upd l fun L => { L with olc := { L.olc with own := some c, sent := some c, ownAt := s.tb.run } }).olcDecide l)) ∧
    (∀ x, s.olcCheck l = .inr x → exec (.olcVerifyDone l) s = .next (((s.olcPlace l x).upd l fun L =>
        { L.setFld aOlcStat 24 8 x.tasks.toNat with olc := { L.olc with own := some 1, sent := some 1, ownAt := s.tb.run, pendDelta := some x } }).olcDecide l))) ∧
  (∀ (s : State) (l : LaneId) (c : Nat), (s.lane (other l)).olc.sent = some c → s.bothUp = true → (s.lane l).olcState = 1 →
    exec (.olcPeerResult l) s = .next (((s.upd (other l) fun L => { L with olc := { L.olc with sent := none } }).upd l
      fun L => { L with olc := { L.olc with peer := some c } }).olcDecide l)) ∧
  (∀ (s : State) (l : LaneId) (a b : Nat), (s.lane l).olcState = 1 → (s.lane l).olc.own = some a → s.bothUp = true → (s.lane l).olc.peer = some b →
    (a = 1 → b = 1 → s.olcDecide l = (s.upd l (·.setFld aOlcStat 0 3 2)).olcSchedule) ∧
    (a ≠ 1 → b = 1 → s.olcDecide l = s.olcAbandon l a) ∧ (a = 1 → b ≠ 1 → s.olcDecide l = s.olcAbandon l b) ∧
    (a ≠ 1 → b ≠ 1 → s.olcDecide l = s.olcAbandon l (if l = .a then a else b))) ∧
  (∀ (s u : State) (l : LaneId), (s.lane l).olcState = 1 → (s.lane l).olc.own.isSome = true → (s.lane l).olc.peer = none →
    u = s.advRun ((s.lane l).olc.ownAt + msU 500) →
    exec (.olcPeerTimeout l) s = .next (u.each u.ups fun l x => if 1 ≤ (x.lane l).olcState && (x.lane l).olcState ≤ 3 then x.olcAbandon l 0xD else x)) ∧
  (∀ (s : State) (t : Nat) (x : Delta), s.olcPlanned = some (t, x) →
    exec .olcSwitch s = .next (@State.settle regIO (s.advTo (nsU t)).gridDue)) ∧
  (∀ (s : State) (src : Src), s.lanesOf src ≠ [] → (∀ l ∈ s.lanesOf src, (s.lane l).olcState = 1 ∨ (s.lane l).olcState = 2 ∨ (s.lane l).olcState = 3) →
    ∃ t, exec (.olcAbort src 0x4F43) s = .next t ∧ t.reply = .ok 0 ∧ s.inLanes src (fun _ L =>
      { (((L.setFld aOlcStat 0 3 0).setFld aOlcStat 8 5 2).setFld aOlcStat 13 4 0) with
        olc := { L.olc with pendDelta := none, own := none, peer := none, revert := false, ts := none } }) t) ∧
  (∀ (s : State) (src : Src) (l : LaneId) (x : Delta), s.lanesOf src = [l] → (s.lane l).olc.fallback = some x → (s.lane l).olcState = 5 →
    exec (.olcRevert src 0x4F43) s = .next ((s.upd l fun L =>
        { ((L.setFld aOlcStat 0 3 2).setFld aOlcStat 13 4 0).setFld aOlcStat 24 8 x.tasks.toNat with
          olc := { L.olc with pendDelta := some x, revert := true, ownAt := s.tb.run } }).olcSchedule).ok) ∧
  (∀ (s : State) (src : Src), exec (.olcRevert src 0x4F43) s = .next (s.perLane src fun l x => x.olcRevert l 0x4F43)) ∧
  (∀ (s : State) (src : Src), s.lanesOf src ≠ [] → (∀ l ∈ s.lanesOf src, (s.lane l).olcState = 5 ∧ (s.lane l).olc.fallback.isSome = true) →
    ∃ t, exec (.olcRelease src 0x4F43) s = .next t ∧ t.reply = .ok 0 ∧
      s.inLanes src (fun _ L => { L with olc := { L.olc with fallback := none } }.olcShow) t)

/-- In RUN with both lanes and neither condemned: with both heartbeats, H_A and H_S name rows 6, 7 and 9, and without them a mismatch's envelopes rows 2 to 5; a lost active heartbeat is row 8, or 10 with H_S. With one lane: row 13 without its heartbeat, 12 with a health bit other than LINK, else 11. A trigger of row 0, 1 or 11 does nothing; any other is recorded in every running lane, a mismatch counts once per instant, and the row's outcome follows: suspect, standby condemned, hitless takeover pending, SAFE, or FAILSAFE. -/
def Obligations.RedundancyTable : Prop :=
  (∀ (s : State) (lost mis eA eS : Bool) (hA hS : Bool), hA = s.sick s.act →
    hS = (s.sick (other s.act) || (!lost && (s.lane s.act).flag aHealth 13)) →
    (s.tableDual = true →
      (lost = true → s.tableRow lost mis eA eS = if hS then 10 else 8) ∧
      (lost = false → hA = true → hS = true → s.tableRow lost mis eA eS = 9) ∧
      (lost = false → hA = true → hS = false → s.tableRow lost mis eA eS = 7) ∧
      (lost = false → hA = false → hS = true → s.tableRow lost mis eA eS = 6) ∧
      (lost = false → hA = false → hS = false → mis = false → s.tableRow lost mis eA eS = 1) ∧
      (lost = false → hA = false → hS = false → mis = true → s.tableRow lost mis eA eS =
        if eA then (if eS then 5 else 4) else (if eS then 3 else 2))) ∧
    (s.tableDual = false → s.running = true →
      s.tableRow lost mis eA eS = if lost then 13 else if hA then 12 else 11) ∧
    (s.tableDual = false → s.running = false → s.tableRow lost mis eA eS = 0)) ∧
  (∀ (s : State) (item idx row : Nat) (mis eA eS : Bool), row = s.tableRow false mis eA eS →
    (row = 0 ∨ row = 1 ∨ row = 11 → s.redTrigger item idx mis eA eS = s) ∧
    (row ≠ 0 → row ≠ 1 → row ≠ 11 → s.redTrigger item idx mis eA eS =
      (if mis then (s.redRecord item row idx).redMismatch idx else s.redRecord item row idx).redApply row (item = 1 ∨ item = 2 ∨ item = 9))) ∧
  (∀ (s : State) (b : Bool),
    s.redApply 2 b = s.addSuspect b ∧ s.redApply 5 b = s.addSuspect b ∧
    s.redApply 3 b = s.condemnStandby b ∧ s.redApply 6 b = s.condemnStandby b ∧
    s.redApply 4 b = { s with red := { s.red with takeover := some (.condemned 4) } } ∧
    s.redApply 7 b = { s with red := { s.red with takeover := some (.condemned 7) } } ∧
    s.redApply 9 b = s.askSafe false ∧ s.redApply 12 b = s.askSafe false ∧
    s.redApply 10 b = { s with red := { s.red with failsafe := true } } ∧ s.redApply 13 b = { s with red := { s.red with failsafe := true } })

/-- A running lane sends its heartbeat 1 us after the last, and every shared die notes it; it arrives with the peer's health word, and a new bit raises 0x14 and, where the table works for two lanes, triggers it. HB_LOSS 5 us after the last heartbeat of either path is declared in the surviving lane and, in a mode that runs, decided by the table, else the silent lane is out. The link fault sets LINK in both words and triggers item 8. A hash that is late is a mismatch. The oldest suspect mark leaves its window. A pending hitless takeover happens at its switch point; a condemned lane is reset at the next one, or given up. SWITCH, DROP and CLR_CNT with KEY 0x5244 act where they are allowed, else they are refused with 0xFF. A loss outside the running modes and the condemned lane are the model's reading (log 91, 105). -/
def Obligations.RedundancyCommands : Prop :=
  (∀ (s u : State) (l : LaneId), s.isUp l = true → u = s.advRun ((s.lane l).red.lastSent + usU 1) →
    ∃ t v, exec (.heartbeatSend l) s = .next t ∧ v = u.upd l (fun L => { L with red := { L.red with lastSent := u.tb.run } }) ∧
      t = { v with red := { v.red with dies := v.red.dies.map (portSeen l u.tb.run) } }) ∧
  (∀ (s : State) (l : LaneId) (via : Bool), s.isUp l = true → s.isUp (other l) = true →
    s.health (other l) = (s.lane l).fld aHealth 8 6 % 32 →
    exec (.heartbeatReceived l via) s = .next (s.upd l fun L =>
      { L with red := if via then { L.red with hbLink := s.tb.run } else { L.red with hbField := s.tb.run } })) ∧
  (∀ (s u : State) (l : LaneId) (via : Bool) (word was : Nat), s.isUp l = true → s.isUp (other l) = true →
    word = s.health (other l) → was = (s.lane l).fld aHealth 8 6 → word ≠ was % 32 →
    ((List.range 5).filter fun i => word.testBit i && !was.testBit i) ≠ [] →
    u = (s.upd l fun L => { (L.setFld aHealth 8 5 word).tvClear aHealth with
      red := if via then { ((L.setFld aHealth 8 5 word).tvClear aHealth).red with hbLink := s.tb.run }
        else { ((L.setFld aHealth 8 5 word).tvClear aHealth).red with hbField := s.tb.run } }).raise l 0x14 →
    (u.tableDual = true → ((List.range 5).filter fun i => word.testBit i && !was.testBit i).any (· != 4) = true →
      exec (.heartbeatReceived l via) s = .next (@State.settle regIO (u.redTrigger 9 0 false false false))) ∧
    (u.tableDual = false → exec (.heartbeatReceived l via) s = .next u)) ∧
  (∀ (s : State) (l : LaneId), s.isUp (other l) = true →
    (s.isUp l = true → s.hbNote l = ((s.advRun (max (s.lane l).red.hbLink (s.lane l).red.hbField + usU 5)).upd l
      fun L => (L.setFlag aHealth 13 true).tvClear aHealth).raise l 0x14) ∧
    ((s.hbNote l).running = true → exec (.hbLoss l) s = .next (@State.hbTable regIO (s.hbNote l) l)) ∧
    ((s.hbNote l).running = false → (s.hbNote l).isUp l = true → exec (.hbLoss l) s = .next (@State.alone regIO ((s.hbNote l).peerOut l) l))) ∧
  (∀ s : State, s.bothUp = true → ((s.setHealth .a 4).setHealth .b 4).tableDual = true →
    exec .laneLinkFault s = .next (@State.settle regIO (((s.setHealth .a 4).setHealth .b 4).redTrigger 8 0 true false true))) ∧
  (∀ (s : State) (can : Bool) (i : Fin 8), exec (.hashTimeout can i) s = .next (@State.settle regIO (if can then s.canHashLate i else s.mstHashLate i))) ∧
  (∀ (s : State) (p : Nat) (f : Nat × Nat × Bytes), (s.lane s.act).mst.frames.find? (fun f => f.1 == p) = some f →
    s.mstHashLate p = ((s.advRun (f.2.1 + usU 50)).upd s.act fun L =>
      { L with mst := { L.mst with frames := L.mst.frames.erase f } }).redTrigger 4 p true false false) ∧
  (∀ (s u : State) (t w : Nat), s.red.suspects.min? = some t → w = suspectWindow (s.lane s.act) (shortestPeriod ((s.lane s.act).dr 3)) →
    u = s.advRun (t + w) →
    ∃ v, exec .suspectWindowExpiry s = .next v ∧ v = { u with red := v.red } ∧
      v.red = { u.red with suspects := u.red.suspects.filter fun x => u.tb.run < x + w }) ∧
  (∀ (s u : State) (why : TakeReason), s.red.takeover = some why → s.isUp (other s.act) = true → u = s.handOver (other s.act) →
    (why = .switch → exec .hitlessTakeover s = .next (u.raiseUp 0x19)) ∧
    (why = .laneReset → exec .hitlessTakeover s = .next (@State.laneResetNow regIO u s.act 3)) ∧
    (∀ r, why = .condemned r → exec .hitlessTakeover s = .next (@State.alone regIO (u.dropLane s.act) (other s.act)))) ∧
  (∀ (s u : State) (l : LaneId) (inForce : Bool) (n : Nat), s.red.condemned = some (l, inForce) →
    u = @State.condemnedDue regIO s l inForce → n = (u.red.autoResets.filter fun t => u.tb.run < t + sU 86400).length →
    ((u.lane (other l)).fld 0x4009000C 8 2 ≤ n → exec .redLaneReset s = .next ((u.resetsKept []).giveUp l)) ∧
    (n < (u.lane (other l)).fld 0x4009000C 8 2 →
      exec .redLaneReset s = .next (@State.laneReset regIO ((u.resetsKept [u.tb.run]).raise (other l) 0x15) l 6))) ∧
  (∀ (s : State) (src : Src), s.lanesOf src ≠ [] →
    (s.first src 0x40090008 (BitVec.ofNat 32 ((0x5244 : Half).toNat * 2 ^ 16 + 1)) = true → s.mode.mode = .run → s.bothUp = true →
      (s.lane .a).fld aHealth 0 14 = 0 → (s.lane .b).fld aHealth 0 14 = 0 → s.red.suspects = [] → s.red.takeover = none →
      ∃ tw, exec (.redSwitch src 0x5244) s = .next { ({ s with red := { s.red with takeover := some .switch } } : State).ok with twins := tw }) ∧
    (s.first src 0x40090008 (BitVec.ofNat 32 ((0x5244 : Half).toNat * 2 ^ 16 + 1)) = true → s.mode.mode ≠ .run →
      ∃ tw, exec (.redSwitch src 0x5244) s = .next { (s.raiseUp 0xFF).busErr with twins := tw }) ∧
    (s.first src 0x40090008 (BitVec.ofNat 32 ((0x5244 : Half).toNat * 2 ^ 16 + 2)) = true → s.mode.mode = .run → s.bothUp = true →
      ∃ tw, exec (.redDrop src 0x5244) s = .next { (@State.settle regIO (s.condemnStandby true)).ok with twins := tw }) ∧
    (s.first src 0x40090008 (BitVec.ofNat 32 ((0x5244 : Half).toNat * 2 ^ 16 + 3)) = true →
      ∃ tw, exec (.redClrCnt src 0x5244) s = .next { (s.updBoth (·.put 0x40090010 0)).ok with twins := tw }))

/-- BOOT ends: with no lane to join the lane holds, otherwise it loads the running lane's image, or goes on without one, and enters CHAIN. CHAIN ends: with the running digest equal to TXN_OLC_DIGEST the lane takes the chain and BULK begins, else it fails with code 2. BULK ends in DIRTY; a dirty pass with at most 1 MiB left goes to WAIT, the 8th with more fails with code 3, another goes on; in WAIT the memory is copied again. FINAL, where nothing delays it, copies the running lane at tJ and the lane is the standby. A phase beyond its bound fails with code 4. A failure is repeated 1 s later from BOOT. FINAL as one copy is the model's form (log 92). -/
def Obligations.ResyncCommands : Prop :=
  (∀ (s : State) (r : Resync) (u : State), s.red.resync = some r → r.phase = 1 → u = { s with keeper := setWdg s.keeper r.lane 0 } →
    (s.isUp (other r.lane) = false → exec .resyncBootEnd s = .next { u with red := { u.red with resync := some { r with held := true } } }) ∧
    (s.isUp (other r.lane) = true → (s.lane (other r.lane)).img = none →
      exec .resyncBootEnd s = .next ((u.raise (other r.lane) 0x16).resyncPhase r 2 0)) ∧
    (∀ g, s.isUp (other r.lane) = true → (s.lane (other r.lane)).img = some g →
      exec .resyncBootEnd s = .next ((u.raise (other r.lane) 0x16).joinLoad r g))) ∧
  (∀ (s : State) (r : Resync) (d : BitVec 256), s.red.resync = some r → r.phase = 2 →
    d = chainDigest (s.lane r.lane).img (s.lane (other r.lane)).olc.chain →
    (d = BitVec.ofNat 256 (leVal (((s.lane (other r.lane)).getWords 0x40060240 8).map fun w => leBytes 4 w.toNat).flatten) →
      exec .resyncChainEnd s = .next ((s.upd r.lane fun L =>
        { L.olcDigest d with img := L.img.map fun g => { g with drawers := (s.lane (other r.lane)).olc.chain.foldl (fun ds x => putDrawers ds x.drawers) g.drawers },
                             olc := { (s.lane (other r.lane)).olc with runDigest := d } }).resyncPhase r 3 bulkKiB)) ∧
    (d ≠ BitVec.ofNat 256 (leVal (((s.lane (other r.lane)).getWords 0x40060240 8).map fun w => leBytes 4 w.toNat).flatten) →
      exec .resyncChainEnd s = .next (s.resyncFail 2))) ∧
  (∀ (s : State) (r : Resync), s.red.resync = some r → r.phase = 3 →
    exec .resyncBulkEnd s = .next ((s.fresh.2.copyMem r.lane).resyncPhase { r with passes := 0 } 4 (s.fresh.1.toNat % (bulkKiB + 1)))) ∧
  (∀ (s : State) (r : Resync) (p : Nat), s.red.resync = some r →
    (r.phase = 8 → exec (.resyncDirtyPassEnd p) s = .next (s.copyMem r.lane)) ∧
    (r.phase = 4 → min p bulkKiB ≤ 1024 →
      exec (.resyncDirtyPassEnd p) s = .next ((s.copyMem r.lane).resyncPhase { r with passes := r.passes + 1 } 8 0)) ∧
    (r.phase = 4 → 1024 < min p bulkKiB → 7 ≤ r.passes → exec (.resyncDirtyPassEnd p) s = .next ((s.copyMem r.lane).resyncFail 3)) ∧
    (r.phase = 4 → 1024 < min p bulkKiB → r.passes < 7 → ∃ u, u = (s.copyMem r.lane).resyncShow 4 0 r.tries (min p bulkKiB) ∧
      exec (.resyncDirtyPassEnd p) s = .next { u with red := { u.red with resync := some { r with passes := r.passes + 1 } } })) ∧
  (∀ (s : State) (r : Resync), s.red.resync = some r → r.phase = 8 → s.isUp (other r.lane) = true → (s.lane (other r.lane)).finalWaits = false →
    exec .resyncFinal s = .next ((((s.advTo (s.finalDue (s.lane (other r.lane)))).finalCopy r.lane (other r.lane)).finalMode r.tries).raiseUp 0x17)) ∧
  (∀ (s u : State) (r : Resync) (t : Nat), s.red.resync = some r → r.retryAt = some t → u = s.advRun t →
    exec .resyncRetry s = .next ((u.upd r.lane fun L => (L.wiped u.tb.run 6).put 0x4000000C ((u.lane r.lane).get 0x4000000C)).resyncBegin r.lane (r.tries + 1))) ∧
  (∀ (s : State) (r : Resync) (ms : Nat), s.red.resync = some r →
    (r.phase = 1 ∧ r.held = false ∧ ms = 3050) ∨ (r.phase = 2 ∧ ms = 200) ∨ (r.phase = 3 ∧ ms = 400) ∨ (r.phase = 4 ∧ ms = 1500) →
    exec .resyncTimeout s = .next ((s.advRun (r.phaseAt + msU ms)).resyncFail 4)) ∧
  (∀ (s u : State) (r : Resync) (code : Nat), s.red.resync = some r → r.retryAt = none → code ≠ 1 → r.tries < 3 →
    u = (s.resyncShow 7 code r.tries 0).raise (other r.lane) 0x18 →
    s.resyncFail code = { u with red := { u.red with resync := some { r with phase := 7, retryAt := some (u.tb.run + sU 1) } } })

/-- A frame on a live port: with a bad FCS, too long, or under the wrong tag it is dropped and counted in every running lane; otherwise it is counted as received, and what PRP lets through goes by its type. A link that changes shows its state in every running lane and raises 0xC0. With PRP on, the next supervision frame goes out LIFE_MS after the last with the pair's counter, and a LAN silent for 3 x LIFE_MS is marked and raises 0xC1 once. -/
def Obligations.EthernetCommands : Prop :=
  (∀ (s : State) (p : Fin 3) (f : Bytes) (ok : Bool), s.ups ≠ [] → s.mode.mode ≠ .retain → s.mode.mode ≠ .reset → s.ethL.ethLive p = true →
    exec (.ethFrameReceived p f ok) s = .next (s.ethIn p f ok)) ∧
  (∀ (s : State) (p : Nat) (f : Bytes) (ok : Bool), ok = false ∨ 1996 < f.length ∨ f.length < 14 ∨ s.ethL.flag (aEth p 0) 3 ≠ (beAt f 12 2 == 0x8100) →
    s.ethIn p f ok = s.each s.ups fun l x => x.upd l fun L => L.wrapFld (aEth p 0x38) 0 32) ∧
  (∀ (s u : State) (f : Bytes), 14 ≤ f.length → f.length ≤ 1996 → s.ethL.flag (aEth 0 0) 3 = false → beAt f 12 2 ≠ 0x8100 →
    u = s.each s.ups (fun l x => x.upd l fun L => L.wrapFld (aEth 0 0x30) 0 32) → slice f 0 6 = s.ethL.ethMac 0 ∨ (u8At f 0).testBit 0 = true →
    s.ethIn 0 f true = u.ethByType 0 f 12) ∧
  (∀ (s : State) (p : Fin 3) (up : Bool) (speed : Fin 4), s.ups ≠ [] → s.ethL.flag (aEth p 4) 0 ≠ up →
    exec (.ethLinkChange p up speed) s = .next ((s.each s.ups fun l x => x.upd l fun L =>
      L.putN (aEth p 4) (if up then speed.val * 2 + 1 else 0)).raiseUp 0xC0 p)) ∧
  (∀ (s u v : State), s.ethL.prpOn = true → s.ups ≠ [] → s.mode.mode ≠ .retain → u = s.advRun (s.link.lifeAt + msU s.ethL.prpLife) →
    v = { u with link := { u.link with lifeAt := u.tb.run } } →
    exec .prpSupervisionSend s = .next (v.ethSend 1 [0x01, 0x15, 0x4E, 0x00, 0x01, 0x00] 0x88FB
      ([0x00, 0x01] ++ beBytes 2 v.link.prpSeq.toNat ++ [20, 6] ++ s.ethL.ethMac 1 ++ zeros 34))) ∧
  (∀ (s u v : State) (lanB : Bool), s.ethL.prpOn = true → s.ups ≠ [] → s.mode.mode ≠ .retain → s.link.lanSilent.getLsbD (bit lanB) = false →
    u = s.advRun (s.link.lanAt.getD (bit lanB) 0 + msU (3 * s.ethL.prpLife)) →
    v = { u with link := { u.link with lanSilent := u.link.lanSilent ||| BitVec.ofNat 2 (2 ^ bit lanB) } } →
    exec (.prpLanSilent lanB) s = .next (v.raiseUp 0xC1 (bit lanB)))

/-- In STOP, SAFE or a mode that runs, with the MST drawer loaded, a datagram on FA or FB that finds a token is queued in every running lane with its stamp, on H it is dropped; with the bucket empty it is counted OVERLOAD in every lane, and 0xD5 is raised once a second. A lane that takes its next telegram counts a drop by the check that failed, or accepts it. Values become visible at their tick in every lane at once. A substation online for SUB_TO without a telegram goes offline with 0xD2. An evaluation serves the substations and hands the telegrams out, in STOP at the next tick. An ACK_TO that runs out is handled in every lane. SEND, EPOCH and RESUME with KEY 0x4D54 act on the substation, an entry not enabled is refused with 0xD7. The datagram is one that the duplicate discard let through (log 67), and what becomes of a full queue is the model's choice (log 66). -/
def Obligations.TelegramCommands : Prop :=
  (∀ (s : State) (p : Fin 3) (vid : Nat) (src pl : Bytes) (lvl : Nat), s.ups ≠ [] → s.mstReceives = true → s.ethL.mstOn = true →
    lvl = min (16384 * tokenU) (s.link.tokens + (s.tb.run - s.link.tokenAt)) →
    (p = 0 → exec (.mstDatagramReceived p vid src pl) s = .next (s.ethDrop 0)) ∧
    (p ≠ 0 → tokenU ≤ lvl → ∃ u : State, u = { s with link := { s.link with tokens := lvl - tokenU, tokenAt := s.tb.run, admitted := s.link.admitted + 1 } } ∧
      exec (.mstDatagramReceived p vid src pl) s = .next (u.each u.ups fun l x => x.upd l fun L => { L with mst := { L.mst with queue := (L.mst.queue ++
        [({ no := s.link.admitted, at_ := s.tb.run, stamp := s.tbW, port := p.val, vid := vid, source := src, payload := pl } : MstRx)]).take 16384 } })) ∧
    (p ≠ 0 → lvl < tokenU → s.link.overEvAt = none → ∃ u v : State, exec (.mstDatagramReceived p vid src pl) s = .next (u.raiseUp 0xD5) ∧
      v = s.each s.ups (fun l x => x.upd l (·.mstCount ctrOverload)) ∧
      u = { v with link := { v.link with tokens := lvl, tokenAt := s.tb.run, overEvAt := some s.tb.run } })) ∧
  (∀ (s : State) (l : LaneId) (r : MstRx) (rest : List MstRx), s.mstReceives = true → (s.lane l).mst.queue = r :: rest →
    ∃ u : State, u = s.upd l (fun L => { L with mst := { L.mst with queue := rest } }) ∧
    (∀ c, (s.lane l).mstCheck r = .drop c none → exec (.mstTelegramProcess l) s = .next (u.upd l (·.mstCount c))) ∧
    (∀ c i, (s.lane l).mstCheck r = .drop c (some i) → exec (.mstTelegramProcess l) s = .next ((u.upd l (·.mstCount c)).mstReject l (Fin.ofNat 4096 i))) ∧
    (∀ i ne h w ts recs, (s.lane l).mstCheck r = .accept i ne h w ts recs →
      exec (.mstTelegramProcess l) s = .next (@State.mstAccept regIO u l r (Fin.ofNat 4096 i) ne h w ts recs))) ∧
  (∀ (s u : State) (d : Nat) (go : List Nat), ((s.visReady).map fun p => s.visDue p.2).min? = some d → u = s.advTo d →
    go = ((s.visReady).filter fun p => s.visDue p.2 ≤ u.tb.count).map (·.1) →
    exec .mstValuesVisible s = .next (u.each u.ups fun l x => x.upd l fun L => L.visApply go)) ∧
  (∀ (s u : State) (k : Fin 4096), (s.lane s.act).flag (aSub k) 0 = true → (s.lane s.act).fld 0x40140004 0 16 ≠ 0 →
    u = s.advRun ((s.lane s.act).mst.subs[k].lastAt + sU ((s.lane s.act).fld 0x40140004 0 16)) →
    exec (.mstSubTimeout k) s = .next (u.each u.ups fun l x => if (x.lane l).flag (aSub k) 0 then
      (x.upd l fun L => (L.setFlag (aSub k) 0 false).setFld 0x40140000 16 13 (L.fld 0x40140000 16 13 - 1)).raise l 0xD2 k else x)) ∧
  (∀ s : State, s.ups ≠ [] →
    (s.mode.mode = .stop → exec .mstSetpointEval s = .next (@State.settle regIO (s.advTo s.next250).mstEvalAll)) ∧
    (s.running = true → exec .mstSetpointEval s = .next (@State.settle regIO s.mstEvalAll))) ∧
  (∀ s u : State, u = (s.mstEval s.act).1.mstSendOut (s.mstEval s.act).2 →
    (s.isUp (other s.act) = false → s.mstEvalAll = u) ∧
    (s.isUp (other s.act) = true → s.compares = false → s.mstEvalAll = (u.mstEval (other s.act)).1) ∧
    (s.isUp (other s.act) = true → s.compares = true → s.mstEvalAll =
      (((u.mstEval (other s.act)).1.framesPut s.act (s.mstEval s.act).2).framesPut (other s.act) (u.mstEval (other s.act)).2).mstCompare
        ((s.mstEval s.act).2.length + (u.mstEval (other s.act)).2.length + 1))) ∧
  (∀ (s u : State) (k : Fin 4096) (t : TxOut), (s.lane s.act).mst.subs[k].pendAck.find? (fun t => t.wait == .timed) = some t →
    u = s.advRun (t.at_ + msU ((s.lane s.act).fld 0x40140004 16 16)) →
    exec (.mstAckTimeout k) s = .next (u.each u.ups fun l x => x.mstAckLate l k t)) ∧
  (∀ (s : State) (src : Src) (k : Fin 4096), s.lanesOf src ≠ [] →
    ((∀ l ∈ s.lanesOf src, (s.lane l).mstEn k = true) →
      (∃ t, exec (.mstSend src 0x4D54 k) s = .next t ∧ t.reply = .ok 0 ∧ s.inLanes src (fun _ L => L.subUpd k fun u => { u with sendReq := true }) t) ∧
      (∃ t, exec (.mstEpoch src 0x4D54 k) s = .next t ∧ t.reply = .ok 0 ∧
        s.inLanes src (fun _ L => (L.setFld (aSub k) 16 16 (L.subEpoch k + 1)).subUpd k fun u => { u with started := false }) t)) ∧
    ((∀ l ∈ s.lanesOf src, (s.lane l).mstEn k = false) →
      ∃ t, exec (.mstSend src 0x4D54 k) s = .next t ∧ t.reply = .busError ∧ s.inLanes src (fun _ L => L) t) ∧
    (∃ t, exec (.mstResume src 0x4D54) s = .next t ∧ t.reply = .ok 0 ∧ s.inLanes src (fun _ L => L.setFlag 0x40140000 0 false) t))

/-- REQ of an enabled transmit buffer that is neither PENDING nor ACTIVE, in STOP and SAFE from the host alone, places the request, else it is refused; ABORT ends a PENDING buffer ABORTED and marks an ACTIVE one; POP takes the oldest frame. At an attempt the buffer the active controller offers becomes ACTIVE, the event is forwarded, and where the lanes compare, a standby that selects another frame is a mismatch, and one that selects none is awaited. A success is SENT with the stamp of its start, and lowers TEC; a lost arbitration and an error go to their rules, an error raises TEC by 8, and each is forwarded. The standby applies the oldest forwarded event. Smaller readings: log 69, 71. -/
def Obligations.CanTransmitCommands : Prop :=
  (∀ (s : State) (src : Src) (c : Fin 8) (b : Fin 64), s.lanesOf src ≠ [] →
    ((s.mode.mode ≠ .stop ∧ s.mode.mode ≠ .safe) ∨ src.req = .hc →
      (∀ l ∈ s.lanesOf src, (s.lane l).canEn c = true ∧ (s.lane l).canIsTx c b = true ∧ (s.lane l).canTxs c b ≠ 1 ∧ (s.lane l).canTxs c b ≠ 2) →
      ∃ t, exec (.canReq src c b) s = .next t ∧ t.reply = .ok 0 ∧ s.inLanes src (fun _ L => L.canRequest c b) t) ∧
    ((∀ l ∈ s.lanesOf src, (s.lane l).canEn c = false ∨ (s.lane l).canIsTx c b = false ∨ (s.lane l).canTxs c b = 1 ∨ (s.lane l).canTxs c b = 2) →
      ∃ t, exec (.canReq src c b) s = .next t ∧ t.reply = .busError ∧ s.inLanes src (fun _ L => L.setFlag (aCan c 0x10) 5 true) t) ∧
    ((∀ l ∈ s.lanesOf src, (s.lane l).canEn c = true ∧ (s.lane l).canTxs c b = 1) →
      ∃ t, exec (.canAbort src c b) s = .next t ∧ t.reply = .ok 0 ∧ s.inLanes src (fun _ L => L.setTxs c b 7) t) ∧
    ((∀ l ∈ s.lanesOf src, (s.lane l).canEn c = true ∧ (s.lane l).canTxs c b = 2) →
      ∃ t, exec (.canAbort src c b) s = .next t ∧ t.reply = .ok 0 ∧ s.inLanes src (fun _ L => L.bufUpd c b fun k => { k with abortAfter := true }) t) ∧
    ((∀ l ∈ s.lanesOf src, (s.lane l).canEn c = true ∧ (s.lane l).canTxs c b ≠ 1 ∧ (s.lane l).canTxs c b ≠ 2) →
      ∃ t, exec (.canAbort src c b) s = .next t ∧ t.reply = .ok 0 ∧ s.inLanes src (fun _ L => L) t) ∧
    (∀ data : Word, bitOf data 0 = true → (∀ l ∈ s.lanesOf src, (s.lane l).canEn c = true) →
      ∃ t, exec (.canFifoPop src c data) s = .next t ∧ t.reply = .ok 0 ∧
        s.inLanes src (fun _ L => L.canUpd c fun k => { k with fifo := k.fifo.drop 1 }) t)) ∧
  (∀ (s u : State) (c : Fin 8) (b : Fin 64), s.canOn = true → s.red.failsafe = false → s.isUp s.act = true → (s.lane s.act).canEn c = true →
    (s.lane s.act).canState c < 2 → (s.lane s.act).fld (aCan c 0) 1 2 ≠ 1 → (∀ k, k < 64 → (s.lane s.act).canTxs c k ≠ 2) →
    (s.lane s.act).canOffer c = some b →
    u = (s.canSof c).upd s.act (fun L => (L.setTxs c b 2).bufUpd c b fun k => { k with compared := true }) →
    (s.compares = false ∨ (s.lane s.act).can[c].bufs[b].compared = true →
      exec (.canTxAttemptStart c) s = .next (@State.settle regIO (u.canForward c (.start b)))) ∧
    (∀ b', s.compares = true → (s.lane s.act).can[c].bufs[b].compared = false → (s.lane (other s.act)).canOffer c = some b' →
      exec (.canTxAttemptStart c) s = .next (@State.settle regIO ((if sameHash ((s.lane s.act).canHashed c b) ((s.lane (other s.act)).canHashed c b') then u
        else u.redTrigger 5 c true false false).canForward c (.start b)))) ∧
    (s.compares = true → (s.lane s.act).can[c].bufs[b].compared = false → (s.lane (other s.act)).canOffer c = none →
      exec (.canTxAttemptStart c) s = .next (@State.settle regIO ((u.upd s.act fun L => L.canUpd c fun k =>
        { k with awaiting := some ((s.lane s.act).canHashed c b, s.tb.run) }).canForward c (.start b))))) ∧
  (∀ (s u : State) (c : Fin 8) (b : Fin 64), s.canOnWire c = some b →
    u = (s.canSuccessIn s.act c b (s.lane s.act).can[c].sof).canForward c (.success b (s.lane s.act).can[c].sof) →
    fieldOf ((s.lane s.act).canCfg c) 1 2 ≠ 2 →
    exec (.canTxSuccess c) s = .next ((if (s.lane s.act).canTec c = 0 then u
      else u.canCountersFwd c ((s.lane s.act).canTec c - 1) ((s.lane s.act).canRec c)).canFrameEnd c)) ∧
  (∀ (s u v : State) (c : Fin 8) (b : Fin 64), s.canOnWire c = some b →
    u = (s.canSuccessIn s.act c b (s.lane s.act).can[c].sof).canForward c (.success b (s.lane s.act).can[c].sof) →
    fieldOf ((s.lane s.act).canCfg c) 1 2 = 2 →
    v = (if (s.lane s.act).canTec c = 0 then u else u.canCountersFwd c ((s.lane s.act).canTec c - 1) ((s.lane s.act).canRec c)) →
    exec (.canTxSuccess c) s =
      .next ((v.each v.ups fun l x => x.canReceive l c ((s.lane s.act).canFrameOf c b) (s.lane s.act).can[c].sof).canFrameEnd c)) ∧
  (∀ (s : State) (c : Fin 8) (b : Fin 64), s.canOnWire c = some b →
    exec (.canArbLost c) s = .next (((s.canArbLostIn s.act c b).canForward c (.arbLost b)).canFrameEnd c)) ∧
  (∀ (s u : State) (c : Fin 8) (b : Fin 64) (lec : Fin 7), s.canOnWire c = some b → lec ≠ 0 →
    u = (s.canErrorIn s.act c b lec.val).canForward c (.error b lec.val) →
    (lec.val = 3 ∧ (s.lane s.act).canState c = 1 → exec (.canTxError c lec) s = .next (u.canFrameEnd c)) ∧
    (lec.val ≠ 3 ∨ (s.lane s.act).canState c ≠ 1 → exec (.canTxError c lec) s =
      .next ((u.canCountersFwd c ((s.lane s.act).canTec c + 8) ((s.lane s.act).canRec c)).canFrameEnd c))) ∧
  (∀ (s : State) (c : Fin 8) (e : CanFwd) (rest : List CanFwd), (s.lane s.act).can[c].fwd = e :: rest → s.isUp (other s.act) = true →
    exec (.canPeerTxEvent c) s = .next ((s.upd s.act fun L => L.canUpd c fun k => { k with fwd := rest }).canPeerApply (other s.act) c e))

/-- While the controllers are on the bus, a frame that is valid on an enabled channel is received by every running lane that hears it, and the active lane's receive error count goes down by 1 from 127 or below; a recessive res bit goes by PEX. A receive error sets LEC in every running lane on the bus and adds 1 or 8 to REC up to 255. After 11 recessive bits an enabled channel that integrates joins, with the error state of its counters; after 128 such sequences a channel in bus-off is error active with both counters 0. Every change of the counters is forwarded. The increments are ISO 11898-1's, presumed (log 18). -/
def Obligations.CanBusCommands : Prop :=
  (∀ (s u : State) (c : Fin 8) (f : CanFrame) (sof : Word), s.canOn = true → (s.lane s.act).canHears c sof = true → (s.lane s.act).canValid c f = true →
    (f.fdf = true → f.res = true → exec (.canFrameReceived c f sof) s = .next (s.canResBit c sof)) ∧
    (f.fdf = false ∨ f.res = false →
      u = s.each s.ups (fun l x => if (x.lane l).canHears c sof then (x.canReceive l c f sof).upd l (·.canHeard c) else x) →
      ((s.lane s.act).canRec c = 0 → exec (.canFrameReceived c f sof) s = .next u) ∧
      (1 ≤ (s.lane s.act).canRec c → (s.lane s.act).canRec c ≤ 127 →
        exec (.canFrameReceived c f sof) s = .next (u.canCountersFwd c ((s.lane s.act).canTec c) ((s.lane s.act).canRec c - 1))) ∧
      (127 < (s.lane s.act).canRec c → ∃ n, 119 ≤ n ∧ n ≤ 127 ∧
        exec (.canFrameReceived c f sof) s = .next (u.fresh.2.canCountersFwd c ((s.lane s.act).canTec c) n)))) ∧
  (∀ (s : State) (l : LaneId) (c : Fin 8) (f : CanFrame) (t : Word),
    (∀ b, (s.lane l).canFilter c f = some (1, b) → s.canReceive l c f t = s.canStoreFifo l c f t) ∧
    (∀ b, (s.lane l).canFilter c f = some (2, b) → s.canReceive l c f t = s.canStoreBuf l c (Fin.ofNat 64 b) f t) ∧
    ((s.lane l).canFilter c f = none → bitOf ((s.lane l).canCfg c) 5 = false → s.canReceive l c f t = s.upd l (·.incFld (aCan c 0x14) 0 16))) ∧
  (∀ (s : State) (c : Fin 8) (lec : Fin 7) (by8 : Bool), s.canOn = true → (s.lane s.act).canEn c = true → (s.lane s.act).canState c < 2 → lec ≠ 0 →
    exec (.canRxError c lec by8) s = .next ((s.canLec c lec.val).canCountersFwd c ((s.lane s.act).canTec c)
      (min 255 ((s.lane s.act).canRec c + (if by8 then 8 else 1))))) ∧
  (∀ (s : State) (c : Fin 8), s.canOn = true → exec (.canBusIntegrated c) s = .next (s.each s.ups fun l x =>
    if (x.lane l).canEn c && (x.lane l).canState c == 3 then x.upd l fun L =>
      (L.canHeard c).setFld (aCan c 0x10) 0 2 (if 127 < (x.lane l).canTec c || 127 < (x.lane l).canRec c then 1 else 0) else x)) ∧
  (∀ (s : State) (c : Fin 8), s.canOn = true → (s.lane s.act).canState c = 2 →
    exec (.canBusoffRecovery c) s = .next ((s.canCountersFwd c 0 0).raise s.act (0xA2 + 4 * c) c)) ∧
  (∀ (s : State) (c : Fin 8) (t r : Nat), s.canCountersFwd c t r =
    (s.canCounters s.act c t r).canForward c (.state t r (((s.canCounters s.act c t r).lane s.act).canState c)))

/-- A read of TB_NOW_LO that reaches a lane answers the low word of the extended count and captures the whole for the requester; a read of TB_NOW_HI answers the high word of that capture, or of the count. The next carry out of tb32 comes at the next multiple of 2^32 ns and raises 0xC3. A write of TB_RATE is stored in every lane the source acts in. STEP with KEY 0x5442 that R377 accepts waits for the next 250 us tick, else the reason is shown and 0xC5 raised; at the tick the count is stepped once, with what is set on it, and 0xC4 is raised. PPS rises at the next whole second of PTP time for WIDTH ms. A selected PPS edge is stamped with 0xC7. The 10 MHz count of a second is shown, and out of range raises 0xC8. -/
def Obligations.TimeBaseCommands : Prop :=
  (∀ (s : State) (src : Src), s.reads src = true →
    exec (.tbNowLoRead src) s = .next ((s.upd (s.readLane src) fun L =>
      { L with tbCap := (L.tbCap.filter fun c => c.1 != src.req) ++ [(src.req, BitVec.ofNat 64 s.ns)] }).ok ((BitVec.ofNat 64 s.ns).truncate 32))) ∧
  (∀ (s : State) (src : Src), s.reads src = true →
    (∀ c, (s.lane (s.readLane src)).tbCap.find? (fun c => c.1 == src.req) = some c →
      exec (.tbNowHiRead src) s = .next (s.ok (c.2.extractLsb' 32 32))) ∧
    ((s.lane (s.readLane src)).tbCap.find? (fun c => c.1 == src.req) = none →
      exec (.tbNowHiRead src) s = .next (s.ok ((BitVec.ofNat 64 s.ns).extractLsb' 32 32)))) ∧
  (∀ s u : State, u = s.advTo (nsU ((s.tb.wraps + 1) * 2 ^ 32)) → ∃ v, exec .tbWrap s = .next (v.raiseUp 0xC3) ∧
    v = { u with tb := { u.tb with wraps := s.tb.wraps + 1 } }) ∧
  (∀ (s : State) (src : Src) (w : Word), s.lanesOf src ≠ [] →
    ∃ t, exec (.tbRateWrite src w) s = .next t ∧ t.reply = .ok 0 ∧ s.inLanes src (fun _ L => L.put (aTb 0xC) w) t) ∧
  (∀ (s : State) (src : Src) (l : LaneId), s.lanesOf src ≠ [] → s.first src (aTb 0x20) ((0x5442 : Half) ++ (1 : Half)) = true →
    l = (if (s.lanesOf src).contains s.act then s.act else src.lane) →
    (s.stepDeny ((s.lane l).s64 (aTb 0x10)) = 0 → ∃ tw, exec (.tbStep src 0x5442) s =
      .next { ({ s with tb := { s.tb with step := some (s.next250, (s.lane l).s64 (aTb 0x10)) } } : State).ok with twins := tw }) ∧
    (∀ d, s.stepDeny ((s.lane l).s64 (aTb 0x10)) = d → d ≠ 0 → ∃ tw, exec (.tbStep src 0x5442) s =
      .next { (s.each (s.lanesOf src) fun l x => (x.upd l (·.setFld (aTb 8) 4 3 d)).raise l 0xC5).busErr with twins := tw })) ∧
  (∀ (s : State) (v : Int), (s.stepDeny v = 0 ↔ s.tb.used = false ∧ s.tb.step = none ∧ (s.mode.mode = .configure ∨ s.mode.mode = .stop) ∧
      0 ≤ (s.tb.count : Int) + v * (2 ^ 40 : Int)) ∧
    (s.tb.used = true ∨ s.tb.step.isSome = true → s.stepDeny v = 1)) ∧
  (∀ (s u : State) (due : Nat) (v : Int), s.tb.step = some (due, v) → u = s.advTo due →
    ∃ w x : State, exec .tbStepApply s = .next ((x.updBoth (·.stepShift v)).raiseUp 0xC4) ∧
      x = { w with field := { w.field with ax := w.field.ax.map fun d => { d with setAt := ((d.setAt : Int) + v * (2 ^ 40 : Int)).toNat } } } ∧
      w = { u with
        tb := { u.tb with count := ((u.tb.count : Int) + v * (2 ^ 40 : Int)).toNat, step := none, used := true,
                          wraps := ((u.tb.count : Int) + v * (2 ^ 40 : Int)).toNat / 2 ^ 40 / 2 ^ 32 },
        mode := { u.mode with pend := u.mode.pend.map fun p => { p with due := ((p.due : Int) + v * (2 ^ 40 : Int)).toNat } } }) ∧
  (∀ (s u : State) (sec : Int), s.ups ≠ [] → (s.lane s.act).flag (aTb 0x24) 0 = true →
    sec = (((s.ns : Int) + (s.lane s.act).s64 (aTb 0x18)) / 1000000000 + 1) * 1000000000 →
    u = s.advTo (nsU (sec - (s.lane s.act).s64 (aTb 0x18)).toNat) →
    ∃ t, exec .ppsOut s = .next t ∧ t = { u with tb := { u.tb with ppsEnd := u.tb.run + msU ((s.lane s.act).fld (aTb 0x24) 16 9) } }) ∧
  (∀ (s : State) (falling : Bool), exec (.ppsInEdge falling) s = .next (s.each s.ups fun l x =>
    if (x.lane l).flag (aTb 0x24) 1 && (x.lane l).flag (aTb 0x24) 2 == falling then
      (x.upd l fun L => (L.put (aTb 0x28) x.tbW).wrapFld (aTb 8) 16 16).raise l 0xC7 else x)) ∧
  (∀ (s u : State) (n : BitVec 24), u = s.advTo (nsU ((s.ns / 1000000000 + 1) * 1000000000)) →
    (9990000 ≤ n.toNat ∧ n.toNat ≤ 10010000 →
      exec (.ref10CountEnd n) s = .next (u.each u.ups fun l x => x.upd l (·.putN (aTb 0x2C) (2 ^ 31 + n.toNat)))) ∧
    (n.toNat < 9990000 ∨ 10010000 < n.toNat →
      exec (.ref10CountEnd n) s = .next (u.each u.ups fun l x => (x.upd l (·.putN (aTb 0x2C) n.toNat)).raise l 0xC8)))

/-- A PTP message of 34 to 128 bytes and a supported version, on a live and enabled port, enters every running lane's receive queue with the entry R384 lays out, stamped with the port's ingress latency; one of another length or version is dropped and counted. The queue holds 64 entries. POP removes the oldest entry of either queue. SEND with KEY 0x5054 queues the entry written to TB_PTP_TX_BUF unless R385 refuses it, with a bus error and 0xC6. The next frame leaves at its plan or now, corrected by what it is late, with a status entry and 0xCA; with the link down its status is 2. A one-step frame that has not left by plan + 1 ms is dropped with status 1, counted and 0xCB raised. Readings: log 103. -/
def Obligations.PtpCommands : Prop :=
  (∀ (s : State) (port transport : Fin 3) (vlan : Bool) (mac ip msg addr : Bytes),
    s.ups ≠ [] → s.ptpRuns = true → (s.lane s.act).ethLive port = true →
    bitOf ((s.lane s.act).get (aTb 0x100)) port = true → bitOf ((s.lane s.act).get (aTb 0x100)) (3 + transport) = true →
    (34 ≤ msg.length ∧ msg.length ≤ 128 ∧ (u8At msg 1 = 0x02 ∨ u8At msg 1 = 0x12) →
      (transport = 0 → addr = zeros 16) → (transport = 1 → addr = zeros 10 ++ [0xFF, 0xFF] ++ slice ip 0 4) → (transport = 2 → addr = slice ip 0 16) →
      exec (.ptpRx port transport vlan mac ip msg) s = .next (s.each s.ups fun l x => x.ptpEnter l
        (leBytes 4 (msg.length * 2 ^ 16 + 16 * bit vlan + 4 * transport.val + port.val) ++
          leBytes 4 (unsignedOf 32 ((s.tb32 : Int) - signed 16 ((s.lane s.act).fld (aTb (0x110 + 4 * port)) 0 16))) ++
          slice mac 0 6 ++ zeros 2 ++ addr ++ slice msg 0 128))) ∧
    (msg.length < 34 ∨ 128 < msg.length ∨ u8At msg 1 % 16 ≠ 2 ∨ 1 < u8At msg 1 / 16 →
      exec (.ptpRx port transport vlan mac ip msg) s = .next (s.each s.ups fun l x => x.upd l (·.incFld (aTb 0x124) 16 16)))) ∧
  (∀ (s u : State) (l : LaneId) (e : Bytes), (s.lane l).ptp.rxq.length < 64 →
    u = s.upd l (fun L => { L with ptp := { L.ptp with rxq := (s.lane l).ptp.rxq ++ [e] } }) →
    ((s.lane l).ptp.rxq = [] → s.ptpEnter l e = u.raise l 0xC9) ∧ ((s.lane l).ptp.rxq ≠ [] → s.ptpEnter l e = u)) ∧
  (∀ (s u : State) (l : LaneId) (e : Bytes), 64 ≤ (s.lane l).ptp.rxq.length → u = s.upd l (fun L => L.incFld (aTb 0x124) 16 16) →
    ((∀ t, (s.lane l).ptp.lastDropEv = some t → t + sU 1 ≤ s.tb.run) →
      s.ptpEnter l e = (u.upd l fun L => { L with ptp := { L.ptp with lastDropEv := (some s.tb.run) } }).raise l 0xCC) ∧
    (∀ t, (s.lane l).ptp.lastDropEv = some t → s.tb.run < t + sU 1 → s.ptpEnter l e = u)) ∧
  (∀ (s : State) (src : Src), s.lanesOf src ≠ [] →
    (∃ t, exec (.ptpRxPop src) s = .next t ∧ t.reply = .ok 0 ∧
      s.inLanes src (fun _ L => { L with ptp := { L.ptp with rxq := L.ptp.rxq.drop 1 } }) t) ∧
    (∃ t, exec (.ptpTxsPop src) s = .next t ∧ t.reply = .ok 0 ∧
      s.inLanes src (fun _ L => { L with ptp := { L.ptp with txs := L.ptp.txs.drop 1 } }) t)) ∧
  (∀ (s : State) (src : Src) (l : LaneId) (tag : Byte) (oneStep : Bool) (e : Bytes), s.lanesOf src = [l] →
    e = (((s.lane l).getWords (aTb 0x300) 40).map fun w => leBytes 4 w.toNat).flatten →
    (s.ptpRuns = true → (s.lane l).ptp.txq.length < 16 → 34 ≤ u16At e 2 → u16At e 2 ≤ 128 → u8At e 0 % 4 ≠ 3 →
      bitOf ((s.lane l).get (aTb 0x100)) (u8At e 0 % 4) = true → (s.lane l).flag (aEth (u8At e 0 % 4) 0) 0 = true →
      (oneStep = false ∨ (0 ≤ diff32 ((s.lane l).get (aTb 0x128)).toNat s.tb32 ∧ diff32 ((s.lane l).get (aTb 0x128)).toNat s.tb32 ≤ 100000000)) →
      exec (.ptpSend src 0x5054 tag oneStep) s = .next (s.upd l fun L => { L with ptp := { L.ptp with
        txq := L.ptp.txq ++ [{ entry := e, tag := tag, plan := (if oneStep then some ((s.lane l).get (aTb 0x128)) else none) }] } }).ok) ∧
    (s.ptpRuns = false ∨ 16 ≤ (s.lane l).ptp.txq.length ∨ u16At e 2 < 34 ∨ 128 < u16At e 2 ∨ (s.lane l).flag (aEth (u8At e 0 % 4) 0) 0 = false ∨
      (oneStep = true ∧ (diff32 ((s.lane l).get (aTb 0x128)).toNat s.tb32 < 0 ∨ 100000000 < diff32 ((s.lane l).get (aTb 0x128)).toNat s.tb32)) →
      exec (.ptpSend src 0x5054 tag oneStep) s = .next (s.refuse l 0xC6))) ∧
  (∀ (s u : State) (f : PtpTx) (q : List PtpTx) (ahead : Int) (msg : Bytes) (port : Nat) (dep : Word),
    (s.lane s.act).ptp.txq = f :: q → s.ptpRuns = true → -1000000 ≤ ahead → u = s.advTo (s.tb.count + nsU ahead.toNat) →
    (f.plan = none → ahead = 0) → (∀ p, f.plan = some p → ahead = diff32 p.toNat s.tb32) →
    (exec (.ptpTxDepart false) s = .next (u.ptpDone 2 0)) ∧
    (port = u8At f.entry 0 % 4 →
      dep = BitVec.ofNat 32 (unsignedOf 32 ((u.tb32 : Int) + signed 16 ((s.lane s.act).fld (aTb (0x110 + 4 * port)) 16 16))) →
      (f.plan = none → msg = slice f.entry 0x20 (u16At f.entry 2)) →
      (∀ p, f.plan = some p → msg = ptpCorrect (slice f.entry 0x20 (u16At f.entry 2)) (diff32 dep.toNat p.toNat)) →
      exec (.ptpTxDepart true) s = .next ((u.ethPut port ((s.lane s.act).ptpFrame f.entry msg)).ptpDone 0 dep))) ∧
  (∀ (s u : State) (f : PtpTx) (q : List PtpTx) (p : Word), (s.lane s.act).ptp.txq = f :: q → f.plan = some p →
    u = s.advTo (((s.tb.count : Int) + (diff32 p.toNat s.tb32 + 1000000) * (2 ^ 40 : Int)).toNat) →
    exec .ptpTxLate s = .next ((u.each u.ups fun l x =>
      if (x.lane l).ptp.txq.isEmpty then x else (x.upd l (·.incFld (aTb 0x124) 0 16)).raise l 0xCB).ptpDone 1 0)) ∧
  (∀ (s : State) (status : Nat) (depart : Word) (l : LaneId) (f : PtpTx) (q : List PtpTx), s.ups = [l] → (s.lane l).ptp.txq = f :: q →
    s.ptpDone status depart = (s.upd l fun L => { L with ptp := { L.ptp with
      txq := q, txs := (L.ptp.txs ++ [({ tag := f.tag, status := status, depart := depart } : PtpTxs)]).take 16 } }).raise l 0xCA)

/-- A read of a time register answers the lane's frozen shadow, freezing it at the first; a read of YEAR, or 2 ms, ends the freeze. GO with KEY 0x5254 of a source that holds the keeper: staged fields that are a date wait for the next crystal edge, others set BADSET and raise 0xE6, and a GO while a set waits is refused with IND error. At the edge the staged fields become the calendar with the divider at SUBSEC, BUSY clears, and the alarms see the adjustment. The next whole second comes when the trimmed count of crystal periods is full; after 2199 the year wraps, with 0xE7. A stopped crystal sets OSF with 0xE5. Periodic wake raises 0xE4 every 32 x N periods, and a write of N restarts it. Readings: log 102. -/
def Obligations.CalendarCommands : Prop :=
  (∀ (s : State) (src : Src) (r : Fin 7), s.reads src = true →
    ((s.lane (s.readLane src)).rtcFrozen = none → exec (.rtcTimeRead src r) s = .next ((s.upd (s.readLane src) fun L =>
      { L with rtcFrozen := if r.val = 6 then none else some (s.calNow, s.tb.run) }).ok (s.calNow.reg r))) ∧
    (∀ c t, (s.lane (s.readLane src)).rtcFrozen = some (c, t) → exec (.rtcTimeRead src r) s = .next ((s.upd (s.readLane src) fun L =>
      { L with rtcFrozen := if r.val = 6 then none else some (c, t) }).ok (c.reg r)))) ∧
  (∀ (s : State) (l : LaneId) (c : Cal) (t : Nat), (s.lane l).rtcFrozen = some (c, t) →
    exec (.rtcFreezeTimeout l) s = .next ((s.advRun (t + msU 2)).upd l fun L => { L with rtcFrozen := none })) ∧
  (∀ (s : State) (src : Src), s.lanesOf src ≠ [] → s.dieOpen src = true →
    (s.keeper.rtc.setPend = none → (stagedCal s.keeper).ok = true → exec (.rtcGo src 0x5254) s = .next ((s.keep fun k =>
      { k with rtc := { k.rtc with setPend := some (stagedCal s.keeper, s.keeper.rtc.secAt + (s.rtcPeriods + 1) * rtcPeriod) } }).ok)) ∧
    (s.keeper.rtc.setPend = none → (stagedCal s.keeper).ok = false →
      exec (.rtcGo src 0x5254) s = .next ((s.keep (·.setBits 0x01002C 1 true)).raiseUp 0xE6).ok) ∧
    (s.keeper.rtc.setPend ≠ none → exec (.rtcGo src 0x5254) s = .next (({ s with reply := .indError } : State).indFail src 2))) ∧
  (∀ c : Cal, c.ok = true ↔ c.subsec ≤ 1023 ∧ c.sec ≤ 59 ∧ c.min ≤ 59 ∧ c.hour ≤ 23 ∧ 2000 ≤ c.year ∧ c.year ≤ 2199 ∧
    1 ≤ c.month ∧ c.month ≤ 12 ∧ 1 ≤ c.day ∧ c.day ≤ monthDays c.year c.month) ∧
  (∀ (s u v w : State) (c : Cal) (due : Nat), s.keeper.rtc.setPend = some (c, due) → u = s.advRun due →
    v = (u.almAdjust u.calNow.secs c.secs u.calNow.subsec c.subsec).recEndAll true →
    w = v.keep (fun k => ({ k with rtc := { k.rtc with cal := { c with subsec := 0 }, cnt := 32 * c.subsec, secAt := u.tb.run, setPend := none } } : Keeper).setBits 0x01002C 0 false) →
    (c.subsec = 0 → exec .rtcSetApply s = .next w.recSet.almReached) ∧ (c.subsec ≠ 0 → exec .rtcSetApply s = .next w.recSet)) ∧
  (∀ s : State, exec .rtcOscStop s = .next ((s.keep (·.setBits 0x01002C 0 true)).raiseUp 0xE5)) ∧
  (∀ (s u v : State) (n : Nat) (c : Cal), c = s.keeper.rtc.cal.next →
    n = s.keeper.toSecond →
    u = s.advRun (s.keeper.rtc.secAt + n * rtcPeriod) →
    v = u.keep (fun k => { k with rtc := { k.rtc with cal := c, cnt := (k.divider n).1 - 32768, trimAcc := (k.divider n).2, secAt := s.keeper.rtc.secAt + n * rtcPeriod } }) →
    (s.keeper.rtc.cal.year ≤ c.year → exec .rtcSecond s = .next v.almReached) ∧
    (c.year < s.keeper.rtc.cal.year → exec .rtcSecond s = .next ((v.keep (·.setBits 0x01002C 2 true)).raiseUp 0xE7).almReached)) ∧
  (∀ (k : Keeper) (n : Nat), k.rtc.cnt < 32768 → (n < k.toSecond ↔ (k.divider n).1 < 32768)) ∧
  (∀ c : Cal, c.sec = 59 → c.min = 59 → c.hour = 23 → c.day = 31 → c.month = 12 → c.year = 2199 →
    c.next = { c with sec := 0, min := 0, hour := 0, day := 1, month := 1, year := 2000 }) ∧
  (∀ (s : State) (due : Nat), s.keeper.rtc.wakeAt = some due → exec .rtcWake s = .next (((s.advRun due).keep fun k =>
    { k with rtc := { k.rtc with wakeAt := some (due + k.fld 0x010034 0 26 * 32 * rtcPeriod) } }).raiseUp 0xE4)) ∧
  (∀ (s : State) (src : Src) (n : Word), s.lanesOf src ≠ [] → s.dieOpen src = true →
    exec (.rtcWakeWrite src n) s = .next (s.rtcWakeSet n).ok ∧
    (fieldOf n 0 26 = 0 → (s.rtcWakeSet n).keeper.rtc.wakeAt = none) ∧
    (fieldOf n 0 26 ≠ 0 → (s.rtcWakeSet n).keeper.rtc.wakeAt = some (s.tb.run + fieldOf n 0 26 * 32 * rtcPeriod)))

/-- While counting runs, the end of an interval evaluates the point in every running lane that has it enabled; a data line that holds its level marks its channel and raises 0x90, and 0x91 when it clears. A confirmed crossing of an enabled point is taken by each lane, at the instant interpolated and referred back, with the mean of the last 8 periods; after ZC_TO ms without one the frequency is NaN, ZC_TIMEOUT is set and 0x92 raised. At a multiple of 100 ms each enabled accumulator takes its step; one with a source too old is stale, counts a missed interval and raises 0x98 once an episode. SAVE of the active lane with the right KEY, and each SAVE_S seconds, write the records. A read of a live low word answers it and captures its high word for its reader. Filter coefficients are opaque (log 15). -/
def Obligations.MeterCommands : Prop :=
  (∀ (s : State) (p : Fin 8) (raw : List (List (BitVec 24))), s.counts = true →
    exec (.mtrIntervalEnd p raw) s = .next (s.each s.ups fun l x =>
      if (x.lane l).ptEn p then x.upd l (·.mtrInterval p (raw.map fun c => c.map (·.toInt)) x.tbW) else x)) ∧
  (∀ (s : State) (ch : Fin 48), (s.counts = true → exec (.mtrModFault ch) s = .next (s.each s.ups fun l x =>
      if (x.lane l).ptEn (ch.val / 6) && !(x.lane l).modFault ch then (x.upd l (·.setFlag (aPt (ch.val / 6) 0) (ch.val % 6) true)).raise l 0x90 ch else x)) ∧
    exec (.mtrModOk ch) s = .next (s.each s.ups fun l x =>
      if (x.lane l).modFault ch then (x.upd l (·.setFlag (aPt (ch.val / 6) 0) (ch.val % 6) false)).raise l 0x91 ch else x)) ∧
  (∀ (s : State) (p : Fin 8) (c : Fin 3) (vals : List F64), s.counts = true → exec (.mtrZeroCrossing p c vals) s = .next (s.each s.ups fun l x =>
    if (x.lane l).ptEn p then x.mtrZc l p c vals else x)) ∧
  (∀ (s u : State) (p : Fin 8) (c : Fin 3) (ch : Fin 48), s.counts = true → (s.lane s.act).ptEn p = true → ch.val = 6 * p.val + c.val →
    (s.lane s.act).mtr.ch[ch].timedOut = false → u = s.advRun ((s.lane s.act).mtr.ch[ch].zcAt + msU ((s.lane s.act).fld (aPt p 4) 0 9)) →
    exec (.mtrZcTimeout p c) s = .next (u.each u.ups fun l x => (x.upd l fun L =>
      (((L.mtrChUpd ch fun k => { k with crossings := [], timedOut := true }).put (aFreq p c) fNaN32).setFlag (aPt p 0) (9 + c.val) false).setFlag
        (aPt p 0) (12 + c.val) true).raise l 0x92 ch)) ∧
  (∀ s u : State, s.counts = true → u = s.advTo s.thqDue → exec .thqInstant s = .next (u.each u.ups fun l x =>
    ((List.finRange 256).foldl (fun (y : State) (a : Fin 256) => if (y.lane l).accEn a then y.thqStep l a else y) x).upd l fun L =>
      { L with thq := { L.thq with lastAt := s.thqDue } })) ∧
  (∀ (s : State) (l : LaneId) (a : Fin 256), (s.lane l).thqSrc (slice ((s.lane l).accE a) 0x10 16) = none → s.thqStep l a = s.thqStale l a) ∧
  (∀ (s : State) (l : LaneId) (a : Fin 256) (v ts tr : F64 × Word), (s.lane l).thqSrc (slice ((s.lane l).accE a) 0x10 16) = some v →
    (s.lane l).thqSrc (slice ((s.lane l).accE a) 0x20 16) = some ts → (s.lane l).thqSrc (slice ((s.lane l).accE a) 0x30 16) = some tr →
    (s.lane l).fld (0x40100500 + 4 * a.val) 0 16 = 0 → flt ts.1 f0 = false → flt (fOfNat 150) ts.1 = false → flt tr.1 f0 = false → flt (fOfNat 150) tr.1 = false →
    s.thqStep l a = (s.upd l fun L => (L.setFlag (aAcc a) 1 false).accUpd a fun A => { A with staleEp := false }).thqAdd l a v.1 ts.1 tr.1) ∧
  (∀ (s : State) (src : Src) (l : LaneId), s.lanesOf src = [l] →
    (l = s.act → exec (.mtrSave src 0x4D52) s = .next s.mtrSaveNow.ok ∧ exec (.thqSave src 0x5448) s = .next s.thqSaveNow.ok) ∧
    (l ≠ s.act → exec (.mtrSave src 0x4D52) s = .next s.ok ∧ exec (.thqSave src 0x5448) s = .next s.ok)) ∧
  (∀ (s : State) (src : Src) (k : Half), exec (.mtrSave src k) s = .next (s.perLane src fun l x => if k = 0x4D52 ∧ l = x.act then x.mtrSaveNow.ok else x.ok) ∧
    exec (.thqSave src k) s = .next (s.perLane src fun l x => if k = 0x5448 ∧ l = x.act then x.thqSaveNow.ok else x.ok)) ∧
  (∀ s v u : State, s.saves = true → s.isUp s.act = true → (s.lane s.act).dr 0x0E ≠ [] →
    v = s.advRun ((s.lane s.act).mtr.saveAt + sU (u16At ((s.lane s.act).dr 0x0E) 2)) → u = v.advTo (tick250 v.tb.count) →
    exec (.counterSavePeriod false) s = .next (u.each u.ups fun l x => x.upd l fun L => { L with mtr := { L.mtr with saveAt := x.tb.run } }).mtrSaveNow) ∧
  (∀ s v u : State, s.saves = true → s.isUp s.act = true → (s.lane s.act).dr 0x0F ≠ [] →
    v = s.advRun ((s.lane s.act).thq.saveAt + sU (u16At ((s.lane s.act).dr 0x0F) 2)) → u = v.advTo (tick250 v.tb.count) →
    exec (.counterSavePeriod true) s = .next (u.each u.ups fun l x => x.upd l fun L => { L with thq := { L.thq with saveAt := x.tb.run } }).thqSaveNow) ∧
  (∀ (s : State) (src : Src) (a : Word) (c : Nat), s.readersOf src ≠ [] →
    (∀ l ∈ s.readersOf src, (s.lane l).counterAt a.toNat = some (c, false)) →
    ∃ t, exec (.counterLoRead src a) s = .next t ∧ t.reply = .ok (BitVec.ofNat 32 c) ∧ s.inThe (s.readersOf src) (fun _ L => { L with
      hiCap := (L.hiCap.filter fun h => !(h.1 == src.req && h.2.1 == a.toNat + 4)) ++ [(src.req, a.toNat + 4, BitVec.ofNat 32 (c / 2 ^ 32))] }) t)

/-- While the die samples, a filter that reaches an end of its range sets F, stamped LIMIT - 1 samples back, as an edge; in wire break with a WB_ACT other than 0 without one. Wire break replaces F as WB_ACT says and raises 0x81; its end gives F the filtered value, an edge stamped with the sample where this changes F, and raises 0x82. A slot switches on the first 8 queued channels. L+ of a group below 16 V takes its channels off and out of the queue, and its return lets those with target 1 join it; both raise 0x87. Overload, overtemperature and open wire set their flags with 0x83, 0x84 and 0x86; below 130 C an unlatched channel restarts, counted, with 0x85, and one whose CLEAR is held is released. CLEAR releases a latched channel or is held; CLR_CNT zeroes a count. The voltage of a deciding sample is free (log 4), the raw level's start a reading (log 72). -/
def Obligations.DigitalIoCommands : Prop :=
  (∀ (s u v : State) (ch : Fin 64) (level : Bool) (lim : Nat), s.sampling = true → (s.lane s.act).diEn ch = true → s.field.di[ch].filt ≠ level →
    lim = (s.lane s.act).fld (aDi ch + 4) 0 16 → u = (s.advTo (ceilDiv s.tb.count (nsU 10000) * nsU 10000)).diSampleAt ch level →
    v = u.diUpd ch (fun d => { d with c := if level then lim else 0, filt := level }) →
    (s.field.di[ch].wb = true → (s.lane s.act).fld (aDi ch) 22 2 ≠ 0 → exec (.diFilterChange ch level) s = .next v) ∧
    (s.field.di[ch].wb = false → s.field.di[ch].f ≠ level →
      exec (.diFilterChange ch level) s = .next (v.diEdge ch level ((u.ns + 2 ^ 32 - (lim - 1) * 10000) % 2 ^ 32)))) ∧
  (∀ (s u : State) (i : Fin 64) (level : Bool) (stamp : Nat), bitOf ((s.lane s.act).get (aDi i)) 19 = false →
    u = s.diUpd i (fun d => { d with
      f := level, stamp := BitVec.ofNat 32 stamp,
      cnt := if bitOf ((s.lane s.act).get (aDi i)) 17 && (bitOf ((s.lane s.act).get (aDi i)) 18 != level) then d.cnt + 1 else d.cnt }) →
    s.diEdge i level stamp = if (u.force u.act 1 i).isSome then u else u.axDiEdge i level stamp) ∧
  (∀ (s : State) (ch : Fin 64), s.sampling = true → (s.lane s.act).diEn ch = true → (s.lane s.act).flag (aDi ch) 16 = true → s.field.di[ch].wb = false →
    exec (.diWireBreak ch) s = .next ((((s.diSampleWb ch false).getD s).diUpd ch fun d => { d with
      wb := true,
      f := if (s.lane s.act).fld (aDi ch) 22 2 = 1 then false else if (s.lane s.act).fld (aDi ch) 22 2 = 2 then true else d.f }).raiseUp 0x81 ch)) ∧
  (∀ (s u v : State) (ch : Fin 64), s.sampling = true → s.field.di[ch].wb = true →
    (s.advTo (ceilDiv s.tb.count (nsU 10000) * nsU 10000)).diSampleWb ch true = some u → v = (u.diUpd ch fun d => { d with wb := false }).raiseUp 0x82 ch →
    (s.field.di[ch].f = s.field.di[ch].filt → exec (.diWireBreakEnd ch) s = .next v) ∧
    (s.field.di[ch].f ≠ s.field.di[ch].filt → exec (.diWireBreakEnd ch) s = .next (v.diEdge ch s.field.di[ch].filt v.tb32))) ∧
  (∀ (s : State) (src : Src) (l : LaneId) (ch : Fin 64), s.lanesOf src = [l] → (s.lane l).diEn ch = true →
    (s.portOpen l = true → exec (.diClrCnt src 0x4451 (BitVec.ofNat 8 ch)) s = .next (s.diUpd ch fun d => { d with cnt := 0 }).ok) ∧
    (s.portOpen l = false → exec (.diClrCnt src 0x4451 (BitVec.ofNat 8 ch)) s = .next s.ok)) ∧
  (∀ (s : State) (src : Src) (l : LaneId) (b : Byte), s.lanesOf src = [l] → (64 ≤ b.toNat ∨ (s.lane l).diEn b.toNat = false) →
    exec (.diClrCnt src 0x4451 b) s = .next (s.refuse l 0x88 b.toNat)) ∧
  (∀ (s u : State) (t : Nat), s.field.slotAt = some t → s.field.queue ≠ [] → u = s.advRun t →
    exec .dqSwitchOnSlot s = .next ((u.field.queue.take 8).foldl (fun (x : State) (j : Fin 32) => x.dqUpd j fun d => { d with on := true })
      { u with field := { u.field with queue := u.field.queue.drop 8, slotAt := some (u.tb.run + nsU 250000) } })) ∧
  (∀ (s u v : State) (g : Fin 4), s.field.lplusLow.getLsbD g = false →
    u = (List.finRange 32).foldl (fun (x : State) (j : Fin 32) => if j.val / 8 == g.val then x.dqUpd j fun d => { d with on := false } else x) s →
    v = u.dqLeave (fun j => j.val / 8 == g.val) →
    exec (.lplusLow g) s = .next (({ v with field := { v.field with lplusLow := s.field.lplusLow ||| BitVec.ofNat 4 (2 ^ g.val) } } : State).raiseUp 0x87 g) ∧
      ∀ j ∈ v.field.queue, j.val / 8 ≠ g.val) ∧
  (∀ (s : State) (g : Fin 4), s.field.lplusLow.getLsbD g = true → exec (.lplusReturn g) s =
    .next ((({ s with field := { s.field with lplusLow := s.field.lplusLow &&& ~~~ BitVec.ofNat 4 (2 ^ g.val) } } : State).raiseUp 0x87 g).dqRejoin
      ((List.finRange 32).filter fun (j : Fin 32) => j.val / 8 == g.val))) ∧
  (∀ (s : State) (ch : Fin 32), (s.field.dq[ch].on = true → s.field.dq[ch].overload = false →
      exec (.dqOverload ch) s = .next ((s.dqUpd ch fun d => { d with overload := true }).raiseUp 0x83 ch)) ∧
    (s.field.dq[ch].overtemp = false → exec (.dqOvertemp ch) s = .next (((s.dqUpd ch fun d =>
      { d with overtemp := true, on := false, latched := !(s.lane s.act).flag (aDq ch) 0, cooled := false, clearHeld := false }).dqLeave (· == ch)).raiseUp 0x84 ch))) ∧
  (∀ (s u : State) (ch : Fin 32), s.field.dq[ch].overtemp = true → u = s.dqUpd ch (fun d => { d with cooled := true }) →
    (s.field.dq[ch].latched = false →
      exec (.dqCooled ch) s = .next (((u.dqUpd ch fun d => { d with restarts := satInc 16 d.restarts }).raiseUp 0x85 ch).dqRelease ch)) ∧
    (s.field.dq[ch].latched = true → s.field.dq[ch].clearHeld = true → exec (.dqCooled ch) s = .next (u.dqRelease ch)) ∧
    (s.field.dq[ch].latched = true → s.field.dq[ch].clearHeld = false → exec (.dqCooled ch) s = .next u)) ∧
  (∀ (s : State) (ch : Fin 32), s.lplusIsLow ch = false →
    (s.field.dq[ch].target = false → bitOf ((s.lane s.act).get (aDq ch)) 1 = true → s.field.dq[ch].openOff = false →
      exec (.dqOpenWire ch) s = .next ((s.dqUpd ch fun d => { d with openOff := true }).raiseUp 0x86 ch)) ∧
    (s.field.dq[ch].target = true → bitOf ((s.lane s.act).get (aDq ch)) 2 = true → s.field.dq[ch].openOn = false →
      exec (.dqOpenWire ch) s = .next ((s.dqUpd ch fun d => { d with openOn := true }).raiseUp 0x86 ch)) ∧
    exec (.dqOpenWireClear ch) s = .next (s.dqUpd ch fun d => { d with openOff := false, openOn := false })) ∧
  (∀ (s : State) (src : Src) (l : LaneId) (ch : Fin 32), s.lanesOf src = [l] → (s.lane l).dqEn ch = true → s.portOpen l = true →
    (s.field.dq[ch].latched = true → s.field.dq[ch].cooled = true → exec (.dqClear src 0x4451 (BitVec.ofNat 8 ch)) s = .next (s.dqRelease ch).ok) ∧
    (s.field.dq[ch].latched = true → s.field.dq[ch].cooled = false →
      exec (.dqClear src 0x4451 (BitVec.ofNat 8 ch)) s = .next (s.dqUpd ch fun d => { d with clearHeld := true }).ok) ∧
    (s.field.dq[ch].latched = false → exec (.dqClear src 0x4451 (BitVec.ofNat 8 ch)) s = .next s.ok)) ∧
  (∀ (s : State) (src : Src) (k : Half) (b : Byte), exec (.dqClear src k b) s = .next (s.perLane src fun l x => x.dqClear l k b) ∧
    exec (.diClrCnt src k b) s = .next (s.perLane src fun l x => x.diClrCnt l k b))

/-- STORE with KEY 0x4353 adds its banks to those waiting. The store of a bank ends in its plane of lower GEN; held writes go on, the next bank begins, and 0xE8 follows the last. A weak page marks its bank and raises 0xEA. PROT is written unless LOCK is set and it would change; LOCK stays. OPEN of a free group with a sound range opens it, else it is refused with 0xEC; CLOSE queues its buffer as one commit, DISCARD forgets it; the oldest commit is applied whole at the port that counts, the other lane's when the port's own one is through. An engine's word goes into its group's buffer, into the array, or, at the standby in dual running, into the log. A pair record operation starts when its unit is idle and its arguments are sound; its end writes the copy or the buffer and shows the result; a bank protected by then ends a WRITE PROTECTED, with 0xEC. Readings: log 39. -/
def Obligations.ChestCommands : Prop :=
  (∀ (s : State) (src : Src) (l : LaneId), s.lanesOf src = [l] →
    (∀ mask : Byte, (s.portOpen l = true → exec (.chestStoreCmd src 0x4353 mask) s = .next { s with chest := s.chest.addPend mask, reply := .ok 0 }) ∧
      (s.portOpen l = false → exec (.chestStoreCmd src 0x4353 mask) s = .next s.ok)) ∧
    (∀ p : Fin 4, (s.portOpen l = true → s.chest.lock = false ∨ s.chest.prot = p → exec (.chestProtWrite src p) s =
        .next { s.updBoth (·.tvClear 0x4016000C) with chest := { s.chest with prot := p }, reply := .ok 0 }) ∧
      (s.chest.lock = true → s.chest.prot ≠ p → exec (.chestProtWrite src p) s = .next (s.refuse l 0xEC))) ∧
    (s.portOpen l = true → exec (.chestLock src) s = .next { s with chest := { s.chest with lock := true }, reply := .ok 0 }) ∧
    (∀ (g : Fin 8) (n base : Nat) (o : Fin 16), base = (s.lane l).getN (aGrp g 0) → (s.lane l).grpState g = 0 → 1 ≤ n → n ≤ 64 → o.val < 8 ∨ o = 15 →
      regionOf base = .chest → chestBankOf (chestOff base) = chestBankOf (chestOff base + 4 * n - 1) → s.chestProt (chestOff base) = false →
      (s.lane l).grpTouch (chestOff base) (4 * n) = false → exec (.chestGroupOpen src 0x4752 g n o) s = .next (s.upd l fun L =>
        { L.setFld (aGrp g 8) 0 2 1 with grps := L.grps.set g { base := base, words := n, owner := o, buf := [] } }).ok) ∧
    (∀ (g : Fin 8) (n : Nat) (o : Fin 16), (s.lane l).grpState g ≠ 0 ∨ n = 0 ∨ 64 < n ∨ s.chestProt (chestOff ((s.lane l).getN (aGrp g 0))) = true →
      exec (.chestGroupOpen src 0x4752 g n o) s = .next (s.refuse l 0xEC g)) ∧
    (∀ g : Fin 8, (s.lane l).grpState g = 1 →
      exec (.chestGroupClose src 0x4752 g) s = .next (s.upd l fun L => { L.setFld (aGrp g 8) 0 2 2 with commits := L.commits ++ [g] }).ok ∧
      exec (.chestGroupDiscard src 0x4752 g) s = .next (s.upd l (·.grpDrop g)).ok) ∧
    ((s.lane l).pairBusy = false → (s.lane l).pairArgsOk = false → ∀ w : Bool,
      exec (if w then .pairRecordWrite src 0x5052 else .pairRecordRead src 0x5052) s = .next ((s.upd l (·.pairEnd 4)).refuse l 0xEC)) ∧
    ((s.lane l).pairBusy = false → (s.lane l).pairArgsOk = true → ∀ w : Bool, exec (if w then .pairRecordWrite src 0x5052 else .pairRecordRead src 0x5052) s =
      .next (s.upd l fun L => { L.setFlag (aPair 0x10) 31 true with pairOp := some (s.pairPlan l w) }).ok) ∧
    (∀ (b : Bool) (q : Word), s.chestProt (s.lane l).pairOff = false → s.pairTarget (s.lane l).pairOff (s.lane l).pairLen = (b, q) → s.pairPlan l true =
      { write := true, result := 1, copyB := b, seq := q, tie := false, data := memRead (s.lane l).mem ((s.lane l).getN (aPair 4)) (s.lane l).pairLen }) ∧
    (∀ (b tie : Bool) (q : Word) (d : Bytes), s.pairNewest (s.lane l).pairOff (s.lane l).pairLen = some (b, q, d, tie) →
      s.pairPlan l false = { write := false, result := 1, copyB := b, seq := q, tie := tie, data := d })) ∧
  (∀ (s u v w : State) (b : Fin 8), s.chest.storing = some b → u = { s with chest := { s.chest.storeBank b with storing := none } } →
    v = u.chest.held.foldl (fun (x : State) e => if x.chestProt e.addr then x else x.chestPut e.addr e.data) { u with chest := { u.chest with held := [] } } →
    w = { v with chest := v.chest.startNext } →
    (w.chest.storing = none → exec .chestBankStoreEnd s = .next (w.raiseUp 0xE8)) ∧ (w.chest.storing ≠ none → exec .chestBankStoreEnd s = .next w)) ∧
  (∀ (s : State) (b : Fin 8) (p : Fin 512) (c : Chest), c = s.chest.bankUpd b (fun k => { k with weak := true, stored := false, deferred := k.deferred || s.chest.deferRefresh }) →
    (s.chest.deferRefresh = true → exec (.chestMarginRead b p true) s = .next (({ s with chest := c } : State).raiseUp 0xEA b)) ∧
    (s.chest.deferRefresh = false →
      exec (.chestMarginRead b p true) s = .next (({ s with chest := c.addPend (BitVec.ofNat 8 (2 ^ b.val)) } : State).raiseUp 0xEA b)) ∧
    (s.chest.banks[b].weak = true → s.chest.banks[b].stored = true →
      exec (.chestMarginRead b p false) s = .next { s with chest := s.chest.bankUpd b fun k => { k with weak := false } })) ∧
  (∀ (s u : State) (l : LaneId) (g : Fin 8) (rest : List (Fin 8)), (s.lane l).commits = g :: rest → s.grpWaits l g = false →
    (s.chestProt (s.lane l).grps[g].off = false →
      u = (if s.chestPort = l then (s.lane l).grps[g].buf.foldl (fun (x : State) p => x.chestPut p.1 [p.2]) s else s) →
      exec (.chestGroupCommitApplied l) s = .next (u.upd l fun L =>
        { (L.grpDrop g).setFld (aGrp g 8) 16 16 (L.fld (aGrp g 8) 16 16 + 1) with commits := rest })) ∧
    (s.chestProt (s.lane l).grps[g].off = true → exec (.chestGroupCommitApplied l) s = .next ((s.raise l 0xEC g).upd l fun L =>
        { (L.grpDrop g).setFld (aGrp g 8) 16 16 (L.fld (aGrp g 8) 16 16 + 0) with commits := rest }))) ∧
  (∀ (s : State) (l : LaneId) (g : Fin 8), s.chest.storing = none → s.dualRun = false ∨ s.chestPort = l → s.grpWaits l g = false) ∧
  (∀ (s : State) (l : LaneId) (e : Fin 16) (a : Word) (bs : Bytes), s.isUp l = true → bs ≠ [] → bs.length ≤ 4 → regionOf a.toNat = .chest →
    regionOf (a.toNat + bs.length - 1) = .chest → exec (.chestWrite l e a bs) s = .next (s.chestWord l e (chestOff a.toNat) bs)) ∧
  (∀ (s : State) (l : LaneId) (e : Fin 16) (a : Word) (bs : Bytes), s.isUp l = true → 4 < bs.length → bs.length ≤ 8 → regionOf a.toNat = .chest →
    regionOf (a.toNat + bs.length - 1) = .chest → exec (.chestWrite l e a bs) s =
      .next ((s.chestWord l e (chestOff a.toNat) (bs.take 4)).chestWord l e (chestOff a.toNat + 4) (bs.drop 4))) ∧
  (∀ (s : State) (l : LaneId) (e : Fin 16) (o : Nat) (bs : Bytes),
    (∀ g, (s.lane l).grpAt o = some g → s.chestWord l e o bs = (s.upd l fun L => { L with grps := L.grps.set g (L.grps[g].store o bs) }).ok) ∧
    ((s.lane l).grpAt o = none → s.chestProt o = true → s.chestWord l e o bs = s.refuse l 0xEC (chestBankOf o)) ∧
    ((s.lane l).grpAt o = none → s.chestProt o = false → s.chest.storing = none → s.portOpen l = true → s.chestWord l e o bs = (s.chestPut o bs).ok) ∧
    ((s.lane l).grpAt o = none → s.chestProt o = false → s.portOpen l = false → s.dualRun = true → s.chest.log.length < 65536 →
      ∃ w : ChestWr, w.lane = l ∧ w.engine = e ∧ w.addr = o ∧ w.data = bs ∧
        s.chestWord l e o bs = { s with chest := { s.chest with log := s.chest.log ++ [w] }, reply := .ok 0 })) ∧
  (∀ (s u : State) (l : LaneId) (op0 op : PairOp), (s.lane l).pairOp = some op0 →
    (op0.write = false ∨ op0.result ≠ 1 ∨ (s.chest.storing = none ∧ (s.dualRun = false ∨ s.chestPort = l))) →
    op = (if op0.write = true ∧ op0.result = 1 ∧ s.chestProt (s.lane l).pairOff = true then { op0 with result := 3 } else op0) → u = (s.pairMove l op).upd l (·.pairShow op) →
    (op.tie = false → exec (.pairUnitDone l) s = .next u) ∧ (op.tie = true → exec (.pairUnitDone l) s = .next (u.raise l 0xEB))) ∧
  (∀ (s : State) (l : LaneId) (op : PairOp), (op.result ≠ 1 → op.result ≠ 3 → s.pairMove l op = s) ∧
    (op.result = 3 → s.pairMove l op = s.raise l 0xEC (chestBankOf (s.lane l).pairOff)) ∧
    (op.result = 1 → op.write = true → s.chestPort = l → s.pairMove l op = s.pairPut (s.lane l).pairOff op.copyB op.seq op.data) ∧
    (op.result = 1 → op.write = true → s.chestPort ≠ l → s.pairMove l op = s)) ∧
  (∀ (s : State) (src : Src) (k : Half) (g : Fin 8), exec (.chestGroupClose src k g) s = .next (s.perLane src fun l x => x.grpCmd k fun y => y.grpClose l g) ∧
    exec (.chestGroupDiscard src k g) s = .next (s.perLane src fun l x => x.grpCmd k fun y => y.grpDiscard l g) ∧
    exec (.chestLock src) s = .next (s.perLane src fun l x => x.chestLockIt l) ∧
    exec (.pairRecordWrite src k) s = .next (s.perLane src fun l x => x.pairCmd l k true) ∧
    exec (.pairRecordRead src k) s = .next (s.perLane src fun l x => x.pairCmd l k false))

/-- At the next multiple of its interval that it has not served, an enabled watch point samples in every running lane; a source never delivered counts as missed, a value below the range falls into bin 0 and one at or above it into bin 15. A period that is due ends, its record queued, and a new one begins. REC_RAISE with KEY 0x5458 of an enabled code counts an occurrence with the requester's latch, another code is refused with 0xEF; REC_RAISE_VAL fills the latch. A held rewrite is queued when RATE ms have passed. The oldest queued write goes to its slot (the other lane's when the active lane's is through), or is dropped where none is to be had; the scan rebuilds the table. CLEAR in STOP frees every slot and zeroes the tallies, elsewhere it is refused; CLR_CNT zeroes the counts. Readings: log 94. -/
def Obligations.RecorderCommands : Prop :=
  (∀ (s u : State) (w : Fin 1024), (s.lane s.act).recAvail = true → (s.lane s.act).watchOn w = true →
    u = s.advTo (s.watchAt w) → exec (.recWatchSample w) s =
      .next (u.each u.ups fun l x => (x.watchSample l w).upd l (·.watchServed w (s.watchAt w)))) ∧
  (∀ (s : State) (w : Nat), msU (100 * u16At ((s.lane s.act).watchE w) 8) ∣ s.watchAt w) ∧
  (∀ (s : State) (l : LaneId) (w : Nat) (x : Watch) (raw : F64), (s.lane l).watch? w = some x → (s.lane l).recRuns = true → (s.lane l).watchOn w = true →
    s.srcVal l (u8At ((s.lane l).watchE w) 3) (u32At ((s.lane l).watchE w) 4) = (raw, none) →
    s.watchSample l w = s.upd l (·.setWatch w { x with missed := x.missed + 1 })) ∧
  (∀ v lo hi : F64, (flt v lo = true → watchBin v lo hi = 0) ∧ (flt v lo = false → flt v hi = false → watchBin v lo hi = 15) ∧
    (flt v lo = false → flt v hi = true → 1 ≤ watchBin v lo hi ∧ watchBin v lo hi ≤ 14)) ∧
  (∀ (s u : State) (w : Fin 1024), (s.osf = false → u = s) →
    (∀ x, s.osf = true → (s.lane s.act).watch? w = some x → u = s.advRun (x.startAt + sU (watchSecs ((s.lane s.act).watchE w)))) →
    (s.osf = true → (s.lane s.act).watch? w = none → u = s) →
    exec (.recPeriodEnd w) s = .next (u.each u.ups fun l x =>
      if (x.lane l).recRuns && x.watchDue l w then (x.watchEnd l w false).upd l (·.setWatch w (x.watchNew false)) else x)) ∧
  (∀ (s : State) (src : Src) (l : LaneId) (c : Fin 1024), s.lanesOf src = [l] →
    ((s.lane l).tallyOn c = true → (s.lane l).tallyEvt c = false → (s.lane l).recRuns = true →
      ∀ r, r = (s.lane l).recOccur s.tbW s.rtcW s.tb.run c ((s.lane l).recVal src.req) →
      (r.2 = false → exec (.recRaise src 0x5458 c) s = .next (s.setLane l r.1).ok) ∧
      (r.2 = true → exec (.recRaise src 0x5458 c) s = .next ((s.setLane l r.1).raise l 0xED).ok)) ∧
    ((s.lane l).tallyOn c = false ∨ (s.lane l).tallyEvt c = true → exec (.recRaise src 0x5458 c) s = .next (s.refuse l 0xEF c)) ∧
    (s.mode.mode ≠ .stop → exec (.recClear src 0x5243) s = .next (s.refuse l 0xEF)) ∧
    (s.mode.mode = .stop → (∀ a, s.chestProt a = false) → exec (.recClear src 0x5243) s =
      .next (((s.recTable l).foldl (fun (x : State) p =>
        if x.portOpen l then x.chestPut ((s.lane l).recRegion + 128 * p.1) (zeros 4) else x) s).upd l fun L =>
        { L with recU := { L.recU with tallies := [], slots := L.recU.slots.map fun _ => [] } }).ok)) ∧
  (∀ (s : State) (src : Src), s.lanesOf src ≠ [] →
    (∀ d : Word, ∃ t, exec (.recRaiseVal src d) s = .next t ∧ t.reply = .ok 0 ∧ s.inLanes src (fun _ L =>
      { L with recU := { L.recU with latches := (L.recU.latches.filter fun p => p.1 != src.req) ++ [(src.req, d)] } }) t) ∧
    (∃ t, exec (.recClrCnt src 0x5243) s = .next t ∧ t.reply = .ok 0 ∧ s.inLanes src (fun _ L => L.put (aRec 8) 0) t)) ∧
  (∀ (s u : State) (c : Fin 1024) (d : Nat), (s.ups.filterMap fun l => (s.lane l).tallyDueAt c).min? = some d → u = s.advRun d →
    exec (.recTallyRewriteDue c) s = .next (u.each u.ups fun l x => x.recRewrite l c)) ∧
  (∀ (s : State) (l : LaneId) (c t : Nat), (s.lane l).tallyDueAt c = some t → t ≤ s.tb.run →
    s.recRewrite l c = (s.upd l fun L => L.setTally c { L.tally c with due := false, lastWrite := some s.tb.run }).recPush l (.tally c)) ∧
  (∀ (s u : State) (l : LaneId) (j : RecJob) (rest : List RecJob), (s.lane l).recRuns = true → s.recBehind l = false → (s.lane l).recU.queue = j :: rest →
    u = s.upd l (fun L => { L with recU := { L.recU with queue := rest } }) →
    (s.recSlotFor l j = none → exec (.recRecordWrite l) s = .next (u.recLost l)) ∧
    (∀ i, s.recSlotFor l j = some i → s.chest.storing = none → exec (.recRecordWrite l) s = .next (u.recPut l i j))) ∧
  (∀ (s : State) (l : LaneId), s.dualRun = false ∨ s.chestPort = l → s.recBehind l = false) ∧
  (∀ (s : State) (l : LaneId) (i kind sev id : Nat) (body : Bytes) (a : Nat), a = (s.lane l).recRegion + 128 * i → s.chestProt a = false → s.portOpen l = true →
    s.recStore l i kind sev id body = (s.chestPut a (leBytes 4 (recSeqNext (u32At (memRead s.chest.array a 4) 0)) ++
      recBytes kind sev id ((s.lane l).get (aRec 0xC)) s.rtcW body)).upd l (·.recNote s.rtcW i kind sev id)) ∧
  (∀ q : Nat, q < 2 ^ 32 → recSeqNext q % 2 = 0 ∧ recSeqNext q ≠ 0 ∧ recSeqNext q < 2 ^ 32) ∧
  (∀ (s : State) (l : LaneId), (s.lane l).flag (aRec 0) 2 = true → exec (.recScanEnd l) s = .next (s.recScan l))

/-- WRITE, ERASE and DERIVE with KEY 0x4B59 of a requester that may give them, while no command runs: what R459 and R465 refuse shows its code, and the rest is held with its operands. At its end a command shows 1, wipes the staged words, and either puts its value out or applies it to the slot, forwarding it where only one lane received it; the other lane applies the oldest forwarded one. A scrub whose tag fails makes a VALID slot BAD, in RUN in both lanes. SEED_SET in CONFIGURE with the latch set takes the seed, empties every slot and starts KeyGen; elsewhere it is refused, and KeyGen's end gives the identity with 0xF6. PROGRAM and REVOKE begin a burn, which its end carries out with 0xF7. ATTEST starts a statement, or ends 2 without an identity; its end stores it, signed, with 0xF4, or ends 3 past 32 attempts. Readings: log 95; algorithms are opaque (log 1). -/
def Obligations.KeyCommands : Prop :=
  (∀ (s : State) (src : Src) (l : LaneId) (k : Fin 32), s.lanesOf src = [l] → s.keyWho l src.req = 0 → (s.lane l).keys.cmd = none →
    (s.slotRefusal l k (s.lane l).keyAttr = 0 →
      exec (.keyWrite src 0x4B59 k) s = .next (s.keyAccept l src.req 1 k (s.lane l).keyStaged (s.lane l).keyAttr)) ∧
    (s.slotRefusal l k (s.lane l).keyAttr ≠ 0 →
      exec (.keyWrite src 0x4B59 k) s = .next ((s.keyRefuse l (s.slotRefusal l k (s.lane l).keyAttr)).upd l (·.keyWipe))) ∧
    ((s.lane l).keys.slots[k].attr.getLsbD 9 = false ∨ s.provLatch = true → exec (.keyErase src 0x4B59 k) s = .next (s.keyAccept l src.req 2 k 0 0)) ∧
    ((s.lane l).keys.slots[k].attr.getLsbD 9 = true → s.provLatch = false → exec (.keyErase src 0x4B59 k) s = .next (s.keyRefuse l 3)) ∧
    (s.deriveRefusal l k ≠ 0 → exec (.keyDerive src 0x4B59 k) s = .next (s.keyRefuse l (s.deriveRefusal l k))) ∧
    (s.deriveRefusal l k = 0 → exec (.keyDerive src 0x4B59 k) s =
      .next (s.keyAccept l src.req (if bitOf ((s.lane l).get (aKey 0x48)) 15 then 3 else 1) k (s.lane l).derived (s.lane l).keyAttr))) ∧
  (∀ (s : State) (l : LaneId) (k : Fin 32) (ks : KeySlot), ks = (s.lane l).keys.slots.getD ((s.lane l).fld (aKey 0x48) 0 5) KeySlot.init →
    (ks.state ≠ 1 → s.deriveRefusal l k = 5) ∧ (ks.state = 1 → ks.attr.getLsbD 3 = false → s.deriveRefusal l k = 2) ∧
    (ks.state = 1 → ks.attr.getLsbD 3 = true → ks.attr.getLsbD 8 = false → (s.lane l).fld (aKey 0x48) 16 6 < (s.lane l).keyLabels →
      (s.lane l).fld (aKey 0x48) 24 8 = 0 → (bitOf ((s.lane l).get (aKey 0x48)) 15 = true → s.deriveRefusal l k = 0) ∧
        (bitOf ((s.lane l).get (aKey 0x48)) 15 = false → s.deriveRefusal l k = s.slotRefusal l k (s.lane l).keyAttr))) ∧
  (∀ (s : State) (l : LaneId) (k : Fin 32) (a : Half), s.slotRefusal l k a = 0 ↔ s.keeper.rootSeed ≠ none ∧
    ((s.lane l).keys.slots[k].attr.getLsbD 9 = false ∨ s.provLatch = true) ∧ attrLegal a = true) ∧
  (∀ (s u v : State) (l : LaneId) (c : KeyCmd), (s.lane l).keys.cmd = some c →
    u = s.upd l (fun L => ((L.setFlag (aKey 0x50) 31 false).setFld (aKey 0x50) 0 4 1).keyWipe.keyUpd fun q => { q with cmd := none }) → v = u.keyApply l c →
    (c.op = 3 → exec (.keyCmdDone l) s = .next (u.upd l fun L => L.putWords (aKey 0x60) ((List.range 8).map fun i => c.value.extractLsb' (32 * i) 32))) ∧
    (c.op ≠ 3 → c.effective = false → exec (.keyCmdDone l) s = .next u) ∧
    (c.op ≠ 3 → c.effective = true → c.forward = true → v.isUp (other l) = true →
      exec (.keyCmdDone l) s = .next (v.upd (other l) fun L => L.keyUpd fun q => { q with fwd := q.fwd ++ [c] })) ∧
    (c.op ≠ 3 → c.effective = true → c.forward = false → exec (.keyCmdDone l) s = .next v)) ∧
  (∀ (s u : State) (l : LaneId) (c : KeyCmd), c.op = 2 ∨ c.op = 1 → u = s.upd l (fun L => (L.keyUpd fun q => { q with
      slots := q.slots.set c.slot (if c.op = 2 then KeySlot.init else { value := c.value, attr := c.attr, tag := s.slotTag c.slot c.value c.attr, state := 1 }) }).putN (aKey 4) (L.getN (aKey 4) + 1)) →
    s.keyApply l c = ((u.raise l 0xF1 c.slot).keyRefs l).hcEndSlot l c.slot) ∧
  (∀ (s : State) (l : LaneId) (c : KeyCmd) (rest : List KeyCmd), (s.lane l).keys.fwd = c :: rest →
    exec (.keyForwardedOp l) s = .next ((s.upd l fun L => L.keyUpd fun q => { q with fwd := rest }).keyApply l c)) ∧
  (∀ (s : State) (l : LaneId) (k : Fin 32), s.isUp l = true → (s.lane l).keys.slots[k].state = 1 →
    exec (.keyScrub l k true) s = .next s ∧
    (s.mode.mode ≠ .run → exec (.keyScrub l k false) s = .next (s.keyBad l k)) ∧
    (s.mode.mode = .run → exec (.keyScrub l k false) s = .next ((s.keyBad l k).keyBad (other l) k))) ∧
  (∀ (s : State) (src : Src) (l : LaneId), s.lanesOf src = [l] → s.keyWho l src.req = 0 →
    (src.req ≠ .uart → (s.lane l).img ≠ none → s.mode.mode ≠ .reset → s.mode.mode ≠ .retain → (s.lane l).keys.attBusy = false → (s.lane l).keys.keygen = false →
      (src.req ≠ .hc ∨ l = s.act) → exec (.attest src 0x4154) s = .next (s.attStart l (s.lane l).attNonce (src.req == .hc))) ∧
    ((s.lane l).img = none ∨ (s.lane l).keys.attBusy = true ∨ (s.lane l).keys.keygen = true → exec (.attest src 0x4154) s = .next (s.attRefuse l 5))) ∧
  (∀ (s : State) (l : LaneId) (n : Big) (hc : Bool), s.keeper.rootSeed = none → s.attStart l n hc =
    ((s.upd l fun L => (L.put (aAtt 4) 0).keyUpd fun q => { q with att := [] }).upd l (·.setFld (aAtt 0) 0 4 2)).ok) ∧
  (∀ (s : State) (l : LaneId) (n : Nat), (s.lane l).keys.attBusy = true → n = Config.mldsaAttempts (s.keeper.rootSeed.getD 0) (s.attMessage l) →
    (32 < n → exec (.attestDone l) s = .next (s.upd l fun L => ((L.setFlag (aAtt 0) 31 false).setFld (aAtt 0) 0 4 3).keyUpd fun q => { q with attBusy := false })) ∧
    (n ≤ 32 → ∀ out, out = s.attMessage l ++ slice (Config.mldsaSign (s.keeper.rootSeed.getD 0) "EMKOLE-ATTEST" (s.attMessage l)) 0 3309 →
      exec (.attestDone l) s = .next ((s.upd l fun L =>
        (((((L.setFlag (aAtt 0) 31 false).setFld (aAtt 0) 0 4 1).keyUpd fun q => { q with attBusy := false }).setFld (aAtt 0) 16 8 n).putN (aAtt 4) out.length).keyUpd fun q =>
          { q with att := out }).raise l 0xF4))) ∧
  (∀ (s u v : State) (src : Src) (l : LaneId), s.lanesOf src ≠ [] → l = s.readLane src → s.keyWho l src.req = 0 →
    (s.mode.mode = .configure → s.provLatch = true → (s.lane l).keys.attBusy = false → (s.lane l).keys.keygen = false →
      u = s.keep (fun k => ({ k with rootSeed := some (s.lane l).seedStaged } : Keeper).setFld 0x010110 16 16 (satInc 16 (k.fld 0x010110 16 16))) →
      v = u.updBoth (fun L => (L.putN (aKey 4) (L.getN (aKey 4) + 1)).seedWipe.keyUpd fun q => { q with slots := Vector.replicate 32 KeySlot.init }) →
      exec (.seedSet src 0x4154) s = .next (v.each v.ups fun l x => ((x.upd l fun L => ((L.setFlag (aAtt 0) 31 true).setFld (aAtt 0) 0 4 0).keyUpd fun q =>
        { q with keygen := true, pub := [] }).keyRefs l).hcEnd l).ok) ∧
    (s.mode.mode ≠ .configure ∨ s.provLatch = false →
      exec (.seedSet src 0x4154) s = .next (s.each (s.lanesOf src) fun l x => (x.attRefuse l 5).upd l (·.seedWipe)))) ∧
  (∀ (s : State) (l : LaneId), (s.lane l).keys.keygen = true → exec (.keygenDone l) s =
    .next (((s.identity l).upd l fun L => (L.setFlag (aAtt 0) 31 false).setFld (aAtt 0) 0 4 1).raise l 0xF6)) ∧
  (∀ (s : State) (l : LaneId) (seed : Big), s.keeper.rootSeed = some seed →
    s.identity l = s.upd l fun L => (L.setFlag (aAtt 0) 30 true).keyUpd fun q => { q with keygen := false, pub := Config.mldsaPublic seed }) ∧
  (∀ (s : State) (src : Src) (k : Fin 4), s.lanesOf src ≠ [] → s.dieOpen src = true → s.keeper.burn = none →
    (s.mode.mode = .configure → s.provLatch = true → s.keeper.anchors[k].programmed = false →
      exec (.anchorProgram src 0x4F54 k) s = .next (s.keep fun q => ({ q with burn := some (false, k) } : Keeper).setBits 0x01010C 31 true).ok) ∧
    (s.mode.mode = .configure ∨ s.mode.mode = .stop → s.keeper.anchors[k].programmed = true → s.keeper.anchors[k].revoked = false → s.otherAnchors k = true →
      exec (.anchorRevoke src 0x4F54 k) s = .next (s.keep fun q => ({ q with burn := some (true, k) } : Keeper).setBits 0x01010C 31 true).ok) ∧
    (s.mode.mode ≠ .configure ∨ s.provLatch = false ∨ s.keeper.anchors[k].programmed = true →
      exec (.anchorProgram src 0x4F54 k) s = .next ((s.keep (·.setFld 0x01010C 0 2 2)).indFail src 2)) ∧
    (s.otherAnchors k = false → exec (.anchorRevoke src 0x4F54 k) s = .next ((s.keep (·.setFld 0x01010C 0 2 2)).indFail src 2))) ∧
  (∀ (s : State) (k : Fin 4) (r : Bool), s.keeper.burn = some (r, k) → exec .anchorBurnDone s = .next ((s.keep fun q =>
    (({ q with anchors := q.anchors.set k (if r then { q.anchors[k] with revoked := true } else { q.anchors[k] with digest := q.staged, programmed := true }), burn := none } : Keeper).put
      0x01010C 1).tvClear 0x010104).raiseUp 0xF7 k)) ∧
  (∀ (s : State) (src : Src) (key : Half) (k : Fin 32), exec (.keyWrite src key k) s = .next (s.perLane src fun l x => x.keyWrite l src.req key k) ∧
    exec (.keyErase src key k) s = .next (s.perLane src fun l x => x.keyErase l src.req key k) ∧
    exec (.keyDerive src key k) s = .next (s.perLane src fun l x => x.keyDerive l src.req key k) ∧
    exec (.attest src key) s = .next (s.perLane src fun l x => x.attest l src.req key none))

/-- A HELLO is answered BUSY with 0xDA where R477 refuses it (a slot being written is unusable, R459), and otherwise ends the old session, draws N_D and answers CHALLENGE. An OPEN of that session within 2 s whose tag verifies opens the session in every running lane, answers OPEN_ACK and raises 0xD8; a CHALLENGE is forgotten after 2 s. A REQUEST of the session whose tag verifies counts as contact and is carried out where its SEQ is the next, and its answer waits for the standby while both lanes run; any other SEQ is answered again or counted; a failed tag is counted in every running lane. The standby's receipt sends the first waiting frame. An EVENT frame of up to 64 records is built when none is outstanding, and is sent again 200 ms after the last sending. With the latch set, a sound UART frame is carried out and answered in the same framing; with it clear, input is ignored. Readings: log 96 to 98; algorithms are opaque (log 1). -/
def Obligations.HostChannelCommands : Prop :=
  (∀ (s u : State) (d : HcDatagram) (k : KeySlot), hcFits d 1 = true → d.body.length = 32 → s.hcListens = true →
    k = (s.lane s.act).keys.slots[(Fin.ofNat 32 (fieldOf ((s.lane s.act).get (aHch 0)) 8 5))] →
    (s.mode.mode = .reset ∨ s.ups = [] ∨ k.state ≠ 1 ∨ k.attr.getLsbD 0 = false ∨ bitOf ((s.lane s.act).get (aHch 0)) 0 = false ∨
        (∃ c, (s.lane s.act).keys.cmd = some c ∧ c.op ≠ 3 ∧ c.slot.val = fieldOf ((s.lane s.act).get (aHch 0)) 8 5 ∧ c.effective = true) →
      exec (.hcHello d) s = .next ((s.hcSend d.ip d.port (hcHeader 8 0 0 0 0)).raiseUp 0xDA)) ∧
    (s.mode.mode ≠ .reset → s.ups ≠ [] → k.state = 1 → k.attr.getLsbD 0 = true → bitOf ((s.lane s.act).get (aHch 0)) 0 = true →
      (∀ c, (s.lane s.act).keys.cmd = some c → c.op = 3 ∨ c.slot.val ≠ fieldOf ((s.lane s.act).get (aHch 0)) 8 5 ∨ c.effective = false) →
      (∀ h, (s.lane s.act).hc.sess = some h → h.lastAt + sU (fieldOf ((s.lane s.act).get (aHch 0)) 16 12) ≤ s.tb.run) →
      u = { s.each s.ups (fun l x => x.hcEnd l) with hello := s.hello + 1 } →
      exec (.hcHello d) s = .next ((u.hcBoth fun q => { q with chal := (some {
        session := Config.sessionNumber s.hello, ip := d.ip, port := d.port, nH := d.body, nD := slice (Config.randomNonce s.hello) 0 32,
        slot := Fin.ofNat 32 (fieldOf ((s.lane s.act).get (aHch 0)) 8 5), at_ := s.tb.run }) }).hcSend d.ip d.port
        (hcHeader 2 (Config.sessionNumber s.hello) 32 0 0 ++ slice (Config.randomNonce s.hello) 0 32)))) ∧
  (∀ (s : State) (d : HcDatagram) (c : HcChal), (s.lane s.act).hc.chal = some c →
    exec .hcChallengeTimeout s = .next ((s.advRun (c.at_ + sU 2)).hcBoth fun q => { q with chal := none }) ∧
    (hcFits d 3 = true → d.session = c.session → s.tb.run ≤ c.at_ + sU 2 → s.mode.mode ≠ .retain → s.mode.mode ≠ .reset →
      exec (.hcOpen d) s = .next (s.hcOpened d c ((s.lane s.act).hcPlain c.slot c.nH c.nD d)))) ∧
  (∀ (s : State) (d : HcDatagram) (c : HcChal), s.hcOpened d c none = s.each s.ups (fun l x => x.hcAuthFail l) ∧
    ∀ p, d.seq = 0 → d.body = [] → s.hcOpened d c (some p) = s.hcBegun d c) ∧
  (∀ (s u : State) (d : HcDatagram) (c : HcChal) (h : HcSess), h = { ip := d.ip, port := d.port, nH := c.nH, nD := c.nD, slot := c.slot, lastAt := s.tb.run } →
    u = s.each s.ups (fun l x => x.upd l fun L => { (((L.setFld (aHch 4) 16 16 c.session.toNat).put (aHch 8) 0).putWords (aHch 0x10) (hcPeer d.ip d.port)) with
      hc := { L.hc with chal := none, sess := some h, cache := none, confirm := [], evFrame := none, evSeq := 1, closing := false } }) →
    s.hcBegun d c = (u.hcReply u.act h 4 1 0 0 []).raiseUp 0xD8) ∧
  (∀ (s u : State) (d : HcDatagram) (h : HcSess), (s.lane s.act).hc.sess = some h → hcFits d 5 = true → d.ip = h.ip → d.port = h.port →
    d.session.toNat = (s.lane s.act).fld (aHch 4) 16 16 → s.mode.mode ≠ .retain → s.mode.mode ≠ .reset →
    exec (.hcRequest d) s = .next (@State.hcServe regIO s d h ((s.lane s.act).hcPlain h.slot h.nH h.nD d)) ∧
    (u = s.hcBoth (fun q => { q with sess := q.sess.map fun h => { h with lastAt := s.tb.run } }) → ∀ body,
      (d.seq.toNat = (s.lane s.act).getN (aHch 8) + 1 → @State.hcServe regIO s d h (some body) = @State.hcExecute regIO u s.act d.seq body) ∧
      (d.seq.toNat ≠ (s.lane s.act).getN (aHch 8) + 1 → @State.hcServe regIO s d h (some body) = u.hcRepeat s.act h d.seq)) ∧
    @State.hcServe regIO s d h none = s.each s.ups fun l x => x.hcAuthFail l) ∧
  (∀ (s : State) (isEv : Bool) (seq : Word) (text : Bytes) (rest : List (Bool × Word × Bytes)), (s.lane s.act).hc.confirm = (isEv, seq, text) :: rest →
    exec .hcResponseConfirm s = .next (s.hcTaken isEv seq text).hcFlush) ∧
  (∀ s u : State, (s.lane s.act).hc.sess ≠ none → (s.lane s.act).hc.evFrame = none → (s.lane s.act).evt.hcq ≠ [] → (s.lane s.act).hc.closing = false →
    u = s.upd s.act (fun L => { L with
      evt := { L.evt with hcq := L.evt.hcq.drop 64 },
      hc := { L.hc with
        evFrame := some (L.hc.evSeq, BitVec.ofNat 32 L.hc.dropped, (((s.lane s.act).evt.hcq.take 64).map EvtRec.bytes).flatten)
        evSeq := L.hc.evSeq + 1, dropped := 0, evSentAt := s.tb.run, confirm := L.hc.confirm ++ [(true, L.hc.evSeq, [])] } }) →
    (u.bothUp = true → exec .hcEventFrameSend s = .next u) ∧ (u.bothUp = false → exec .hcEventFrameSend s = .next u.hcFlush)) ∧
  (∀ (s u : State) (h : HcSess) (f : Word × Word × Bytes), (s.lane s.act).hc.sess = some h → (s.lane s.act).hc.evFrame = some f →
    (∀ c ∈ (s.lane s.act).hc.confirm, c.1 = false) → u = s.advRun ((s.lane s.act).hc.evSentAt + msU 200) →
    exec .hcEventResend s = .next ((u.hcBoth fun q => { q with evSentAt := u.tb.run }).hcReply s.act h 7 2 f.1 f.2.1 f.2.2)) ∧
  (∀ (s : State) (f : Bytes) (n : Nat), n = u16At f 1 → u8At f 0 = 0x7E → 1 ≤ n → n ≤ 1420 → f.length = n + 5 →
    crc16 ((f.drop 1).take (n + 2)) = u16At f (n + 3) → s.isUp s.act = true →
    (s.provLatch = true → ∀ r, r = @State.hcBody regIO s { lane := s.act, req := .uart } ((f.drop 3).take n) → exec (.uartFrame f) s = .next { r.1 with
      uartOut := r.1.uartOut ++ [[0x7E] ++ (leBytes 2 r.2.1.length ++ r.2.1) ++ leBytes 2 (crc16 (leBytes 2 r.2.1.length ++ r.2.1))] }) ∧
    (s.provLatch = false → exec (.uartFrame f) s = .next s))

/-- A record that enters an event queue goes behind every record of its own source, and the other records keep their order. Where the queue is in order of priority and its source has had one priority, the queue stays so, and the record is the last of its priority: the head is always the record of highest PRIO that was raised first. An engine's queue with fewer than 64 records takes it. A full one drops it, counts in DROP, and reports the overflow, unless it did while the queue has stayed full. The HC stream takes a record in the same order up to 1,024 and counts what it drops. -/
def Obligations.EventQueueOrder : Prop :=
  (∀ (r : EvtRec) (q : List EvtRec),
    (evtInsert r q).filter (fun x => x.id == r.id) = q.filter (fun x => x.id == r.id) ++ [r] ∧
    (evtInsert r q).filter (fun x => x.id != r.id) = q.filter (fun x => x.id != r.id)) ∧
  (∀ (r : EvtRec) (q : List EvtRec), q.Pairwise (fun x y => y.prio ≤ x.prio) → (∀ x ∈ q, x.id = r.id → x.prio = r.prio) →
    (evtInsert r q).Pairwise (fun x y => y.prio ≤ x.prio) ∧
    ∀ p, (evtInsert r q).filter (fun x => x.prio == p) = q.filter (fun x => x.prio == p) ++ (if r.prio = p then [r] else [])) ∧
  (∀ (L : Lane) (r : EvtRec) (e : Fin 16),
    (L.evt.q[e].length < 64 → L.evtEngine r e = ({ L with evt := { L.evt with q := L.evt.q.set e (evtInsert r L.evt.q[e]) } }, [])) ∧
    (64 ≤ L.evt.q[e].length → L.evt.ovf.getLsbD e = true → L.evtEngine r e = (L.incFld (aEvtQ e + 0x10) 16 16, [])) ∧
    (64 ≤ L.evt.q[e].length → L.evt.ovf.getLsbD e = false → (L.evtEngine r e).2 = [e.val] ∧ (L.evtEngine r e).1.evt.ovf.getLsbD e = true)) ∧
  (∀ (L : Lane) (r : EvtRec),
    (L.evt.hcq.length < 1024 → L.evtHc r = ({ L with evt := { L.evt with hcq := evtInsert r L.evt.hcq } }, false)) ∧
    (1024 ≤ L.evt.hcq.length → L.evtHc r = ({ L with hc := { L.hc with dropped := satInc 32 L.hc.dropped } }, true)))

/-- With d the signed 32-bit difference SEQ_B - SEQ_A, a READ of a sound pair record selects B where d > 0, A where d < 0 or d = 0, with a tie where d = 0 and the data differ, and the valid copy where only one is valid. Its end copies the selected data to CHS_PAIR_BUF and shows COPY and SEQ; a tie sets PAIR_TIE and raises 0xEB. When neither copy is valid the result is NO_VALID and memory stands. -/
def Obligations.PairRecordNewest : Prop :=
  (∀ (s : State) (l : LaneId) (x y : Option (Word × Bytes)), x = s.pairCopy (s.lane l).pairOff (s.lane l).pairLen →
    y = s.pairCopy ((s.lane l).pairOff + pairStep (s.lane l).pairLen) (s.lane l).pairLen →
    (x = none → y = none → (s.pairPlan l false).result = 2) ∧
    (∀ q d, x = some (q, d) → y = none → s.pairPlan l false = { write := false, result := 1, copyB := false, seq := q, tie := false, data := d }) ∧
    (∀ q d, x = none → y = some (q, d) → s.pairPlan l false = { write := false, result := 1, copyB := true, seq := q, tie := false, data := d }) ∧
    (∀ qa da qb db, x = some (qa, da) → y = some (qb, db) →
      (0 < (qb - qa).toInt → s.pairPlan l false = { write := false, result := 1, copyB := true, seq := qb, tie := false, data := db }) ∧
      ((qb - qa).toInt < 0 → s.pairPlan l false = { write := false, result := 1, copyB := false, seq := qa, tie := false, data := da }) ∧
      ((qb - qa).toInt = 0 → s.pairPlan l false = { write := false, result := 1, copyB := false, seq := qa, tie := da != db, data := da }))) ∧
  (∀ (s : State) (src : Src) (l : LaneId), s.lanesOf src = [l] → (s.lane l).pairBusy = false → (s.lane l).pairArgsOk = true →
    exec (.pairRecordRead src 0x5052) s = .next (s.upd l fun L => { L.setFlag (aPair 0x10) 31 true with pairOp := some (s.pairPlan l false) }).ok) ∧
  (∀ (s u : State) (l : LaneId) (op : PairOp), (s.lane l).pairOp = some op → op.write = false → u = (s.pairMove l op).upd l (·.pairShow op) →
    (op.tie = false → exec (.pairUnitDone l) s = .next u) ∧ (op.tie = true → exec (.pairUnitDone l) s = .next (u.raise l 0xEB))) ∧
  (∀ (s : State) (l : LaneId) (op : PairOp), (op.result = 2 → s.pairMove l op = s) ∧
    (op.result = 1 → op.write = false → s.pairMove l op = s.upd l (·.wrMem 0 ((s.lane l).getN (aPair 4)) op.data))) ∧
  (∀ (L : Lane) (op : PairOp), rfWf L.rf = true → (L.pairShow op).mem = L.mem ∧
    (op.result = 2 → (L.pairShow op).fld (aPair 0x10) 12 4 = 2) ∧
    (op.result = 1 → (L.pairShow op).fld (aPair 0x10) 12 4 = 1 ∧ (L.pairShow op).flag (aPair 0x10) 0 = op.copyB ∧ (L.pairShow op).get (aPair 0x14) = op.seq ∧
      (op.tie = true → (L.pairShow op).flag (aPair 0x10) 8 = true)))
end

