-- ==== Sys2Proof/Laws/Answers.lean ====
section
/-! SUPPORT. Laws/Answers.lean: every meaning answers a next state, whatever its operands and the state. -/
namespace Sys2Proof.Machine

/-! A choice between two answers answers; settling an answer answers. -/
theorem ans_ite {c : Prop} [Decidable c] {a b : Out} (ha : ∃ t, a = Host.Outcome.next t) (hb : ∃ t, b = Host.Outcome.next t) :
    ∃ t, (if c then a else b) = Host.Outcome.next t := by
  by_cases h : c
  · rw [if_pos h]; exact ha
  · rw [if_neg h]; exact hb
theorem settle_ans {io : RegIO} {o : Out} (h : ∃ t, o = Host.Outcome.next t) : ∃ t, @Out.settle io o = Host.Outcome.next t := by
  obtain ⟨t, rfl⟩ := h
  exact ⟨_, rfl⟩

/-! One lemma per command, in the table's order. -/
theorem execPowerGood_answers (s : State) : ∀ x0 x1 x2 , ∃ t, execPowerGood x0 x1 x2 s = Host.Outcome.next t := by
  intros
  unfold execPowerGood
  repeat' first | with_reducible exact ⟨_, rfl⟩ | with_reducible refine ans_ite ?_ ?_ | dsimp only | split
theorem execLaneReadyTimeout_answers (s : State) : ∀ x0 , ∃ t, execLaneReadyTimeout x0 s = Host.Outcome.next t := by
  intros
  unfold execLaneReadyTimeout
  repeat' first | with_reducible exact ⟨_, rfl⟩ | with_reducible refine ans_ite ?_ ?_ | dsimp only | split
theorem execBootEnd_answers (s : State) : ∃ t, execBootEnd s = Host.Outcome.next t := by
  unfold execBootEnd
  unfold rowBootEnd
  repeat' first | with_reducible exact ⟨_, rfl⟩ | with_reducible refine ans_ite ?_ ?_ | dsimp only | split
theorem execBootWatchdogExpiry_answers (s : State) : ∀ x0 , ∃ t, execBootWatchdogExpiry x0 s = Host.Outcome.next t := by
  intros
  unfold execBootWatchdogExpiry
  repeat' first | with_reducible exact ⟨_, rfl⟩ | with_reducible refine ans_ite ?_ ?_ | dsimp only | split
theorem execResetPin_answers (s : State) : ∀ x0 x1 , ∃ t, execResetPin x0 x1 s = Host.Outcome.next t := by
  intros
  unfold execResetPin
  repeat' first | with_reducible exact ⟨_, rfl⟩ | with_reducible refine ans_ite ?_ ?_ | dsimp only | split
theorem execResetCmdFull_answers (s : State) : ∀ x0 x1 x2 , ∃ t, execResetCmdFull x0 x1 x2 s = Host.Outcome.next t := by
  intros
  unfold execResetCmdFull
  repeat' first | with_reducible exact ⟨_, rfl⟩ | with_reducible refine ans_ite ?_ ?_ | dsimp only | split
theorem execResetCmdLane_answers (s : State) : ∀ x0 x1 x2 x3 , ∃ t, execResetCmdLane x0 x1 x2 x3 s = Host.Outcome.next t := by
  intros
  unfold execResetCmdLane
  unfold rowResetCmdLane
  repeat' first | with_reducible exact ⟨_, rfl⟩ | with_reducible refine ans_ite ?_ ?_ | dsimp only | split
theorem execBootCfgWrite_answers (s : State) : ∀ x0 x1 , ∃ t, execBootCfgWrite x0 x1 s = Host.Outcome.next t := by
  intros
  unfold execBootCfgWrite
  repeat' first | with_reducible exact ⟨_, rfl⟩ | with_reducible refine ans_ite ?_ ?_ | dsimp only | split
theorem execModeCmdStop_answers (s : State) : ∀ x0 x1 , ∃ t, execModeCmdStop x0 x1 s = Host.Outcome.next t := by
  intros
  unfold execModeCmdStop
  repeat' first | with_reducible exact ⟨_, rfl⟩ | with_reducible refine ans_ite ?_ ?_ | dsimp only | split
theorem execModeCmdConfigure_answers (s : State) : ∀ x0 x1 , ∃ t, execModeCmdConfigure x0 x1 s = Host.Outcome.next t := by
  intros
  unfold execModeCmdConfigure
  repeat' first | with_reducible exact ⟨_, rfl⟩ | with_reducible refine ans_ite ?_ ?_ | dsimp only | split
theorem execModeCmdRun_answers (s : State) : ∀ x0 x1 , ∃ t, execModeCmdRun x0 x1 s = Host.Outcome.next t := by
  intros
  unfold execModeCmdRun
  repeat' first | with_reducible exact ⟨_, rfl⟩ | with_reducible refine ans_ite ?_ ?_ | dsimp only | split
theorem execModeCmdHold_answers (s : State) : ∀ x0 x1 x2 , ∃ t, execModeCmdHold x0 x1 x2 s = Host.Outcome.next t := by
  intros
  unfold execModeCmdHold
  repeat' first | with_reducible exact ⟨_, rfl⟩ | with_reducible refine ans_ite ?_ ?_ | dsimp only | split
theorem execModeCmdSafe_answers (s : State) : ∀ x0 x1 , ∃ t, execModeCmdSafe x0 x1 s = Host.Outcome.next t := by
  intros
  unfold execModeCmdSafe
  repeat' first | with_reducible exact ⟨_, rfl⟩ | with_reducible refine ans_ite ?_ ?_ | dsimp only | split
theorem execModeCmdNotCommandable_answers (s : State) : ∀ x0 x1 x2 , ∃ t, execModeCmdNotCommandable x0 x1 x2 s = Host.Outcome.next t := by
  intros
  unfold execModeCmdNotCommandable
  repeat' first | with_reducible exact ⟨_, rfl⟩ | with_reducible refine ans_ite ?_ ?_ | dsimp only | split
theorem execModeChangeTakesEffect_answers (s : State) : ∃ t, execModeChangeTakesEffect s = Host.Outcome.next t := by
  unfold execModeChangeTakesEffect
  unfold rowModeChangeTakesEffect
  repeat' first | with_reducible exact ⟨_, rfl⟩ | with_reducible refine ans_ite ?_ ?_ | dsimp only | split
theorem execRunStart_answers (s : State) : ∃ t, execRunStart s = Host.Outcome.next t := by
  unfold execRunStart
  unfold rowRunStart
  repeat' first | with_reducible exact ⟨_, rfl⟩ | with_reducible refine ans_ite ?_ ?_ | dsimp only | split
theorem execPowerFail_answers (s : State) : ∃ t, execPowerFail s = Host.Outcome.next t := by
  unfold execPowerFail
  unfold rowPowerFail
  repeat' first | with_reducible exact ⟨_, rfl⟩ | with_reducible refine ans_ite ?_ ?_ | dsimp only | split
theorem execChestPowerFailStoreEnd_answers (s : State) : ∃ t, execChestPowerFailStoreEnd s = Host.Outcome.next t := by
  unfold execChestPowerFailStoreEnd
  repeat' first | with_reducible exact ⟨_, rfl⟩ | with_reducible refine ans_ite ?_ ?_ | dsimp only | split
theorem execRetainEnd_answers (s : State) : ∀ x0 , ∃ t, execRetainEnd x0 s = Host.Outcome.next t := by
  intros
  unfold execRetainEnd
  repeat' first | with_reducible exact ⟨_, rfl⟩ | with_reducible refine ans_ite ?_ ?_ | dsimp only | split
theorem execFeedLost_answers (s : State) : ∀ x0 , ∃ t, execFeedLost x0 s = Host.Outcome.next t := by
  intros
  unfold execFeedLost
  repeat' first | with_reducible exact ⟨_, rfl⟩ | with_reducible refine ans_ite ?_ ?_ | dsimp only | split
theorem execFeedRestored_answers (s : State) : ∀ x0 , ∃ t, execFeedRestored x0 s = Host.Outcome.next t := by
  intros
  unfold execFeedRestored
  repeat' first | with_reducible exact ⟨_, rfl⟩ | with_reducible refine ans_ite ?_ ?_ | dsimp only | split
theorem execHoldupCharged_answers (s : State) : ∃ t, execHoldupCharged s = Host.Outcome.next t := by
  unfold execHoldupCharged
  repeat' first | with_reducible exact ⟨_, rfl⟩ | with_reducible refine ans_ite ?_ ?_ | dsimp only | split
theorem execPaceWindowEnd_answers (s : State) : ∀ x0 x1 , ∃ t, execPaceWindowEnd x0 x1 s = Host.Outcome.next t := by
  intros
  unfold execPaceWindowEnd
  repeat' first | with_reducible exact ⟨_, rfl⟩ | with_reducible refine ans_ite ?_ ?_ | dsimp only | split
theorem execPaceMinClr_answers (s : State) : ∀ x0 , ∃ t, execPaceMinClr x0 s = Host.Outcome.next t := by
  intros
  unfold execPaceMinClr
  repeat' first | with_reducible exact ⟨_, rfl⟩ | with_reducible refine ans_ite ?_ ?_ | dsimp only | split
theorem execRegisterWrite_answers (s : State) : ∀ x0 x1 x2 x3 , ∃ t, execRegisterWrite x0 x1 x2 x3 s = Host.Outcome.next t := by
  intros
  unfold execRegisterWrite
  repeat' first | with_reducible exact ⟨_, rfl⟩ | with_reducible refine ans_ite ?_ ?_ | dsimp only | split
theorem execAliasSetWrite_answers (s : State) : ∀ x0 x1 x2 , ∃ t, execAliasSetWrite x0 x1 x2 s = Host.Outcome.next t := by
  intros
  unfold execAliasSetWrite
  repeat' first | with_reducible exact ⟨_, rfl⟩ | with_reducible refine ans_ite ?_ ?_ | dsimp only | split
theorem execAliasClearWrite_answers (s : State) : ∀ x0 x1 x2 , ∃ t, execAliasClearWrite x0 x1 x2 s = Host.Outcome.next t := by
  intros
  unfold execAliasClearWrite
  repeat' first | with_reducible exact ⟨_, rfl⟩ | with_reducible refine ans_ite ?_ ?_ | dsimp only | split
theorem execAliasToggleWrite_answers (s : State) : ∀ x0 x1 x2 , ∃ t, execAliasToggleWrite x0 x1 x2 s = Host.Outcome.next t := by
  intros
  unfold execAliasToggleWrite
  repeat' first | with_reducible exact ⟨_, rfl⟩ | with_reducible refine ans_ite ?_ ?_ | dsimp only | split
theorem execAliasRead_answers (s : State) : ∀ x0 x1 , ∃ t, execAliasRead x0 x1 s = Host.Outcome.next t := by
  intros
  unfold execAliasRead
  repeat' first | with_reducible exact ⟨_, rfl⟩ | with_reducible refine ans_ite ?_ ?_ | dsimp only | split
theorem execTxnBegin_answers (s : State) : ∀ x0 , ∃ t, execTxnBegin x0 s = Host.Outcome.next t := by
  intros
  unfold execTxnBegin
  repeat' first | with_reducible exact ⟨_, rfl⟩ | with_reducible refine ans_ite ?_ ?_ | dsimp only | split
theorem execTxnCommit_answers (s : State) : ∀ x0 x1 , ∃ t, execTxnCommit x0 x1 s = Host.Outcome.next t := by
  intros
  unfold execTxnCommit
  repeat' first | with_reducible exact ⟨_, rfl⟩ | with_reducible refine ans_ite ?_ ?_ | dsimp only | split
theorem execTxnRollback_answers (s : State) : ∀ x0 x1 , ∃ t, execTxnRollback x0 x1 s = Host.Outcome.next t := by
  intros
  unfold execTxnRollback
  repeat' first | with_reducible exact ⟨_, rfl⟩ | with_reducible refine ans_ite ?_ ?_ | dsimp only | split
theorem execTxnClrCnt_answers (s : State) : ∀ x0 , ∃ t, execTxnClrCnt x0 s = Host.Outcome.next t := by
  intros
  unfold execTxnClrCnt
  repeat' first | with_reducible exact ⟨_, rfl⟩ | with_reducible refine ans_ite ?_ ?_ | dsimp only | split
theorem execCommitInstant_answers (s : State) : ∃ t, execCommitInstant s = Host.Outcome.next t := by
  unfold execCommitInstant
  refine settle_ans ?_
  unfold rowCommitInstant
  repeat' first | with_reducible exact ⟨_, rfl⟩ | with_reducible refine ans_ite ?_ ?_ | dsimp only | split
theorem execTxnIdleTimeout_answers (s : State) : ∀ x0 , ∃ t, execTxnIdleTimeout x0 s = Host.Outcome.next t := by
  intros
  unfold execTxnIdleTimeout
  repeat' first | with_reducible exact ⟨_, rfl⟩ | with_reducible refine ans_ite ?_ ?_ | dsimp only | split
theorem execPairTimeout_answers (s : State) : ∀ x0 x1 , ∃ t, execPairTimeout x0 x1 s = Host.Outcome.next t := by
  intros
  unfold execPairTimeout
  repeat' first | with_reducible exact ⟨_, rfl⟩ | with_reducible refine ans_ite ?_ ?_ | dsimp only | split
theorem execImgWrite_answers (s : State) : ∀ x0 x1 x2 , ∃ t, execImgWrite x0 x1 x2 s = Host.Outcome.next t := by
  intros
  unfold execImgWrite
  repeat' first | with_reducible exact ⟨_, rfl⟩ | with_reducible refine ans_ite ?_ ?_ | dsimp only | split
theorem execImgErase_answers (s : State) : ∀ x0 x1 x2 , ∃ t, execImgErase x0 x1 x2 s = Host.Outcome.next t := by
  intros
  unfold execImgErase
  repeat' first | with_reducible exact ⟨_, rfl⟩ | with_reducible refine ans_ite ?_ ?_ | dsimp only | split
theorem execImgCheck_answers (s : State) : ∀ x0 x1 x2 , ∃ t, execImgCheck x0 x1 x2 s = Host.Outcome.next t := by
  intros
  unfold execImgCheck
  repeat' first | with_reducible exact ⟨_, rfl⟩ | with_reducible refine ans_ite ?_ ?_ | dsimp only | split
theorem execImgLoad_answers (s : State) : ∀ x0 x1 x2 , ∃ t, execImgLoad x0 x1 x2 s = Host.Outcome.next t := by
  intros
  unfold execImgLoad
  repeat' first | with_reducible exact ⟨_, rfl⟩ | with_reducible refine ans_ite ?_ ?_ | dsimp only | split
theorem execLoaderDone_answers (s : State) : ∀ x0 , ∃ t, execLoaderDone x0 s = Host.Outcome.next t := by
  intros
  unfold execLoaderDone
  repeat' first | with_reducible exact ⟨_, rfl⟩ | with_reducible refine ans_ite ?_ ?_ | dsimp only | split
theorem execBenResv_answers (s : State) : ∀ x0 x1 , ∃ t, execBenResv x0 x1 s = Host.Outcome.next t := by
  intros
  unfold execBenResv
  repeat' first | with_reducible exact ⟨_, rfl⟩ | with_reducible refine ans_ite ?_ ?_ | dsimp only | split
theorem execBenPost_answers (s : State) : ∀ x0 x1 x2 , ∃ t, execBenPost x0 x1 x2 s = Host.Outcome.next t := by
  intros
  unfold execBenPost
  repeat' first | with_reducible exact ⟨_, rfl⟩ | with_reducible refine ans_ite ?_ ?_ | dsimp only | split
theorem execBenRingConfigWrite_answers (s : State) : ∀ x0 x1 x2 , ∃ t, execBenRingConfigWrite x0 x1 x2 s = Host.Outcome.next t := by
  intros
  unfold execBenRingConfigWrite
  repeat' first | with_reducible exact ⟨_, rfl⟩ | with_reducible refine ans_ite ?_ ?_ | dsimp only | split
theorem execResvTimeout_answers (s : State) : ∀ x0 x1 , ∃ t, execResvTimeout x0 x1 s = Host.Outcome.next t := by
  intros
  unfold execResvTimeout
  refine settle_ans ?_
  unfold rowResvTimeout
  repeat' first | with_reducible exact ⟨_, rfl⟩ | with_reducible refine ans_ite ?_ ?_ | dsimp only | split
theorem execBenchJobStart_answers (s : State) : ∀ x0 , ∃ t, execBenchJobStart x0 s = Host.Outcome.next t := by
  intros
  unfold execBenchJobStart
  unfold rowBenchJobStart
  repeat' first | with_reducible exact ⟨_, rfl⟩ | with_reducible refine ans_ite ?_ ?_ | dsimp only | split
theorem execBenchDeadlineMiss_answers (s : State) : ∀ x0 x1 , ∃ t, execBenchDeadlineMiss x0 x1 s = Host.Outcome.next t := by
  intros
  unfold execBenchDeadlineMiss
  refine settle_ans ?_
  unfold rowBenchDeadlineMiss
  repeat' first | with_reducible exact ⟨_, rfl⟩ | with_reducible refine ans_ite ?_ ?_ | dsimp only | split
theorem execBenchJobEnd_answers (s : State) : ∀ x0 , ∃ t, execBenchJobEnd x0 s = Host.Outcome.next t := by
  intros
  unfold execBenchJobEnd
  refine settle_ans ?_
  unfold rowBenchJobEnd
  repeat' first | with_reducible exact ⟨_, rfl⟩ | with_reducible refine ans_ite ?_ ?_ | dsimp only | split
theorem execBenchPeerStatus_answers (s : State) : ∀ x0 , ∃ t, execBenchPeerStatus x0 s = Host.Outcome.next t := by
  intros
  unfold execBenchPeerStatus
  refine settle_ans ?_
  unfold rowBenchPeerStatus
  repeat' first | with_reducible exact ⟨_, rfl⟩ | with_reducible refine ans_ite ?_ ?_ | dsimp only | split
theorem execBenchAgreeTimeout_answers (s : State) : ∀ x0 , ∃ t, execBenchAgreeTimeout x0 s = Host.Outcome.next t := by
  intros
  unfold execBenchAgreeTimeout
  refine settle_ans ?_
  unfold rowBenchAgreeTimeout
  repeat' first | with_reducible exact ⟨_, rfl⟩ | with_reducible refine ans_ite ?_ ?_ | dsimp only | split
theorem execPclStepStart_answers (s : State) : ∃ t, execPclStepStart s = Host.Outcome.next t := by
  unfold execPclStepStart
  refine settle_ans ?_
  unfold rowPclStepStart
  repeat' first | with_reducible exact ⟨_, rfl⟩ | with_reducible refine ans_ite ?_ ?_ | dsimp only | split
theorem execPclStepEnd_answers (s : State) : ∃ t, execPclStepEnd s = Host.Outcome.next t := by
  unfold execPclStepEnd
  repeat' first | with_reducible exact ⟨_, rfl⟩ | with_reducible refine ans_ite ?_ ?_ | dsimp only | split
theorem execRetStale_answers (s : State) : ∀ x0 , ∃ t, execRetStale x0 s = Host.Outcome.next t := by
  intros
  unfold execRetStale
  repeat' first | with_reducible exact ⟨_, rfl⟩ | with_reducible refine ans_ite ?_ ?_ | dsimp only | split
theorem execPredStart_answers (s : State) : ∀ x0 x1 , ∃ t, execPredStart x0 x1 s = Host.Outcome.next t := by
  intros
  unfold execPredStart
  unfold rowPredStart
  repeat' first | with_reducible exact ⟨_, rfl⟩ | with_reducible refine ans_ite ?_ ?_ | dsimp only | split
theorem execPredAbort_answers (s : State) : ∀ x0 x1 , ∃ t, execPredAbort x0 x1 s = Host.Outcome.next t := by
  intros
  unfold execPredAbort
  unfold rowPredAbort
  repeat' first | with_reducible exact ⟨_, rfl⟩ | with_reducible refine ans_ite ?_ ?_ | dsimp only | split
theorem execPredDeadlineMiss_answers (s : State) : ∀ x0 x1 , ∃ t, execPredDeadlineMiss x0 x1 s = Host.Outcome.next t := by
  intros
  unfold execPredDeadlineMiss
  refine settle_ans ?_
  unfold rowPredDeadlineMiss
  repeat' first | with_reducible exact ⟨_, rfl⟩ | with_reducible refine ans_ite ?_ ?_ | dsimp only | split
theorem execPredEnd_answers (s : State) : ∀ x0 , ∃ t, execPredEnd x0 s = Host.Outcome.next t := by
  intros
  unfold execPredEnd
  refine settle_ans ?_
  unfold rowPredEnd
  repeat' first | with_reducible exact ⟨_, rfl⟩ | with_reducible refine ans_ite ?_ ?_ | dsimp only | split
theorem execLoopSample_answers (s : State) : ∀ x0 , ∃ t, execLoopSample x0 s = Host.Outcome.next t := by
  intros
  unfold execLoopSample
  refine settle_ans ?_
  unfold rowLoopSample
  repeat' first | with_reducible exact ⟨_, rfl⟩ | with_reducible refine ans_ite ?_ ?_ | dsimp only | split
theorem execLoopOutputInstant_answers (s : State) : ∀ x0 x1 x2 , ∃ t, execLoopOutputInstant x0 x1 x2 s = Host.Outcome.next t := by
  intro n la lb
  unfold execLoopOutputInstant
  refine settle_ans ?_
  unfold rowLoopOutputInstant
  extract_lets act L e st s0 il s1 uA uS bad dt
  clear_value s1 bad
  exact ans_ite ⟨_, rfl⟩ (ans_ite ⟨_, rfl⟩ ⟨_, rfl⟩)
theorem execInjStart_answers (s : State) : ∀ x0 x1 x2 , ∃ t, execInjStart x0 x1 x2 s = Host.Outcome.next t := by
  intros
  unfold execInjStart
  repeat' first | with_reducible exact ⟨_, rfl⟩ | with_reducible refine ans_ite ?_ ?_ | dsimp only | split
theorem execInjStop_answers (s : State) : ∀ x0 x1 x2 , ∃ t, execInjStop x0 x1 x2 s = Host.Outcome.next t := by
  intros
  unfold execInjStop
  repeat' first | with_reducible exact ⟨_, rfl⟩ | with_reducible refine ans_ite ?_ ?_ | dsimp only | split
theorem execCapArm_answers (s : State) : ∀ x0 x1 x2 , ∃ t, execCapArm x0 x1 x2 s = Host.Outcome.next t := by
  intros
  unfold execCapArm
  repeat' first | with_reducible exact ⟨_, rfl⟩ | with_reducible refine ans_ite ?_ ?_ | dsimp only | split
theorem execCapAbort_answers (s : State) : ∀ x0 x1 x2 , ∃ t, execCapAbort x0 x1 x2 s = Host.Outcome.next t := by
  intros
  unfold execCapAbort
  repeat' first | with_reducible exact ⟨_, rfl⟩ | with_reducible refine ans_ite ?_ ?_ | dsimp only | split
theorem execProfilePeriod_answers (s : State) : ∃ t, execProfilePeriod s = Host.Outcome.next t := by
  unfold execProfilePeriod
  refine settle_ans ?_
  unfold rowProfilePeriod
  repeat' first | with_reducible exact ⟨_, rfl⟩ | with_reducible refine ans_ite ?_ ?_ | dsimp only | split
theorem execSetpointLate_answers (s : State) : ∀ x0 , ∃ t, execSetpointLate x0 s = Host.Outcome.next t := by
  intros
  unfold execSetpointLate
  repeat' first | with_reducible exact ⟨_, rfl⟩ | with_reducible refine ans_ite ?_ ?_ | dsimp only | split
theorem execHoldCurrentDelay_answers (s : State) : ∀ x0 , ∃ t, execHoldCurrentDelay x0 s = Host.Outcome.next t := by
  intros
  unfold execHoldCurrentDelay
  repeat' first | with_reducible exact ⟨_, rfl⟩ | with_reducible refine ans_ite ?_ ?_ | dsimp only | split
theorem execStallWindowEnd_answers (s : State) : ∀ x0 x1 x2 , ∃ t, execStallWindowEnd x0 x1 x2 s = Host.Outcome.next t := by
  intros
  unfold execStallWindowEnd
  repeat' first | with_reducible exact ⟨_, rfl⟩ | with_reducible refine ans_ite ?_ ?_ | dsimp only | split
theorem execBridgeFault_answers (s : State) : ∀ x0 , ∃ t, execBridgeFault x0 s = Host.Outcome.next t := by
  intros
  unfold execBridgeFault
  repeat' first | with_reducible exact ⟨_, rfl⟩ | with_reducible refine ans_ite ?_ ?_ | dsimp only | split
theorem execAxisRef_answers (s : State) : ∀ x0 x1 x2 , ∃ t, execAxisRef x0 x1 x2 s = Host.Outcome.next t := by
  intros
  unfold execAxisRef
  repeat' first | with_reducible exact ⟨_, rfl⟩ | with_reducible refine ans_ite ?_ ?_ | dsimp only | split
theorem execAxisStop_answers (s : State) : ∀ x0 x1 x2 , ∃ t, execAxisStop x0 x1 x2 s = Host.Outcome.next t := by
  intros
  unfold execAxisStop
  repeat' first | with_reducible exact ⟨_, rfl⟩ | with_reducible refine ans_ite ?_ ?_ | dsimp only | split
theorem execAxisSetPos_answers (s : State) : ∀ x0 x1 x2 , ∃ t, execAxisSetPos x0 x1 x2 s = Host.Outcome.next t := by
  intros
  unfold execAxisSetPos
  repeat' first | with_reducible exact ⟨_, rfl⟩ | with_reducible refine ans_ite ?_ ?_ | dsimp only | split
theorem execAxisTargetWrite_answers (s : State) : ∀ x0 x1 x2 x3 , ∃ t, execAxisTargetWrite x0 x1 x2 x3 s = Host.Outcome.next t := by
  intros
  unfold execAxisTargetWrite
  repeat' first | with_reducible exact ⟨_, rfl⟩ | with_reducible refine ans_ite ?_ ?_ | dsimp only | split
theorem execCycleStart_answers (s : State) : ∀ x0 x1 , ∃ t, execCycleStart x0 x1 s = Host.Outcome.next t := by
  intros
  unfold execCycleStart
  refine settle_ans ?_
  unfold rowCycleStart
  repeat' first | with_reducible exact ⟨_, rfl⟩ | with_reducible refine ans_ite ?_ ?_ | dsimp only | split
theorem execCycleFinish_answers (s : State) : ∀ x0 x1 x2 , ∃ t, execCycleFinish x0 x1 x2 s = Host.Outcome.next t := by
  intros
  unfold execCycleFinish
  repeat' first | with_reducible exact ⟨_, rfl⟩ | with_reducible refine ans_ite ?_ ?_ | dsimp only | split
theorem execEngineTrap_answers (s : State) : ∀ x0 x1 x2 x3 x4 , ∃ t, execEngineTrap x0 x1 x2 x3 x4 s = Host.Outcome.next t := by
  intros
  unfold execEngineTrap
  repeat' first | with_reducible exact ⟨_, rfl⟩ | with_reducible refine ans_ite ?_ ?_ | dsimp only | split
theorem execPublishInstant_answers (s : State) : ∃ t, execPublishInstant s = Host.Outcome.next t := by
  unfold execPublishInstant
  refine settle_ans ?_
  unfold rowPublishInstant
  repeat' first | with_reducible exact ⟨_, rfl⟩ | with_reducible refine ans_ite ?_ ?_ | dsimp only | split
theorem execMirrorWindowEnd_answers (s : State) : ∀ x0 , ∃ t, execMirrorWindowEnd x0 s = Host.Outcome.next t := by
  intros
  unfold execMirrorWindowEnd
  repeat' first | with_reducible exact ⟨_, rfl⟩ | with_reducible refine ans_ite ?_ ?_ | dsimp only | split
theorem execOverrunInstant_answers (s : State) : ∀ x0 , ∃ t, execOverrunInstant x0 s = Host.Outcome.next t := by
  intros
  unfold execOverrunInstant
  unfold rowOverrunInstant
  repeat' first | with_reducible exact ⟨_, rfl⟩ | with_reducible refine ans_ite ?_ ?_ | dsimp only | split
theorem execRtInfo_answers (s : State) : ∀ x0 x1 , ∃ t, execRtInfo x0 x1 s = Host.Outcome.next t := by
  intros
  unfold execRtInfo
  repeat' first | with_reducible exact ⟨_, rfl⟩ | with_reducible refine ans_ite ?_ ?_ | dsimp only | split
theorem execRtNow_answers (s : State) : ∀ x0 x1 , ∃ t, execRtNow x0 x1 s = Host.Outcome.next t := by
  intros
  unfold execRtNow
  repeat' first | with_reducible exact ⟨_, rfl⟩ | with_reducible refine ans_ite ?_ ?_ | dsimp only | split
theorem execRtTmr_answers (s : State) : ∀ x0 x1 x2 x3 , ∃ t, execRtTmr x0 x1 x2 x3 s = Host.Outcome.next t := by
  intros
  unfold execRtTmr
  repeat' first | with_reducible exact ⟨_, rfl⟩ | with_reducible refine ans_ite ?_ ?_ | dsimp only | split
theorem execRtEdge_answers (s : State) : ∀ x0 x1 x2 x3 , ∃ t, execRtEdge x0 x1 x2 x3 s = Host.Outcome.next t := by
  intros
  unfold execRtEdge
  repeat' first | with_reducible exact ⟨_, rfl⟩ | with_reducible refine ans_ite ?_ ?_ | dsimp only | split
theorem execRtHwtStart_answers (s : State) : ∀ x0 x1 x2 x3 x4 , ∃ t, execRtHwtStart x0 x1 x2 x3 x4 s = Host.Outcome.next t := by
  intros
  unfold execRtHwtStart
  repeat' first | with_reducible exact ⟨_, rfl⟩ | with_reducible refine ans_ite ?_ ?_ | dsimp only | split
theorem execRtHwtStop_answers (s : State) : ∀ x0 x1 x2 , ∃ t, execRtHwtStop x0 x1 x2 s = Host.Outcome.next t := by
  intros
  unfold execRtHwtStop
  repeat' first | with_reducible exact ⟨_, rfl⟩ | with_reducible refine ans_ite ?_ ?_ | dsimp only | split
theorem execRtHwtQuery_answers (s : State) : ∀ x0 x1 x2 , ∃ t, execRtHwtQuery x0 x1 x2 s = Host.Outcome.next t := by
  intros
  unfold execRtHwtQuery
  repeat' first | with_reducible exact ⟨_, rfl⟩ | with_reducible refine ans_ite ?_ ?_ | dsimp only | split
theorem execRtForced_answers (s : State) : ∀ x0 x1 x2 , ∃ t, execRtForced x0 x1 x2 s = Host.Outcome.next t := by
  intros
  unfold execRtForced
  repeat' first | with_reducible exact ⟨_, rfl⟩ | with_reducible refine ans_ite ?_ ?_ | dsimp only | split
theorem execHwtExpiry_answers (s : State) : ∀ x0 x1 , ∃ t, execHwtExpiry x0 x1 s = Host.Outcome.next t := by
  intros
  unfold execHwtExpiry
  repeat' first | with_reducible exact ⟨_, rfl⟩ | with_reducible refine ans_ite ?_ ?_ | dsimp only | split
theorem execTaskRestart_answers (s : State) : ∀ x0 x1 x2 , ∃ t, execTaskRestart x0 x1 x2 s = Host.Outcome.next t := by
  intros
  unfold execTaskRestart
  repeat' first | with_reducible exact ⟨_, rfl⟩ | with_reducible refine ans_ite ?_ ?_ | dsimp only | split
theorem execTaskStep_answers (s : State) : ∀ x0 x1 x2 , ∃ t, execTaskStep x0 x1 x2 s = Host.Outcome.next t := by
  intros
  unfold execTaskStep
  repeat' first | with_reducible exact ⟨_, rfl⟩ | with_reducible refine ans_ite ?_ ?_ | dsimp only | split
theorem execTaskClrCnt_answers (s : State) : ∀ x0 x1 x2 , ∃ t, execTaskClrCnt x0 x1 x2 s = Host.Outcome.next t := by
  intros
  unfold execTaskClrCnt
  repeat' first | with_reducible exact ⟨_, rfl⟩ | with_reducible refine ans_ite ?_ ?_ | dsimp only | split
theorem execDebugHalt_answers (s : State) : ∀ x0 x1 , ∃ t, execDebugHalt x0 x1 s = Host.Outcome.next t := by
  intros
  unfold execDebugHalt
  repeat' first | with_reducible exact ⟨_, rfl⟩ | with_reducible refine ans_ite ?_ ?_ | dsimp only | split
theorem execDebugResume_answers (s : State) : ∀ x0 x1 , ∃ t, execDebugResume x0 x1 s = Host.Outcome.next t := by
  intros
  unfold execDebugResume
  repeat' first | with_reducible exact ⟨_, rfl⟩ | with_reducible refine ans_ite ?_ ?_ | dsimp only | split
theorem execOlcStart_answers (s : State) : ∀ x0 x1 , ∃ t, execOlcStart x0 x1 s = Host.Outcome.next t := by
  intros
  unfold execOlcStart
  repeat' first | with_reducible exact ⟨_, rfl⟩ | with_reducible refine ans_ite ?_ ?_ | dsimp only | split
theorem execOlcVerifyDone_answers (s : State) : ∀ x0 , ∃ t, execOlcVerifyDone x0 s = Host.Outcome.next t := by
  intro l
  unfold execOlcVerifyDone
  extract_lets L
  refine ans_ite ⟨_, rfl⟩ ?_
  generalize s.olcCheck l = c
  cases c with
  | inl c => exact ⟨_, rfl⟩
  | inr x => exact ⟨_, rfl⟩
theorem execOlcPeerResult_answers (s : State) : ∀ x0 , ∃ t, execOlcPeerResult x0 s = Host.Outcome.next t := by
  intros
  unfold execOlcPeerResult
  repeat' first | with_reducible exact ⟨_, rfl⟩ | with_reducible refine ans_ite ?_ ?_ | dsimp only | split
theorem execOlcPeerTimeout_answers (s : State) : ∀ x0 , ∃ t, execOlcPeerTimeout x0 s = Host.Outcome.next t := by
  intros
  unfold execOlcPeerTimeout
  repeat' first | with_reducible exact ⟨_, rfl⟩ | with_reducible refine ans_ite ?_ ?_ | dsimp only | split
theorem execOlcSwitch_answers (s : State) : ∃ t, execOlcSwitch s = Host.Outcome.next t := by
  unfold execOlcSwitch
  refine settle_ans ?_
  unfold rowOlcSwitch
  repeat' first | with_reducible exact ⟨_, rfl⟩ | with_reducible refine ans_ite ?_ ?_ | dsimp only | split
theorem execOlcAbort_answers (s : State) : ∀ x0 x1 , ∃ t, execOlcAbort x0 x1 s = Host.Outcome.next t := by
  intros
  unfold execOlcAbort
  repeat' first | with_reducible exact ⟨_, rfl⟩ | with_reducible refine ans_ite ?_ ?_ | dsimp only | split
theorem execOlcRevert_answers (s : State) : ∀ x0 x1 , ∃ t, execOlcRevert x0 x1 s = Host.Outcome.next t := by
  intros
  unfold execOlcRevert
  repeat' first | with_reducible exact ⟨_, rfl⟩ | with_reducible refine ans_ite ?_ ?_ | dsimp only | split
theorem execOlcRelease_answers (s : State) : ∀ x0 x1 , ∃ t, execOlcRelease x0 x1 s = Host.Outcome.next t := by
  intros
  unfold execOlcRelease
  repeat' first | with_reducible exact ⟨_, rfl⟩ | with_reducible refine ans_ite ?_ ?_ | dsimp only | split
theorem execDmaStart_answers (s : State) : ∀ x0 x1 x2 , ∃ t, execDmaStart x0 x1 x2 s = Host.Outcome.next t := by
  intros
  unfold execDmaStart
  unfold rowDmaStart
  repeat' first | with_reducible exact ⟨_, rfl⟩ | with_reducible refine ans_ite ?_ ?_ | dsimp only | split
theorem execDmaResume_answers (s : State) : ∀ x0 x1 x2 , ∃ t, execDmaResume x0 x1 x2 s = Host.Outcome.next t := by
  intros
  unfold execDmaResume
  unfold rowDmaResume
  repeat' first | with_reducible exact ⟨_, rfl⟩ | with_reducible refine ans_ite ?_ ?_ | dsimp only | split
theorem execDmaAbort_answers (s : State) : ∀ x0 x1 x2 x3 , ∃ t, execDmaAbort x0 x1 x2 x3 s = Host.Outcome.next t := by
  intros
  unfold execDmaAbort
  repeat' first | with_reducible exact ⟨_, rfl⟩ | with_reducible refine ans_ite ?_ ?_ | dsimp only | split
theorem execDmaDescComplete_answers (s : State) : ∀ x0 x1 , ∃ t, execDmaDescComplete x0 x1 s = Host.Outcome.next t := by
  intros
  unfold execDmaDescComplete
  unfold rowDmaDescComplete
  repeat' first | with_reducible exact ⟨_, rfl⟩ | with_reducible refine ans_ite ?_ ?_ | dsimp only | split
theorem execDmaFault_answers (s : State) : ∀ x0 x1 x2 , ∃ t, execDmaFault x0 x1 x2 s = Host.Outcome.next t := by
  intros
  unfold execDmaFault
  unfold rowDmaFault
  repeat' first | with_reducible exact ⟨_, rfl⟩ | with_reducible refine ans_ite ?_ ?_ | dsimp only | split
theorem execDmaChestConfirm_answers (s : State) : ∀ x0 , ∃ t, execDmaChestConfirm x0 s = Host.Outcome.next t := by
  intros
  unfold execDmaChestConfirm
  unfold rowDmaChestConfirm
  repeat' first | with_reducible exact ⟨_, rfl⟩ | with_reducible refine ans_ite ?_ ?_ | dsimp only | split
theorem execScrubRead_answers (s : State) : ∀ x0 x1 x2 x3 , ∃ t, execScrubRead x0 x1 x2 x3 s = Host.Outcome.next t := by
  intros
  unfold execScrubRead
  repeat' first | with_reducible exact ⟨_, rfl⟩ | with_reducible refine ans_ite ?_ ?_ | dsimp only | split
theorem execHeartbeatSend_answers (s : State) : ∀ x0 , ∃ t, execHeartbeatSend x0 s = Host.Outcome.next t := by
  intros
  unfold execHeartbeatSend
  repeat' first | with_reducible exact ⟨_, rfl⟩ | with_reducible refine ans_ite ?_ ?_ | dsimp only | split
theorem execHeartbeatReceived_answers (s : State) : ∀ x0 x1 , ∃ t, execHeartbeatReceived x0 x1 s = Host.Outcome.next t := by
  intros
  unfold execHeartbeatReceived
  unfold rowHeartbeatReceived
  repeat' first | with_reducible exact ⟨_, rfl⟩ | with_reducible refine ans_ite ?_ ?_ | dsimp only | split
theorem execHbLoss_answers (s : State) : ∀ x0 , ∃ t, execHbLoss x0 s = Host.Outcome.next t := by
  intros
  unfold execHbLoss
  unfold rowHbLoss
  repeat' first | with_reducible exact ⟨_, rfl⟩ | with_reducible refine ans_ite ?_ ?_ | dsimp only | split
theorem execLaneLinkFault_answers (s : State) : ∃ t, execLaneLinkFault s = Host.Outcome.next t := by
  unfold execLaneLinkFault
  unfold rowLaneLinkFault
  repeat' first | with_reducible exact ⟨_, rfl⟩ | with_reducible refine ans_ite ?_ ?_ | dsimp only | split
theorem execHashTimeout_answers (s : State) : ∀ x0 x1 , ∃ t, execHashTimeout x0 x1 s = Host.Outcome.next t := by
  intros
  unfold execHashTimeout
  unfold rowHashTimeout
  repeat' first | with_reducible exact ⟨_, rfl⟩ | with_reducible refine ans_ite ?_ ?_ | dsimp only | split
theorem execSuspectWindowExpiry_answers (s : State) : ∃ t, execSuspectWindowExpiry s = Host.Outcome.next t := by
  unfold execSuspectWindowExpiry
  repeat' first | with_reducible exact ⟨_, rfl⟩ | with_reducible refine ans_ite ?_ ?_ | dsimp only | split
theorem execHitlessTakeover_answers (s : State) : ∃ t, execHitlessTakeover s = Host.Outcome.next t := by
  unfold execHitlessTakeover
  unfold rowHitlessTakeover
  repeat' first | with_reducible exact ⟨_, rfl⟩ | with_reducible refine ans_ite ?_ ?_ | dsimp only | split
theorem execRedLaneReset_answers (s : State) : ∃ t, execRedLaneReset s = Host.Outcome.next t := by
  unfold execRedLaneReset
  unfold rowRedLaneReset
  repeat' first | with_reducible exact ⟨_, rfl⟩ | with_reducible refine ans_ite ?_ ?_ | dsimp only | split
theorem execRedSwitch_answers (s : State) : ∀ x0 x1 , ∃ t, execRedSwitch x0 x1 s = Host.Outcome.next t := by
  intros
  unfold execRedSwitch
  repeat' first | with_reducible exact ⟨_, rfl⟩ | with_reducible refine ans_ite ?_ ?_ | dsimp only | split
theorem execRedDrop_answers (s : State) : ∀ x0 x1 , ∃ t, execRedDrop x0 x1 s = Host.Outcome.next t := by
  intros
  unfold execRedDrop
  unfold rowRedDrop
  repeat' first | with_reducible exact ⟨_, rfl⟩ | with_reducible refine ans_ite ?_ ?_ | dsimp only | split
theorem execRedClrCnt_answers (s : State) : ∀ x0 x1 , ∃ t, execRedClrCnt x0 x1 s = Host.Outcome.next t := by
  intros
  unfold execRedClrCnt
  repeat' first | with_reducible exact ⟨_, rfl⟩ | with_reducible refine ans_ite ?_ ?_ | dsimp only | split
theorem execResyncBootEnd_answers (s : State) : ∃ t, execResyncBootEnd s = Host.Outcome.next t := by
  unfold execResyncBootEnd
  repeat' first | with_reducible exact ⟨_, rfl⟩ | with_reducible refine ans_ite ?_ ?_ | dsimp only | split
theorem execResyncChainEnd_answers (s : State) : ∃ t, execResyncChainEnd s = Host.Outcome.next t := by
  unfold execResyncChainEnd
  repeat' first | with_reducible exact ⟨_, rfl⟩ | with_reducible refine ans_ite ?_ ?_ | dsimp only | split
theorem execResyncBulkEnd_answers (s : State) : ∃ t, execResyncBulkEnd s = Host.Outcome.next t := by
  unfold execResyncBulkEnd
  repeat' first | with_reducible exact ⟨_, rfl⟩ | with_reducible refine ans_ite ?_ ?_ | dsimp only | split
theorem execResyncDirtyPassEnd_answers (s : State) : ∀ x0 , ∃ t, execResyncDirtyPassEnd x0 s = Host.Outcome.next t := by
  intros
  unfold execResyncDirtyPassEnd
  repeat' first | with_reducible exact ⟨_, rfl⟩ | with_reducible refine ans_ite ?_ ?_ | dsimp only | split
theorem execResyncFinal_answers (s : State) : ∃ t, execResyncFinal s = Host.Outcome.next t := by
  unfold execResyncFinal
  repeat' first | with_reducible exact ⟨_, rfl⟩ | with_reducible refine ans_ite ?_ ?_ | dsimp only | split
theorem execResyncTimeout_answers (s : State) : ∃ t, execResyncTimeout s = Host.Outcome.next t := by
  unfold execResyncTimeout
  repeat' first | with_reducible exact ⟨_, rfl⟩ | with_reducible refine ans_ite ?_ ?_ | dsimp only | split
theorem execResyncRetry_answers (s : State) : ∃ t, execResyncRetry s = Host.Outcome.next t := by
  unfold execResyncRetry
  repeat' first | with_reducible exact ⟨_, rfl⟩ | with_reducible refine ans_ite ?_ ?_ | dsimp only | split
theorem execEthFrameReceived_answers (s : State) : ∀ x0 x1 x2 , ∃ t, execEthFrameReceived x0 x1 x2 s = Host.Outcome.next t := by
  intros
  unfold execEthFrameReceived
  repeat' first | with_reducible exact ⟨_, rfl⟩ | with_reducible refine ans_ite ?_ ?_ | dsimp only | split
theorem execEthLinkChange_answers (s : State) : ∀ x0 x1 x2 , ∃ t, execEthLinkChange x0 x1 x2 s = Host.Outcome.next t := by
  intros
  unfold execEthLinkChange
  repeat' first | with_reducible exact ⟨_, rfl⟩ | with_reducible refine ans_ite ?_ ?_ | dsimp only | split
theorem execPrpSupervisionSend_answers (s : State) : ∃ t, execPrpSupervisionSend s = Host.Outcome.next t := by
  unfold execPrpSupervisionSend
  repeat' first | with_reducible exact ⟨_, rfl⟩ | with_reducible refine ans_ite ?_ ?_ | dsimp only | split
theorem execPrpLanSilent_answers (s : State) : ∀ x0 , ∃ t, execPrpLanSilent x0 s = Host.Outcome.next t := by
  intros
  unfold execPrpLanSilent
  repeat' first | with_reducible exact ⟨_, rfl⟩ | with_reducible refine ans_ite ?_ ?_ | dsimp only | split
theorem execMstDatagramReceived_answers (s : State) : ∀ x0 x1 x2 x3 , ∃ t, execMstDatagramReceived x0 x1 x2 x3 s = Host.Outcome.next t := by
  intros
  unfold execMstDatagramReceived
  repeat' first | with_reducible exact ⟨_, rfl⟩ | with_reducible refine ans_ite ?_ ?_ | dsimp only | split
theorem execMstTelegramProcess_answers (s : State) : ∀ x0 , ∃ t, execMstTelegramProcess x0 s = Host.Outcome.next t := by
  intros
  unfold execMstTelegramProcess
  unfold rowMstTelegramProcess
  repeat' first | with_reducible exact ⟨_, rfl⟩ | with_reducible refine ans_ite ?_ ?_ | dsimp only | split
theorem execMstValuesVisible_answers (s : State) : ∃ t, execMstValuesVisible s = Host.Outcome.next t := by
  unfold execMstValuesVisible
  repeat' first | with_reducible exact ⟨_, rfl⟩ | with_reducible refine ans_ite ?_ ?_ | dsimp only | split
theorem execMstSubTimeout_answers (s : State) : ∀ x0 , ∃ t, execMstSubTimeout x0 s = Host.Outcome.next t := by
  intros
  unfold execMstSubTimeout
  repeat' first | with_reducible exact ⟨_, rfl⟩ | with_reducible refine ans_ite ?_ ?_ | dsimp only | split
theorem execMstSetpointEval_answers (s : State) : ∃ t, execMstSetpointEval s = Host.Outcome.next t := by
  unfold execMstSetpointEval
  refine settle_ans ?_
  unfold rowMstSetpointEval
  repeat' first | with_reducible exact ⟨_, rfl⟩ | with_reducible refine ans_ite ?_ ?_ | dsimp only | split
theorem execMstAckTimeout_answers (s : State) : ∀ x0 , ∃ t, execMstAckTimeout x0 s = Host.Outcome.next t := by
  intros
  unfold execMstAckTimeout
  repeat' first | with_reducible exact ⟨_, rfl⟩ | with_reducible refine ans_ite ?_ ?_ | dsimp only | split
theorem execMstSend_answers (s : State) : ∀ x0 x1 x2 , ∃ t, execMstSend x0 x1 x2 s = Host.Outcome.next t := by
  intros
  unfold execMstSend
  repeat' first | with_reducible exact ⟨_, rfl⟩ | with_reducible refine ans_ite ?_ ?_ | dsimp only | split
theorem execMstResume_answers (s : State) : ∀ x0 x1 , ∃ t, execMstResume x0 x1 s = Host.Outcome.next t := by
  intros
  unfold execMstResume
  repeat' first | with_reducible exact ⟨_, rfl⟩ | with_reducible refine ans_ite ?_ ?_ | dsimp only | split
theorem execMstEpoch_answers (s : State) : ∀ x0 x1 x2 , ∃ t, execMstEpoch x0 x1 x2 s = Host.Outcome.next t := by
  intros
  unfold execMstEpoch
  repeat' first | with_reducible exact ⟨_, rfl⟩ | with_reducible refine ans_ite ?_ ?_ | dsimp only | split
theorem execCanFrameReceived_answers (s : State) : ∀ x0 x1 x2 , ∃ t, execCanFrameReceived x0 x1 x2 s = Host.Outcome.next t := by
  intros
  unfold execCanFrameReceived
  repeat' first | with_reducible exact ⟨_, rfl⟩ | with_reducible refine ans_ite ?_ ?_ | dsimp only | split
theorem execCanReq_answers (s : State) : ∀ x0 x1 x2 , ∃ t, execCanReq x0 x1 x2 s = Host.Outcome.next t := by
  intros
  unfold execCanReq
  repeat' first | with_reducible exact ⟨_, rfl⟩ | with_reducible refine ans_ite ?_ ?_ | dsimp only | split
theorem execCanAbort_answers (s : State) : ∀ x0 x1 x2 , ∃ t, execCanAbort x0 x1 x2 s = Host.Outcome.next t := by
  intros
  unfold execCanAbort
  repeat' first | with_reducible exact ⟨_, rfl⟩ | with_reducible refine ans_ite ?_ ?_ | dsimp only | split
theorem execCanTxAttemptStart_answers (s : State) : ∀ x0 , ∃ t, execCanTxAttemptStart x0 s = Host.Outcome.next t := by
  intros
  unfold execCanTxAttemptStart
  refine settle_ans ?_
  unfold rowCanTxAttemptStart
  repeat' first | with_reducible exact ⟨_, rfl⟩ | with_reducible refine ans_ite ?_ ?_ | dsimp only | split
theorem execCanTxSuccess_answers (s : State) : ∀ x0 , ∃ t, execCanTxSuccess x0 s = Host.Outcome.next t := by
  intros
  unfold execCanTxSuccess
  repeat' first | with_reducible exact ⟨_, rfl⟩ | with_reducible refine ans_ite ?_ ?_ | dsimp only | split
theorem execCanArbLost_answers (s : State) : ∀ x0 , ∃ t, execCanArbLost x0 s = Host.Outcome.next t := by
  intros
  unfold execCanArbLost
  repeat' first | with_reducible exact ⟨_, rfl⟩ | with_reducible refine ans_ite ?_ ?_ | dsimp only | split
theorem execCanTxError_answers (s : State) : ∀ x0 x1 , ∃ t, execCanTxError x0 x1 s = Host.Outcome.next t := by
  intros
  unfold execCanTxError
  repeat' first | with_reducible exact ⟨_, rfl⟩ | with_reducible refine ans_ite ?_ ?_ | dsimp only | split
theorem execCanBusoffRecovery_answers (s : State) : ∀ x0 , ∃ t, execCanBusoffRecovery x0 s = Host.Outcome.next t := by
  intros
  unfold execCanBusoffRecovery
  repeat' first | with_reducible exact ⟨_, rfl⟩ | with_reducible refine ans_ite ?_ ?_ | dsimp only | split
theorem execCanPeerTxEvent_answers (s : State) : ∀ x0 , ∃ t, execCanPeerTxEvent x0 s = Host.Outcome.next t := by
  intros
  unfold execCanPeerTxEvent
  repeat' first | with_reducible exact ⟨_, rfl⟩ | with_reducible refine ans_ite ?_ ?_ | dsimp only | split
theorem execCanFifoPop_answers (s : State) : ∀ x0 x1 x2 , ∃ t, execCanFifoPop x0 x1 x2 s = Host.Outcome.next t := by
  intros
  unfold execCanFifoPop
  repeat' first | with_reducible exact ⟨_, rfl⟩ | with_reducible refine ans_ite ?_ ?_ | dsimp only | split
theorem execTbNowLoRead_answers (s : State) : ∀ x0 , ∃ t, execTbNowLoRead x0 s = Host.Outcome.next t := by
  intros
  unfold execTbNowLoRead
  repeat' first | with_reducible exact ⟨_, rfl⟩ | with_reducible refine ans_ite ?_ ?_ | dsimp only | split
theorem execTbNowHiRead_answers (s : State) : ∀ x0 , ∃ t, execTbNowHiRead x0 s = Host.Outcome.next t := by
  intros
  unfold execTbNowHiRead
  repeat' first | with_reducible exact ⟨_, rfl⟩ | with_reducible refine ans_ite ?_ ?_ | dsimp only | split
theorem execTbWrap_answers (s : State) : ∃ t, execTbWrap s = Host.Outcome.next t := by
  unfold execTbWrap
  repeat' first | with_reducible exact ⟨_, rfl⟩ | with_reducible refine ans_ite ?_ ?_ | dsimp only | split
theorem execTbRateWrite_answers (s : State) : ∀ x0 x1 , ∃ t, execTbRateWrite x0 x1 s = Host.Outcome.next t := by
  intros
  unfold execTbRateWrite
  repeat' first | with_reducible exact ⟨_, rfl⟩ | with_reducible refine ans_ite ?_ ?_ | dsimp only | split
theorem execTbStep_answers (s : State) : ∀ x0 x1 , ∃ t, execTbStep x0 x1 s = Host.Outcome.next t := by
  intros
  unfold execTbStep
  repeat' first | with_reducible exact ⟨_, rfl⟩ | with_reducible refine ans_ite ?_ ?_ | dsimp only | split
theorem execTbStepApply_answers (s : State) : ∃ t, execTbStepApply s = Host.Outcome.next t := by
  unfold execTbStepApply
  repeat' first | with_reducible exact ⟨_, rfl⟩ | with_reducible refine ans_ite ?_ ?_ | dsimp only | split
theorem execPpsOut_answers (s : State) : ∃ t, execPpsOut s = Host.Outcome.next t := by
  unfold execPpsOut
  repeat' first | with_reducible exact ⟨_, rfl⟩ | with_reducible refine ans_ite ?_ ?_ | dsimp only | split
theorem execPpsInEdge_answers (s : State) : ∀ x0 , ∃ t, execPpsInEdge x0 s = Host.Outcome.next t := by
  intros
  unfold execPpsInEdge
  repeat' first | with_reducible exact ⟨_, rfl⟩ | with_reducible refine ans_ite ?_ ?_ | dsimp only | split
theorem execRef10CountEnd_answers (s : State) : ∀ x0 , ∃ t, execRef10CountEnd x0 s = Host.Outcome.next t := by
  intros
  unfold execRef10CountEnd
  repeat' first | with_reducible exact ⟨_, rfl⟩ | with_reducible refine ans_ite ?_ ?_ | dsimp only | split
theorem execPtpRx_answers (s : State) : ∀ x0 x1 x2 x3 x4 x5 , ∃ t, execPtpRx x0 x1 x2 x3 x4 x5 s = Host.Outcome.next t := by
  intros
  unfold execPtpRx
  repeat' first | with_reducible exact ⟨_, rfl⟩ | with_reducible refine ans_ite ?_ ?_ | dsimp only | split
theorem execPtpRxPop_answers (s : State) : ∀ x0 , ∃ t, execPtpRxPop x0 s = Host.Outcome.next t := by
  intros
  unfold execPtpRxPop
  repeat' first | with_reducible exact ⟨_, rfl⟩ | with_reducible refine ans_ite ?_ ?_ | dsimp only | split
theorem execPtpSend_answers (s : State) : ∀ x0 x1 x2 x3 , ∃ t, execPtpSend x0 x1 x2 x3 s = Host.Outcome.next t := by
  intros
  unfold execPtpSend
  repeat' first | with_reducible exact ⟨_, rfl⟩ | with_reducible refine ans_ite ?_ ?_ | dsimp only | split
theorem execPtpTxDepart_answers (s : State) : ∀ x0 , ∃ t, execPtpTxDepart x0 s = Host.Outcome.next t := by
  intros
  unfold execPtpTxDepart
  repeat' first | with_reducible exact ⟨_, rfl⟩ | with_reducible refine ans_ite ?_ ?_ | dsimp only | split
theorem execPtpTxLate_answers (s : State) : ∃ t, execPtpTxLate s = Host.Outcome.next t := by
  unfold execPtpTxLate
  repeat' first | with_reducible exact ⟨_, rfl⟩ | with_reducible refine ans_ite ?_ ?_ | dsimp only | split
theorem execPtpTxsPop_answers (s : State) : ∀ x0 , ∃ t, execPtpTxsPop x0 s = Host.Outcome.next t := by
  intros
  unfold execPtpTxsPop
  repeat' first | with_reducible exact ⟨_, rfl⟩ | with_reducible refine ans_ite ?_ ?_ | dsimp only | split
theorem execRtcTimeRead_answers (s : State) : ∀ x0 x1 , ∃ t, execRtcTimeRead x0 x1 s = Host.Outcome.next t := by
  intros
  unfold execRtcTimeRead
  repeat' first | with_reducible exact ⟨_, rfl⟩ | with_reducible refine ans_ite ?_ ?_ | dsimp only | split
theorem execRtcFreezeTimeout_answers (s : State) : ∀ x0 , ∃ t, execRtcFreezeTimeout x0 s = Host.Outcome.next t := by
  intros
  unfold execRtcFreezeTimeout
  repeat' first | with_reducible exact ⟨_, rfl⟩ | with_reducible refine ans_ite ?_ ?_ | dsimp only | split
theorem execRtcGo_answers (s : State) : ∀ x0 x1 , ∃ t, execRtcGo x0 x1 s = Host.Outcome.next t := by
  intros
  unfold execRtcGo
  repeat' first | with_reducible exact ⟨_, rfl⟩ | with_reducible refine ans_ite ?_ ?_ | dsimp only | split
theorem execRtcSetApply_answers (s : State) : ∃ t, execRtcSetApply s = Host.Outcome.next t := by
  unfold execRtcSetApply
  repeat' first | with_reducible exact ⟨_, rfl⟩ | with_reducible refine ans_ite ?_ ?_ | dsimp only | split
theorem execRtcOscStop_answers (s : State) : ∃ t, execRtcOscStop s = Host.Outcome.next t := by
  unfold execRtcOscStop
  repeat' first | with_reducible exact ⟨_, rfl⟩ | with_reducible refine ans_ite ?_ ?_ | dsimp only | split
theorem execRtcSecond_answers (s : State) : ∃ t, execRtcSecond s = Host.Outcome.next t := by
  unfold execRtcSecond
  repeat' first | with_reducible exact ⟨_, rfl⟩ | with_reducible refine ans_ite ?_ ?_ | dsimp only | split
theorem execRtcWake_answers (s : State) : ∃ t, execRtcWake s = Host.Outcome.next t := by
  unfold execRtcWake
  repeat' first | with_reducible exact ⟨_, rfl⟩ | with_reducible refine ans_ite ?_ ?_ | dsimp only | split
theorem execRtcWakeWrite_answers (s : State) : ∀ x0 x1 , ∃ t, execRtcWakeWrite x0 x1 s = Host.Outcome.next t := by
  intros
  unfold execRtcWakeWrite
  repeat' first | with_reducible exact ⟨_, rfl⟩ | with_reducible refine ans_ite ?_ ?_ | dsimp only | split
theorem execMtrIntervalEnd_answers (s : State) : ∀ x0 x1 , ∃ t, execMtrIntervalEnd x0 x1 s = Host.Outcome.next t := by
  intros
  unfold execMtrIntervalEnd
  repeat' first | with_reducible exact ⟨_, rfl⟩ | with_reducible refine ans_ite ?_ ?_ | dsimp only | split
theorem execMtrModFault_answers (s : State) : ∀ x0 , ∃ t, execMtrModFault x0 s = Host.Outcome.next t := by
  intros
  unfold execMtrModFault
  repeat' first | with_reducible exact ⟨_, rfl⟩ | with_reducible refine ans_ite ?_ ?_ | dsimp only | split
theorem execMtrModOk_answers (s : State) : ∀ x0 , ∃ t, execMtrModOk x0 s = Host.Outcome.next t := by
  intros
  unfold execMtrModOk
  repeat' first | with_reducible exact ⟨_, rfl⟩ | with_reducible refine ans_ite ?_ ?_ | dsimp only | split
theorem execMtrZeroCrossing_answers (s : State) : ∀ x0 x1 x2 , ∃ t, execMtrZeroCrossing x0 x1 x2 s = Host.Outcome.next t := by
  intros
  unfold execMtrZeroCrossing
  repeat' first | with_reducible exact ⟨_, rfl⟩ | with_reducible refine ans_ite ?_ ?_ | dsimp only | split
theorem execMtrZcTimeout_answers (s : State) : ∀ x0 x1 , ∃ t, execMtrZcTimeout x0 x1 s = Host.Outcome.next t := by
  intros
  unfold execMtrZcTimeout
  repeat' first | with_reducible exact ⟨_, rfl⟩ | with_reducible refine ans_ite ?_ ?_ | dsimp only | split
theorem execThqInstant_answers (s : State) : ∃ t, execThqInstant s = Host.Outcome.next t := by
  unfold execThqInstant
  repeat' first | with_reducible exact ⟨_, rfl⟩ | with_reducible refine ans_ite ?_ ?_ | dsimp only | split
theorem execMtrSave_answers (s : State) : ∀ x0 x1 , ∃ t, execMtrSave x0 x1 s = Host.Outcome.next t := by
  intros
  unfold execMtrSave
  repeat' first | with_reducible exact ⟨_, rfl⟩ | with_reducible refine ans_ite ?_ ?_ | dsimp only | split
theorem execThqSave_answers (s : State) : ∀ x0 x1 , ∃ t, execThqSave x0 x1 s = Host.Outcome.next t := by
  intros
  unfold execThqSave
  repeat' first | with_reducible exact ⟨_, rfl⟩ | with_reducible refine ans_ite ?_ ?_ | dsimp only | split
theorem execCounterSavePeriod_answers (s : State) : ∀ x0 , ∃ t, execCounterSavePeriod x0 s = Host.Outcome.next t := by
  intros
  unfold execCounterSavePeriod
  repeat' first | with_reducible exact ⟨_, rfl⟩ | with_reducible refine ans_ite ?_ ?_ | dsimp only | split
theorem execCounterLoRead_answers (s : State) : ∀ x0 x1 , ∃ t, execCounterLoRead x0 x1 s = Host.Outcome.next t := by
  intros
  unfold execCounterLoRead
  repeat' first | with_reducible exact ⟨_, rfl⟩ | with_reducible refine ans_ite ?_ ?_ | dsimp only | split
theorem execDiFilterChange_answers (s : State) : ∀ x0 x1 , ∃ t, execDiFilterChange x0 x1 s = Host.Outcome.next t := by
  intros
  unfold execDiFilterChange
  repeat' first | with_reducible exact ⟨_, rfl⟩ | with_reducible refine ans_ite ?_ ?_ | dsimp only | split
theorem execDiWireBreak_answers (s : State) : ∀ x0 , ∃ t, execDiWireBreak x0 s = Host.Outcome.next t := by
  intros
  unfold execDiWireBreak
  repeat' first | with_reducible exact ⟨_, rfl⟩ | with_reducible refine ans_ite ?_ ?_ | dsimp only | split
theorem execDiWireBreakEnd_answers (s : State) : ∀ x0 , ∃ t, execDiWireBreakEnd x0 s = Host.Outcome.next t := by
  intros
  unfold execDiWireBreakEnd
  repeat' first | with_reducible exact ⟨_, rfl⟩ | with_reducible refine ans_ite ?_ ?_ | dsimp only | split
theorem execDqSwitchOnSlot_answers (s : State) : ∃ t, execDqSwitchOnSlot s = Host.Outcome.next t := by
  unfold execDqSwitchOnSlot
  repeat' first | with_reducible exact ⟨_, rfl⟩ | with_reducible refine ans_ite ?_ ?_ | dsimp only | split
theorem execLplusLow_answers (s : State) : ∀ x0 , ∃ t, execLplusLow x0 s = Host.Outcome.next t := by
  intros
  unfold execLplusLow
  repeat' first | with_reducible exact ⟨_, rfl⟩ | with_reducible refine ans_ite ?_ ?_ | dsimp only | split
theorem execLplusReturn_answers (s : State) : ∀ x0 , ∃ t, execLplusReturn x0 s = Host.Outcome.next t := by
  intros
  unfold execLplusReturn
  repeat' first | with_reducible exact ⟨_, rfl⟩ | with_reducible refine ans_ite ?_ ?_ | dsimp only | split
theorem execDqOverload_answers (s : State) : ∀ x0 , ∃ t, execDqOverload x0 s = Host.Outcome.next t := by
  intros
  unfold execDqOverload
  repeat' first | with_reducible exact ⟨_, rfl⟩ | with_reducible refine ans_ite ?_ ?_ | dsimp only | split
theorem execDqOvertemp_answers (s : State) : ∀ x0 , ∃ t, execDqOvertemp x0 s = Host.Outcome.next t := by
  intros
  unfold execDqOvertemp
  repeat' first | with_reducible exact ⟨_, rfl⟩ | with_reducible refine ans_ite ?_ ?_ | dsimp only | split
theorem execDqCooled_answers (s : State) : ∀ x0 , ∃ t, execDqCooled x0 s = Host.Outcome.next t := by
  intros
  unfold execDqCooled
  repeat' first | with_reducible exact ⟨_, rfl⟩ | with_reducible refine ans_ite ?_ ?_ | dsimp only | split
theorem execDqOpenWire_answers (s : State) : ∀ x0 , ∃ t, execDqOpenWire x0 s = Host.Outcome.next t := by
  intros
  unfold execDqOpenWire
  repeat' first | with_reducible exact ⟨_, rfl⟩ | with_reducible refine ans_ite ?_ ?_ | dsimp only | split
theorem execDqOpenWireClear_answers (s : State) : ∀ x0 , ∃ t, execDqOpenWireClear x0 s = Host.Outcome.next t := by
  intros
  unfold execDqOpenWireClear
  repeat' first | with_reducible exact ⟨_, rfl⟩ | with_reducible refine ans_ite ?_ ?_ | dsimp only | split
theorem execDqClear_answers (s : State) : ∀ x0 x1 x2 , ∃ t, execDqClear x0 x1 x2 s = Host.Outcome.next t := by
  intros
  unfold execDqClear
  repeat' first | with_reducible exact ⟨_, rfl⟩ | with_reducible refine ans_ite ?_ ?_ | dsimp only | split
theorem execDiClrCnt_answers (s : State) : ∀ x0 x1 x2 , ∃ t, execDiClrCnt x0 x1 x2 s = Host.Outcome.next t := by
  intros
  unfold execDiClrCnt
  repeat' first | with_reducible exact ⟨_, rfl⟩ | with_reducible refine ans_ite ?_ ?_ | dsimp only | split
theorem execChestStoreCmd_answers (s : State) : ∀ x0 x1 x2 , ∃ t, execChestStoreCmd x0 x1 x2 s = Host.Outcome.next t := by
  intros
  unfold execChestStoreCmd
  repeat' first | with_reducible exact ⟨_, rfl⟩ | with_reducible refine ans_ite ?_ ?_ | dsimp only | split
theorem execChestBankStoreEnd_answers (s : State) : ∃ t, execChestBankStoreEnd s = Host.Outcome.next t := by
  unfold execChestBankStoreEnd
  repeat' first | with_reducible exact ⟨_, rfl⟩ | with_reducible refine ans_ite ?_ ?_ | dsimp only | split
theorem execChestMarginRead_answers (s : State) : ∀ x0 x1 x2 , ∃ t, execChestMarginRead x0 x1 x2 s = Host.Outcome.next t := by
  intros
  unfold execChestMarginRead
  repeat' first | with_reducible exact ⟨_, rfl⟩ | with_reducible refine ans_ite ?_ ?_ | dsimp only | split
theorem execChestProtWrite_answers (s : State) : ∀ x0 x1 , ∃ t, execChestProtWrite x0 x1 s = Host.Outcome.next t := by
  intros
  unfold execChestProtWrite
  repeat' first | with_reducible exact ⟨_, rfl⟩ | with_reducible refine ans_ite ?_ ?_ | dsimp only | split
theorem execChestLock_answers (s : State) : ∀ x0 , ∃ t, execChestLock x0 s = Host.Outcome.next t := by
  intros
  unfold execChestLock
  repeat' first | with_reducible exact ⟨_, rfl⟩ | with_reducible refine ans_ite ?_ ?_ | dsimp only | split
theorem execChestGroupOpen_answers (s : State) : ∀ x0 x1 x2 x3 x4 , ∃ t, execChestGroupOpen x0 x1 x2 x3 x4 s = Host.Outcome.next t := by
  intros
  unfold execChestGroupOpen
  repeat' first | with_reducible exact ⟨_, rfl⟩ | with_reducible refine ans_ite ?_ ?_ | dsimp only | split
theorem execChestGroupClose_answers (s : State) : ∀ x0 x1 x2 , ∃ t, execChestGroupClose x0 x1 x2 s = Host.Outcome.next t := by
  intros
  unfold execChestGroupClose
  repeat' first | with_reducible exact ⟨_, rfl⟩ | with_reducible refine ans_ite ?_ ?_ | dsimp only | split
theorem execChestGroupDiscard_answers (s : State) : ∀ x0 x1 x2 , ∃ t, execChestGroupDiscard x0 x1 x2 s = Host.Outcome.next t := by
  intros
  unfold execChestGroupDiscard
  repeat' first | with_reducible exact ⟨_, rfl⟩ | with_reducible refine ans_ite ?_ ?_ | dsimp only | split
theorem execChestGroupCommitApplied_answers (s : State) : ∀ x0 , ∃ t, execChestGroupCommitApplied x0 s = Host.Outcome.next t := by
  intros
  unfold execChestGroupCommitApplied
  repeat' first | with_reducible exact ⟨_, rfl⟩ | with_reducible refine ans_ite ?_ ?_ | dsimp only | split
theorem execPairRecordWrite_answers (s : State) : ∀ x0 x1 , ∃ t, execPairRecordWrite x0 x1 s = Host.Outcome.next t := by
  intros
  unfold execPairRecordWrite
  repeat' first | with_reducible exact ⟨_, rfl⟩ | with_reducible refine ans_ite ?_ ?_ | dsimp only | split
theorem execPairRecordRead_answers (s : State) : ∀ x0 x1 , ∃ t, execPairRecordRead x0 x1 s = Host.Outcome.next t := by
  intros
  unfold execPairRecordRead
  repeat' first | with_reducible exact ⟨_, rfl⟩ | with_reducible refine ans_ite ?_ ?_ | dsimp only | split
theorem execPairUnitDone_answers (s : State) : ∀ x0 , ∃ t, execPairUnitDone x0 s = Host.Outcome.next t := by
  intros
  unfold execPairUnitDone
  repeat' first | with_reducible exact ⟨_, rfl⟩ | with_reducible refine ans_ite ?_ ?_ | dsimp only | split
theorem execRecWatchSample_answers (s : State) : ∀ x0 , ∃ t, execRecWatchSample x0 s = Host.Outcome.next t := by
  intros
  unfold execRecWatchSample
  repeat' first | with_reducible exact ⟨_, rfl⟩ | with_reducible refine ans_ite ?_ ?_ | dsimp only | split
theorem execRecPeriodEnd_answers (s : State) : ∀ x0 , ∃ t, execRecPeriodEnd x0 s = Host.Outcome.next t := by
  intros
  unfold execRecPeriodEnd
  repeat' first | with_reducible exact ⟨_, rfl⟩ | with_reducible refine ans_ite ?_ ?_ | dsimp only | split
theorem execRecRaise_answers (s : State) : ∀ x0 x1 x2 , ∃ t, execRecRaise x0 x1 x2 s = Host.Outcome.next t := by
  intros
  unfold execRecRaise
  repeat' first | with_reducible exact ⟨_, rfl⟩ | with_reducible refine ans_ite ?_ ?_ | dsimp only | split
theorem execRecRaiseVal_answers (s : State) : ∀ x0 x1 , ∃ t, execRecRaiseVal x0 x1 s = Host.Outcome.next t := by
  intros
  unfold execRecRaiseVal
  repeat' first | with_reducible exact ⟨_, rfl⟩ | with_reducible refine ans_ite ?_ ?_ | dsimp only | split
theorem execRecTallyRewriteDue_answers (s : State) : ∀ x0 , ∃ t, execRecTallyRewriteDue x0 s = Host.Outcome.next t := by
  intros
  unfold execRecTallyRewriteDue
  repeat' first | with_reducible exact ⟨_, rfl⟩ | with_reducible refine ans_ite ?_ ?_ | dsimp only | split
theorem execRecRecordWrite_answers (s : State) : ∀ x0 , ∃ t, execRecRecordWrite x0 s = Host.Outcome.next t := by
  intros
  unfold execRecRecordWrite
  repeat' first | with_reducible exact ⟨_, rfl⟩ | with_reducible refine ans_ite ?_ ?_ | dsimp only | split
theorem execRecScanEnd_answers (s : State) : ∀ x0 , ∃ t, execRecScanEnd x0 s = Host.Outcome.next t := by
  intros
  unfold execRecScanEnd
  repeat' first | with_reducible exact ⟨_, rfl⟩ | with_reducible refine ans_ite ?_ ?_ | dsimp only | split
theorem execRecClear_answers (s : State) : ∀ x0 x1 , ∃ t, execRecClear x0 x1 s = Host.Outcome.next t := by
  intros
  unfold execRecClear
  repeat' first | with_reducible exact ⟨_, rfl⟩ | with_reducible refine ans_ite ?_ ?_ | dsimp only | split
theorem execRecClrCnt_answers (s : State) : ∀ x0 x1 , ∃ t, execRecClrCnt x0 x1 s = Host.Outcome.next t := by
  intros
  unfold execRecClrCnt
  repeat' first | with_reducible exact ⟨_, rfl⟩ | with_reducible refine ans_ite ?_ ?_ | dsimp only | split
theorem execKeyWrite_answers (s : State) : ∀ x0 x1 x2 , ∃ t, execKeyWrite x0 x1 x2 s = Host.Outcome.next t := by
  intros
  unfold execKeyWrite
  repeat' first | with_reducible exact ⟨_, rfl⟩ | with_reducible refine ans_ite ?_ ?_ | dsimp only | split
theorem execKeyErase_answers (s : State) : ∀ x0 x1 x2 , ∃ t, execKeyErase x0 x1 x2 s = Host.Outcome.next t := by
  intros
  unfold execKeyErase
  repeat' first | with_reducible exact ⟨_, rfl⟩ | with_reducible refine ans_ite ?_ ?_ | dsimp only | split
theorem execKeyDerive_answers (s : State) : ∀ x0 x1 x2 , ∃ t, execKeyDerive x0 x1 x2 s = Host.Outcome.next t := by
  intros
  unfold execKeyDerive
  repeat' first | with_reducible exact ⟨_, rfl⟩ | with_reducible refine ans_ite ?_ ?_ | dsimp only | split
theorem execKeyCmdDone_answers (s : State) : ∀ x0 , ∃ t, execKeyCmdDone x0 s = Host.Outcome.next t := by
  intros
  unfold execKeyCmdDone
  repeat' first | with_reducible exact ⟨_, rfl⟩ | with_reducible refine ans_ite ?_ ?_ | dsimp only | split
theorem execKeyForwardedOp_answers (s : State) : ∀ x0 , ∃ t, execKeyForwardedOp x0 s = Host.Outcome.next t := by
  intros
  unfold execKeyForwardedOp
  repeat' first | with_reducible exact ⟨_, rfl⟩ | with_reducible refine ans_ite ?_ ?_ | dsimp only | split
theorem execKeyScrub_answers (s : State) : ∀ x0 x1 x2 , ∃ t, execKeyScrub x0 x1 x2 s = Host.Outcome.next t := by
  intros
  unfold execKeyScrub
  repeat' first | with_reducible exact ⟨_, rfl⟩ | with_reducible refine ans_ite ?_ ?_ | dsimp only | split
theorem execAttest_answers (s : State) : ∀ x0 x1 , ∃ t, execAttest x0 x1 s = Host.Outcome.next t := by
  intros
  unfold execAttest
  repeat' first | with_reducible exact ⟨_, rfl⟩ | with_reducible refine ans_ite ?_ ?_ | dsimp only | split
theorem execAttestDone_answers (s : State) : ∀ x0 , ∃ t, execAttestDone x0 s = Host.Outcome.next t := by
  intros
  unfold execAttestDone
  repeat' first | with_reducible exact ⟨_, rfl⟩ | with_reducible refine ans_ite ?_ ?_ | dsimp only | split
theorem execSeedSet_answers (s : State) : ∀ x0 x1 , ∃ t, execSeedSet x0 x1 s = Host.Outcome.next t := by
  intros
  unfold execSeedSet
  repeat' first | with_reducible exact ⟨_, rfl⟩ | with_reducible refine ans_ite ?_ ?_ | dsimp only | split
theorem execAnchorProgram_answers (s : State) : ∀ x0 x1 x2 , ∃ t, execAnchorProgram x0 x1 x2 s = Host.Outcome.next t := by
  intros
  unfold execAnchorProgram
  repeat' first | with_reducible exact ⟨_, rfl⟩ | with_reducible refine ans_ite ?_ ?_ | dsimp only | split
theorem execAnchorRevoke_answers (s : State) : ∀ x0 x1 x2 , ∃ t, execAnchorRevoke x0 x1 x2 s = Host.Outcome.next t := by
  intros
  unfold execAnchorRevoke
  repeat' first | with_reducible exact ⟨_, rfl⟩ | with_reducible refine ans_ite ?_ ?_ | dsimp only | split
theorem execAnchorBurnDone_answers (s : State) : ∃ t, execAnchorBurnDone s = Host.Outcome.next t := by
  unfold execAnchorBurnDone
  repeat' first | with_reducible exact ⟨_, rfl⟩ | with_reducible refine ans_ite ?_ ?_ | dsimp only | split
theorem execHcHello_answers (s : State) : ∀ x0 , ∃ t, execHcHello x0 s = Host.Outcome.next t := by
  intros
  unfold execHcHello
  repeat' first | with_reducible exact ⟨_, rfl⟩ | with_reducible refine ans_ite ?_ ?_ | dsimp only | split
theorem execHcOpen_answers (s : State) : ∀ x0 , ∃ t, execHcOpen x0 s = Host.Outcome.next t := by
  intros
  unfold execHcOpen
  repeat' first | with_reducible exact ⟨_, rfl⟩ | with_reducible refine ans_ite ?_ ?_ | dsimp only | split
theorem execHcChallengeTimeout_answers (s : State) : ∃ t, execHcChallengeTimeout s = Host.Outcome.next t := by
  unfold execHcChallengeTimeout
  repeat' first | with_reducible exact ⟨_, rfl⟩ | with_reducible refine ans_ite ?_ ?_ | dsimp only | split
theorem execHcRequest_answers (s : State) : ∀ x0 , ∃ t, execHcRequest x0 s = Host.Outcome.next t := by
  intros
  unfold execHcRequest
  unfold rowHcRequest
  repeat' first | with_reducible exact ⟨_, rfl⟩ | with_reducible refine ans_ite ?_ ?_ | dsimp only | split
theorem execHcResponseConfirm_answers (s : State) : ∃ t, execHcResponseConfirm s = Host.Outcome.next t := by
  unfold execHcResponseConfirm
  repeat' first | with_reducible exact ⟨_, rfl⟩ | with_reducible refine ans_ite ?_ ?_ | dsimp only | split
theorem execHcEventFrameSend_answers (s : State) : ∃ t, execHcEventFrameSend s = Host.Outcome.next t := by
  unfold execHcEventFrameSend
  repeat' first | with_reducible exact ⟨_, rfl⟩ | with_reducible refine ans_ite ?_ ?_ | dsimp only | split
theorem execHcEventResend_answers (s : State) : ∃ t, execHcEventResend s = Host.Outcome.next t := by
  unfold execHcEventResend
  repeat' first | with_reducible exact ⟨_, rfl⟩ | with_reducible refine ans_ite ?_ ?_ | dsimp only | split
theorem execUartFrame_answers (s : State) : ∀ x0 , ∃ t, execUartFrame x0 s = Host.Outcome.next t := by
  intros
  unfold execUartFrame
  unfold rowUartFrame
  repeat' first | with_reducible exact ⟨_, rfl⟩ | with_reducible refine ans_ite ?_ ?_ | dsimp only | split
theorem execIndDataRead_answers (s : State) : ∀ x0 , ∃ t, execIndDataRead x0 s = Host.Outcome.next t := by
  intros
  unfold execIndDataRead
  repeat' first | with_reducible exact ⟨_, rfl⟩ | with_reducible refine ans_ite ?_ ?_ | dsimp only | split
theorem execIndDataWrite_answers (s : State) : ∀ x0 x1 , ∃ t, execIndDataWrite x0 x1 s = Host.Outcome.next t := by
  intros
  unfold execIndDataWrite
  repeat' first | with_reducible exact ⟨_, rfl⟩ | with_reducible refine ans_ite ?_ ?_ | dsimp only | split
theorem execIndWriteApplied_answers (s : State) : ∀ x0 , ∃ t, execIndWriteApplied x0 s = Host.Outcome.next t := by
  intros
  unfold execIndWriteApplied
  repeat' first | with_reducible exact ⟨_, rfl⟩ | with_reducible refine ans_ite ?_ ?_ | dsimp only | split
theorem execTvScrub_answers (s : State) : ∀ x0 x1 x2 x3 x4 , ∃ t, execTvScrub x0 x1 x2 x3 x4 s = Host.Outcome.next t := by
  intros
  unfold execTvScrub
  repeat' first | with_reducible exact ⟨_, rfl⟩ | with_reducible refine ans_ite ?_ ?_ | dsimp only | split
theorem execSnapTake_answers (s : State) : ∀ x0 x1 , ∃ t, execSnapTake x0 x1 s = Host.Outcome.next t := by
  intros
  unfold execSnapTake
  repeat' first | with_reducible exact ⟨_, rfl⟩ | with_reducible refine ans_ite ?_ ?_ | dsimp only | split
theorem execSnapCapture_answers (s : State) : ∃ t, execSnapCapture s = Host.Outcome.next t := by
  unfold execSnapCapture
  repeat' first | with_reducible exact ⟨_, rfl⟩ | with_reducible refine ans_ite ?_ ?_ | dsimp only | split
theorem execFrCmdStop_answers (s : State) : ∀ x0 x1 , ∃ t, execFrCmdStop x0 x1 s = Host.Outcome.next t := by
  intros
  unfold execFrCmdStop
  repeat' first | with_reducible exact ⟨_, rfl⟩ | with_reducible refine ans_ite ?_ ?_ | dsimp only | split
theorem execFrCmdRun_answers (s : State) : ∀ x0 x1 , ∃ t, execFrCmdRun x0 x1 s = Host.Outcome.next t := by
  intros
  unfold execFrCmdRun
  repeat' first | with_reducible exact ⟨_, rfl⟩ | with_reducible refine ans_ite ?_ ?_ | dsimp only | split
theorem execFrCmdSafe_answers (s : State) : ∀ x0 x1 , ∃ t, execFrCmdSafe x0 x1 s = Host.Outcome.next t := by
  intros
  unfold execFrCmdSafe
  repeat' first | with_reducible exact ⟨_, rfl⟩ | with_reducible refine ans_ite ?_ ?_ | dsimp only | split
theorem execFrSnap_answers (s : State) : ∀ x0 x1 , ∃ t, execFrSnap x0 x1 s = Host.Outcome.next t := by
  intros
  unfold execFrSnap
  repeat' first | with_reducible exact ⟨_, rfl⟩ | with_reducible refine ans_ite ?_ ?_ | dsimp only | split
theorem execEvtQPop_answers (s : State) : ∀ x0 x1 x2 , ∃ t, execEvtQPop x0 x1 x2 s = Host.Outcome.next t := by
  intros
  unfold execEvtQPop
  repeat' first | with_reducible exact ⟨_, rfl⟩ | with_reducible refine ans_ite ?_ ?_ | dsimp only | split
theorem execSprintEnter_answers (s : State) : ∀ x0 x1 , ∃ t, execSprintEnter x0 x1 s = Host.Outcome.next t := by
  intros
  unfold execSprintEnter
  repeat' first | with_reducible exact ⟨_, rfl⟩ | with_reducible refine ans_ite ?_ ?_ | dsimp only | split
theorem execSprintLeave_answers (s : State) : ∀ x0 x1 , ∃ t, execSprintLeave x0 x1 s = Host.Outcome.next t := by
  intros
  unfold execSprintLeave
  repeat' first | with_reducible exact ⟨_, rfl⟩ | with_reducible refine ans_ite ?_ ?_ | dsimp only | split
theorem execSprintPointReached_answers (s : State) : ∀ x0 , ∃ t, execSprintPointReached x0 s = Host.Outcome.next t := by
  intros
  unfold execSprintPointReached
  repeat' first | with_reducible exact ⟨_, rfl⟩ | with_reducible refine ans_ite ?_ ?_ | dsimp only | split
theorem execSprintBudgetBin_answers (s : State) : ∀ x0 , ∃ t, execSprintBudgetBin x0 s = Host.Outcome.next t := by
  intros
  unfold execSprintBudgetBin
  repeat' first | with_reducible exact ⟨_, rfl⟩ | with_reducible refine ans_ite ?_ ?_ | dsimp only | split
theorem execJunctionLimit_answers (s : State) : ∀ x0 x1 , ∃ t, execJunctionLimit x0 x1 s = Host.Outcome.next t := by
  intros
  unfold execJunctionLimit
  repeat' first | with_reducible exact ⟨_, rfl⟩ | with_reducible refine ans_ite ?_ ?_ | dsimp only | split
theorem execBackplateLimit_answers (s : State) : ∀ x0 , ∃ t, execBackplateLimit x0 s = Host.Outcome.next t := by
  intros
  unfold execBackplateLimit
  repeat' first | with_reducible exact ⟨_, rfl⟩ | with_reducible refine ans_ite ?_ ?_ | dsimp only | split
theorem execSprintStepDown_answers (s : State) : ∀ x0 , ∃ t, execSprintStepDown x0 s = Host.Outcome.next t := by
  intros
  unfold execSprintStepDown
  repeat' first | with_reducible exact ⟨_, rfl⟩ | with_reducible refine ans_ite ?_ ?_ | dsimp only | split
theorem execBackplateWarnCross_answers (s : State) : ∀ x0 , ∃ t, execBackplateWarnCross x0 s = Host.Outcome.next t := by
  intros
  unfold execBackplateWarnCross
  repeat' first | with_reducible exact ⟨_, rfl⟩ | with_reducible refine ans_ite ?_ ?_ | dsimp only | split
theorem execCanBusIntegrated_answers (s : State) : ∀ x0 , ∃ t, execCanBusIntegrated x0 s = Host.Outcome.next t := by
  intros
  unfold execCanBusIntegrated
  repeat' first | with_reducible exact ⟨_, rfl⟩ | with_reducible refine ans_ite ?_ ?_ | dsimp only | split
theorem execCanRxError_answers (s : State) : ∀ x0 x1 x2 , ∃ t, execCanRxError x0 x1 x2 s = Host.Outcome.next t := by
  intros
  unfold execCanRxError
  repeat' first | with_reducible exact ⟨_, rfl⟩ | with_reducible refine ans_ite ?_ ?_ | dsimp only | split
theorem execAxFltNHigh_answers (s : State) : ∀ x0 , ∃ t, execAxFltNHigh x0 s = Host.Outcome.next t := by
  intros
  unfold execAxFltNHigh
  repeat' first | with_reducible exact ⟨_, rfl⟩ | with_reducible refine ans_ite ?_ ?_ | dsimp only | split
theorem execHoldupBankSpent_answers (s : State) : ∃ t, execHoldupBankSpent s = Host.Outcome.next t := by
  unfold execHoldupBankSpent
  repeat' first | with_reducible exact ⟨_, rfl⟩ | with_reducible refine ans_ite ?_ ?_ | dsimp only | split
theorem execChestWrite_answers (s : State) : ∀ x0 x1 x2 x3 , ∃ t, execChestWrite x0 x1 x2 x3 s = Host.Outcome.next t := by
  intros
  unfold execChestWrite
  repeat' first | with_reducible exact ⟨_, rfl⟩ | with_reducible refine ans_ite ?_ ?_ | dsimp only | split
theorem execAutoResetAgeOut_answers (s : State) : ∃ t, execAutoResetAgeOut s = Host.Outcome.next t := by
  unfold execAutoResetAgeOut
  repeat' first | with_reducible exact ⟨_, rfl⟩ | with_reducible refine ans_ite ?_ ?_ | dsimp only | split
theorem execKeygenDone_answers (s : State) : ∀ x0 , ∃ t, execKeygenDone x0 s = Host.Outcome.next t := by
  intros
  unfold execKeygenDone
  repeat' first | with_reducible exact ⟨_, rfl⟩ | with_reducible refine ans_ite ?_ ?_ | dsimp only | split

end Sys2Proof.Machine
end

