-- ==== Sys2Proof/Laws/Bits.lean ====
section
/-! SUPPORT. Laws/Bits.lean: bit fields read back as they were written, and no other bit moves. -/
namespace Sys2Proof.Machine

theorem maskOf_bit {lo n i : Nat} (h : lo + n ≤ 32) (hi : i < 32) :
    (maskOf lo n).getLsbD i = (decide (lo ≤ i) && decide (i < lo + n)) := by
  simp only [maskOf, BitVec.getLsbD_ofNat, hi, decide_true, Bool.true_and, Nat.testBit_shiftLeft, Nat.testBit_two_pow_sub_one, ge_iff_le]
  by_cases h1 : lo ≤ i
  · simp only [h1, decide_true, Bool.true_and]
    congr 1
    simp only [eq_iff_iff]
    omega
  · simp [h1]

/-- Bits of a word with a field replaced. -/
theorem withField_bit (w : Word) {lo n v i : Nat} (h : lo + n ≤ 32) (hi : i < 32) :
    (withField w lo n v).getLsbD i = if lo ≤ i ∧ i < lo + n then (v % 2 ^ n).testBit (i - lo) else w.getLsbD i := by
  simp only [withField, BitVec.getLsbD_or, BitVec.getLsbD_and, BitVec.getLsbD_not, hi, decide_true, Bool.true_and,
    maskOf_bit h hi, BitVec.getLsbD_ofNat, Nat.testBit_shiftLeft, ge_iff_le]
  by_cases h1 : lo ≤ i
  · by_cases h2 : i < lo + n
    · simp [h1, h2]
    · have : (v % 2 ^ n).testBit (i - lo) = false := by
        apply Nat.testBit_lt_two_pow
        exact Nat.lt_of_lt_of_le (Nat.mod_lt _ (Nat.two_pow_pos n)) (Nat.pow_le_pow_right (by decide) (by omega))
      simp [h1, h2, this]
  · simp [h1]

theorem fieldOf_bit (w : Word) (lo n j : Nat) : (fieldOf w lo n).testBit j = (decide (j < n) && w.getLsbD (lo + j)) := by
  simp [fieldOf, Nat.testBit_mod_two_pow, Nat.testBit_shiftRight, BitVec.getLsbD]

/-- A field reads as what was written into it. -/
theorem fieldOf_withField (w : Word) {lo n v : Nat} (h : lo + n ≤ 32) : fieldOf (withField w lo n v) lo n = v % 2 ^ n := by
  apply Nat.eq_of_testBit_eq
  intro j
  rw [fieldOf_bit, Nat.testBit_mod_two_pow]
  by_cases hj : j < n
  · rw [withField_bit w h (by omega), if_pos (by omega), Nat.testBit_mod_two_pow]
    simp [hj]
  · simp [hj]

/-- Another field stands. -/
theorem fieldOf_withField_ne (w : Word) {lo n v lo' n' : Nat} (h : lo + n ≤ 32) (h' : lo' + n' ≤ 32) (d : lo' + n' ≤ lo ∨ lo + n ≤ lo') :
    fieldOf (withField w lo n v) lo' n' = fieldOf w lo' n' := by
  apply Nat.eq_of_testBit_eq
  intro j
  rw [fieldOf_bit, fieldOf_bit]
  by_cases hj : j < n'
  · rw [withField_bit w h (by omega), if_neg (by omega)]
  · simp [hj]

/-- Another bit stands. -/
theorem bitOf_withField_ne (w : Word) {lo n v i : Nat} (h : lo + n ≤ 32) (hi : i < 32) (d : i < lo ∨ lo + n ≤ i) :
    bitOf (withField w lo n v) i = bitOf w i := by
  unfold bitOf
  rw [withField_bit w h hi, if_neg (by omega)]

/-- A bit reads as it was written. -/
theorem bitOf_withField (w : Word) {i : Nat} (b : Bool) (hi : i < 32) : bitOf (withField w i 1 (bit b)) i = b := by
  unfold bitOf
  rw [withField_bit w (by omega) hi, if_pos (by omega)]
  cases b <;> simp [bit]

end Sys2Proof.Machine
end

