-- ==== Sys2Proof/Laws/Calm.lean ====
section
/-! SUPPORT. Laws/Calm.lean: what commands that have nothing to do with modes, supply, the image flash or the boot leave alone,
said as one relation and closed under the operations of Machine/Ops.lean. -/
namespace Sys2Proof.Machine

variable {s0 s t : State} {L : Lane}

def ModeCalm (s0 : State) (m : ModeUnit) : Prop := s0.mode.mode.drift m.mode
def SupplyCalm (s0 : State) (u : Supply) : Prop := u = s0.supply
def FlashCalm (s0 : State) (u : Flash) : Prop := u = s0.flash
def BootCalm (s0 : State) (u : Option BootSt) : Prop := u = s0.boot

@[simp ↓] theorem modeCalm_mk {m p pe a h hf t} : ModeCalm s0 (ModeUnit.mk m p pe a h hf t) ↔ s0.mode.mode.drift m := ⟨id, id⟩
@[simp ↓] theorem calm_mk {p tb m b la lb f li ch k fl lo su r tw he ho u re pr fr} :
    Calm s0 (State.mk p tb m b la lb f li ch k fl lo su r tw he ho u re pr fr) ↔
      ModeCalm s0 m ∧ SupplyCalm s0 su ∧ FlashCalm s0 fl ∧ BootCalm s0 b :=
  ⟨id, id⟩
@[simp ↓] theorem Calm.mode_on (h : Calm s0 s) : ModeCalm s0 s.mode := h.1
@[simp ↓] theorem Calm.drift_on (h : Calm s0 s) : s0.mode.mode.drift s.mode.mode := h.1
@[simp ↓] theorem Calm.supply_on (h : Calm s0 s) : SupplyCalm s0 s.supply := h.2.1
@[simp ↓] theorem Calm.flash_on (h : Calm s0 s) : FlashCalm s0 s.flash := h.2.2.1
@[simp ↓] theorem Calm.boot_on (h : Calm s0 s) : BootCalm s0 s.boot := h.2.2.2

theorem drift_trans {m n k : Mode} (h : m.drift n) (g : n.drift k) : m.drift k := by
  rcases h with rfl | ⟨rfl, rfl⟩
  · exact g
  · rcases g with rfl | ⟨h, _⟩
    · exact .inr ⟨rfl, rfl⟩
    · cases h
theorem calm_refl (s : State) : Calm s s := ⟨.inl rfl, rfl, rfl, rfl⟩
theorem calm_trans {u : State} (h : Calm s t) (g : Calm t u) : Calm s u :=
  ⟨drift_trans h.1 g.1, g.2.1.trans h.2.1, g.2.2.1.trans h.2.2.1, g.2.2.2.trans h.2.2.2⟩

/-- A meaning's answer, if it is a next state, is calm. -/
def OutCalm (s0 : State) (o : Out) : Prop := ∀ t, o = .next t → Calm s0 t
def OptCalm (s0 : State) (o : Option State) : Prop := ∀ t, o = some t → Calm s0 t

@[simp ↓] theorem calm_ite {c : Prop} [Decidable c] (ha : Calm s0 s) (hb : Calm s0 t) : Calm s0 (if c then s else t) := by
  split
  · exact ha
  · exact hb
@[simp ↓] theorem calm_ite_fst {γ : Type} {c : Prop} [Decidable c] {a b : State × γ} (ha : Calm s0 a.1) (hb : Calm s0 b.1) :
    Calm s0 (if c then a else b).1 := by
  split
  · exact ha
  · exact hb
@[simp ↓] theorem calm_ite_snd {γ : Type} {c : Prop} [Decidable c] {a b : γ × State} (ha : Calm s0 a.2) (hb : Calm s0 b.2) :
    Calm s0 (if c then a else b).2 := by
  split
  · exact ha
  · exact hb
@[simp ↓] theorem outCalm_next (h : Calm s0 s) : OutCalm s0 (.next s) := fun _ e => by cases e; exact h
@[simp ↓] theorem outCalm_ite {c : Prop} [Decidable c] {a b : Out} (ha : OutCalm s0 a) (hb : OutCalm s0 b) :
    OutCalm s0 (if c then a else b) := by
  split
  · exact ha
  · exact hb
@[simp ↓] theorem optCalm_some (h : Calm s0 s) : OptCalm s0 (some s) := fun _ e => by cases e; exact h
@[simp ↓] theorem optCalm_none : OptCalm s0 none := fun _ e => absurd e (by simp)
@[simp ↓] theorem optCalm_ite {c : Prop} [Decidable c] {a b : Option State} (ha : OptCalm s0 a) (hb : OptCalm s0 b) :
    OptCalm s0 (if c then a else b) := by
  split
  · exact ha
  · exact hb

theorem foldl_calm {α β : Type} {P : β → Prop} {f : β → α → β} (hf : ∀ b a, P b → P (f b a)) (xs : List α) {b : β} (h : P b) :
    P (xs.foldl f b) := by
  induction xs generalizing b with
  | nil => exact h
  | cons x t ih => exact ih (hf _ _ h)
@[simp ↓] theorem calm_foldl {α : Type} {f : State → α → State} {xs : List α} (h : Calm s0 s)
    (hf : ∀ s a, Calm s0 s → Calm s0 (f s a)) : Calm s0 (xs.foldl f s) := foldl_calm hf xs h
@[simp ↓] theorem calm_foldl_fst {α γ : Type} {f : State × γ → α → State × γ} {xs : List α} {p : State × γ} (h : Calm s0 p.1)
    (hf : ∀ p a, Calm s0 p.1 → Calm s0 (f p a).1) : Calm s0 (xs.foldl f p).1 :=
  foldl_calm (P := fun p : State × γ => Calm s0 p.1) hf xs h

@[simp ↓] theorem State.setLane_calm (h : Calm s0 s) {l : LaneId} {L : Lane} : Calm s0 (s.setLane l L) := by
  cases l <;> exact h
@[simp ↓] theorem State.upd_calm (h : Calm s0 s) {l : LaneId} {f : Lane → Lane} : Calm s0 (s.upd l f) := State.setLane_calm h
@[simp ↓] theorem State.updBoth_calm (h : Calm s0 s) {f : Lane → Lane} : Calm s0 (s.updBoth f) := State.upd_calm (State.upd_calm h)
@[simp ↓] theorem State.each_calm (h : Calm s0 s) {ls : List LaneId} {f : LaneId → State → State}
    (hf : ∀ l s, Calm s0 s → Calm s0 (f l s)) : Calm s0 (s.each ls f) := foldl_calm (P := Calm s0) (fun _ _ h => hf _ _ h) ls h
@[simp ↓] theorem State.ticks_calm (h : Calm s0 s) {n : Nat} : Calm s0 (s.ticks n) := h
@[simp ↓] theorem State.advTo_calm (h : Calm s0 s) {d : Nat} : Calm s0 (s.advTo d) := calm_ite h (State.ticks_calm h)
@[simp ↓] theorem State.advRun_calm (h : Calm s0 s) {d : Nat} : Calm s0 (s.advRun d) := calm_ite h (State.ticks_calm h)
@[simp ↓] theorem State.raise_calm (h : Calm s0 s) {l : LaneId} {id idx sub : Nat} : Calm s0 (s.raise l id idx sub) :=
  calm_ite (State.upd_calm h) h
@[simp ↓] theorem State.raiseUp_calm (h : Calm s0 s) {id idx sub : Nat} : Calm s0 (s.raiseUp id idx sub) :=
  State.each_calm h fun _ _ hs => State.raise_calm hs
@[simp ↓] theorem State.ok_calm (h : Calm s0 s) {w : Word} : Calm s0 (s.ok w) := h
@[simp ↓] theorem State.busErr_calm (h : Calm s0 s) : Calm s0 s.busErr := h
@[simp ↓] theorem State.refuse_calm (h : Calm s0 s) {l : LaneId} {ev idx : Nat} : Calm s0 (s.refuse l ev idx) := State.raise_calm h
@[simp ↓] theorem State.fresh_calm (h : Calm s0 s) : Calm s0 s.fresh.2 := h
@[simp ↓] theorem State.freshBytes_calm (h : Calm s0 s) {n : Nat} : Calm s0 (s.freshBytes n).2 := h

@[simp ↓] theorem State.perLaneIn_calm (h : Calm s0 s) {ls : List LaneId} {f : LaneId → State → State} (hf : ∀ l s, Calm s0 s → Calm s0 (f l s)) :
    Calm s0 (s.perLaneIn ls f) := by
  unfold State.perLaneIn
  split
  · exact h
  · exact hf _ _ h
  · have h1 := State.each_calm h (ls := ls.filter (· != s.act)) hf
    exact calm_ite (hf s.act _ h1) h1
@[simp ↓] theorem State.perLane_calm (h : Calm s0 s) {src : Src} {f : LaneId → State → State} (hf : ∀ l s, Calm s0 s → Calm s0 (f l s)) :
    Calm s0 (s.perLane src f) := State.perLaneIn_calm h hf
@[simp ↓] theorem State.joined_calm (h : Calm s0 s) {src : Src} {a : Nat} {w : Word} {f : State → State} (hf : ∀ s, Calm s0 s → Calm s0 (f s)) :
    Calm s0 (s.joined src a w f) := by
  have h1 := hf _ h
  unfold State.joined
  split
  · split
    · split
      · exact h
      · exact h1
    · exact h1
  · exact h1
@[simp ↓] theorem State.indFail_calm (h : Calm s0 s) {src : Src} {err : Nat} : Calm s0 (s.indFail src err) := by
  unfold State.indFail State.indFailIn
  exact State.each_calm h fun _ _ hs => State.raise_calm (State.upd_calm hs)

end Sys2Proof.Machine
end

