-- ==== Sys2Proof/Laws/Sparse.lean ====
section
/-! SUPPORT. Laws/Sparse.lean: the canonical form of a finite map, that every operation keeps it, and what a map reads
after an operation. -/
namespace Sys2Proof.Machine

variable {β : Type} [DecidableEq β] {dflt : Nat → β}

/-- Canonical above a bound is canonical above none, and above a smaller bound. -/
theorem spWf_of_bound {lo : Option Nat} {lo' : Nat} {m : List (Nat × β)} (h : spWf dflt (some lo') m = true)
    (hl : ∀ l, lo = some l → l ≤ lo') : spWf dflt lo m = true := by
  cases m with
  | nil => rfl
  | cons c t =>
    simp only [spWf, Bool.and_eq_true, decide_eq_true_eq] at h ⊢
    refine ⟨⟨?_, h.1.2⟩, h.2⟩
    cases lo with
    | none => rfl
    | some l => exact decide_eq_true (Nat.lt_of_le_of_lt (hl l rfl) h.1.1)

theorem spCons_wf {lo : Option Nat} {a : Nat} {v : β} {t : List (Nat × β)} (ht : spWf dflt (some a) t = true)
    (hl : ∀ l, lo = some l → l < a) : spWf dflt lo (spCons dflt a v t) = true := by
  unfold spCons
  split
  · exact spWf_of_bound ht fun l e => Nat.le_of_lt (hl l e)
  · rename_i hv
    simp only [spWf, Bool.and_eq_true, decide_eq_true_eq]
    refine ⟨⟨?_, hv⟩, ht⟩
    cases lo with
    | none => rfl
    | some l => exact decide_eq_true (hl l rfl)

/-- Setting a key keeps the canonical form. -/
theorem spSet_wf {lo : Option Nat} {m : List (Nat × β)} {a : Nat} {v : β} (h : spWf dflt lo m = true)
    (hl : ∀ l, lo = some l → l < a) : spWf dflt lo (spSet dflt m a v) = true := by
  induction m generalizing lo with
  | nil => exact spCons_wf rfl hl
  | cons c t ih =>
    obtain ⟨k, w⟩ := c
    have h' := h
    simp only [spWf, Bool.and_eq_true, decide_eq_true_eq] at h
    unfold spSet
    split
    · rename_i e
      subst e
      exact spCons_wf h.2 hl
    · split
      · rename_i lt
        refine spCons_wf ?_ hl
        simp only [spWf, Bool.and_eq_true, decide_eq_true_eq]
        exact ⟨⟨lt, h.1.2⟩, h.2⟩
      · simp only [spWf, Bool.and_eq_true, decide_eq_true_eq]
        exact ⟨h.1, ih h.2 fun l e => by cases e; omega⟩

/-- Dropping entries keeps the canonical form. -/
theorem filter_wf {lo : Option Nat} {m : List (Nat × β)} (p : Nat × β → Bool) (h : spWf dflt lo m = true) :
    spWf dflt lo (m.filter p) = true := by
  induction m generalizing lo with
  | nil => exact h
  | cons c t ih =>
    obtain ⟨k, w⟩ := c
    simp only [spWf, Bool.and_eq_true, decide_eq_true_eq] at h
    rw [List.filter_cons]
    split
    · simp only [spWf, Bool.and_eq_true, decide_eq_true_eq]
      exact ⟨h.1, ih h.2⟩
    · refine spWf_of_bound (ih h.2) fun l e => ?_
      subst e
      exact Nat.le_of_lt (of_decide_eq_true h.1.1)

theorem spErase_wf {lo : Option Nat} {m : List (Nat × β)} {a b : Nat} (h : spWf dflt lo m = true) :
    spWf dflt lo (spErase m a b) = true := filter_wf _ h

theorem spPart_wf {lo : Option Nat} {m : List (Nat × β)} {a b : Nat} (h : spWf dflt lo m = true) :
    spWf dflt lo (spPart m a b) = true := filter_wf _ h

/-- Two canonical maps, the first below a bound and the second from it on, join to a canonical one. -/
theorem append_wf {lo : Option Nat} {m n : List (Nat × β)} {b : Nat} (hm : spWf dflt lo m = true) (hn : spWf dflt none n = true)
    (lm : ∀ c ∈ m, c.1 < b) (ln : ∀ c ∈ n, b ≤ c.1) (hb : ∀ l, lo = some l → l < b) : spWf dflt lo (m ++ n) = true := by
  induction m generalizing lo with
  | nil =>
    cases n with
    | nil => rfl
    | cons c t =>
      simp only [List.nil_append, spWf, Bool.and_eq_true, decide_eq_true_eq] at hn ⊢
      refine ⟨⟨?_, hn.1.2⟩, hn.2⟩
      cases lo with
      | none => rfl
      | some l => exact decide_eq_true (Nat.lt_of_lt_of_le (hb l rfl) (ln c (by simp)))
  | cons c t ih =>
    simp only [List.cons_append, spWf, Bool.and_eq_true, decide_eq_true_eq] at hm ⊢
    refine ⟨hm.1, ih hm.2 (fun d hd => lm d (by simp [hd])) fun l e => ?_⟩
    cases e
    exact lm c (by simp)

theorem spCopy_wf {m src : List (Nat × β)} {lo hi : Nat} (le : lo ≤ hi) (hm : spWf dflt none m = true)
    (hs : spWf dflt none src = true) : spWf dflt none (spCopy m src lo hi) = true := by
  unfold spCopy
  rw [List.append_assoc]
  refine append_wf (b := lo) (spPart_wf hm) (append_wf (b := hi) (spPart_wf hs) (filter_wf _ hm) ?_ ?_ nofun) ?_ ?_ nofun
  · intro c hc
    have := (List.mem_filter.1 hc).2
    simp only [Bool.and_eq_true, decide_eq_true_eq] at this
    exact this.2
  · intro c hc
    exact of_decide_eq_true (List.mem_filter.1 hc).2
  · intro c hc
    have := (List.mem_filter.1 hc).2
    simp only [Bool.and_eq_true, decide_eq_true_eq] at this
    exact this.2
  · intro c hc
    rcases List.mem_append.1 hc with h | h
    · have := (List.mem_filter.1 h).2
      simp only [Bool.and_eq_true, decide_eq_true_eq] at this
      exact this.1
    · exact Nat.le_trans le (of_decide_eq_true (List.mem_filter.1 h).2)

/-! What a map reads. -/

theorem spGet_below {m : List (Nat × β)} {l a : Nat} (h : spWf dflt (some l) m = true) (ha : a ≤ l) :
    spGet dflt m a = dflt a := by
  cases m with
  | nil => rfl
  | cons c t =>
    simp only [spWf, Bool.and_eq_true, decide_eq_true_eq] at h
    have := h.1.1
    simp only [spGet]
    rw [if_neg (by omega), if_pos (by omega)]

theorem spGet_spCons {a b : Nat} {v : β} {t : List (Nat × β)} (ht : spWf dflt (some a) t = true) :
    spGet dflt (spCons dflt a v t) b = if b = a then v else if b < a then dflt b else spGet dflt t b := by
  unfold spCons
  split
  · rename_i hv
    split
    · rename_i e
      subst e
      rw [spGet_below ht (Nat.le_refl _), hv]
    · split
      · exact spGet_below ht (by omega)
      · rfl
  · rfl

/-- Read after write: the key written reads the value, every other key as before. -/
theorem spGet_spSet {lo : Option Nat} {m : List (Nat × β)} {a b : Nat} {v : β} (h : spWf dflt lo m = true) :
    spGet dflt (spSet dflt m a v) b = if b = a then v else spGet dflt m b := by
  induction m generalizing lo with
  | nil =>
    simp only [spSet, spGet]
    rw [spGet_spCons rfl]
    simp [spGet]
  | cons c t ih =>
    obtain ⟨k, w⟩ := c
    simp only [spWf, Bool.and_eq_true, decide_eq_true_eq] at h
    unfold spSet
    split
    · rename_i e
      subst e
      rw [spGet_spCons h.2]
      by_cases hb : b = a
      · simp [hb]
      · simp [spGet, hb]
    · split
      · rename_i ne lt
        rw [spGet_spCons (by simp only [spWf, Bool.and_eq_true, decide_eq_true_eq]; exact ⟨⟨lt, h.1.2⟩, h.2⟩)]
        by_cases hb : b = a
        · simp [hb]
        · rw [if_neg hb, if_neg hb]
          split
          · simp only [spGet]
            rw [if_neg (by omega), if_pos (by omega)]
          · rfl
      · rename_i ne nlt
        simp only [spGet]
        rw [ih h.2]
        by_cases hb : b = a
        · subst hb
          rw [if_neg ne, if_neg nlt, if_pos rfl, if_pos rfl]
        · rw [if_neg hb, if_neg hb]

/-! Byte memories. -/

theorem memSet_wf {m : Mem} {a : Nat} {v : Byte} (h : m.wf = true) : Mem.wf (memSet m a v) = true :=
  spSet_wf h nofun

theorem memWrite_wf {m : Mem} {a : Nat} {bs : Bytes} (h : m.wf = true) : Mem.wf (memWrite m a bs) = true := by
  induction bs generalizing m a with
  | nil => exact h
  | cons b bs ih => exact ih (memSet_wf h)

/-- A byte outside the string written reads as before; a byte of it reads what was written. -/
theorem memGet_memWrite {m : Mem} {a b : Nat} {bs : Bytes} (h : m.wf = true) :
    memGet (memWrite m a bs) b = if a ≤ b ∧ b < a + bs.length then bs.getD (b - a) 0 else memGet m b := by
  induction bs generalizing m a with
  | nil =>
    rw [if_neg (by simp only [List.length_nil]; omega)]
    rfl
  | cons x bs ih =>
    simp only [memWrite, List.length_cons]
    rw [ih (memSet_wf h)]
    have hs : memGet (memSet m a x) b = if b = a then x else memGet m b := spGet_spSet (dflt := zeroByte) h
    rw [hs]
    by_cases hb : b = a
    · subst hb
      rw [if_neg (by omega), if_pos rfl, if_pos (by omega)]
      simp
    · rw [if_neg hb]
      by_cases hr : a + 1 ≤ b ∧ b < a + 1 + bs.length
      · rw [if_pos hr, if_pos (by omega)]
        have : b - a = (b - (a + 1)) + 1 := by omega
        rw [this, List.getD_cons_succ]
      · rw [if_neg hr, if_neg (by omega)]

end Sys2Proof.Machine
end

