-- ==== Sys2Proof/Laws/Keeps.lean ====
section
/-! SUPPORT. Laws/Keeps.lean: what every command keeps, said as one relation between a state `s0` and a state `t` reached
from it, and the closure of that relation under the operations of Machine/Ops.lean. -/
namespace Sys2Proof.Machine

/-! One predicate per component: sound whenever `s0` was. -/

def RfOn (s0 : State) (m : List (Nat × Word)) : Prop := s0.wf → rfWf m = true
def MemOn (s0 : State) (m : Mem) : Prop := s0.wf → m.wf = true
def EvtOn (s0 : State) (u : EvtUnit) : Prop := s0.wf → u.wf
def LaneOn (s0 : State) (L : Lane) : Prop := RfOn s0 L.rf ∧ MemOn s0 L.mem ∧ MemOn s0 L.mirror ∧ EvtOn s0 L.evt
def BankOn (s0 : State) (b : Bank) : Prop := MemOn s0 b.p0.data ∧ MemOn s0 b.p1.data
def BanksOn (s0 : State) (v : Vector Bank 8) : Prop := ∀ b : Fin 8, BankOn s0 v[b]
def ChestOn (s0 : State) (c : Chest) : Prop := MemOn s0 c.array ∧ BanksOn s0 c.banks
def CellsOn (s0 : State) (m : Mem) : Prop := s0.wf → m.flashWf = true
def FlashOn (s0 : State) (f : Flash) : Prop := CellsOn s0 f.cells
/-- One-time-programmable bits are only ever gained. -/
def OtpOn (s0 : State) (v : Vector Anchor 4) (burn : Option (Bool × Fin 4)) : Prop :=
  s0.keeper.burnWf → (∀ a : Fin 4, burn = some (false, a) → v[a].programmed = false) ∧ ∀ a : Fin 4, s0.keeper.anchors[a].onward v[a]
def KeeperOn (s0 : State) (k : Keeper) : Prop := RfOn s0 k.slow ∧ OtpOn s0 k.anchors k.burn
def QueueOn (s0 : State) (q : List Instr) : Prop := q = s0.pending
def RunOn (s0 : State) (n : Nat) : Prop := s0.tb.run ≤ n
def TimeOn (s0 : State) (tb : TimeBase) : Prop := RunOn s0 tb.run

/-- `t` is reached from `s0`: same queue, no earlier, sound if `s0` was, nothing burnt undone. -/
structure Keeps (s0 t : State) : Prop where
  queue : QueueOn s0 t.pending
  time : TimeOn s0 t.tb
  laneA : LaneOn s0 t.laneA
  laneB : LaneOn s0 t.laneB
  chest : ChestOn s0 t.chest
  keeper : KeeperOn s0 t.keeper
  flash : FlashOn s0 t.flash

/-- A meaning's answer, if it is a next state, keeps all that. -/
def OutOn (s0 : State) (o : Out) : Prop := ∀ t, o = .next t → Keeps s0 t
def OptOn (s0 : State) (o : Option State) : Prop := ∀ t, o = some t → Keeps s0 t

variable {s0 s t : State} {L : Lane}

@[simp ↓] theorem Keeps.queue_on (h : Keeps s0 s) : QueueOn s0 s.pending := h.queue
@[simp ↓] theorem Keeps.time_on (h : Keeps s0 s) : TimeOn s0 s.tb := h.time
@[simp ↓] theorem Keeps.laneA_on (h : Keeps s0 s) : LaneOn s0 s.laneA := h.laneA
@[simp ↓] theorem Keeps.laneB_on (h : Keeps s0 s) : LaneOn s0 s.laneB := h.laneB
@[simp ↓] theorem Keeps.chest_on (h : Keeps s0 s) : ChestOn s0 s.chest := h.chest
@[simp ↓] theorem Keeps.keeper_on (h : Keeps s0 s) : KeeperOn s0 s.keeper := h.keeper
@[simp ↓] theorem Keeps.flash_on (h : Keeps s0 s) : FlashOn s0 s.flash := h.flash
@[simp ↓] theorem LaneOn.rf_on (h : LaneOn s0 L) : RfOn s0 L.rf := h.1
@[simp ↓] theorem LaneOn.mem_on (h : LaneOn s0 L) : MemOn s0 L.mem := h.2.1
@[simp ↓] theorem LaneOn.mirror_on (h : LaneOn s0 L) : MemOn s0 L.mirror := h.2.2.1
@[simp ↓] theorem LaneOn.evt_on (h : LaneOn s0 L) : EvtOn s0 L.evt := h.2.2.2

@[simp ↓] theorem keeps_mk {p tb m b la lb f li ch k fl lo su r tw he ho u re pr fr} :
    Keeps s0 (State.mk p tb m b la lb f li ch k fl lo su r tw he ho u re pr fr) ↔
      QueueOn s0 p ∧ TimeOn s0 tb ∧ LaneOn s0 la ∧ LaneOn s0 lb ∧ ChestOn s0 ch ∧ KeeperOn s0 k ∧ FlashOn s0 fl :=
  ⟨fun h => ⟨h.queue, h.time, h.laneA, h.laneB, h.chest, h.keeper, h.flash⟩, fun ⟨a, b, c, d, e, f, g⟩ => ⟨a, b, c, d, e, f, g⟩⟩

@[simp ↓] theorem laneOn_mk {ph ba rf tv me mi bw ev tx im ol ta en pu dm re pt tc hi rt gr co po be pc ct ax ca ms mt th rec ke hc ind sp lw ec sn} :
    LaneOn s0 (Lane.mk ph ba rf tv me mi bw ev tx im ol ta en pu dm re pt tc hi rt gr co po be pc ct ax ca ms mt th rec ke hc ind sp lw ec sn) ↔
      RfOn s0 rf ∧ MemOn s0 me ∧ MemOn s0 mi ∧ EvtOn s0 ev := ⟨id, id⟩

@[simp ↓] theorem flashOn_mk {c} : FlashOn s0 (Flash.mk c) ↔ CellsOn s0 c := ⟨id, id⟩

@[simp ↓] theorem timeOn_mk {c r w st u p} : TimeOn s0 (TimeBase.mk c r w st u p) ↔ RunOn s0 r := ⟨id, id⟩
@[simp ↓] theorem TimeOn.run_on {tb : TimeBase} (h : TimeOn s0 tb) : RunOn s0 tb.run := h
@[simp ↓] theorem runOn_add {n k : Nat} (h : RunOn s0 n) : RunOn s0 (n + k) := Nat.le_add_right_of_le h
@[simp ↓] theorem chestOn_mk {ar ba pe st he lo lh pr lk ls re df} :
    ChestOn s0 (Chest.mk ar ba pe st he lo lh pr lk ls re df) ↔ MemOn s0 ar ∧ BanksOn s0 ba := ⟨id, id⟩
@[simp ↓] theorem bankOn_mk {p q : Plane} {di lo re we st de n} :
    BankOn s0 (Bank.mk p q di lo re we st de n) ↔ MemOn s0 p.data ∧ MemOn s0 q.data := ⟨id, id⟩
@[simp ↓] theorem keeperOn_mk {sl rt an rs pl bc wa wb bu tv} :
    KeeperOn s0 (Keeper.mk sl rt an rs pl bc wa wb bu tv) ↔ RfOn s0 sl ∧ OtpOn s0 an bu := ⟨id, id⟩
@[simp ↓] theorem ChestOn.array_on {c : Chest} (h : ChestOn s0 c) : MemOn s0 c.array := h.1
@[simp ↓] theorem ChestOn.banks_on {c : Chest} (h : ChestOn s0 c) : BanksOn s0 c.banks := h.2
@[simp ↓] theorem BanksOn.bank_on {v : Vector Bank 8} (h : BanksOn s0 v) {b : Fin 8} : BankOn s0 v[b] := h b
@[simp ↓] theorem BankOn.p0_on {b : Bank} (h : BankOn s0 b) : MemOn s0 b.p0.data := h.1
@[simp ↓] theorem BankOn.p1_on {b : Bank} (h : BankOn s0 b) : MemOn s0 b.p1.data := h.2
@[simp ↓] theorem KeeperOn.slow_on {k : Keeper} (h : KeeperOn s0 k) : RfOn s0 k.slow := h.1
@[simp ↓] theorem KeeperOn.otp_on {k : Keeper} (h : KeeperOn s0 k) : OtpOn s0 k.anchors k.burn := h.2

theorem keeps_refl (s : State) : Keeps s s where
  queue := rfl
  time := Nat.le_refl _
  laneA := ⟨fun h => h.1.1, fun h => h.1.2.1, fun h => h.1.2.2.1, fun h => h.1.2.2.2⟩
  laneB := ⟨fun h => h.2.1.1, fun h => h.2.1.2.1, fun h => h.2.1.2.2.1, fun h => h.2.1.2.2.2⟩
  chest := ⟨fun h => h.2.2.1.1, fun b => ⟨fun h => (h.2.2.1.2 b).1, fun h => (h.2.2.1.2 b).2⟩⟩
  keeper := ⟨fun h => h.2.2.2.2, fun h => ⟨h, fun _ => ⟨fun p => ⟨p, rfl⟩, fun p => p⟩⟩⟩
  flash := fun h => h.2.2.2.1

/-! Branches and folds. -/

@[simp ↓] theorem keeps_ite {c : Prop} [Decidable c] (ha : Keeps s0 s) (hb : Keeps s0 t) : Keeps s0 (if c then s else t) := by
  split
  · exact ha
  · exact hb

@[simp ↓] theorem laneOn_ite {c : Prop} [Decidable c] {K : Lane} (ha : LaneOn s0 L) (hb : LaneOn s0 K) :
    LaneOn s0 (if c then L else K) := by
  split
  · exact ha
  · exact hb

/-- Branches of operations that answer more than a state. -/
@[simp ↓] theorem keeps_ite_fst {γ : Type} {c : Prop} [Decidable c] {a b : State × γ} (ha : Keeps s0 a.1) (hb : Keeps s0 b.1) :
    Keeps s0 (if c then a else b).1 := by
  split
  · exact ha
  · exact hb
@[simp ↓] theorem keeps_ite_snd {γ : Type} {c : Prop} [Decidable c] {a b : γ × State} (ha : Keeps s0 a.2) (hb : Keeps s0 b.2) :
    Keeps s0 (if c then a else b).2 := by
  split
  · exact ha
  · exact hb
@[simp ↓] theorem laneOn_ite_fst {γ : Type} {c : Prop} [Decidable c] {a b : Lane × γ} (ha : LaneOn s0 a.1) (hb : LaneOn s0 b.1) :
    LaneOn s0 (if c then a else b).1 := by
  split
  · exact ha
  · exact hb

@[simp ↓] theorem out_next (h : Keeps s0 s) : OutOn s0 (.next s) := fun _ e => by cases e; exact h
@[simp ↓] theorem out_ite {c : Prop} [Decidable c] {a b : Out} (ha : OutOn s0 a) (hb : OutOn s0 b) :
    OutOn s0 (if c then a else b) := by
  split
  · exact ha
  · exact hb
@[simp ↓] theorem opt_some (h : Keeps s0 s) : OptOn s0 (some s) := fun _ e => by cases e; exact h
@[simp ↓] theorem opt_none : OptOn s0 none := fun _ e => absurd e (by simp)
@[simp ↓] theorem OptOn.getD_on {o : Option State} (ho : OptOn s0 o) (h : Keeps s0 s) : Keeps s0 (o.getD s) := by
  cases o with
  | none => exact h
  | some t => exact ho t rfl
@[simp ↓] theorem opt_ite {c : Prop} [Decidable c] {a b : Option State} (ha : OptOn s0 a) (hb : OptOn s0 b) :
    OptOn s0 (if c then a else b) := by
  split
  · exact ha
  · exact hb

theorem keeps_of_eq {γ : Type} {p : State × γ} {x : γ} (e : p = (t, x)) (h : Keeps s0 p.1) : Keeps s0 t := by rw [e] at h; exact h
theorem laneOn_of_eq {γ : Type} {p : Lane × γ} {x : γ} (e : p = (L, x)) (h : LaneOn s0 p.1) : LaneOn s0 L := by rw [e] at h; exact h

theorem foldl_prop {α β : Type} {P : β → Prop} {f : β → α → β} (hf : ∀ b a, P b → P (f b a)) (xs : List α) {b : β} (h : P b) :
    P (xs.foldl f b) := by
  induction xs generalizing b with
  | nil => exact h
  | cons x t ih => exact ih (hf _ _ h)

@[simp ↓] theorem keeps_foldl {α : Type} {f : State → α → State} {xs : List α} (h : Keeps s0 s)
    (hf : ∀ s a, Keeps s0 s → Keeps s0 (f s a)) : Keeps s0 (xs.foldl f s) := foldl_prop hf xs h

@[simp ↓] theorem laneOn_foldl {α : Type} {f : Lane → α → Lane} {xs : List α} (h : LaneOn s0 L)
    (hf : ∀ L a, LaneOn s0 L → LaneOn s0 (f L a)) : LaneOn s0 (xs.foldl f L) := foldl_prop hf xs h

/-- Folds that carry the state beside other results. -/
@[simp ↓] theorem keeps_foldl_fst {α γ : Type} {f : State × γ → α → State × γ} {xs : List α} {p : State × γ} (h : Keeps s0 p.1)
    (hf : ∀ p a, Keeps s0 p.1 → Keeps s0 (f p a).1) : Keeps s0 (xs.foldl f p).1 :=
  foldl_prop (P := fun p : State × γ => Keeps s0 p.1) hf xs h

@[simp ↓] theorem laneOn_foldl_fst {α γ : Type} {f : Lane × γ → α → Lane × γ} {xs : List α} {p : Lane × γ} (h : LaneOn s0 p.1)
    (hf : ∀ p a, LaneOn s0 p.1 → LaneOn s0 (f p a).1) : LaneOn s0 (xs.foldl f p).1 :=
  foldl_prop (P := fun p : Lane × γ => LaneOn s0 p.1) hf xs h

/-! Memories. -/

@[simp ↓] theorem rf_spSet {m : List (Nat × Word)} (h : RfOn s0 m) {a : Nat} {w : Word} : RfOn s0 (spSet resetWord m a w) :=
  fun p => spSet_wf (h p) nofun
@[simp ↓] theorem rf_erase {m : List (Nat × Word)} (h : RfOn s0 m) {a b : Nat} : RfOn s0 (spErase m a b) := fun p => spErase_wf (h p)
@[simp ↓] theorem rf_filter {m : List (Nat × Word)} (h : RfOn s0 m) {p : Nat × Word → Bool} : RfOn s0 (m.filter p) :=
  fun q => filter_wf p (h q)
@[simp ↓] theorem rf_nil : RfOn s0 [] := fun _ => rfl
@[simp ↓] theorem mem_write {m : Mem} (h : MemOn s0 m) {a : Nat} {bs : Bytes} : MemOn s0 (memWrite m a bs) := fun p => memWrite_wf (h p)
@[simp ↓] theorem mem_copy {m n : Mem} (h : MemOn s0 m) (hn : MemOn s0 n) {a b : Nat} (hl : a ≤ b) : MemOn s0 (spCopy m n a b) :=
  fun p => spCopy_wf hl (h p) (hn p)
@[simp ↓] theorem mem_erase {m : Mem} (h : MemOn s0 m) {a b : Nat} : MemOn s0 (spErase m a b) := fun p => spErase_wf (h p)
@[simp ↓] theorem mem_part {m : Mem} (h : MemOn s0 m) {a b : Nat} : MemOn s0 (spPart m a b) := fun p => spPart_wf (h p)
@[simp ↓] theorem mem_nil : MemOn s0 [] := fun _ => rfl

@[simp ↓] theorem FlashOn.cells_on {f : Flash} (h : FlashOn s0 f) : CellsOn s0 f.cells := h
@[simp ↓] theorem cells_erase {m : Mem} (h : CellsOn s0 m) {a b : Nat} : CellsOn s0 (spErase m a b) := fun p => spErase_wf (h p)

@[simp ↓] theorem evt_init : EvtOn s0 EvtUnit.init := fun _ => ⟨fun e => by simp [EvtUnit.init], by simp [EvtUnit.init]⟩

/-! Lanes. -/

@[simp ↓] theorem State.lane_on (h : Keeps s0 s) {l : LaneId} : LaneOn s0 (s.lane l) := by
  cases l
  · exact h.laneA
  · exact h.laneB

@[simp ↓] theorem State.setLane_on (h : Keeps s0 s) {l : LaneId} {L : Lane} (hl : LaneOn s0 L) : Keeps s0 (s.setLane l L) := by
  cases l <;> simp [State.setLane, h, hl]

@[simp ↓] theorem State.upd_on (h : Keeps s0 s) {l : LaneId} {f : Lane → Lane} (hf : ∀ L, LaneOn s0 L → LaneOn s0 (f L)) :
    Keeps s0 (s.upd l f) := setLane_on h (hf _ (lane_on h))

@[simp ↓] theorem State.updBoth_on (h : Keeps s0 s) {f : Lane → Lane} (hf : ∀ L, LaneOn s0 L → LaneOn s0 (f L)) :
    Keeps s0 (s.updBoth f) := upd_on (upd_on h hf) hf

@[simp ↓] theorem State.each_on (h : Keeps s0 s) {ls : List LaneId} {f : LaneId → State → State}
    (hf : ∀ l s, Keeps s0 s → Keeps s0 (f l s)) : Keeps s0 (s.each ls f) :=
  foldl_prop (P := Keeps s0) (fun _ _ h => hf _ _ h) ls h

@[simp ↓] theorem Lane.put_on (h : LaneOn s0 L) {a : Nat} {w : Word} : LaneOn s0 (L.put a w) := by simp [Lane.put, h]
@[simp ↓] theorem Lane.setFld_on (h : LaneOn s0 L) {a lo n v : Nat} : LaneOn s0 (L.setFld a lo n v) := Lane.put_on h
@[simp ↓] theorem Lane.setFlag_on (h : LaneOn s0 L) {a i : Nat} {v : Bool} : LaneOn s0 (L.setFlag a i v) := Lane.put_on h
@[simp ↓] theorem Lane.incFld_on (h : LaneOn s0 L) {a lo n : Nat} : LaneOn s0 (L.incFld a lo n) := Lane.put_on h
@[simp ↓] theorem Lane.wrapFld_on (h : LaneOn s0 L) {a lo n : Nat} : LaneOn s0 (L.wrapFld a lo n) := Lane.put_on h
@[simp ↓] theorem Lane.putN_on (h : LaneOn s0 L) {a v : Nat} : LaneOn s0 (L.putN a v) := Lane.put_on h
@[simp ↓] theorem Lane.clr_on (h : LaneOn s0 L) {a : Nat} : LaneOn s0 (L.clr a) := Lane.put_on h
@[simp ↓] theorem Lane.tvClear_on (h : LaneOn s0 L) {a : Nat} : LaneOn s0 (L.tvClear a) := h
@[simp ↓] theorem Lane.setTally_on (h : LaneOn s0 L) {c : Nat} {t : Tally} : LaneOn s0 (L.setTally c t) := h
@[simp ↓] theorem Lane.setInd_on (h : LaneOn s0 L) {i : IndSt} : LaneOn s0 (L.setInd i) := h
@[simp ↓] theorem Lane.putWords_on (h : LaneOn s0 L) {a : Nat} {ws : List Word} : LaneOn s0 (L.putWords a ws) := by
  induction ws generalizing L a with
  | nil => exact h
  | cons w ws ih => exact ih (Lane.put_on h)

/-! Keeper registers. -/

@[simp ↓] theorem Keeper.put_on {k : Keeper} (h : KeeperOn s0 k) {a : Nat} {w : Word} : KeeperOn s0 (k.put a w) := ⟨rf_spSet h.1, h.2⟩
@[simp ↓] theorem Keeper.setFld_on {k : Keeper} (h : KeeperOn s0 k) {a lo n v : Nat} : KeeperOn s0 (k.setFld a lo n v) := Keeper.put_on h
@[simp ↓] theorem Keeper.tvClear_on {k : Keeper} (h : KeeperOn s0 k) {a : Nat} : KeeperOn s0 (k.tvClear a) := h

/-! Time. -/

@[simp ↓] theorem State.ticks_on (h : Keeps s0 s) {n : Nat} : Keeps s0 (s.ticks n) := by
  simp [State.ticks, h, runOn_add (TimeOn.run_on h.time)]
@[simp ↓] theorem State.advTo_on (h : Keeps s0 s) {d : Nat} : Keeps s0 (s.advTo d) := by unfold State.advTo; simp [h]
@[simp ↓] theorem State.advRun_on (h : Keeps s0 s) {d : Nat} : Keeps s0 (s.advRun d) := by unfold State.advRun; simp [h]

/-! Tallies and events. -/

@[simp ↓] theorem Lane.recDrop_on (h : LaneOn s0 L) {run : Nat} : LaneOn s0 (L.recDrop run).1 := by
  have h1 : LaneOn s0 (L.incFld 0x40170008 16 16) := Lane.incFld_on h
  unfold Lane.recDrop
  exact laneOn_ite h1 h1
@[simp ↓] theorem Lane.recQueue_on (h : LaneOn s0 L) {run : Nat} {j : RecJob} : LaneOn s0 (L.recQueue run j).1 := by
  unfold Lane.recQueue
  split
  · exact h
  · exact Lane.recDrop_on h
@[simp ↓] theorem Lane.recOccur_on (h : LaneOn s0 L) {tb rtc : Word} {run c : Nat} {v : F32} : LaneOn s0 (L.recOccur tb rtc run c v).1 := by
  unfold Lane.recOccur
  exact laneOn_ite_fst (Lane.recQueue_on (Lane.setTally_on h)) (Lane.incFld_on (Lane.setTally_on h))
@[simp ↓] theorem Lane.recEvent_on (h : LaneOn s0 L) {tb rtc : Word} {run id : Nat} : LaneOn s0 (L.recEvent tb rtc run id).1 := by
  unfold Lane.recEvent
  split
  · exact h
  · exact laneOn_foldl_fst h fun p a hp => Lane.recOccur_on hp

theorem evtInsert_length (r : EvtRec) (q : List EvtRec) : (evtInsert r q).length = q.length + 1 := by
  induction q with
  | nil => rfl
  | cons h t ih =>
    unfold evtInsert
    split
    · rfl
    · simp [ih]

@[simp ↓] theorem Lane.evtEngine_on (h : LaneOn s0 L) {r : EvtRec} {e : Fin 16} : LaneOn s0 (L.evtEngine r e).1 := by
  unfold Lane.evtEngine
  dsimp only
  split
  · rename_i hq
    refine ⟨h.1, h.2.1, h.2.2.1, fun p => ⟨fun i => ?_, (h.2.2.2 p).2⟩⟩
    have hi := (h.2.2.2 p).1 i
    by_cases hie : e = i
    · subst hie
      simpa [evtInsert_length] using Nat.le_of_lt_succ (Nat.succ_lt_succ hq)
    · have : (e : Nat) ≠ i := fun c => hie (Fin.ext c)
      simpa [Vector.getElem_set, this] using hi
  · have h1 : LaneOn s0 (L.incFld (aEvtQ e + 0x10) 16 16) := Lane.incFld_on h
    split
    · exact h1
    · exact ⟨h1.1, h1.2.1, h1.2.2.1, h1.2.2.2⟩

@[simp ↓] theorem Lane.evtHc_on (h : LaneOn s0 L) {r : EvtRec} : LaneOn s0 (L.evtHc r).1 := by
  unfold Lane.evtHc
  split
  · rename_i hq
    refine ⟨h.1, h.2.1, h.2.2.1, fun p => ⟨(h.2.2.2 p).1, ?_⟩⟩
    rw [evtInsert_length]
    exact hq
  · exact h

@[simp ↓] theorem Lane.evtOne_on (h : LaneOn s0 L) {l : LaneId} {tb rtc : Word} {run id idx sub : Nat} :
    LaneOn s0 (L.evtOne l tb rtc run id idx sub).1 := by
  unfold Lane.evtOne
  have h0 : LaneOn s0 (L.recEvent tb rtc run id).1 := Lane.recEvent_on h
  generalize L.recEvent tb rtc run id = p at h0
  obtain ⟨L0, d⟩ := p
  dsimp only
  split
  · exact h0
  · have h1 : LaneOn s0 ((L0.putN (aEvtSeq id) (L0.getN (aEvtSeq id) + 1))) := Lane.putN_on h0
    generalize (L0.putN (aEvtSeq id) (L0.getN (aEvtSeq id) + 1)) = L1 at h1 ⊢
    generalize hx : (List.finRange 16).foldl _ (L1, ([] : List Nat)) = q
    have h2 : LaneOn s0 q.1 := by
      subst hx
      refine laneOn_foldl_fst h1 fun p e hp => ?_
      split
      · exact Lane.evtEngine_on hp
      · exact hp
    split
    · have h3 := Lane.evtHc_on h2 (r := { id := id, lane := l, prio := fieldOf (L0.get (aEvtCfg id)) 24 4, seq := L1.get (aEvtSeq id), tb := tb,
                                            data := BitVec.ofNat 32 (idx % 2 ^ 16 + sub % 2 ^ 8 * 2 ^ 16) })
      exact laneOn_ite_fst h3 h3
    · exact h2

@[simp ↓] theorem Lane.evtRound_on (h : LaneOn s0 L) {l : LaneId} {tb rtc : Word} {run : Nat} {evs : List (Nat × Nat × Nat)} :
    LaneOn s0 (L.evtRound l tb rtc run evs).1 := by
  unfold Lane.evtRound
  exact laneOn_foldl_fst h fun p a hp => Lane.evtOne_on hp

@[simp ↓] theorem Lane.evtAll_on (h : LaneOn s0 L) {l : LaneId} {tb rtc : Word} {run n : Nat} {evs : List (Nat × Nat × Nat)} :
    LaneOn s0 (Lane.evtAll l tb rtc run n L evs) := by
  induction n generalizing L evs with
  | zero => exact h
  | succ n ih =>
    unfold Lane.evtAll
    exact laneOn_ite (Lane.evtRound_on h) (ih (Lane.evtRound_on h))

@[simp ↓] theorem State.raise_on (h : Keeps s0 s) {l : LaneId} {id idx sub : Nat} : Keeps s0 (s.raise l id idx sub) := by
  unfold State.raise
  split
  · refine State.upd_on h fun L hL => ?_
    generalize (20 : Nat) = n
    exact Lane.evtAll_on hL
  · exact h
@[simp ↓] theorem State.raiseUp_on (h : Keeps s0 s) {id idx sub : Nat} : Keeps s0 (s.raiseUp id idx sub) :=
  State.each_on h fun _ _ hs => State.raise_on hs

/-! Completions, free values, sources. -/

@[simp ↓] theorem State.ok_on (h : Keeps s0 s) {w : Word} : Keeps s0 (s.ok w) := by simp [State.ok, h]
@[simp ↓] theorem State.busErr_on (h : Keeps s0 s) : Keeps s0 s.busErr := by simp [State.busErr, h]
@[simp ↓] theorem State.refuse_on (h : Keeps s0 s) {l : LaneId} {ev idx : Nat} : Keeps s0 (s.refuse l ev idx) :=
  State.busErr_on (State.raise_on h)
@[simp ↓] theorem State.fresh_on (h : Keeps s0 s) : Keeps s0 s.fresh.2 := by simp [State.fresh, h]
@[simp ↓] theorem State.freshBytes_on (h : Keeps s0 s) {n : Nat} : Keeps s0 (s.freshBytes n).2 := by simp [State.freshBytes, h]

@[simp ↓] theorem State.perLaneIn_on (h : Keeps s0 s) {ls : List LaneId} {f : LaneId → State → State} (hf : ∀ l s, Keeps s0 s → Keeps s0 (f l s)) :
    Keeps s0 (s.perLaneIn ls f) := by
  unfold State.perLaneIn
  split
  · exact State.busErr_on h
  · exact hf _ _ h
  · have h1 := State.each_on h (ls := ls.filter (· != s.act)) hf
    dsimp only
    split
    · simp [hf s.act _ h1]
    · exact h1
@[simp ↓] theorem State.perLane_on (h : Keeps s0 s) {src : Src} {f : LaneId → State → State} (hf : ∀ l s, Keeps s0 s → Keeps s0 (f l s)) :
    Keeps s0 (s.perLane src f) := State.perLaneIn_on h hf
@[simp ↓] theorem State.perLaneRead_on (h : Keeps s0 s) {src : Src} {f : LaneId → State → State} (hf : ∀ l s, Keeps s0 s → Keeps s0 (f l s)) :
    Keeps s0 (s.perLaneRead src f) := State.perLaneIn_on h hf

@[simp ↓] theorem State.joined_on (h : Keeps s0 s) {src : Src} {a : Nat} {w : Word} {f : State → State} (hf : ∀ s, Keeps s0 s → Keeps s0 (f s)) :
    Keeps s0 (s.joined src a w f) := by
  have h1 := hf _ h
  unfold State.joined
  split
  · split
    · split
      · simp [h]
      · simp [h1]
    · exact h1
  · exact h1

@[simp ↓] theorem State.indFailIn_on (h : Keeps s0 s) {l : LaneId} {req : Requester} {err : Nat} : Keeps s0 (s.indFailIn l req err) := by
  unfold State.indFailIn
  simp +contextual (maxDischargeDepth := 20) [h]
@[simp ↓] theorem State.indFail_on (h : Keeps s0 s) {src : Src} {err : Nat} : Keeps s0 (s.indFail src err) := by
  unfold State.indFail
  simp +contextual (maxDischargeDepth := 20) [h]

end Sys2Proof.Machine
end

