-- ==== Sys2Proof/Laws/KeepsOperands.lean ====
section
/-! SUPPORT. Laws/KeepsOperands.lean: everything in Machine/Operands.lean keeps what every command keeps (operands). -/
namespace Sys2Proof.Machine

variable {s0 s t : State} {L : Lane}

@[simp ↓] theorem Lane.eccHeal_on {L : Lane} {k : Nat} {n : Nat} (hk : LaneOn s0 L) : LaneOn s0 (Lane.eccHeal L k n) := by
  unfold Lane.eccHeal
  simp +contextual (maxDischargeDepth := 40) [hk]

@[simp ↓] theorem Lane.wrMem_on {L : Lane} {e : Nat} {a : Nat} {bs : Bytes} (hk : LaneOn s0 L) : LaneOn s0 (Lane.wrMem L e a bs) := by
  unfold Lane.wrMem
  repeat' first | (simp +contextual (maxDischargeDepth := 40) [hk]; done) | split | intro _

end Sys2Proof.Machine
end

