-- ==== Sys2Proof/Laws/KeepsRedCore.lean ====
section
/-! SUPPORT. Laws/KeepsRedCore.lean: everything in Machine/RedCore.lean keeps what every command keeps (the redundancy core). -/
namespace Sys2Proof.Machine

variable {s0 s t : State} {L : Lane}

@[simp ↓] theorem State.modeRefused_on {s : State} {code : Nat} (hk : Keeps s0 s) : Keeps s0 (State.modeRefused s code) := by
  unfold State.modeRefused
  simp +contextual (maxDischargeDepth := 40) [hk]

@[simp ↓] theorem State.dropPend_on {s : State} (hk : Keeps s0 s) : Keeps s0 (State.dropPend s) := by
  unfold State.dropPend
  repeat' first | (simp +contextual (maxDischargeDepth := 40) [hk]; done) | split | intro _

@[simp ↓] theorem State.askSafe_on {s : State} {cmd : Bool} (hk : Keeps s0 s) : Keeps s0 (State.askSafe s cmd) := by
  unfold State.askSafe
  repeat' first | (simp +contextual (maxDischargeDepth := 40) [hk]; done) | split | intro _

@[simp ↓] theorem State.axDie_on {s : State} {a : Fin 16} {f : AxDie → AxDie} (hk : Keeps s0 s) : Keeps s0 (State.axDie s a f) := by
  unfold State.axDie
  simp +contextual (maxDischargeDepth := 40) [hk]

@[simp ↓] theorem State.axGen_on {s : State} {l : LaneId} {a : Fin 16} {f : AxGen → AxGen} (hk : Keeps s0 s) : Keeps s0 (State.axGen s l a f) := by
  unfold State.axGen
  simp +contextual (maxDischargeDepth := 40) [hk]

@[simp ↓] theorem State.axRefFail_on {s : State} {l : LaneId} {a : Fin 16} (hk : Keeps s0 s) : Keeps s0 (State.axRefFail s l a) := by
  unfold State.axRefFail
  simp +contextual (maxDischargeDepth := 40) [hk]

@[simp ↓] theorem State.setMode_on {s : State} {m : Mode} (hk : Keeps s0 s) : Keeps s0 (State.setMode s m) := by
  unfold State.setMode
  simp +contextual (maxDischargeDepth := 40) [hk]

@[simp ↓] theorem State.outrank_on {s : State} (hk : Keeps s0 s) : Keeps s0 (State.outrank s) := by
  unfold State.outrank
  repeat' first | (simp +contextual (maxDischargeDepth := 40) [hk]; done) | split | intro _

@[simp ↓] theorem State.toSingle_on {s : State} (hk : Keeps s0 s) : Keeps s0 (State.toSingle s) := by
  unfold State.toSingle
  simp +contextual (maxDischargeDepth := 40) [hk]

@[simp ↓] theorem State.dropLane_on {s : State} {l : LaneId} (hk : Keeps s0 s) : Keeps s0 (State.dropLane s l) := by
  unfold State.dropLane
  simp +contextual (maxDischargeDepth := 40) [hk]

@[simp ↓] theorem State.condemnStandby_on {s : State} {atOnce : Bool} (hk : Keeps s0 s) : Keeps s0 (State.condemnStandby s atOnce) := by
  unfold State.condemnStandby
  simp +contextual (maxDischargeDepth := 40) [hk]

@[simp ↓] theorem State.enterFailsafe_on {s : State} (hk : Keeps s0 s) : Keeps s0 (State.enterFailsafe s) := by
  unfold State.enterFailsafe
  simp +contextual (maxDischargeDepth := 40) [hk]

@[simp ↓] theorem State.addSuspect_on {s : State} {atOnce : Bool} (hk : Keeps s0 s) : Keeps s0 (State.addSuspect s atOnce) := by
  unfold State.addSuspect
  simp +contextual (maxDischargeDepth := 40) [hk]

@[simp ↓] theorem State.redApply_on {s : State} {row : Nat} {atOnce : Bool} (hk : Keeps s0 s) : Keeps s0 (State.redApply s row atOnce) := by
  unfold State.redApply
  repeat' first | (simp +contextual (maxDischargeDepth := 40) [hk]; done) | split | intro _

@[simp ↓] theorem State.redRecord_on {s : State} {item : Nat} {row : Nat} {idx : Nat} (hk : Keeps s0 s) : Keeps s0 (State.redRecord s item row idx) := by
  unfold State.redRecord
  simp +contextual (maxDischargeDepth := 40) [hk]

@[simp ↓] theorem State.redMismatch_on {s : State} {idx : Nat} (hk : Keeps s0 s) : Keeps s0 (State.redMismatch s idx) := by
  unfold State.redMismatch
  simp +contextual (maxDischargeDepth := 40) [hk]

@[simp ↓] theorem State.redTrigger_on {s : State} {item : Nat} {idx : Nat} {mis : Bool} {eA : Bool} {eS : Bool} (hk : Keeps s0 s) : Keeps s0 (State.redTrigger s item idx mis eA eS) := by
  unfold State.redTrigger
  dsimp only
  repeat' first | (simp +contextual (maxDischargeDepth := 40) [hk]; done) | split | intro _

@[simp ↓] theorem State.resyncShow_on {s : State} {phase : Nat} {fail : Nat} {try_ : Nat} {pending : Nat} (hk : Keeps s0 s) : Keeps s0 (State.resyncShow s phase fail try_ pending) := by
  unfold State.resyncShow
  simp +contextual (maxDischargeDepth := 40) [hk]

@[simp ↓] theorem State.giveUp_on {s : State} {l : LaneId} (hk : Keeps s0 s) : Keeps s0 (State.giveUp s l) := by
  unfold State.giveUp
  simp +contextual (maxDischargeDepth := 40) [hk]

@[simp ↓] theorem State.resyncFail_on {s : State} {code : Nat} (hk : Keeps s0 s) : Keeps s0 (State.resyncFail s code) := by
  unfold State.resyncFail
  repeat' first | (simp +contextual (maxDischargeDepth := 40) [hk]; done) | split | intro _

@[simp ↓] theorem State.resyncFailOf_on {s : State} {l : LaneId} {code : Nat} (hk : Keeps s0 s) : Keeps s0 (State.resyncFailOf s l code) := by
  unfold State.resyncFailOf
  repeat' first | (simp +contextual (maxDischargeDepth := 40) [hk]; done) | split | intro _

@[simp ↓] theorem State.setHealth_on {s : State} {l : LaneId} {i : Nat} (hk : Keeps s0 s) : Keeps s0 (State.setHealth s l i) := by
  unfold State.setHealth
  simp +contextual (maxDischargeDepth := 40) [hk]

end Sys2Proof.Machine
end

