-- ==== Sys2Proof/Laws/KeepsTxn.lean ====
section
/-! SUPPORT. Laws/KeepsTxn.lean: everything in Machine/Txn.lean keeps what every command keeps (transactions). -/
namespace Sys2Proof.Machine

variable {s0 s t : State} {L : Lane}

@[simp ↓] theorem Lane.txnLast_on {L : Lane} {code : Nat} (hk : LaneOn s0 L) : LaneOn s0 (Lane.txnLast L code) := by
  unfold Lane.txnLast
  simp +contextual (maxDischargeDepth := 40) [hk]

@[simp ↓] theorem Lane.txnClose_on {L : Lane} {last : Nat} (hk : LaneOn s0 L) : LaneOn s0 (Lane.txnClose L last) := by
  unfold Lane.txnClose
  simp +contextual (maxDischargeDepth := 40) [hk]

@[simp ↓] theorem State.txnEvent_on {s : State} {l : LaneId} {sub : Nat} (hk : Keeps s0 s) : Keeps s0 (State.txnEvent s l sub) := by
  unfold State.txnEvent
  simp +contextual (maxDischargeDepth := 40) [hk]

@[simp ↓] theorem State.txnRefuse_on {s : State} {l : LaneId} {last : Nat} (hk : Keeps s0 s) : Keeps s0 (State.txnRefuse s l last) := by
  unfold State.txnRefuse
  simp +contextual (maxDischargeDepth := 40) [hk]

@[simp ↓] theorem State.txnBegin_on {s : State} {l : LaneId} {req : Requester} (hk : Keeps s0 s) : Keeps s0 (State.txnBegin s l req) := by
  unfold State.txnBegin
  simp +contextual (maxDischargeDepth := 40) [hk]

theorem execTxnBegin_on {src : Src} {s : State} (hk : Keeps s0 s) : OutOn s0 (execTxnBegin src s) := by
  unfold execTxnBegin
  simp +contextual (maxDischargeDepth := 40) [hk]

@[simp ↓] theorem Lane.txnTouch_on {L : Lane} {req : Requester} {run : Nat} (hk : LaneOn s0 L) : LaneOn s0 (Lane.txnTouch L req run) := by
  unfold Lane.txnTouch
  simp +contextual (maxDischargeDepth := 40) [hk]

@[simp ↓] theorem State.txnCompare_on {s : State} {sb : LaneId} {own : List Staged} {j : List Staged} (hk : Keeps s0 s) : Keeps s0 (State.txnCompare s sb own j) := by
  unfold State.txnCompare
  simp +contextual (maxDischargeDepth := 40) [hk]

@[simp ↓] theorem State.txnSend_on {s : State} (hk : Keeps s0 s) : Keeps s0 (State.txnSend s) := by
  unfold State.txnSend
  simp +contextual (maxDischargeDepth := 40) [hk]

@[simp ↓] theorem Lane.txnTake_on {L : Lane} {x : TxnSent} (hk : LaneOn s0 L) : LaneOn s0 (Lane.txnTake L x) := by
  unfold Lane.txnTake
  simp +contextual (maxDischargeDepth := 40) [hk]

@[simp ↓] theorem Lane.txnTakeSent_on {L : Lane} (hk : LaneOn s0 L) : LaneOn s0 (Lane.txnTakeSent L) := by
  unfold Lane.txnTakeSent
  repeat' first | (simp +contextual (maxDischargeDepth := 40) [hk]; done) | split | intro _

@[simp ↓] theorem State.txnCommit_on {l : LaneId} {req : Requester} {token : Half} (hk : Keeps s0 s) : Keeps s0 (State.txnCommit s l req token) := by
  unfold State.txnCommit
  extract_lets s1 L s2
  have h1 : Keeps s0 s1 := State.upd_on hk fun _ h => Lane.txnTouch_on h
  have h2 : Keeps s0 s2 := State.upd_on h1 fun _ h => by simp [h]
  clear_value s1 L s2
  (repeat' first | (simp +contextual (maxDischargeDepth := 40) [*]; done) | split)

theorem execTxnCommit_on {src : Src} {token : Half} {s : State} (hk : Keeps s0 s) : OutOn s0 (execTxnCommit src token s) := by
  unfold execTxnCommit
  simp +contextual (maxDischargeDepth := 40) [hk]

@[simp ↓] theorem State.txnRollback_on {s : State} {l : LaneId} {req : Requester} {token : Half} (hk : Keeps s0 s) : Keeps s0 (State.txnRollback s l req token) := by
  unfold State.txnRollback
  simp +contextual (maxDischargeDepth := 40) [hk]

theorem execTxnRollback_on {src : Src} {token : Half} {s : State} (hk : Keeps s0 s) : OutOn s0 (execTxnRollback src token s) := by
  unfold execTxnRollback
  simp +contextual (maxDischargeDepth := 40) [hk]

@[simp ↓] theorem State.txnClrCnt_on {s : State} {l : LaneId} {req : Requester} (hk : Keeps s0 s) : Keeps s0 (State.txnClrCnt s l req) := by
  unfold State.txnClrCnt
  simp +contextual (maxDischargeDepth := 40) [hk]

theorem execTxnClrCnt_on {src : Src} {s : State} (hk : Keeps s0 s) : OutOn s0 (execTxnClrCnt src s) := by
  unfold execTxnClrCnt
  simp +contextual (maxDischargeDepth := 40) [hk]

theorem execTxnIdleTimeout_on {lane : LaneId} {s : State} (hk : Keeps s0 s) : OutOn s0 (execTxnIdleTimeout lane s) := by
  unfold execTxnIdleTimeout
  simp +contextual (maxDischargeDepth := 40) [hk]

theorem execPairTimeout_on {lane : LaneId} {addr : Word} {s : State} (hk : Keeps s0 s) : OutOn s0 (execPairTimeout lane addr s) := by
  unfold execPairTimeout
  repeat' first | (simp +contextual (maxDischargeDepth := 40) [hk]; done) | split | intro _

@[simp ↓] theorem State.txnDiscard_on {s : State} {l : LaneId} (hk : Keeps s0 s) : Keeps s0 (State.txnDiscard s l) := by
  unfold State.txnDiscard
  simp +contextual (maxDischargeDepth := 40) [hk]

@[simp ↓] theorem State.txnStage_on {s : State} {l : LaneId} {a : Nat} {v : Word} (hk : Keeps s0 s) : Keeps s0 (State.txnStage s l a v) := by
  unfold State.txnStage
  simp +contextual (maxDischargeDepth := 40) [hk]

@[simp ↓] theorem State.pairWrite_on {l : LaneId} {req : Requester} {a partner : Nat} {v : Word} {apply : Nat → Word → State → State}
    (hk : Keeps s0 s) (ha : ∀ a v s, Keeps s0 s → Keeps s0 (apply a v s)) : Keeps s0 (s.pairWrite l req a partner v apply) := by
  unfold State.pairWrite
  dsimp only
  repeat' first | (simp +contextual (maxDischargeDepth := 40) [hk, ha]; done) | split | intro _

end Sys2Proof.Machine
end

