-- ==== Sys2Proof/Laws/KeepsAxs.lean ====
section
/-! SUPPORT. Laws/KeepsAxs.lean: everything in Machine/Axs.lean keeps what every command keeps (axes). -/
namespace Sys2Proof.Machine

variable {s0 s t : State} {L : Lane}

@[simp ↓] theorem State.axFreeze_on {s : State} {a : Fin 16} (hk : Keeps s0 s) : Keeps s0 (State.axFreeze s a) := by
  unfold State.axFreeze
  simp +contextual (maxDischargeDepth := 40) [hk]

@[simp ↓] theorem State.axEnable_on {s : State} {a : Fin 16} (hk : Keeps s0 s) : Keeps s0 (State.axEnable s a) := by
  unfold State.axEnable
  simp +contextual (maxDischargeDepth := 40) [hk]

@[simp ↓] theorem State.axDisable_on {s : State} {a : Fin 16} (hk : Keeps s0 s) : Keeps s0 (State.axDisable s a) := by
  unfold State.axDisable
  simp +contextual (maxDischargeDepth := 40) [hk]

@[simp ↓] theorem State.axIgnore_on {s : State} {l : LaneId} {a : Fin 16} (hk : Keeps s0 s) : Keeps s0 (State.axIgnore s l a) := by
  unfold State.axIgnore
  simp +contextual (maxDischargeDepth := 40) [hk]

@[simp ↓] theorem State.axTarget_on {s : State} {l : LaneId} {a : Fin 16} {speed : Bool} {w : Word} (hk : Keeps s0 s) : Keeps s0 (State.axTarget s l a speed w) := by
  unfold State.axTarget
  simp +contextual (maxDischargeDepth := 40) [hk]

@[simp ↓] theorem State.axRefDone_on {s : State} {l : LaneId} {a : Fin 16} {p : F64} (hk : Keeps s0 s) : Keeps s0 (State.axRefDone s l a p) := by
  unfold State.axRefDone
  simp +contextual (maxDischargeDepth := 40) [hk]

@[simp ↓] theorem State.axKin_on {s : State} {l : LaneId} {a : Fin 16} {k : Kin} (hk : Keeps s0 s) : Keeps s0 (State.axKin s l a k) := by
  unfold State.axKin
  simp +contextual (maxDischargeDepth := 40) [hk]

@[simp ↓] theorem State.axStallWins_on {s : State} {l : LaneId} {a : Fin 16} (hk : Keeps s0 s) : Keeps s0 (State.axStallWins s l a) := by
  unfold State.axStallWins
  simp +contextual (maxDischargeDepth := 40) [hk]

@[simp ↓] theorem State.axStall_on {s : State} {l : LaneId} {a : Fin 16} (hk : Keeps s0 s) : Keeps s0 (State.axStall s l a) := by
  unfold State.axStall
  simp +contextual (maxDischargeDepth := 40) [hk]

@[simp ↓] theorem State.axRefPeriod_on {s : State} {l : LaneId} {a : Fin 16} (hk : Keeps s0 s) : Keeps s0 (State.axRefPeriod s l a) := by
  unfold State.axRefPeriod
  dsimp only
  repeat' first | (simp +contextual (maxDischargeDepth := 40) [hk]; done) | split | intro _

@[simp ↓] theorem State.axSpeedPeriod_on {s : State} {l : LaneId} {a : Fin 16} (hk : Keeps s0 s) : Keeps s0 (State.axSpeedPeriod s l a) := by
  unfold State.axSpeedPeriod
  simp +contextual (maxDischargeDepth := 40) [hk]

@[simp ↓] theorem State.axPosPeriod_on {s : State} {l : LaneId} {a : Fin 16} (hk : Keeps s0 s) : Keeps s0 (State.axPosPeriod s l a) := by
  unfold State.axPosPeriod
  simp +contextual (maxDischargeDepth := 40) [hk]

@[simp ↓] theorem State.axPeriod_on {s : State} {l : LaneId} {a : Fin 16} (hk : Keeps s0 s) : Keeps s0 (State.axPeriod s l a) := by
  unfold State.axPeriod
  dsimp only
  repeat' first | (simp +contextual (maxDischargeDepth := 40) [hk]; done) | split | intro _

@[simp ↓] theorem State.axPeriodEnd_on {s : State} {l : LaneId} {a : Fin 16} (hk : Keeps s0 s) : Keeps s0 (State.axPeriodEnd s l a) := by
  unfold State.axPeriodEnd
  simp +contextual (maxDischargeDepth := 40) [hk]

@[simp ↓] theorem State.axShow_on {s : State} {l : LaneId} {a : Fin 16} (hk : Keeps s0 s) : Keeps s0 (State.axShow s l a) := by
  unfold State.axShow
  simp +contextual (maxDischargeDepth := 40) [hk]

@[simp ↓] theorem State.axApply_on {s : State} {l : LaneId} {a : Fin 16} (hk : Keeps s0 s) : Keeps s0 (State.axApply s l a) := by
  unfold State.axApply
  simp +contextual (maxDischargeDepth := 40) [hk]

@[simp ↓] theorem State.axHold_on {s : State} {a : Fin 16} (hk : Keeps s0 s) : Keeps s0 (State.axHold s a) := by
  unfold State.axHold
  simp +contextual (maxDischargeDepth := 40) [hk]

@[simp ↓] theorem State.axFree_on {s : State} {a : Fin 16} (hk : Keeps s0 s) : Keeps s0 (State.axFree s a) := by
  unfold State.axFree
  simp +contextual (maxDischargeDepth := 40) [hk]

@[simp ↓] theorem State.axesApply_on {s : State} {axes : List (Fin 16)} (hk : Keeps s0 s) : Keeps s0 (State.axesApply s axes) := by
  unfold State.axesApply
  dsimp only
  repeat' first | (simp +contextual (maxDischargeDepth := 40) [hk]; done) | split | intro _

theorem rowProfilePeriod_on {s : State} (hk : Keeps s0 s) : OutOn s0 (rowProfilePeriod s) := by
  unfold rowProfilePeriod
  simp +contextual (maxDischargeDepth := 40) [hk]

theorem execSetpointLate_on {axis : Fin 16} {s : State} (hk : Keeps s0 s) : OutOn s0 (execSetpointLate axis s) := by
  unfold execSetpointLate
  simp +contextual (maxDischargeDepth := 40) [hk]

theorem execHoldCurrentDelay_on {axis : Fin 16} {s : State} (hk : Keeps s0 s) : OutOn s0 (execHoldCurrentDelay axis s) := by
  unfold execHoldCurrentDelay
  dsimp only
  repeat' first | (simp +contextual (maxDischargeDepth := 40) [hk]; done) | split | intro _

theorem execStallWindowEnd_on {axis : Fin 16} {delta : Half} {emf : Half} {s : State} (hk : Keeps s0 s) : OutOn s0 (execStallWindowEnd axis delta emf s) := by
  unfold execStallWindowEnd
  simp +contextual (maxDischargeDepth := 40) [hk]

theorem execBridgeFault_on {axis : Fin 16} {s : State} (hk : Keeps s0 s) : OutOn s0 (execBridgeFault axis s) := by
  unfold execBridgeFault
  simp +contextual (maxDischargeDepth := 40) [hk]

theorem execAxFltNHigh_on {axis : Fin 16} {s : State} (hk : Keeps s0 s) : OutOn s0 (execAxFltNHigh axis s) := by
  unfold execAxFltNHigh
  simp +contextual (maxDischargeDepth := 40) [hk]

@[simp ↓] theorem State.axCmd_on {s : State} {l : LaneId} {key : Half} {a : Fin 16} {f : State → State} (hk : Keeps s0 s) (hkf : ∀ s, Keeps s0 s → Keeps s0 (f s)) : Keeps s0 (State.axCmd s l key a f) := by
  unfold State.axCmd
  simp +contextual (maxDischargeDepth := 40) [hk, hkf]

@[simp ↓] theorem State.axRef_on {s : State} {l : LaneId} {key : Half} {a : Fin 16} (hk : Keeps s0 s) : Keeps s0 (State.axRef s l key a) := by
  unfold State.axRef
  simp +contextual (maxDischargeDepth := 40) [hk]

theorem execAxisRef_on {src : Src} {key : Half} {axis : Fin 16} {s : State} (hk : Keeps s0 s) : OutOn s0 (execAxisRef src key axis s) := by
  unfold execAxisRef
  simp +contextual (maxDischargeDepth := 40) [hk]

theorem execAxisStop_on {src : Src} {key : Half} {axis : Fin 16} {s : State} (hk : Keeps s0 s) : OutOn s0 (execAxisStop src key axis s) := by
  unfold execAxisStop
  simp +contextual (maxDischargeDepth := 40) [hk]

@[simp ↓] theorem State.axSetPos_on {s : State} {l : LaneId} {key : Half} {a : Fin 16} (hk : Keeps s0 s) : Keeps s0 (State.axSetPos s l key a) := by
  unfold State.axSetPos
  simp +contextual (maxDischargeDepth := 40) [hk]

theorem execAxisSetPos_on {src : Src} {key : Half} {axis : Fin 16} {s : State} (hk : Keeps s0 s) : OutOn s0 (execAxisSetPos src key axis s) := by
  unfold execAxisSetPos
  simp +contextual (maxDischargeDepth := 40) [hk]

@[simp ↓] theorem State.axTargetWrite_on {s : State} {l : LaneId} {req : Requester} {a : Fin 16} {speed : Bool} {data : Word} (hk : Keeps s0 s) : Keeps s0 (State.axTargetWrite s l req a speed data) := by
  unfold State.axTargetWrite
  simp +contextual (maxDischargeDepth := 40) [hk]

theorem execAxisTargetWrite_on {src : Src} {axis : Fin 16} {speed : Bool} {data : Word} {s : State} (hk : Keeps s0 s) : OutOn s0 (execAxisTargetWrite src axis speed data s) := by
  unfold execAxisTargetWrite
  simp +contextual (maxDischargeDepth := 40) [hk]

@[simp ↓] theorem State.axDiEdge_on {s : State} {ch : Nat} {level : Bool} {stamp : Nat} (hk : Keeps s0 s) : Keeps s0 (State.axDiEdge s ch level stamp) := by
  unfold State.axDiEdge
  simp +contextual (maxDischargeDepth := 40) [hk]

@[simp ↓] theorem State.axStop_on {s : State} {a : Fin 16} (hk : Keeps s0 s) : Keeps s0 (State.axStop s a) := by
  unfold State.axStop
  simp +contextual (maxDischargeDepth := 40) [hk]

@[simp ↓] theorem State.axSafe_on {s : State} {a : Fin 16} (hk : Keeps s0 s) : Keeps s0 (State.axSafe s a) := by
  unfold State.axSafe
  simp +contextual (maxDischargeDepth := 40) [hk]

@[simp ↓] theorem State.axOff_on {s : State} {a : Fin 16} (hk : Keeps s0 s) : Keeps s0 (State.axOff s a) := by
  unfold State.axOff
  simp +contextual (maxDischargeDepth := 40) [hk]

@[simp ↓] theorem State.axMode_on {s : State} {m : Mode} (hk : Keeps s0 s) : Keeps s0 (State.axMode s m) := by
  unfold State.axMode
  repeat' first | (simp +contextual (maxDischargeDepth := 40) [hk]; done) | split | intro _

@[simp ↓] theorem Lane.axLoad_on {L : Lane} (hk : LaneOn s0 L) : LaneOn s0 (Lane.axLoad L) := by
  unfold Lane.axLoad
  simp +contextual (maxDischargeDepth := 40) [hk]

end Sys2Proof.Machine
end

