-- ==== Sys2Proof/Laws/KeepsChest.lean ====
section
/-! SUPPORT. Laws/KeepsChest.lean: everything in Machine/Chest.lean keeps what every command keeps (the Chest). -/
namespace Sys2Proof.Machine

variable {s0 s t : State} {L : Lane}

theorem banks_set {v : Vector Bank 8} (h : BanksOn s0 v) {n : Nat} {hn : n < 8} {b : Bank} (hb : BankOn s0 b) : BanksOn s0 (v.set n b hn) := by
  intro i
  by_cases e : n = i
  · subst e
    simpa using hb
  · simpa [Vector.getElem_set, e] using h i

@[simp ↓] theorem chest_ite {c : Prop} [Decidable c] {a b : Chest} (ha : ChestOn s0 a) (hb : ChestOn s0 b) : ChestOn s0 (if c then a else b) := by
  split
  · exact ha
  · exact hb

@[simp ↓] theorem mem_copy_bank {m n : Mem} (h : MemOn s0 m) (hn : MemOn s0 n) {b : Nat} :
    MemOn s0 (spCopy m n (0x200000 * b) (0x200000 * (b + 1))) := mem_copy h hn (Nat.mul_le_mul_left _ (Nat.le_succ b))

@[simp ↓] theorem Chest.bankUpd_on {c : Chest} {b : Nat} {f : Bank → Bank} (hk : ChestOn s0 c) (hf : ∀ x, BankOn s0 x → BankOn s0 (f x)) :
    ChestOn s0 (c.bankUpd b f) := by
  unfold Chest.bankUpd
  split
  · rename_i hb
    exact ⟨hk.1, banks_set (hn := hb) hk.2 (hf _ (hk.2 ⟨b, hb⟩))⟩
  · exact hk

@[simp ↓] theorem State.chestPut_on {s : State} {off : Nat} {bs : Bytes} (hk : Keeps s0 s) : Keeps s0 (State.chestPut s off bs) := by
  unfold State.chestPut
  simp +contextual (maxDischargeDepth := 40) [hk]

@[simp ↓] theorem State.chestPlain_on {s : State} {l : LaneId} {off : Nat} {bs : Bytes} (hk : Keeps s0 s) : Keeps s0 (State.chestPlain s l off bs).1 := by
  unfold State.chestPlain
  simp +contextual (maxDischargeDepth := 40) [hk]

@[simp ↓] theorem Lane.grpDrop_on {L : Lane} {g : Fin 8} (hk : LaneOn s0 L) : LaneOn s0 (Lane.grpDrop L g) := by
  unfold Lane.grpDrop
  simp +contextual (maxDischargeDepth := 40) [hk]

@[simp ↓] theorem Lane.grpDropIf_on {L : Lane} {p : Grp → Bool} (hk : LaneOn s0 L) : LaneOn s0 (Lane.grpDropIf L p) := by
  unfold Lane.grpDropIf
  simp +contextual (maxDischargeDepth := 40) [hk]

@[simp ↓] theorem State.grpDiscardTask_on {s : State} {t : Fin 8} (hk : Keeps s0 s) : Keeps s0 (State.grpDiscardTask s t) := by
  unfold State.grpDiscardTask
  simp +contextual (maxDischargeDepth := 40) [hk]

@[simp ↓] theorem State.grpCmd_on {s : State} {key : Half} {f : State → State} (hk : Keeps s0 s) (hkf : ∀ s, Keeps s0 s → Keeps s0 (f s)) : Keeps s0 (State.grpCmd s key f) := by
  unfold State.grpCmd
  simp +contextual (maxDischargeDepth := 40) [hk, hkf]

@[simp ↓] theorem State.grpOpen_on {s : State} {l : LaneId} {g : Fin 8} {words : Nat} {owner : Nat} (hk : Keeps s0 s) : Keeps s0 (State.grpOpen s l g words owner) := by
  unfold State.grpOpen
  simp +contextual (maxDischargeDepth := 40) [hk]

theorem execChestGroupOpen_on {src : Src} {key : Half} {group : Fin 8} {words : Nat} {owner : Fin 16} {s : State} (hk : Keeps s0 s) : OutOn s0 (execChestGroupOpen src key group words owner s) := by
  unfold execChestGroupOpen
  simp +contextual (maxDischargeDepth := 40) [hk]

@[simp ↓] theorem State.grpClose_on {s : State} {l : LaneId} {g : Fin 8} (hk : Keeps s0 s) : Keeps s0 (State.grpClose s l g) := by
  unfold State.grpClose
  simp +contextual (maxDischargeDepth := 40) [hk]

theorem execChestGroupClose_on {src : Src} {key : Half} {group : Fin 8} {s : State} (hk : Keeps s0 s) : OutOn s0 (execChestGroupClose src key group s) := by
  unfold execChestGroupClose
  simp +contextual (maxDischargeDepth := 40) [hk]

@[simp ↓] theorem State.grpDiscard_on {s : State} {l : LaneId} {g : Fin 8} (hk : Keeps s0 s) : Keeps s0 (State.grpDiscard s l g) := by
  unfold State.grpDiscard
  simp +contextual (maxDischargeDepth := 40) [hk]

theorem execChestGroupDiscard_on {src : Src} {key : Half} {group : Fin 8} {s : State} (hk : Keeps s0 s) : OutOn s0 (execChestGroupDiscard src key group s) := by
  unfold execChestGroupDiscard
  simp +contextual (maxDischargeDepth := 40) [hk]

@[simp ↓] theorem State.grpApply_on {s : State} {l : LaneId} (hk : Keeps s0 s) : Keeps s0 (State.grpApply s l) := by
  unfold State.grpApply
  repeat' first | (simp +contextual (maxDischargeDepth := 40) [hk]; done) | split | intro _

theorem execChestGroupCommitApplied_on {lane : LaneId} {s : State} (hk : Keeps s0 s) : OutOn s0 (execChestGroupCommitApplied lane s) := by
  unfold execChestGroupCommitApplied
  simp +contextual (maxDischargeDepth := 40) [hk]

@[simp ↓] theorem State.chestWord_on {s : State} {l : LaneId} {e : Fin 16} {off : Nat} {bs : Bytes} (hk : Keeps s0 s) : Keeps s0 (State.chestWord s l e off bs) := by
  unfold State.chestWord
  dsimp only
  repeat' first | (simp +contextual (maxDischargeDepth := 40) [hk]; done) | split | intro _

@[simp ↓] theorem State.chestEng_on {s : State} {l : LaneId} {e : Fin 16} {off : Nat} {bs : Bytes} (hk : Keeps s0 s) : Keeps s0 (State.chestEng s l e off bs) := by
  unfold State.chestEng
  simp +contextual (maxDischargeDepth := 40) [hk]

theorem execChestWrite_on {lane : LaneId} {engine : Fin 16} {addr : Word} {data : Bytes} {s : State} (hk : Keeps s0 s) : OutOn s0 (execChestWrite lane engine addr data s) := by
  unfold execChestWrite
  simp +contextual (maxDischargeDepth := 40) [hk]

@[simp ↓] theorem State.chestPublished_on {s : State} {t : Nat} {cycle : Nat} (hk : Keeps s0 s) : Keeps s0 (State.chestPublished s t cycle) := by
  unfold State.chestPublished
  simp +contextual (maxDischargeDepth := 40) [hk]

@[simp ↓] theorem State.chestStopped_on {s : State} {l : LaneId} {t : Nat} (hk : Keeps s0 s) : Keeps s0 (State.chestStopped s l t) := by
  unfold State.chestStopped
  simp +contextual (maxDischargeDepth := 40) [hk]

@[simp ↓] theorem State.chestTakeover_on {s : State} (hk : Keeps s0 s) : Keeps s0 (State.chestTakeover s) := by
  unfold State.chestTakeover
  simp +contextual (maxDischargeDepth := 40) [hk]

@[simp ↓] theorem Chest.startNext_on {c : Chest} (hkc : ChestOn s0 c) : ChestOn s0 (Chest.startNext c) := by
  unfold Chest.startNext
  repeat' first | (simp +contextual (maxDischargeDepth := 40) [hkc]; done) | split | intro _

@[simp ↓] theorem Chest.addPend_on {c : Chest} {mask : Byte} (hkc : ChestOn s0 c) : ChestOn s0 (Chest.addPend c mask) := by
  unfold Chest.addPend
  simp +contextual (maxDischargeDepth := 40) [hkc]

@[simp ↓] theorem Chest.storeBank_on {c : Chest} {b : Nat} (hk : ChestOn s0 c) : ChestOn s0 (c.storeBank b) := by
  unfold Chest.storeBank
  refine Chest.bankUpd_on hk fun k hb => ?_
  have hd : MemOn s0 (spPart c.array (0x200000 * b) (0x200000 * (b + 1))) := mem_part hk.1
  dsimp only
  split
  · exact ⟨hd, hb.2⟩
  · exact ⟨hb.1, hd⟩

@[simp ↓] theorem Chest.cutBank_on {c : Chest} {b : Nat} (hk : ChestOn s0 c) : ChestOn s0 (c.cutBank b) := by
  unfold Chest.cutBank
  refine Chest.bankUpd_on hk fun k hb => ?_
  split <;> exact ⟨hb.1, hb.2⟩

@[simp ↓] theorem State.chestStore_on {s : State} {l : LaneId} {key : Half} {mask : Byte} (hk : Keeps s0 s) : Keeps s0 (State.chestStore s l key mask) := by
  unfold State.chestStore
  simp +contextual (maxDischargeDepth := 40) [hk]

theorem execChestStoreCmd_on {src : Src} {key : Half} {mask : Byte} {s : State} (hk : Keeps s0 s) : OutOn s0 (execChestStoreCmd src key mask s) := by
  unfold execChestStoreCmd
  simp +contextual (maxDischargeDepth := 40) [hk]

theorem execChestBankStoreEnd_on {s : State} (hk : Keeps s0 s) : OutOn s0 (execChestBankStoreEnd s) := by
  unfold execChestBankStoreEnd
  repeat' first | (simp +contextual (maxDischargeDepth := 40) [hk]; done) | split | intro _

theorem execChestMarginRead_on {bank : Fin 8} {page : Fin 512} {weak : Bool} {s : State} (hk : Keeps s0 s) : OutOn s0 (execChestMarginRead bank page weak s) := by
  unfold execChestMarginRead
  simp +contextual (maxDischargeDepth := 40) [hk]

@[simp ↓] theorem Chest.recall_on {c : Chest} (hk : ChestOn s0 c) : ChestOn s0 c.recall := by
  unfold Chest.recall
  refine foldl_prop (P := ChestOn s0) (fun c b hc => ?_) _ (b := { c with recalled := true }) ⟨hk.1, hk.2⟩
  have hb : BankOn s0 (c.banks.getD b Bank.init) := by
    by_cases h8 : b < 8
    · simpa [Vector.getD, h8] using hc.2 ⟨b, h8⟩
    · simp [Vector.getD, h8, Bank.init, BankOn]
  refine (fun (new old : Plane) (hn : MemOn s0 new.data) (ho : MemOn s0 old.data) => ?_ :
    ∀ new old : Plane, MemOn s0 new.data → MemOn s0 old.data → ChestOn s0 (Chest.bankUpd (
      if new.good then { c with array := spCopy c.array new.data (0x200000 * b) (0x200000 * (b + 1)) }
      else if old.good then
        Chest.bankUpd { c with array := spCopy c.array old.data (0x200000 * b) (0x200000 * (b + 1)) } b fun k => { k with recallOld := true }
      else Chest.bankUpd { c with array := spCopy c.array [] (0x200000 * b) (0x200000 * (b + 1)) } b fun k => { k with lost := true })
      b fun k => { k with dirty := false })) _ _ ?_ ?_
  · simp +contextual (maxDischargeDepth := 20) [hc, hn, ho]
  · split
    · exact hb.1
    · exact hb.2
  · split
    · exact hb.2
    · exact hb.1

@[simp ↓] theorem Chest.failStore_on {c : Chest} {banks : List Nat} (hk : ChestOn s0 c) : ChestOn s0 (c.failStore banks) := by
  unfold Chest.failStore
  refine foldl_prop (P := ChestOn s0) ?_ _ hk
  intro c b hc
  exact Chest.bankUpd_on (Chest.storeBank_on hc) fun k h => ⟨h.1, h.2⟩

@[simp ↓] theorem State.chestSetProt_on {s : State} {l : LaneId} {prot : Fin 4} (hk : Keeps s0 s) : Keeps s0 (State.chestSetProt s l prot) := by
  unfold State.chestSetProt
  simp +contextual (maxDischargeDepth := 40) [hk]

theorem execChestProtWrite_on {src : Src} {prot : Fin 4} {s : State} (hk : Keeps s0 s) : OutOn s0 (execChestProtWrite src prot s) := by
  unfold execChestProtWrite
  simp +contextual (maxDischargeDepth := 40) [hk]

@[simp ↓] theorem State.chestLockIt_on {s : State} {l : LaneId} (hk : Keeps s0 s) : Keeps s0 (State.chestLockIt s l) := by
  unfold State.chestLockIt
  simp +contextual (maxDischargeDepth := 40) [hk]

theorem execChestLock_on {src : Src} {s : State} (hk : Keeps s0 s) : OutOn s0 (execChestLock src s) := by
  unfold execChestLock
  simp +contextual (maxDischargeDepth := 40) [hk]

@[simp ↓] theorem State.pairPut_on {s : State} {off : Nat} {copyB : Bool} {seq : Word} {data : Bytes} (hk : Keeps s0 s) : Keeps s0 (State.pairPut s off copyB seq data) := by
  unfold State.pairPut
  simp +contextual (maxDischargeDepth := 40) [hk]

@[simp ↓] theorem Lane.pairEnd_on {L : Lane} {result : Nat} (hk : LaneOn s0 L) : LaneOn s0 (Lane.pairEnd L result) := by
  unfold Lane.pairEnd
  simp +contextual (maxDischargeDepth := 40) [hk]

@[simp ↓] theorem State.pairCmd_on {l : LaneId} {key : Half} {write : Bool} (hk : Keeps s0 s) : Keeps s0 (s.pairCmd l key write) := by
  unfold State.pairCmd
  refine keeps_ite (State.ok_on hk) (keeps_ite (State.refuse_on hk) (keeps_ite ?_ ?_))
  · exact State.refuse_on (State.upd_on hk fun L hL => Lane.pairEnd_on hL)
  · refine State.ok_on (State.upd_on hk fun L hL => ?_)
    have h := Lane.setFlag_on hL (a := aPair 0x10) (i := 31) (v := true)
    exact ⟨h.1, h.2.1, h.2.2.1, h.2.2.2⟩

theorem execPairRecordWrite_on {src : Src} {key : Half} {s : State} (hk : Keeps s0 s) : OutOn s0 (execPairRecordWrite src key s) := by
  unfold execPairRecordWrite
  simp +contextual (maxDischargeDepth := 40) [hk]

theorem execPairRecordRead_on {src : Src} {key : Half} {s : State} (hk : Keeps s0 s) : OutOn s0 (execPairRecordRead src key s) := by
  unfold execPairRecordRead
  simp +contextual (maxDischargeDepth := 40) [hk]

@[simp ↓] theorem State.pairMove_on {s : State} {l : LaneId} {op : PairOp} (hk : Keeps s0 s) : Keeps s0 (State.pairMove s l op) := by
  unfold State.pairMove
  repeat' first | (simp +contextual (maxDischargeDepth := 40) [hk]; done) | split | intro _

@[simp ↓] theorem Lane.pairShow_on {L : Lane} {op : PairOp} (hk : LaneOn s0 L) : LaneOn s0 (Lane.pairShow L op) := by
  unfold Lane.pairShow
  repeat' first | (simp +contextual (maxDischargeDepth := 40) [hk]; done) | split | intro _

theorem execPairUnitDone_on {lane : LaneId} {s : State} (hk : Keeps s0 s) : OutOn s0 (execPairUnitDone lane s) := by
  unfold execPairUnitDone
  repeat' first | (simp +contextual (maxDischargeDepth := 40) [hk]; done) | split | intro _

@[simp ↓] theorem State.pairCut_on {s : State} {l : LaneId} (hk : Keeps s0 s) : Keeps s0 (State.pairCut s l) := by
  unfold State.pairCut
  repeat' first | (simp +contextual (maxDischargeDepth := 40) [hk]; done) | split | intro _

@[simp ↓] theorem State.chestPowerFail_on {s : State} (hk : Keeps s0 s) : Keeps s0 (State.chestPowerFail s) := by
  unfold State.chestPowerFail
  simp +contextual (maxDischargeDepth := 40) [hk]

@[simp ↓] theorem State.chestDiscardLane_on {s : State} {l : LaneId} (hk : Keeps s0 s) : Keeps s0 (State.chestDiscardLane s l) := by
  unfold State.chestDiscardLane
  simp +contextual (maxDischargeDepth := 40) [hk]

@[simp ↓] theorem State.chsWrite_on {s : State} {l : LaneId} {a : Nat} {v : Word} (hk : Keeps s0 s) : Keeps s0 (State.chsWrite s l a v) := by
  unfold State.chsWrite
  simp +contextual (maxDischargeDepth := 40) [hk]

end Sys2Proof.Machine
end

