-- ==== Sys2Proof/Laws/KeepsWin.lean ====
section
/-! SUPPORT. Laws/KeepsWin.lean: everything in Machine/Win.lean keeps what every command keeps (windows). -/
namespace Sys2Proof.Machine

variable {s0 s t : State} {L : Lane}

/-- Register accesses of a unit that keep what every command keeps. -/
def KeepsIO (io : RegIO) : Prop :=
  (∀ (s0 s : State) (src : Src) (a : Nat), Keeps s0 s → Keeps s0 (io.rd s src a).1) ∧
    ∀ (s0 s : State) (src : Src) (a : Nat) (w : Word), Keeps s0 s → Keeps s0 (io.wr s src a w).1

@[simp ↓] theorem KeepsIO.rd_on {io : RegIO} {src : Src} {a : Nat} (hio : KeepsIO io) (hk : Keeps s0 s) : Keeps s0 (@RegIO.rd io s src a).1 := hio.1 _ _ _ _ hk
@[simp ↓] theorem KeepsIO.wr_on {io : RegIO} {src : Src} {a : Nat} {w : Word} (hio : KeepsIO io) (hk : Keeps s0 s) : Keeps s0 (@RegIO.wr io s src a w).1 := hio.2 _ _ _ _ _ hk

@[simp ↓] theorem State.eccUe_on {s : State} {l : LaneId} {key : Nat} {addr : Nat} (hk : Keeps s0 s) : Keeps s0 (State.eccUe s l key addr) := by
  unfold State.eccUe
  simp +contextual (maxDischargeDepth := 40) [hk]

@[simp ↓] theorem State.eccCe_on {s : State} {l : LaneId} (hk : Keeps s0 s) : Keeps s0 (State.eccCe s l) := by
  unfold State.eccCe
  simp +contextual (maxDischargeDepth := 40) [hk]

@[simp ↓] theorem regWordsRd_on {io : RegIO} {src : Src} {n a : Nat} {acc : Bytes} (hio : KeepsIO io) (hk : Keeps s0 s) :
    Keeps s0 (@regWordsRd io src n s a acc).1 := by
  induction n generalizing s a acc with
  | zero => exact hk
  | succ n ih =>
    have h1 : Keeps s0 (@RegIO.rd io s src a).1 := hio.1 _ _ _ _ hk
    unfold regWordsRd
    generalize @RegIO.rd io s src a = p at h1 ⊢
    obtain ⟨s1, _ | w⟩ := p
    · exact h1
    · exact ih h1

@[simp ↓] theorem regWordsWr_on {io : RegIO} {src : Src} {n a d : Nat} {bs : Bytes} (hio : KeepsIO io) (hk : Keeps s0 s) :
    Keeps s0 (@regWordsWr io src n s a bs d).1 := by
  induction n generalizing s a bs d with
  | zero => exact hk
  | succ n ih =>
    have h1 := hio.2 s0 s src a (BitVec.ofNat 32 (u32At bs 0)) hk
    unfold regWordsWr
    generalize @RegIO.wr io s src a (BitVec.ofNat 32 (u32At bs 0)) = p at h1 ⊢
    obtain ⟨s1, _ | _⟩ := p
    · exact h1
    · exact ih h1

@[simp ↓] theorem State.tgtRead_on {io : RegIO} {s : State} {l : LaneId} {q : Nat} {g : Target} {n : Nat} (hio : KeepsIO io) (hk : Keeps s0 s) : Keeps s0 (@State.tgtRead io s l q g n).1 := by
  unfold State.tgtRead
  dsimp only
  repeat' first | (simp +contextual (maxDischargeDepth := 40) [hio, hk]; done) | split | intro _

@[simp ↓] theorem State.tgtWrite_on {io : RegIO} {s : State} {l : LaneId} {q : Nat} {g : Target} {bs : Bytes} (hio : KeepsIO io) (hk : Keeps s0 s) : Keeps s0 (@State.tgtWrite io s l q g bs).1 := by
  unfold State.tgtWrite
  dsimp only
  repeat' first | (simp +contextual (maxDischargeDepth := 40) [hio, hk]; done) | split | intro _

@[simp ↓] theorem State.winReadGo_on {io : RegIO} {l : LaneId} {held : Option (List (Nat × Word))} {q n a k : Nat} {acc : Bytes} (hio : KeepsIO io)
    (hk : Keeps s0 s) : Keeps s0 (@State.winReadGo io s l held q n a k acc).1 := by
  induction n generalizing s a k acc with
  | zero => exact hk
  | succ n ih =>
    unfold State.winReadGo
    refine keeps_ite_fst hk ?_
    dsimp only
    split
    · exact hk
    · rename_i g _
      have h1 : Keeps s0 (@State.tgtRead io s l q g (pieceLen a k)).1 := State.tgtRead_on hio hk
      generalize @State.tgtRead io s l q g (pieceLen a k) = p at h1 ⊢
      obtain ⟨s1, b, _ | f⟩ := p
      · exact ih h1
      · exact h1

@[simp ↓] theorem State.winRead_on {io : RegIO} {s : State} {l : LaneId} {q : Nat} {a : Nat} {n : Nat} (hio : KeepsIO io) (hk : Keeps s0 s) : Keeps s0 (@State.winRead io s l q a n).1 := by
  unfold State.winRead
  simp +contextual (maxDischargeDepth := 40) [hio, hk]

@[simp ↓] theorem State.winWriteGo_on {io : RegIO} {l : LaneId} {held : Option (List (Nat × Word))} {q n a : Nat} {bs : Bytes} (hio : KeepsIO io)
    (hk : Keeps s0 s) : Keeps s0 (@State.winWriteGo io s l held q n a bs).1 := by
  induction n generalizing s a bs with
  | zero => exact hk
  | succ n ih =>
    unfold State.winWriteGo
    refine keeps_ite_fst hk ?_
    dsimp only
    split
    · exact hk
    · rename_i g _
      have h1 : Keeps s0 (@State.tgtWrite io s l q g (bs.take (pieceLen a bs.length))).1 := State.tgtWrite_on hio hk
      generalize @State.tgtWrite io s l q g (bs.take (pieceLen a bs.length)) = p at h1 ⊢
      obtain ⟨s1, b, _ | f⟩ := p
      · exact ih h1
      · exact h1

@[simp ↓] theorem State.winWrite_on {io : RegIO} {s : State} {l : LaneId} {q : Nat} {a : Nat} {bs : Bytes} (hio : KeepsIO io) (hk : Keeps s0 s) : Keeps s0 (@State.winWrite io s l q a bs).1 := by
  unfold State.winWrite
  simp +contextual (maxDischargeDepth := 40) [hio, hk]

@[simp ↓] theorem State.winFault_on {s : State} {l : LaneId} {q : Nat} {kind : Nat} {addr : Nat} (hk : Keeps s0 s) : Keeps s0 (State.winFault s l q kind addr) := by
  unfold State.winFault
  simp +contextual (maxDischargeDepth := 40) [hk]

@[simp ↓] theorem State.winHit_on {s : State} {l : LaneId} {q : Nat} {f : Nat × Nat} (hk : Keeps s0 s) : Keeps s0 (State.winHit s l q f) := by
  unfold State.winHit
  repeat' first | (simp +contextual (maxDischargeDepth := 40) [hk]; done) | split | intro _

theorem execScrubRead_on {lane : LaneId} {engine : Fin 16} {addr : Word} {ecc : EccResult} {s : State} (hk : Keeps s0 s) : OutOn s0 (execScrubRead lane engine addr ecc s) := by
  unfold execScrubRead
  repeat' first | (simp +contextual (maxDischargeDepth := 40) [hk]; done) | split | intro _

end Sys2Proof.Machine
end

