-- ==== Sys2Proof/Laws/KeepsEth.lean ====
section
/-! SUPPORT. Laws/KeepsEth.lean: everything in Machine/Eth.lean keeps what every command keeps (Ethernet). -/
namespace Sys2Proof.Machine

variable {s0 s t : State} {L : Lane}

@[simp ↓] theorem State.ethUp_on {s : State} {f : Lane → Lane} (hk : Keeps s0 s) (hkf : ∀ L, LaneOn s0 L → LaneOn s0 (f L)) : Keeps s0 (State.ethUp s f) := by
  unfold State.ethUp
  simp +contextual (maxDischargeDepth := 40) [hk, hkf]

@[simp ↓] theorem State.ethL_on {s : State} (hk : Keeps s0 s) : LaneOn s0 (State.ethL s) := by
  unfold State.ethL
  simp +contextual (maxDischargeDepth := 40) [hk]

@[simp ↓] theorem State.ethPut_on {s : State} {p : Nat} {frame : Bytes} (hk : Keeps s0 s) : Keeps s0 (State.ethPut s p frame) := by
  unfold State.ethPut
  repeat' first | (simp +contextual (maxDischargeDepth := 40) [hk]; done) | split | intro _

@[simp ↓] theorem State.ethEmit_on {s : State} {p : Nat} {frame : Bytes} {size : Nat} (hk : Keeps s0 s) : Keeps s0 (State.ethEmit s p frame size) := by
  unfold State.ethEmit
  simp +contextual (maxDischargeDepth := 40) [hk]

@[simp ↓] theorem State.prpStep_on {s : State} {p : Nat} (hk : Keeps s0 s) : Keeps s0 (State.prpStep s p) := by
  unfold State.prpStep
  simp +contextual (maxDischargeDepth := 40) [hk]

@[simp ↓] theorem State.ethSendV_on {s : State} {p : Nat} {vid : Nat} {dst : Bytes} {typ : Nat} {payload : Bytes} (hk : Keeps s0 s) : Keeps s0 (State.ethSendV s p vid dst typ payload) := by
  unfold State.ethSendV
  simp +contextual (maxDischargeDepth := 40) [hk]

@[simp ↓] theorem State.ethSend_on {s : State} {p : Nat} {dst : Bytes} {typ : Nat} {payload : Bytes} (hk : Keeps s0 s) : Keeps s0 (State.ethSend s p dst typ payload) := by
  unfold State.ethSend
  simp +contextual (maxDischargeDepth := 40) [hk]

@[simp ↓] theorem State.ethAsk_on {s : State} {p : Nat} {vid : Nat} {addr : Bytes} (hk : Keeps s0 s) : Keeps s0 (State.ethAsk s p vid addr) := by
  unfold State.ethAsk
  simp +contextual (maxDischargeDepth := 40) [hk]

@[simp ↓] theorem State.telOut_on {s : State} {t : Telegram} {mac : Bytes} (hk : Keeps s0 s) : Keeps s0 (State.telOut s t mac) := by
  unfold State.telOut
  simp +contextual (maxDischargeDepth := 40) [hk]

@[simp ↓] theorem State.telSend_on {s : State} {t : Telegram} (hk : Keeps s0 s) : Keeps s0 (State.telSend s t) := by
  unfold State.telSend
  dsimp only
  repeat' first | (simp +contextual (maxDischargeDepth := 40) [hk]; done) | split | intro _

@[simp ↓] theorem State.neighLearn_on {s : State} {p : Nat} {addr : Bytes} {mac : Bytes} (hk : Keeps s0 s) : Keeps s0 (State.neighLearn s p addr mac) := by
  unfold State.neighLearn
  simp +contextual (maxDischargeDepth := 40) [hk]

@[simp ↓] theorem State.ethDrop_on {s : State} {p : Nat} (hk : Keeps s0 s) : Keeps s0 (State.ethDrop s p) := by
  unfold State.ethDrop
  simp +contextual (maxDischargeDepth := 40) [hk]

@[simp ↓] theorem State.ethIp4In_on {s : State} {p : Nat} {srcMac : Bytes} {d : Bytes} (hk : Keeps s0 s) : Keeps s0 (State.ethIp4In s p srcMac d) := by
  unfold State.ethIp4In
  simp +contextual (maxDischargeDepth := 40) [hk]

@[simp ↓] theorem State.ndLearn_on {s : State} {p : Nat} {src : Bytes} {body : Bytes} (hk : Keeps s0 s) : Keeps s0 (State.ndLearn s p src body) := by
  unfold State.ndLearn
  repeat' first | (simp +contextual (maxDischargeDepth := 40) [hk]; done) | split | intro _

@[simp ↓] theorem State.ethIp6In_on {s : State} {p : Nat} {srcMac : Bytes} {d : Bytes} (hk : Keeps s0 s) : Keeps s0 (State.ethIp6In s p srcMac d) := by
  unfold State.ethIp6In
  simp +contextual (maxDischargeDepth := 40) [hk]

@[simp ↓] theorem State.ethArpIn_on {s : State} {p : Nat} {d : Bytes} (hk : Keeps s0 s) : Keeps s0 (State.ethArpIn s p d) := by
  unfold State.ethArpIn
  simp +contextual (maxDischargeDepth := 40) [hk]

@[simp ↓] theorem State.prpNote_on {s : State} {mac : Bytes} {seq : Nat} (hk : Keeps s0 s) : Keeps s0 (State.prpNote s mac seq).1 := by
  unfold State.prpNote
  simp +contextual (maxDischargeDepth := 40) [hk]

@[simp ↓] theorem State.prpIn_on {s : State} {p : Nat} {f : Bytes} (hk : Keeps s0 s) : Keeps s0 (State.prpIn s p f).1 := by
  unfold State.prpIn
  repeat' first | (simp +contextual (maxDischargeDepth := 40) [hk]; done) | split | intro _

@[simp ↓] theorem State.lanHeard_on {s : State} {i : Nat} (hk : Keeps s0 s) : Keeps s0 (State.lanHeard s i) := by
  unfold State.lanHeard
  simp +contextual (maxDischargeDepth := 40) [hk]

@[simp ↓] theorem State.ethByType_on {s : State} {p : Nat} {f : Bytes} {o : Nat} (hk : Keeps s0 s) : Keeps s0 (State.ethByType s p f o) := by
  unfold State.ethByType
  simp +contextual (maxDischargeDepth := 40) [hk]

@[simp ↓] theorem State.ethIn_on {s : State} {p : Nat} {f : Bytes} {fcsOk : Bool} (hk : Keeps s0 s) : Keeps s0 (State.ethIn s p f fcsOk) := by
  unfold State.ethIn
  dsimp only
  repeat' first | (simp +contextual (maxDischargeDepth := 40) [hk]; done) | split | intro _

@[simp ↓] theorem State.prpStart_on {s : State} (hk : Keeps s0 s) : Keeps s0 (State.prpStart s) := by
  unfold State.prpStart
  simp +contextual (maxDischargeDepth := 40) [hk]

theorem execEthFrameReceived_on {port : Fin 3} {frame : Bytes} {fcsOk : Bool} {s : State} (hk : Keeps s0 s) : OutOn s0 (execEthFrameReceived port frame fcsOk s) := by
  unfold execEthFrameReceived
  simp +contextual (maxDischargeDepth := 40) [hk]

theorem execEthLinkChange_on {port : Fin 3} {up : Bool} {speed : Fin 4} {s : State} (hk : Keeps s0 s) : OutOn s0 (execEthLinkChange port up speed s) := by
  unfold execEthLinkChange
  simp +contextual (maxDischargeDepth := 40) [hk]

theorem execPrpSupervisionSend_on {s : State} (hk : Keeps s0 s) : OutOn s0 (execPrpSupervisionSend s) := by
  unfold execPrpSupervisionSend
  simp +contextual (maxDischargeDepth := 40) [hk]

theorem execPrpLanSilent_on {lanB : Bool} {s : State} (hk : Keeps s0 s) : OutOn s0 (execPrpLanSilent lanB s) := by
  unfold execPrpLanSilent
  simp +contextual (maxDischargeDepth := 40) [hk]

end Sys2Proof.Machine
end

