-- ==== Sys2Proof/Laws/KeepsDio.lean ====
section
/-! SUPPORT. Laws/KeepsDio.lean: everything in Machine/Dio.lean keeps what every command keeps (digital inputs and outputs). -/
namespace Sys2Proof.Machine

variable {s0 s t : State} {L : Lane}

@[simp ↓] theorem State.diUpd_on {s : State} {i : Fin 64} {f : DiCh → DiCh} (hk : Keeps s0 s) : Keeps s0 (State.diUpd s i f) := by
  unfold State.diUpd
  simp +contextual (maxDischargeDepth := 40) [hk]

@[simp ↓] theorem State.diEdge_on {s : State} {i : Fin 64} {level : Bool} {stamp : Nat} (hk : Keeps s0 s) : Keeps s0 (State.diEdge s i level stamp) := by
  unfold State.diEdge
  simp +contextual (maxDischargeDepth := 40) [hk]

@[simp ↓] theorem State.diSample_on {s : State} {i : Fin 64} {v : Int} (hk : Keeps s0 s) : Keeps s0 (State.diSample s i v) := by
  unfold State.diSample
  simp +contextual (maxDischargeDepth := 40) [hk]

@[simp ↓] theorem State.diSampleAt_on {s : State} {i : Fin 64} {level : Bool} (hk : Keeps s0 s) : Keeps s0 (State.diSampleAt s i level) := by
  unfold State.diSampleAt
  simp +contextual (maxDischargeDepth := 40) [hk]

theorem State.diSampleWb_on {s : State} {i : Fin 64} {draws : Bool} (hk : Keeps s0 s) : OptOn s0 (State.diSampleWb s i draws) := by
  unfold State.diSampleWb
  simp +contextual (maxDischargeDepth := 40) [hk]

theorem execDiFilterChange_on {ch : Fin 64} {level : Bool} {s : State} (hk : Keeps s0 s) : OutOn s0 (execDiFilterChange ch level s) := by
  unfold execDiFilterChange
  simp +contextual (maxDischargeDepth := 40) [hk]

theorem execDiWireBreak_on {ch : Fin 64} {s : State} (hk : Keeps s0 s) : OutOn s0 (execDiWireBreak ch s) := by
  have h1 : OptOn s0 (s.diSampleWb ch false) := State.diSampleWb_on hk
  unfold execDiWireBreak
  dsimp only
  refine out_ite (out_next hk) (out_next (State.raiseUp_on ?_))
  simp +contextual [hk, h1]

theorem execDiWireBreakEnd_on {ch : Fin 64} {s : State} (hk : Keeps s0 s) : OutOn s0 (execDiWireBreakEnd ch s) := by
  unfold execDiWireBreakEnd
  extract_lets d o s1 s2
  have h1 : Keeps s0 s1 := OptOn.getD_on (State.diSampleWb_on (by simp [hk])) hk
  have h2 : Keeps s0 s2 := State.raiseUp_on (State.diUpd_on h1)
  clear_value s1 s2 o
  refine out_ite (out_next hk) (out_next ?_)
  split <;> simp +contextual (maxDischargeDepth := 20) [h2]

@[simp ↓] theorem State.diClrCnt_on {s : State} {l : LaneId} {key : Half} {ch : Byte} (hk : Keeps s0 s) : Keeps s0 (State.diClrCnt s l key ch) := by
  unfold State.diClrCnt
  repeat' first | (simp +contextual (maxDischargeDepth := 40) [hk]; done) | split | intro _

theorem execDiClrCnt_on {src : Src} {key : Half} {ch : Byte} {s : State} (hk : Keeps s0 s) : OutOn s0 (execDiClrCnt src key ch s) := by
  unfold execDiClrCnt
  simp +contextual (maxDischargeDepth := 40) [hk]

@[simp ↓] theorem State.diStart_on {s : State} (hk : Keeps s0 s) : Keeps s0 (State.diStart s) := by
  unfold State.diStart
  simp +contextual (maxDischargeDepth := 40) [hk]

@[simp ↓] theorem State.dqUpd_on {s : State} {j : Fin 32} {f : DqCh → DqCh} (hk : Keeps s0 s) : Keeps s0 (State.dqUpd s j f) := by
  unfold State.dqUpd
  simp +contextual (maxDischargeDepth := 40) [hk]

@[simp ↓] theorem State.dqJoin_on {s : State} {js : List (Fin 32)} (hk : Keeps s0 s) : Keeps s0 (State.dqJoin s js) := by
  unfold State.dqJoin
  simp +contextual (maxDischargeDepth := 40) [hk]

@[simp ↓] theorem State.dqLeave_on {s : State} {p : Fin 32 → Bool} (hk : Keeps s0 s) : Keeps s0 (State.dqLeave s p) := by
  unfold State.dqLeave
  simp +contextual (maxDischargeDepth := 40) [hk]

@[simp ↓] theorem State.dqSlot_on {s : State} (hk : Keeps s0 s) : Keeps s0 (State.dqSlot s) := by
  unfold State.dqSlot
  simp +contextual (maxDischargeDepth := 40) [hk]

@[simp ↓] theorem State.dqRejoin_on {s : State} {js : List (Fin 32)} (hk : Keeps s0 s) : Keeps s0 (State.dqRejoin s js) := by
  unfold State.dqRejoin
  dsimp only
  repeat' first | (simp +contextual (maxDischargeDepth := 40) [hk]; done) | split | intro _

@[simp ↓] theorem State.dqKeepPub_on {s : State} {ran : Bool} (hk : Keeps s0 s) : Keeps s0 (State.dqKeepPub s ran) := by
  unfold State.dqKeepPub
  repeat' first | (simp +contextual (maxDischargeDepth := 40) [hk]; done) | split | intro _

@[simp ↓] theorem State.dqApply_on {s : State} {img : Word} (hk : Keeps s0 s) : Keeps s0 (State.dqApply s img) := by
  unfold State.dqApply
  simp +contextual (maxDischargeDepth := 40) [hk]

@[simp ↓] theorem State.dqAllOff_on {s : State} (hk : Keeps s0 s) : Keeps s0 (State.dqAllOff s) := by
  unfold State.dqAllOff
  simp +contextual (maxDischargeDepth := 40) [hk]

@[simp ↓] theorem State.dqFailsafe_on {s : State} (hk : Keeps s0 s) : Keeps s0 (State.dqFailsafe s) := by
  unfold State.dqFailsafe
  simp +contextual (maxDischargeDepth := 40) [hk]

theorem execDqSwitchOnSlot_on {s : State} (hk : Keeps s0 s) : OutOn s0 (execDqSwitchOnSlot s) := by
  unfold execDqSwitchOnSlot
  repeat' first | (simp +contextual (maxDischargeDepth := 40) [hk]; done) | split | intro _

theorem execLplusLow_on {group : Fin 4} {s : State} (hk : Keeps s0 s) : OutOn s0 (execLplusLow group s) := by
  unfold execLplusLow
  simp +contextual (maxDischargeDepth := 40) [hk]

theorem execLplusReturn_on {group : Fin 4} {s : State} (hk : Keeps s0 s) : OutOn s0 (execLplusReturn group s) := by
  unfold execLplusReturn
  simp +contextual (maxDischargeDepth := 40) [hk]

theorem execDqOverload_on {ch : Fin 32} {s : State} (hk : Keeps s0 s) : OutOn s0 (execDqOverload ch s) := by
  unfold execDqOverload
  simp +contextual (maxDischargeDepth := 40) [hk]

theorem execDqOvertemp_on {ch : Fin 32} {s : State} (hk : Keeps s0 s) : OutOn s0 (execDqOvertemp ch s) := by
  unfold execDqOvertemp
  simp +contextual (maxDischargeDepth := 40) [hk]

@[simp ↓] theorem State.dqRelease_on {s : State} {ch : Fin 32} (hk : Keeps s0 s) : Keeps s0 (State.dqRelease s ch) := by
  unfold State.dqRelease
  simp +contextual (maxDischargeDepth := 40) [hk]

theorem execDqCooled_on {ch : Fin 32} {s : State} (hk : Keeps s0 s) : OutOn s0 (execDqCooled ch s) := by
  unfold execDqCooled
  simp +contextual (maxDischargeDepth := 40) [hk]

theorem execDqOpenWire_on {ch : Fin 32} {s : State} (hk : Keeps s0 s) : OutOn s0 (execDqOpenWire ch s) := by
  unfold execDqOpenWire
  simp +contextual (maxDischargeDepth := 40) [hk]

theorem execDqOpenWireClear_on {ch : Fin 32} {s : State} (hk : Keeps s0 s) : OutOn s0 (execDqOpenWireClear ch s) := by
  unfold execDqOpenWireClear
  simp +contextual (maxDischargeDepth := 40) [hk]

@[simp ↓] theorem State.dqClear_on {s : State} {l : LaneId} {key : Half} {ch : Byte} (hk : Keeps s0 s) : Keeps s0 (State.dqClear s l key ch) := by
  unfold State.dqClear
  repeat' first | (simp +contextual (maxDischargeDepth := 40) [hk]; done) | split | intro _

theorem execDqClear_on {src : Src} {key : Half} {ch : Byte} {s : State} (hk : Keeps s0 s) : OutOn s0 (execDqClear src key ch s) := by
  unfold execDqClear
  simp +contextual (maxDischargeDepth := 40) [hk]

@[simp ↓] theorem Lane.dioLoad_on {L : Lane} (hk : LaneOn s0 L) : LaneOn s0 (Lane.dioLoad L) := by
  unfold Lane.dioLoad
  simp +contextual (maxDischargeDepth := 40) [hk]

end Sys2Proof.Machine
end

