-- ==== Sys2Proof/Laws/KeepsTask.lean ====
section
/-! SUPPORT. Laws/KeepsTask.lean: everything in Machine/Task.lean keeps what every command keeps (tasks). -/
namespace Sys2Proof.Machine

variable {s0 s t : State} {L : Lane}

@[simp ↓] theorem State.symWrite_on {s : State} {l : LaneId} {t : Nat} {y : Sym} {bs : Bytes} (hk : Keeps s0 s) : Keeps s0 (State.symWrite s l t y bs) := by
  unfold State.symWrite
  simp +contextual (maxDischargeDepth := 40) [hk]

@[simp ↓] theorem State.objWrite_on {s : State} {l : LaneId} {e : Fin 16} {y : Sym} {bs : Bytes} (hk : Keeps s0 s) : Keeps s0 (State.objWrite s l e y bs) := by
  unfold State.objWrite
  simp +contextual (maxDischargeDepth := 40) [hk]

@[simp ↓] theorem State.loadSeg_on {s : State} {l : LaneId} {d : Bytes} {chestToo : Bool} {g : Nat × Nat × Nat × Nat} (hk : Keeps s0 s) : Keeps s0 (State.loadSeg s l d chestToo g) := by
  unfold State.loadSeg
  repeat' first | (simp +contextual (maxDischargeDepth := 40) [hk]; done) | split | intro _

@[simp ↓] theorem State.loadDrawerSegs_on {s : State} {l : LaneId} {typ : Nat} {t : Nat} {chestToo : Bool} (hk : Keeps s0 s) : Keeps s0 (State.loadDrawerSegs s l typ t chestToo) := by
  unfold State.loadDrawerSegs
  simp +contextual (maxDischargeDepth := 40) [hk]

@[simp ↓] theorem State.loadPrograms_on {s : State} {l : LaneId} {chestToo : Bool} (hk : Keeps s0 s) : Keeps s0 (State.loadPrograms s l chestToo) := by
  unfold State.loadPrograms
  simp +contextual (maxDischargeDepth := 40) [hk]

@[simp ↓] theorem State.initPrograms_on {s : State} {l : LaneId} (hk : Keeps s0 s) : Keeps s0 (State.initPrograms s l) := by
  unfold State.initPrograms
  simp +contextual (maxDischargeDepth := 40) [hk]

@[simp ↓] theorem Lane.mirrorPut_on {L : Lane} {t : Nat} {bs : Bytes} (hk : LaneOn s0 L) : LaneOn s0 (Lane.mirrorPut L t bs) := by
  unfold Lane.mirrorPut
  simp +contextual (maxDischargeDepth := 40) [hk]

@[simp ↓] theorem Lane.slotPut_on {L : Lane} {t : Nat} {bs : Bytes} (hk : LaneOn s0 L) : LaneOn s0 (Lane.slotPut L t bs) := by
  unfold Lane.slotPut
  simp +contextual (maxDischargeDepth := 40) [hk]

@[simp ↓] theorem Lane.taskUpd_on {L : Lane} {t : Fin 8} {f : Task → Task} (hk : LaneOn s0 L) : LaneOn s0 (Lane.taskUpd L t f) := by
  unfold Lane.taskUpd
  simp +contextual (maxDischargeDepth := 40) [hk]

@[simp ↓] theorem Lane.setTState_on {L : Lane} {t : Nat} {st : Nat} (hk : LaneOn s0 L) : LaneOn s0 (Lane.setTState L t st) := by
  unfold Lane.setTState
  simp +contextual (maxDischargeDepth := 40) [hk]

@[simp ↓] theorem Lane.taskLoad_on (hk : LaneOn s0 L) : LaneOn s0 L.taskLoad := by
  unfold Lane.taskLoad
  refine laneOn_foldl hk fun L t hL => ?_
  split
  · exact hL
  · simp +contextual (maxDischargeDepth := 40) [hL]

end Sys2Proof.Machine
end

