-- ==== Sys2Proof/Laws/KeepsCan.lean ====
section
/-! SUPPORT. Laws/KeepsCan.lean: everything in Machine/Can.lean keeps what every command keeps (CAN). -/
namespace Sys2Proof.Machine

variable {s0 s t : State} {L : Lane}

@[simp ↓] theorem Lane.setTxs_on {L : Lane} {c : Nat} {b : Nat} {v : Nat} (hk : LaneOn s0 L) : LaneOn s0 (Lane.setTxs L c b v) := by
  unfold Lane.setTxs
  simp +contextual (maxDischargeDepth := 40) [hk]

@[simp ↓] theorem Lane.canUpd_on {L : Lane} {c : Fin 8} {f : CanCh → CanCh} (hk : LaneOn s0 L) : LaneOn s0 (Lane.canUpd L c f) := by
  unfold Lane.canUpd
  simp +contextual (maxDischargeDepth := 40) [hk]

@[simp ↓] theorem Lane.bufUpd_on {L : Lane} {c : Fin 8} {b : Fin 64} {f : CanBuf → CanBuf} (hk : LaneOn s0 L) : LaneOn s0 (Lane.bufUpd L c b f) := by
  unfold Lane.bufUpd
  simp +contextual (maxDischargeDepth := 40) [hk]

@[simp ↓] theorem State.canRefuse_on {s : State} {l : LaneId} {c : Nat} (hk : Keeps s0 s) : Keeps s0 (State.canRefuse s l c) := by
  unfold State.canRefuse
  simp +contextual (maxDischargeDepth := 40) [hk]

@[simp ↓] theorem State.canEnd_on {s : State} {l : LaneId} {c : Nat} {b : Nat} {txs : Nat} (hk : Keeps s0 s) : Keeps s0 (State.canEnd s l c b txs) := by
  unfold State.canEnd
  simp +contextual (maxDischargeDepth := 40) [hk]

@[simp ↓] theorem State.canCounters_on {s : State} {l : LaneId} {c : Nat} {tec : Nat} {rcv : Nat} (hk : Keeps s0 s) : Keeps s0 (State.canCounters s l c tec rcv) := by
  unfold State.canCounters
  simp +contextual (maxDischargeDepth := 40) [hk]

@[simp ↓] theorem State.canStoreBuf_on {s : State} {l : LaneId} {c : Fin 8} {b : Fin 64} {f : CanFrame} {stamp : Word} (hk : Keeps s0 s) : Keeps s0 (State.canStoreBuf s l c b f stamp) := by
  unfold State.canStoreBuf
  simp +contextual (maxDischargeDepth := 40) [hk]

@[simp ↓] theorem State.canStoreFifo_on {s : State} {l : LaneId} {c : Fin 8} {f : CanFrame} {stamp : Word} (hk : Keeps s0 s) : Keeps s0 (State.canStoreFifo s l c f stamp) := by
  unfold State.canStoreFifo
  simp +contextual (maxDischargeDepth := 40) [hk]

@[simp ↓] theorem State.canReceive_on {s : State} {l : LaneId} {c : Fin 8} {f : CanFrame} {stamp : Word} (hk : Keeps s0 s) : Keeps s0 (State.canReceive s l c f stamp) := by
  unfold State.canReceive
  repeat' first | (simp +contextual (maxDischargeDepth := 40) [hk]; done) | split | intro _

@[simp ↓] theorem State.canForward_on {s : State} {c : Fin 8} {e : CanFwd} (hk : Keeps s0 s) : Keeps s0 (State.canForward s c e) := by
  unfold State.canForward
  simp +contextual (maxDischargeDepth := 40) [hk]

@[simp ↓] theorem State.canCountersFwd_on {s : State} {c : Fin 8} {tec : Nat} {rcv : Nat} (hk : Keeps s0 s) : Keeps s0 (State.canCountersFwd s c tec rcv) := by
  unfold State.canCountersFwd
  simp +contextual (maxDischargeDepth := 40) [hk]

@[simp ↓] theorem Lane.canHeard_on {L : Lane} {c : Fin 8} (hk : LaneOn s0 L) : LaneOn s0 (Lane.canHeard L c) := by
  unfold Lane.canHeard
  simp +contextual (maxDischargeDepth := 40) [hk]

@[simp ↓] theorem State.canLec_on {s : State} {c : Fin 8} {lec : Nat} (hk : Keeps s0 s) : Keeps s0 (State.canLec s c lec) := by
  unfold State.canLec
  simp +contextual (maxDischargeDepth := 40) [hk]

@[simp ↓] theorem State.canSof_on {s : State} {c : Fin 8} (hk : Keeps s0 s) : Keeps s0 (State.canSof s c) := by
  unfold State.canSof
  simp +contextual (maxDischargeDepth := 40) [hk]

@[simp ↓] theorem State.canResBit_on {s : State} {c : Fin 8} {sof : Word} (hk : Keeps s0 s) : Keeps s0 (State.canResBit s c sof) := by
  unfold State.canResBit
  simp +contextual (maxDischargeDepth := 40) [hk]

theorem execCanFrameReceived_on {ch : Fin 8} {frame : CanFrame} {sof : Word} {s : State} (hk : Keeps s0 s) : OutOn s0 (execCanFrameReceived ch frame sof s) := by
  unfold execCanFrameReceived
  simp +contextual (maxDischargeDepth := 40) [hk]

theorem execCanRxError_on {ch : Fin 8} {lec : Fin 7} {by8 : Bool} {s : State} (hk : Keeps s0 s) : OutOn s0 (execCanRxError ch lec by8 s) := by
  unfold execCanRxError
  simp +contextual (maxDischargeDepth := 40) [hk]

@[simp ↓] theorem State.canFifoPop_on {s : State} {l : LaneId} {c : Fin 8} {data : Word} (hk : Keeps s0 s) : Keeps s0 (State.canFifoPop s l c data) := by
  unfold State.canFifoPop
  simp +contextual (maxDischargeDepth := 40) [hk]

theorem execCanFifoPop_on {src : Src} {ch : Fin 8} {data : Word} {s : State} (hk : Keeps s0 s) : OutOn s0 (execCanFifoPop src ch data s) := by
  unfold execCanFifoPop
  simp +contextual (maxDischargeDepth := 40) [hk]

@[simp ↓] theorem Lane.canRequest_on {L : Lane} {c : Fin 8} {b : Fin 64} (hk : LaneOn s0 L) : LaneOn s0 (Lane.canRequest L c b) := by
  unfold Lane.canRequest
  simp +contextual (maxDischargeDepth := 40) [hk]

@[simp ↓] theorem State.canReq_on {s : State} {l : LaneId} {req : Requester} {c : Fin 8} {b : Fin 64} (hk : Keeps s0 s) : Keeps s0 (State.canReq s l req c b) := by
  unfold State.canReq
  simp +contextual (maxDischargeDepth := 40) [hk]

theorem execCanReq_on {src : Src} {ch : Fin 8} {buf : Fin 64} {s : State} (hk : Keeps s0 s) : OutOn s0 (execCanReq src ch buf s) := by
  unfold execCanReq
  simp +contextual (maxDischargeDepth := 40) [hk]

@[simp ↓] theorem State.canAbort_on {s : State} {l : LaneId} {c : Fin 8} {b : Fin 64} (hk : Keeps s0 s) : Keeps s0 (State.canAbort s l c b) := by
  unfold State.canAbort
  simp +contextual (maxDischargeDepth := 40) [hk]

theorem execCanAbort_on {src : Src} {ch : Fin 8} {buf : Fin 64} {s : State} (hk : Keeps s0 s) : OutOn s0 (execCanAbort src ch buf s) := by
  unfold execCanAbort
  simp +contextual (maxDischargeDepth := 40) [hk]

@[simp ↓] theorem State.canPublish_on {s : State} {l : LaneId} {idx : Nat} {bs : Bytes} (hk : Keeps s0 s) : Keeps s0 (State.canPublish s l idx bs) := by
  unfold State.canPublish
  simp +contextual (maxDischargeDepth := 40) [hk]

theorem rowCanTxAttemptStart_on {ch : Fin 8} {s : State} (hk : Keeps s0 s) : OutOn s0 (rowCanTxAttemptStart ch s) := by
  unfold rowCanTxAttemptStart
  dsimp only
  repeat' first | (simp +contextual (maxDischargeDepth := 40) [hk]; done) | split | intro _

@[simp ↓] theorem State.canStartIn_on {s : State} {l : LaneId} {c : Fin 8} {b : Fin 64} (hk : Keeps s0 s) : Keeps s0 (State.canStartIn s l c b) := by
  unfold State.canStartIn
  simp +contextual (maxDischargeDepth := 40) [hk]

@[simp ↓] theorem State.canSuccessIn_on {s : State} {l : LaneId} {c : Fin 8} {b : Fin 64} {stamp : Word} (hk : Keeps s0 s) : Keeps s0 (State.canSuccessIn s l c b stamp) := by
  unfold State.canSuccessIn
  simp +contextual (maxDischargeDepth := 40) [hk]

@[simp ↓] theorem State.canRetry_on {s : State} {l : LaneId} {c : Fin 8} {b : Fin 64} {exhausted : Option Nat} (hk : Keeps s0 s) : Keeps s0 (State.canRetry s l c b exhausted) := by
  unfold State.canRetry
  repeat' first | (simp +contextual (maxDischargeDepth := 40) [hk]; done) | split | intro _

@[simp ↓] theorem State.canArbLostIn_on {s : State} {l : LaneId} {c : Fin 8} {b : Fin 64} (hk : Keeps s0 s) : Keeps s0 (State.canArbLostIn s l c b) := by
  unfold State.canArbLostIn
  simp +contextual (maxDischargeDepth := 40) [hk]

@[simp ↓] theorem State.canErrorIn_on {s : State} {l : LaneId} {c : Fin 8} {b : Fin 64} {lec : Nat} (hk : Keeps s0 s) : Keeps s0 (State.canErrorIn s l c b lec) := by
  unfold State.canErrorIn
  simp +contextual (maxDischargeDepth := 40) [hk]

@[simp ↓] theorem State.canFrameEnd_on {s : State} {c : Fin 8} (hk : Keeps s0 s) : Keeps s0 (State.canFrameEnd s c) := by
  unfold State.canFrameEnd
  simp +contextual (maxDischargeDepth := 40) [hk]

theorem execCanTxSuccess_on {ch : Fin 8} {s : State} (hk : Keeps s0 s) : OutOn s0 (execCanTxSuccess ch s) := by
  unfold execCanTxSuccess
  repeat' first | (simp +contextual (maxDischargeDepth := 40) [hk]; done) | split | intro _

theorem execCanArbLost_on {ch : Fin 8} {s : State} (hk : Keeps s0 s) : OutOn s0 (execCanArbLost ch s) := by
  unfold execCanArbLost
  repeat' first | (simp +contextual (maxDischargeDepth := 40) [hk]; done) | split | intro _

theorem execCanTxError_on {ch : Fin 8} {lec : Fin 7} {s : State} (hk : Keeps s0 s) : OutOn s0 (execCanTxError ch lec s) := by
  unfold execCanTxError
  repeat' first | (simp +contextual (maxDischargeDepth := 40) [hk]; done) | split | intro _

theorem execCanBusoffRecovery_on {ch : Fin 8} {s : State} (hk : Keeps s0 s) : OutOn s0 (execCanBusoffRecovery ch s) := by
  unfold execCanBusoffRecovery
  simp +contextual (maxDischargeDepth := 40) [hk]

theorem execCanBusIntegrated_on {ch : Fin 8} {s : State} (hk : Keeps s0 s) : OutOn s0 (execCanBusIntegrated ch s) := by
  unfold execCanBusIntegrated
  simp +contextual (maxDischargeDepth := 40) [hk]

@[simp ↓] theorem State.canPeerApply_on {s : State} {sb : LaneId} {ch : Fin 8} {e : CanFwd} (hk : Keeps s0 s) : Keeps s0 (State.canPeerApply s sb ch e) := by
  unfold State.canPeerApply
  repeat' first | (simp +contextual (maxDischargeDepth := 40) [hk]; done) | split | intro _

theorem execCanPeerTxEvent_on {ch : Fin 8} {s : State} (hk : Keeps s0 s) : OutOn s0 (execCanPeerTxEvent ch s) := by
  unfold execCanPeerTxEvent
  dsimp only
  repeat' first | (simp +contextual (maxDischargeDepth := 40) [hk]; done) | split | intro _

theorem State.canMode.quiet_on {l : LaneId} {c : Fin 8} (hk : Keeps s0 s) : Keeps s0 (State.canMode.quiet l c s) := by
  unfold State.canMode.quiet
  refine keeps_foldl hk fun s b hs => ?_
  simp +contextual (maxDischargeDepth := 40) [hs]

@[simp ↓] theorem State.canMode_on {m : Mode} (hk : Keeps s0 s) : Keeps s0 (s.canMode m) := by
  unfold State.canMode
  refine State.each_on hk fun l s hs => keeps_foldl hs fun s c hc => keeps_ite hc ?_
  split
  · exact hc
  · exact hc
  · exact hc
  · exact State.canMode.quiet_on hc
  · exact State.canMode.quiet_on hc
  · refine keeps_foldl (State.upd_on hc fun L hL => Lane.canUpd_on (Lane.setFld_on (Lane.setFld_on hL))) fun s b hb => ?_
    exact keeps_ite (State.upd_on hb fun L hL => Lane.setTxs_on hL) hb

@[simp ↓] theorem State.canHandOver_on {s : State} (hk : Keeps s0 s) : Keeps s0 (State.canHandOver s) := by
  unfold State.canHandOver
  simp +contextual (maxDischargeDepth := 40) [hk]

@[simp ↓] theorem State.canHardTake_on {s : State} {newAct : LaneId} (hk : Keeps s0 s) : Keeps s0 (State.canHardTake s newAct) := by
  unfold State.canHardTake
  simp +contextual (maxDischargeDepth := 40) [hk]

@[simp ↓] theorem Lane.canChanged_on {L : Lane} {c : Fin 8} {off : Nat} {old : Word} {tb : Word} (hk : LaneOn s0 L) : LaneOn s0 (Lane.canChanged L c off old tb) := by
  unfold Lane.canChanged
  simp +contextual (maxDischargeDepth := 40) [hk]

@[simp ↓] theorem Lane.canLoad_on {L : Lane} (hk : LaneOn s0 L) : LaneOn s0 (Lane.canLoad L) := by
  unfold Lane.canLoad
  simp +contextual (maxDischargeDepth := 40) [hk]

@[simp ↓] theorem Lane.canLatched_on {L : Lane} {sym : Nat} {idx : Nat} (hk : LaneOn s0 L) : LaneOn s0 (Lane.canLatched L sym idx) := by
  unfold Lane.canLatched
  simp +contextual (maxDischargeDepth := 40) [hk]

end Sys2Proof.Machine
end

