-- ==== Sys2Proof/Laws/KeepsMst.lean ====
section
/-! SUPPORT. Laws/KeepsMst.lean: everything in Machine/Mst.lean keeps what every command keeps (telegrams). -/
namespace Sys2Proof.Machine

variable {s0 s t : State} {L : Lane}

@[simp ↓] theorem Lane.subUpd_on {L : Lane} {i : Fin 4096} {f : Sub → Sub} (hk : LaneOn s0 L) : LaneOn s0 (Lane.subUpd L i f) := by
  unfold Lane.subUpd
  simp +contextual (maxDischargeDepth := 40) [hk]

@[simp ↓] theorem Lane.mstCount_on {L : Lane} {c : Nat × Nat} (hk : LaneOn s0 L) : LaneOn s0 (Lane.mstCount L c) := by
  unfold Lane.mstCount
  simp +contextual (maxDischargeDepth := 40) [hk]

theorem execMstDatagramReceived_on {port : Fin 3} {vid : Nat} {source : Bytes} {payload : Bytes} {s : State} (hk : Keeps s0 s) : OutOn s0 (execMstDatagramReceived port vid source payload s) := by
  unfold execMstDatagramReceived
  simp +contextual (maxDischargeDepth := 40) [hk]

theorem State.mstApply.meter_on {l : LaneId} {i : Fin 4096} {rx : MstRx} {r : Nat × Bytes} {heat : Bool} (hk : Keeps s0 s) :
    Keeps s0 (State.mstApply.meter s l i rx r heat) := by
  unfold State.mstApply.meter
  dsimp only
  simp +contextual (maxDischargeDepth := 40) [hk]

@[simp ↓] theorem State.mstApply_on {l : LaneId} {i : Fin 4096} {rx : MstRx} {r : Nat × Bytes} (hk : Keeps s0 s) :
    Keeps s0 (s.mstApply l i rx r) := by
  unfold State.mstApply
  dsimp only
  split <;> first | exact State.mstApply.meter_on hk | simp +contextual (maxDischargeDepth := 40) [hk]

@[simp ↓] theorem State.mstStore_on {io : RegIO} {l : LaneId} {i : Fin 4096} (hio : KeepsIO io) (hk : Keeps s0 s) : Keeps s0 (@State.mstStore io s l i) := by
  unfold State.mstStore
  refine keeps_ite hk ?_
  have h1 : Keeps s0 (@State.winWrite io s l 19 ((s.lane l).getN 0x40140010 + 64 * i.val) ((s.lane l).mstEntry i)).1 := State.winWrite_on hio hk
  generalize @State.winWrite io s l 19 ((s.lane l).getN 0x40140010 + 64 * i.val) ((s.lane l).mstEntry i) = p at h1 ⊢
  obtain ⟨s1, _ | ⟨f, a⟩⟩ := p
  · exact h1
  · simp +contextual (maxDischargeDepth := 40) [h1]

theorem State.mstReject.go_on {l : LaneId} {i : Fin 4096} (hk : Keeps s0 s) : Keeps s0 (State.mstReject.go s l i) := by
  unfold State.mstReject.go
  simp +contextual (maxDischargeDepth := 40) [hk]

@[simp ↓] theorem State.mstReject_on {l : LaneId} {i : Fin 4096} (hk : Keeps s0 s) : Keeps s0 (s.mstReject l i) := by
  unfold State.mstReject
  split
  · exact State.mstReject.go_on hk
  · exact keeps_ite (State.mstReject.go_on hk) hk

@[simp ↓] theorem State.mstAccept_on {io : RegIO} {s : State} {l : LaneId} {r : MstRx} {i : Fin 4096} {newEpoch : Bool} {high : Word} {window : DWord} {tsSec : Nat} {recs : List (Nat × Bytes)} (hio : KeepsIO io) (hk : Keeps s0 s) : Keeps s0 (@State.mstAccept io s l r i newEpoch high window tsSec recs) := by
  unfold State.mstAccept
  simp +contextual (maxDischargeDepth := 40) [hio, hk]

theorem rowMstTelegramProcess_on {io : RegIO} {lane : LaneId} {s : State} (hio : KeepsIO io) (hk : Keeps s0 s) : OutOn s0 (@rowMstTelegramProcess io lane s) := by
  unfold rowMstTelegramProcess
  repeat' first | (simp +contextual (maxDischargeDepth := 40) [hio, hk]; done) | split | intro _

@[simp ↓] theorem Lane.visApply_on {L : Lane} {go : List Nat} (hk : LaneOn s0 L) : LaneOn s0 (Lane.visApply L go) := by
  unfold Lane.visApply
  repeat' first | (simp +contextual (maxDischargeDepth := 40) [hk]; done) | split | intro _

theorem execMstValuesVisible_on {s : State} (hk : Keeps s0 s) : OutOn s0 (execMstValuesVisible s) := by
  unfold execMstValuesVisible
  dsimp only
  repeat' first | (simp +contextual (maxDischargeDepth := 40) [hk]; done) | split | intro _

theorem execMstSubTimeout_on {sub : Fin 4096} {s : State} (hk : Keeps s0 s) : OutOn s0 (execMstSubTimeout sub s) := by
  unfold execMstSubTimeout
  simp +contextual (maxDischargeDepth := 40) [hk]

@[simp ↓] theorem State.mstEmit_on {s : State} {l : LaneId} {i : Fin 4096} (hk : Keeps s0 s) : Keeps s0 (State.mstEmit s l i).1 := by
  unfold State.mstEmit
  dsimp only
  repeat' first | (simp +contextual (maxDischargeDepth := 40) [hk]; done) | split | intro _

@[simp ↓] theorem State.mstEval_on {l : LaneId} (hk : Keeps s0 s) : Keeps s0 (s.mstEval l).1 := by
  unfold State.mstEval
  dsimp only
  refine keeps_foldl_fst ?_ fun p i hp => ?_
  · simp +contextual (maxDischargeDepth := 40) [hk]
  · have h1 := State.mstEmit_on hp (l := l) (i := Fin.ofNat 4096 i)
    generalize p.1.mstEmit l (Fin.ofNat 4096 i) = q at h1 ⊢
    obtain ⟨s1, _ | t⟩ := q <;> exact h1

@[simp ↓] theorem State.mstCompare_on {n : Nat} (hk : Keeps s0 s) : Keeps s0 (s.mstCompare n) := by
  induction n generalizing s with
  | zero => exact hk
  | succ n ih =>
    unfold State.mstCompare
    dsimp only
    split
    · exact hk
    · split
      · exact hk
      · refine ih ?_
        simp +contextual (maxDischargeDepth := 40) [hk]

@[simp ↓] theorem State.mstSendOut_on {s : State} {ts : List Telegram} (hk : Keeps s0 s) : Keeps s0 (State.mstSendOut s ts) := by
  unfold State.mstSendOut
  simp +contextual (maxDischargeDepth := 40) [hk]

@[simp ↓] theorem State.framesPut_on {s : State} {l : LaneId} {o : List Telegram} (hk : Keeps s0 s) : Keeps s0 (State.framesPut s l o) := by
  unfold State.framesPut
  repeat' first | (simp +contextual (maxDischargeDepth := 40) [hk]; done) | split | intro _

@[simp ↓] theorem State.mstEvalAll_on {s : State} (hk : Keeps s0 s) : Keeps s0 (State.mstEvalAll s) := by
  unfold State.mstEvalAll
  repeat' first | (simp +contextual (maxDischargeDepth := 40) [hk]; done) | split | intro _

theorem rowMstSetpointEval_on {s : State} (hk : Keeps s0 s) : OutOn s0 (rowMstSetpointEval s) := by
  unfold rowMstSetpointEval
  simp +contextual (maxDischargeDepth := 40) [hk]

@[simp ↓] theorem State.mstAckLate_on {s : State} {l : LaneId} {sub : Fin 4096} {t : TxOut} (hk : Keeps s0 s) : Keeps s0 (State.mstAckLate s l sub t) := by
  unfold State.mstAckLate
  simp +contextual (maxDischargeDepth := 40) [hk]

theorem execMstAckTimeout_on {sub : Fin 4096} {s : State} (hk : Keeps s0 s) : OutOn s0 (execMstAckTimeout sub s) := by
  unfold execMstAckTimeout
  repeat' first | (simp +contextual (maxDischargeDepth := 40) [hk]; done) | split | intro _

@[simp ↓] theorem State.mstCmd_on {s : State} {l : LaneId} {key : Half} {i : Nat} {f : State → State} (hk : Keeps s0 s) (hkf : ∀ s, Keeps s0 s → Keeps s0 (f s)) : Keeps s0 (State.mstCmd s l key i f) := by
  unfold State.mstCmd
  simp +contextual (maxDischargeDepth := 40) [hk, hkf]

theorem execMstSend_on {src : Src} {key : Half} {sub : Fin 4096} {s : State} (hk : Keeps s0 s) : OutOn s0 (execMstSend src key sub s) := by
  unfold execMstSend
  simp +contextual (maxDischargeDepth := 40) [hk]

@[simp ↓] theorem State.mstResume_on {s : State} {l : LaneId} {key : Half} (hk : Keeps s0 s) : Keeps s0 (State.mstResume s l key) := by
  unfold State.mstResume
  simp +contextual (maxDischargeDepth := 40) [hk]

theorem execMstResume_on {src : Src} {key : Half} {s : State} (hk : Keeps s0 s) : OutOn s0 (execMstResume src key s) := by
  unfold execMstResume
  simp +contextual (maxDischargeDepth := 40) [hk]

theorem execMstEpoch_on {src : Src} {key : Half} {sub : Fin 4096} {s : State} (hk : Keeps s0 s) : OutOn s0 (execMstEpoch src key sub s) := by
  unfold execMstEpoch
  simp +contextual (maxDischargeDepth := 40) [hk]

@[simp ↓] theorem Lane.mstSet_on {L : Lane} {i : Nat} {code : Nat} {v : F64} (hk : LaneOn s0 L) : LaneOn s0 (Lane.mstSet L i code v) := by
  unfold Lane.mstSet
  simp +contextual (maxDischargeDepth := 40) [hk]

@[simp ↓] theorem Lane.mstLoad_on {L : Lane} (hk : LaneOn s0 L) : LaneOn s0 (Lane.mstLoad L) := by
  unfold Lane.mstLoad
  simp +contextual (maxDischargeDepth := 40) [hk]

@[simp ↓] theorem Lane.mstBoot_on {L : Lane} {first : Word} (hk : LaneOn s0 L) : LaneOn s0 (Lane.mstBoot L first) := by
  unfold Lane.mstBoot
  simp +contextual (maxDischargeDepth := 40) [hk]

@[simp ↓] theorem State.mstHashLate_on {s : State} {port : Nat} (hk : Keeps s0 s) : Keeps s0 (State.mstHashLate s port) := by
  unfold State.mstHashLate
  dsimp only
  repeat' first | (simp +contextual (maxDischargeDepth := 40) [hk]; done) | split | intro _

@[simp ↓] theorem State.canHashLate_on {s : State} {c : Fin 8} (hk : Keeps s0 s) : Keeps s0 (State.canHashLate s c) := by
  unfold State.canHashLate
  dsimp only
  repeat' first | (simp +contextual (maxDischargeDepth := 40) [hk]; done) | split | intro _

end Sys2Proof.Machine
end

