-- ==== Sys2Proof/Laws/KeepsMtr.lean ====
section
/-! SUPPORT. Laws/KeepsMtr.lean: everything in Machine/Mtr.lean keeps what every command keeps (meters). -/
namespace Sys2Proof.Machine

variable {s0 s t : State} {L : Lane}

@[simp ↓] theorem Lane.mtrChUpd_on {L : Lane} {ch : Fin 48} {f : MtrCh → MtrCh} (hk : LaneOn s0 L) : LaneOn s0 (Lane.mtrChUpd L ch f) := by
  unfold Lane.mtrChUpd
  simp +contextual (maxDischargeDepth := 40) [hk]

theorem execMtrModFault_on {ch : Fin 48} {s : State} (hk : Keeps s0 s) : OutOn s0 (execMtrModFault ch s) := by
  unfold execMtrModFault
  simp +contextual (maxDischargeDepth := 40) [hk]

theorem execMtrModOk_on {ch : Fin 48} {s : State} (hk : Keeps s0 s) : OutOn s0 (execMtrModOk ch s) := by
  unfold execMtrModOk
  simp +contextual (maxDischargeDepth := 40) [hk]

@[simp ↓] theorem Lane.mtrSample_on {L : Lane} {ch : Fin 48} {raw : Int} (hk : LaneOn s0 L) : LaneOn s0 (Lane.mtrSample L ch raw) := by
  unfold Lane.mtrSample
  simp +contextual (maxDischargeDepth := 40) [hk]

@[simp ↓] theorem Lane.mtrAdd_on {L : Lane} {n : Nat} {sv : Nat} {v : List F64} (hk : LaneOn s0 L) : LaneOn s0 (Lane.mtrAdd L n sv v) := by
  unfold Lane.mtrAdd
  simp +contextual (maxDischargeDepth := 40) [hk]

@[simp ↓] theorem Lane.mtrPut_on {L : Lane} {n : Nat} {sv : Nat} {v : List F64} {f : F64} (hk : LaneOn s0 L) : LaneOn s0 (Lane.mtrPut L n sv v f) := by
  unfold Lane.mtrPut
  simp +contextual (maxDischargeDepth := 40) [hk]

@[simp ↓] theorem Lane.mtrInterval_on {L : Lane} {n : Nat} {raw : List (List Int)} {stamp : Word} (hk : LaneOn s0 L) : LaneOn s0 (Lane.mtrInterval L n raw stamp) := by
  unfold Lane.mtrInterval
  simp +contextual (maxDischargeDepth := 40) [hk]

theorem execMtrIntervalEnd_on {point : Fin 8} {raw : List (List (BitVec 24))} {s : State} (hk : Keeps s0 s) : OutOn s0 (execMtrIntervalEnd point raw s) := by
  unfold execMtrIntervalEnd
  simp +contextual (maxDischargeDepth := 40) [hk]

@[simp ↓] theorem State.mtrZc_on {s : State} {l : LaneId} {n : Fin 8} {c : Fin 3} {vals : List F64} (hk : Keeps s0 s) : Keeps s0 (State.mtrZc s l n c vals) := by
  unfold State.mtrZc
  dsimp only
  repeat' first | (simp +contextual (maxDischargeDepth := 40) [hk]; done) | split | intro _

theorem execMtrZeroCrossing_on {point : Fin 8} {phase : Fin 3} {vals : List F64} {s : State} (hk : Keeps s0 s) : OutOn s0 (execMtrZeroCrossing point phase vals s) := by
  unfold execMtrZeroCrossing
  simp +contextual (maxDischargeDepth := 40) [hk]

theorem execMtrZcTimeout_on {point : Fin 8} {phase : Fin 3} {s : State} (hk : Keeps s0 s) : OutOn s0 (execMtrZcTimeout point phase s) := by
  unfold execMtrZcTimeout
  simp +contextual (maxDischargeDepth := 40) [hk]

@[simp ↓] theorem Lane.accUpd_on {L : Lane} {a : Fin 256} {f : ThqAcc → ThqAcc} (hk : LaneOn s0 L) : LaneOn s0 (Lane.accUpd L a f) := by
  unfold Lane.accUpd
  simp +contextual (maxDischargeDepth := 40) [hk]

@[simp ↓] theorem Lane.thqPause_on {L : Lane} (hk : LaneOn s0 L) : LaneOn s0 (Lane.thqPause L) := by
  unfold Lane.thqPause
  repeat' first | (simp +contextual (maxDischargeDepth := 40) [hk]; done) | split | intro _

@[simp ↓] theorem State.thqMissed_on {s : State} {l : LaneId} {a : Fin 256} (hk : Keeps s0 s) : Keeps s0 (State.thqMissed s l a) := by
  unfold State.thqMissed
  simp +contextual (maxDischargeDepth := 40) [hk]

@[simp ↓] theorem State.thqStale_on {s : State} {l : LaneId} {a : Fin 256} (hk : Keeps s0 s) : Keeps s0 (State.thqStale s l a) := by
  unfold State.thqStale
  simp +contextual (maxDischargeDepth := 40) [hk]

@[simp ↓] theorem State.thqRange_on {s : State} {l : LaneId} {a : Fin 256} (hk : Keeps s0 s) : Keeps s0 (State.thqRange s l a) := by
  unfold State.thqRange
  simp +contextual (maxDischargeDepth := 40) [hk]

@[simp ↓] theorem State.thqAdd_on {s : State} {l : LaneId} {a : Fin 256} {v : F64} {ts : F64} {tr : F64} (hk : Keeps s0 s) : Keeps s0 (State.thqAdd s l a v ts tr) := by
  unfold State.thqAdd
  simp +contextual (maxDischargeDepth := 40) [hk]

@[simp ↓] theorem State.thqStep_on {s : State} {l : LaneId} {a : Fin 256} (hk : Keeps s0 s) : Keeps s0 (State.thqStep s l a) := by
  unfold State.thqStep
  dsimp only
  repeat' first | (simp +contextual (maxDischargeDepth := 40) [hk]; done) | split | intro _

theorem execThqInstant_on {s : State} (hk : Keeps s0 s) : OutOn s0 (execThqInstant s) := by
  unfold execThqInstant
  simp +contextual (maxDischargeDepth := 40) [hk]

@[simp ↓] theorem State.saveRecord_on {addr : Nat} {data : Bytes} (hk : Keeps s0 s) : Keeps s0 (s.saveRecord addr data).1 := by
  unfold State.saveRecord
  extract_lets off
  clear_value off
  refine keeps_ite_fst (State.raise_on hk) ?_
  generalize s.pairTarget off data.length = bq
  obtain ⟨b, q⟩ := bq
  exact State.pairPut_on hk

@[simp ↓] theorem State.mtrSaveNow_on {s : State} (hk : Keeps s0 s) : Keeps s0 (State.mtrSaveNow s) := by
  unfold State.mtrSaveNow
  simp +contextual (maxDischargeDepth := 40) [hk]

@[simp ↓] theorem State.thqSaveNow_on {s : State} (hk : Keeps s0 s) : Keeps s0 (State.thqSaveNow s) := by
  unfold State.thqSaveNow
  simp +contextual (maxDischargeDepth := 40) [hk]

theorem execMtrSave_on {src : Src} {key : Half} {s : State} (hk : Keeps s0 s) : OutOn s0 (execMtrSave src key s) := by
  unfold execMtrSave
  simp +contextual (maxDischargeDepth := 40) [hk]

theorem execThqSave_on {src : Src} {key : Half} {s : State} (hk : Keeps s0 s) : OutOn s0 (execThqSave src key s) := by
  unfold execThqSave
  simp +contextual (maxDischargeDepth := 40) [hk]

theorem execCounterSavePeriod_on {thq : Bool} {s : State} (hk : Keeps s0 s) : OutOn s0 (execCounterSavePeriod thq s) := by
  unfold execCounterSavePeriod
  simp +contextual (maxDischargeDepth := 40) [hk]

@[simp ↓] theorem State.countersRestore_on {s : State} {l : LaneId} (hk : Keeps s0 s) : Keeps s0 (State.countersRestore s l) := by
  unfold State.countersRestore
  simp +contextual (maxDischargeDepth := 40) [hk]

@[simp ↓] theorem State.counterLo_on {s : State} {l : LaneId} {req : Requester} {a : Nat} (hk : Keeps s0 s) : Keeps s0 (State.counterLo s l req a) := by
  unfold State.counterLo
  repeat' first | (simp +contextual (maxDischargeDepth := 40) [hk]; done) | split | intro _

theorem execCounterLoRead_on {src : Src} {addr : Word} {s : State} (hk : Keeps s0 s) : OutOn s0 (execCounterLoRead src addr s) := by
  unfold execCounterLoRead
  simp +contextual (maxDischargeDepth := 40) [hk]

@[simp ↓] theorem Lane.countersHold_on {L : Lane} (hk : LaneOn s0 L) : LaneOn s0 (Lane.countersHold L) := by
  unfold Lane.countersHold
  simp +contextual (maxDischargeDepth := 40) [hk]

@[simp ↓] theorem Lane.meterLoad_on {L : Lane} {run : Nat} (hk : LaneOn s0 L) : LaneOn s0 (Lane.meterLoad L run) := by
  unfold Lane.meterLoad
  simp +contextual (maxDischargeDepth := 40) [hk]

end Sys2Proof.Machine
end

