-- ==== Sys2Proof/Laws/KeepsPieces.lean ====
section
/-! SUPPORT. Laws/KeepsPieces.lean: everything in Machine/Pieces.lean keeps what every command keeps (DMA pieces and their abort). -/
namespace Sys2Proof.Machine

variable {s0 s t : State} {L : Lane}

theorem dmaPiece_on {io : RegIO} {l : LaneId} {c : Fin 16} {d : DmaDesc} {done : Nat} (hio : KeepsIO io) (hk : Keeps s0 s) :
    Keeps s0 (@dmaPiece io s l c d done).1 := by
  unfold dmaPiece
  extract_lets dst held k p s1 bs f w
  have hp : Keeps s0 s1 := keeps_ite_fst hk (State.winReadGo_on hio hk)
  clear_value s1 bs f w dst held
  refine keeps_ite_fst hp ?_
  split
  · exact hp
  · rename_i g e
    have h2 := State.tgtWrite_on hio hp (l := l) (q := c) (g := g) (bs := bs)
    dsimp only
    split <;> exact h2

theorem dmaPieces_on {io : RegIO} {l : LaneId} {c : Fin 16} {d : DmaDesc} {n : Nat} {s : State} {done : Nat} (hio : KeepsIO io)
    (hk : Keeps s0 s) : Keeps s0 (@dmaPieces io l c d n s done).1 := by
  induction n generalizing s done with
  | zero => exact hk
  | succ n ih =>
    unfold dmaPieces
    refine keeps_ite_fst hk ?_
    have h1 := dmaPiece_on hio hk (l := l) (c := c) (d := d) (done := done)
    split
    · rename_i s1 n1 f e
      rw [e] at h1
      exact h1
    · rename_i s1 n1 e
      rw [e] at h1
      exact ih h1

@[simp ↓] theorem State.dmaAbort_on {io : RegIO} {l : LaneId} {c : Fin 16} {pieces : Nat} (hio : KeepsIO io) (hk : Keeps s0 s) :
    Keeps s0 (@State.dmaAbort io s l c pieces) := by
  unfold State.dmaAbort
  refine State.raise_on (State.upd_on ?_ fun L hL => Lane.setFlag_on (Lane.setFld_on hL))
  split
  · exact keeps_ite (dmaPieces_on hio hk) hk
  · exact hk

@[simp ↓] theorem State.dmaAbortFree_on {io : RegIO} {s : State} {l : LaneId} {c : Fin 16} (hio : KeepsIO io) (hk : Keeps s0 s) : Keeps s0 (@State.dmaAbortFree io s l c) := by
  unfold State.dmaAbortFree
  simp +contextual (maxDischargeDepth := 40) [hio, hk]

@[simp ↓] theorem State.dmaAbortIf_on {io : RegIO} {s : State} {l : LaneId} {p : Lane → Nat → Bool} (hio : KeepsIO io) (hk : Keeps s0 s) : Keeps s0 (@State.dmaAbortIf io s l p) := by
  unfold State.dmaAbortIf
  simp +contextual (maxDischargeDepth := 40) [hio, hk]

@[simp ↓] theorem State.dmaAbortTask_on {io : RegIO} {s : State} {l : LaneId} {t : Fin 8} (hio : KeepsIO io) (hk : Keeps s0 s) : Keeps s0 (@State.dmaAbortTask io s l t) := by
  unfold State.dmaAbortTask
  simp +contextual (maxDischargeDepth := 40) [hio, hk]

end Sys2Proof.Machine
end

