-- ==== Sys2Proof/Laws/KeepsSrc.lean ====
section
/-! SUPPORT. Laws/KeepsSrc.lean: everything in Machine/Src.lean keeps what every command keeps (sources). -/
namespace Sys2Proof.Machine

variable {s0 s t : State} {L : Lane}

@[simp ↓] theorem Lane.loopUpd_on {L : Lane} {n : Fin 128} {f : LoopSt → LoopSt} (hk : LaneOn s0 L) : LaneOn s0 (Lane.loopUpd L n f) := by
  unfold Lane.loopUpd
  simp +contextual (maxDischargeDepth := 40) [hk]

@[simp ↓] theorem State.inputLatched_on {s : State} {l : LaneId} {b : Binding} (hk : Keeps s0 s) : Keeps s0 (State.inputLatched s l b) := by
  unfold State.inputLatched
  simp +contextual (maxDischargeDepth := 40) [hk]

@[simp ↓] theorem State.loopLatch_on {s : State} {l : LaneId} {t : Nat} (hk : Keeps s0 s) : Keeps s0 (State.loopLatch s l t) := by
  unfold State.loopLatch
  try dsimp only
  repeat' first | assumption | (simp +contextual (maxDischargeDepth := 40) [hk]; done) | with_reducible refine out_next ?_ | with_reducible refine out_ite ?_ ?_ | with_reducible refine keeps_ite ?_ ?_ | with_reducible refine laneOn_ite ?_ ?_ | with_reducible refine State.upd_on ?_ ?_ | with_reducible refine keeps_foldl ?_ ?_ | with_reducible refine laneOn_foldl ?_ ?_ | with_reducible refine State.each_on ?_ ?_ | with_reducible refine State.perLane_on ?_ ?_ | with_reducible refine State.ok_on ?_ | with_reducible refine State.raise_on ?_ | with_reducible refine State.raiseUp_on ?_ | with_reducible refine State.rtCall_on ?_ ?_ | split | intro _ | (simp +contextual (maxDischargeDepth := 40) [*]; done)

@[simp ↓] theorem State.outDeliver_on {s : State} {l : LaneId} {kind : Nat} {idx : Nat} {bs : Bytes} (hk : Keeps s0 s) : Keeps s0 (State.outDeliver s l kind idx bs) := by
  unfold State.outDeliver
  repeat' first | (simp +contextual (maxDischargeDepth := 40) [hk]; done) | split | intro _

end Sys2Proof.Machine
end

