-- ==== Sys2Proof/Laws/KeepsCtl.lean ====
section
/-! SUPPORT. Laws/KeepsCtl.lean: everything in Machine/Ctl.lean keeps what every command keeps (loops). -/
namespace Sys2Proof.Machine

variable {s0 s t : State} {L : Lane}

@[simp ↓] theorem State.injEnd_on {s : State} {l : LaneId} {n : Fin 128} {code : Nat} (hk : Keeps s0 s) : Keeps s0 (State.injEnd s l n code) := by
  unfold State.injEnd
  simp +contextual (maxDischargeDepth := 40) [hk]

@[simp ↓] theorem Lane.capUpd_on {L : Lane} {c : Fin 4} {f : CapSt → CapSt} (hk : LaneOn s0 L) : LaneOn s0 (Lane.capUpd L c f) := by
  unfold Lane.capUpd
  simp +contextual (maxDischargeDepth := 40) [hk]

@[simp ↓] theorem Lane.capCounts_on {L : Lane} {c : Nat} {written : Nat} {len : Nat} (hk : LaneOn s0 L) : LaneOn s0 (Lane.capCounts L c written len) := by
  unfold Lane.capCounts
  simp +contextual (maxDischargeDepth := 40) [hk]

@[simp ↓] theorem State.capDone_on {s : State} {l : LaneId} {c : Fin 4} (hk : Keeps s0 s) : Keeps s0 (State.capDone s l c) := by
  unfold State.capDone
  simp +contextual (maxDischargeDepth := 40) [hk]

@[simp ↓] theorem State.capWrite_on {io : RegIO} {l : LaneId} {c : Fin 4} {tb : Nat} (hio : KeepsIO io) (hk : Keeps s0 s) : Keeps s0 (@State.capWrite io s l c tb) := by
  unfold State.capWrite
  extract_lets L len w
  generalize L.getN (aCap c 4) + w % len * L.capRow c = a
  have h3 : Keeps s0 (@State.winWrite io s l (20 + c.val) a (L.capBytes c tb)).1 := State.winWrite_on hio hk
  generalize @State.winWrite io s l (20 + c.val) a (L.capBytes c tb) = p at h3 ⊢
  obtain ⟨s3, _ | ⟨kind, addr⟩⟩ := p
  · simp +contextual (maxDischargeDepth := 40) [h3]
  · simp +contextual (maxDischargeDepth := 40) [h3]

@[simp ↓] theorem State.capRowAt_on {io : RegIO} {l : LaneId} {c : Fin 4} {tb : Nat} {inj mode : Bool} (hio : KeepsIO io) (hk : Keeps s0 s) :
    Keeps s0 (@State.capRowAt io s l c tb inj mode) := by
  unfold State.capRowAt
  extract_lets L len pre v trig s1 s2
  have h1 : Keeps s0 s1 := keeps_ite (State.raise_on (State.upd_on hk fun L hL => Lane.capUpd_on (Lane.setFld_on hL))) hk
  have h2 : Keeps s0 s2 := State.upd_on h1 fun L hL => Lane.capUpd_on hL
  clear_value s2
  refine keeps_ite (State.capDone_on h2) ?_
  refine keeps_ite ?_ (State.capWrite_on hio (State.fresh_on h2))
  exact State.upd_on (State.fresh_on h2) fun L hL => by simp [hL]

@[simp ↓] theorem State.capSample_on {io : RegIO} {s : State} {l : LaneId} {n : Nat} {tb : Nat} {inj : Bool} {mode : Bool} (hio : KeepsIO io) (hk : Keeps s0 s) : Keeps s0 (@State.capSample io s l n tb inj mode) := by
  unfold State.capSample
  simp +contextual (maxDischargeDepth := 40) [hio, hk]

@[simp ↓] theorem State.loopSample_on {s : State} {l : LaneId} {n : Fin 128} (hk : Keeps s0 s) : Keeps s0 (State.loopSample s l n) := by
  unfold State.loopSample
  dsimp only
  repeat' first | (simp +contextual (maxDischargeDepth := 40) [hk]; done) | split | intro _

@[simp ↓] theorem State.loopPut_on {s : State} {l : LaneId} {n : Fin 128} {us : List F64} (hk : Keeps s0 s) : Keeps s0 (State.loopPut s l n us) := by
  unfold State.loopPut
  try dsimp only
  repeat' first | assumption | (simp +contextual (maxDischargeDepth := 40) [hk]; done) | with_reducible refine out_next ?_ | with_reducible refine out_ite ?_ ?_ | with_reducible refine keeps_ite ?_ ?_ | with_reducible refine laneOn_ite ?_ ?_ | with_reducible refine State.upd_on ?_ ?_ | with_reducible refine keeps_foldl ?_ ?_ | with_reducible refine laneOn_foldl ?_ ?_ | with_reducible refine State.each_on ?_ ?_ | with_reducible refine State.perLane_on ?_ ?_ | with_reducible refine State.ok_on ?_ | with_reducible refine State.raise_on ?_ | with_reducible refine State.raiseUp_on ?_ | with_reducible refine State.rtCall_on ?_ ?_ | split | intro _ | (simp +contextual (maxDischargeDepth := 40) [*]; done)

@[simp ↓] theorem Lane.loopModeShow_on {L : Lane} {n : Fin 128} {p : LoopPend} (hk : LaneOn s0 L) : LaneOn s0 (Lane.loopModeShow L n p) := by
  unfold Lane.loopModeShow
  simp +contextual (maxDischargeDepth := 40) [hk]

@[simp ↓] theorem State.loopCommit_on {s : State} {l : LaneId} {n : Fin 128} {p : LoopPend} (hk : Keeps s0 s) : Keeps s0 (State.loopCommit s l n p) := by
  unfold State.loopCommit
  simp +contextual (maxDischargeDepth := 40) [hk]

@[simp ↓] theorem State.loopOutput_on {io : RegIO} {s : State} {l : LaneId} {n : Fin 128} {late : Bool} (hio : KeepsIO io) (hk : Keeps s0 s) : Keeps s0 (@State.loopOutput io s l n late) := by
  unfold State.loopOutput
  dsimp only
  repeat' first | (simp +contextual (maxDischargeDepth := 40) [hio, hk]; done) | split | intro _

theorem rowLoopOutputInstant_on {io : RegIO} {loop : Fin 128} {lateA : Bool} {lateB : Bool} {s : State} (hio : KeepsIO io) (hk : Keeps s0 s) : OutOn s0 (@rowLoopOutputInstant io loop lateA lateB s) := by
  unfold rowLoopOutputInstant
  simp +contextual (maxDischargeDepth := 40) [hio, hk]

@[simp ↓] theorem State.injStart_on {s : State} {l : LaneId} {key : Half} {n : Fin 128} (hk : Keeps s0 s) : Keeps s0 (State.injStart s l key n) := by
  unfold State.injStart
  simp +contextual (maxDischargeDepth := 40) [hk]

theorem execInjStart_on {src : Src} {key : Half} {loop : Fin 128} {s : State} (hk : Keeps s0 s) : OutOn s0 (execInjStart src key loop s) := by
  unfold execInjStart
  simp +contextual (maxDischargeDepth := 40) [hk]

@[simp ↓] theorem State.injStop_on {s : State} {l : LaneId} {key : Half} {n : Fin 128} (hk : Keeps s0 s) : Keeps s0 (State.injStop s l key n) := by
  unfold State.injStop
  simp +contextual (maxDischargeDepth := 40) [hk]

theorem execInjStop_on {src : Src} {key : Half} {loop : Fin 128} {s : State} (hk : Keeps s0 s) : OutOn s0 (execInjStop src key loop s) := by
  unfold execInjStop
  simp +contextual (maxDischargeDepth := 40) [hk]

@[simp ↓] theorem State.capArm_on {s : State} {l : LaneId} {key : Half} {c : Fin 4} (hk : Keeps s0 s) : Keeps s0 (State.capArm s l key c) := by
  unfold State.capArm
  simp +contextual (maxDischargeDepth := 40) [hk]

theorem execCapArm_on {src : Src} {key : Half} {unit : Fin 4} {s : State} (hk : Keeps s0 s) : OutOn s0 (execCapArm src key unit s) := by
  unfold execCapArm
  simp +contextual (maxDischargeDepth := 40) [hk]

@[simp ↓] theorem Lane.capAbort_on {L : Lane} {c : Nat} (hk : LaneOn s0 L) : LaneOn s0 (Lane.capAbort L c) := by
  unfold Lane.capAbort
  simp +contextual (maxDischargeDepth := 40) [hk]

@[simp ↓] theorem State.capAbortCmd_on {s : State} {l : LaneId} {key : Half} {c : Fin 4} (hk : Keeps s0 s) : Keeps s0 (State.capAbortCmd s l key c) := by
  unfold State.capAbortCmd
  simp +contextual (maxDischargeDepth := 40) [hk]

theorem execCapAbort_on {src : Src} {key : Half} {unit : Fin 4} {s : State} (hk : Keeps s0 s) : OutOn s0 (execCapAbort src key unit s) := by
  unfold execCapAbort
  simp +contextual (maxDischargeDepth := 40) [hk]

@[simp ↓] theorem State.loopsMode_on {s : State} {l : LaneId} {m : Mode} (hk : Keeps s0 s) : Keeps s0 (State.loopsMode s l m) := by
  unfold State.loopsMode
  simp +contextual (maxDischargeDepth := 40) [hk]

@[simp ↓] theorem State.loopsBegin_on {s : State} {l : LaneId} (hk : Keeps s0 s) : Keeps s0 (State.loopsBegin s l) := by
  unfold State.loopsBegin
  simp +contextual (maxDischargeDepth := 40) [hk]

@[simp ↓] theorem Lane.ctlApplied_on {L : Lane} {a : Nat} (hk : LaneOn s0 L) : LaneOn s0 (Lane.ctlApplied L a) := by
  unfold Lane.ctlApplied
  simp +contextual (maxDischargeDepth := 40) [hk]

@[simp ↓] theorem Lane.ctlLoad_on {L : Lane} (hk : LaneOn s0 L) : LaneOn s0 (Lane.ctlLoad L) := by
  unfold Lane.ctlLoad
  simp +contextual (maxDischargeDepth := 40) [hk]

end Sys2Proof.Machine
end

