-- ==== Sys2Proof/Laws/KeepsEng.lean ====
section
/-! SUPPORT. Laws/KeepsEng.lean: everything in Machine/Eng.lean keeps what every command keeps (engines). -/
namespace Sys2Proof.Machine

variable {s0 s t : State} {L : Lane}

@[simp ↓] theorem Lane.engShow_on {L : Lane} {e : Fin 16} (hk : LaneOn s0 L) : LaneOn s0 (Lane.engShow L e) := by
  unfold Lane.engShow
  simp +contextual (maxDischargeDepth := 40) [hk]

@[simp ↓] theorem Lane.engUpd_on {L : Lane} {e : Fin 16} {f : Engine → Engine} (hk : LaneOn s0 L) : LaneOn s0 (Lane.engUpd L e f) := by
  unfold Lane.engUpd
  simp +contextual (maxDischargeDepth := 40) [hk]

@[simp ↓] theorem Lane.engEnter_on {L : Lane} {e : Fin 16} {t : Fin 8} (hk : LaneOn s0 L) : LaneOn s0 (Lane.engEnter L e t) := by
  unfold Lane.engEnter
  simp +contextual (maxDischargeDepth := 40) [hk]

@[simp ↓] theorem Lane.engRestore_on {L : Lane} {e : Fin 16} {t : Fin 8} (hk : LaneOn s0 L) : LaneOn s0 (Lane.engRestore L e t) := by
  unfold Lane.engRestore
  simp +contextual (maxDischargeDepth := 40) [hk]

@[simp ↓] theorem Lane.engNext_on {L : Lane} {e : Fin 16} (hk : LaneOn s0 L) : LaneOn s0 (Lane.engNext L e) := by
  unfold Lane.engNext
  dsimp only
  repeat' first | (simp +contextual (maxDischargeDepth := 40) [hk]; done) | split | intro _

@[simp ↓] theorem Lane.engDrop_on {L : Lane} {e : Fin 16} {t : Fin 8} (hk : LaneOn s0 L) : LaneOn s0 (Lane.engDrop L e t) := by
  unfold Lane.engDrop
  simp +contextual (maxDischargeDepth := 40) [hk]

@[simp ↓] theorem Lane.engDropAll_on {L : Lane} {t : Fin 8} (hk : LaneOn s0 L) : LaneOn s0 (Lane.engDropAll L t) := by
  unfold Lane.engDropAll
  simp +contextual (maxDischargeDepth := 40) [hk]

end Sys2Proof.Machine
end

