-- ==== Sys2Proof/Laws/KeepsCyc.lean ====
section
/-! SUPPORT. Laws/KeepsCyc.lean: everything in Machine/Cyc.lean keeps what every command keeps (cycles). -/
namespace Sys2Proof.Machine

variable {s0 s t : State} {L : Lane}

@[simp ↓] theorem pubSet_on {L : Lane} {id : Nat} {bs : Bytes} {stamp : Word} (hk : LaneOn s0 L) : LaneOn s0 (pubSet L id bs stamp) := by
  unfold pubSet
  simp +contextual (maxDischargeDepth := 40) [hk]

@[simp ↓] theorem State.forceOthers_on {s : State} {l : LaneId} {t : Nat} (hk : Keeps s0 s) : Keeps s0 (State.forceOthers s l t) := by
  unfold State.forceOthers
  try dsimp only
  repeat' first | assumption | (simp +contextual (maxDischargeDepth := 40) [hk]; done) | with_reducible refine out_next ?_ | with_reducible refine out_ite ?_ ?_ | with_reducible refine keeps_ite ?_ ?_ | with_reducible refine laneOn_ite ?_ ?_ | with_reducible refine State.upd_on ?_ ?_ | with_reducible refine keeps_foldl ?_ ?_ | with_reducible refine laneOn_foldl ?_ ?_ | with_reducible refine State.each_on ?_ ?_ | with_reducible refine State.perLane_on ?_ ?_ | with_reducible refine State.ok_on ?_ | with_reducible refine State.raise_on ?_ | with_reducible refine State.raiseUp_on ?_ | with_reducible refine State.rtCall_on ?_ ?_ | split | intro _ | (simp +contextual (maxDischargeDepth := 40) [*]; done)

@[simp ↓] theorem State.latchInputs_on {l : LaneId} {t : Fin 8} (hk : Keeps s0 s) : Keeps s0 (s.latchInputs l t) := by
  unfold State.latchInputs
  refine State.forceOthers_on (State.loopLatch_on (keeps_foldl hk fun s b hs => ?_))
  split
  · exact hs
  · exact State.inputLatched_on (State.symWrite_on hs)

@[simp ↓] theorem State.engRan_on {s : State} {l : LaneId} {e : Fin 16} (hk : Keeps s0 s) : Keeps s0 (State.engRan s l e) := by
  unfold State.engRan
  simp +contextual (maxDischargeDepth := 40) [hk]

@[simp ↓] theorem State.engTrapCsr_on {s : State} {l : LaneId} {e : Fin 16} {cause : Word} {epc : Word} {tval : Word} (hk : Keeps s0 s) : Keeps s0 (State.engTrapCsr s l e cause epc tval) := by
  unfold State.engTrapCsr
  simp +contextual (maxDischargeDepth := 40) [hk]

@[simp ↓] theorem State.engLock_on {s : State} {l : LaneId} {e : Fin 16} {u : Fin 8} (hk : Keeps s0 s) : Keeps s0 (State.engLock s l e u) := by
  unfold State.engLock
  simp +contextual (maxDischargeDepth := 40) [hk]

@[simp ↓] theorem State.engPreempt_on {s : State} {l : LaneId} {e : Fin 16} {u : Fin 8} {t : Fin 8} (hk : Keeps s0 s) : Keeps s0 (State.engPreempt s l e u t) := by
  unfold State.engPreempt
  simp +contextual (maxDischargeDepth := 40) [hk]

@[simp ↓] theorem State.engGive_on {s : State} {l : LaneId} {t : Fin 8} {e : Fin 16} {fault : Bool} (hk : Keeps s0 s) : Keeps s0 (State.engGive s l t e fault) := by
  unfold State.engGive
  dsimp only
  repeat' first | (simp +contextual (maxDischargeDepth := 40) [hk]; done) | split | intro _

@[simp ↓] theorem State.trap_on {s : State} {l : LaneId} {e : Fin 16} {cause : Word} {epc : Word} {tval : Word} (hk : Keeps s0 s) : Keeps s0 (State.trap s l e cause epc tval) := by
  unfold State.trap
  repeat' first | (simp +contextual (maxDischargeDepth := 40) [hk]; done) | split | intro _

@[simp ↓] theorem State.ctxCheckE_on {l : LaneId} {e : Fin 16} {n : Nat} (hk : Keeps s0 s) : Keeps s0 (State.ctxCheckE l e n s) := by
  induction n generalizing s with
  | zero => exact hk
  | succ n ih =>
    unfold State.ctxCheckE
    dsimp only
    split
    · exact hk
    · refine keeps_ite (ih (State.trap_on (State.eccUe_on hk))) (State.upd_on hk fun L hL => Lane.engUpd_on hL)

@[simp ↓] theorem State.ctxCheck_on {s : State} (hk : Keeps s0 s) : Keeps s0 (State.ctxCheck s) := by
  unfold State.ctxCheck
  simp +contextual (maxDischargeDepth := 40) [hk]

@[simp ↓] theorem State.cycleBegin_on {s : State} {l : LaneId} {t : Fin 8} {k : Nat} {saveFault : Option (LaneId × Fin 16)} (hk : Keeps s0 s) : Keeps s0 (State.cycleBegin s l t k saveFault) := by
  unfold State.cycleBegin
  simp +contextual (maxDischargeDepth := 40) [hk]

@[simp ↓] theorem State.cycleSlip_on {s : State} {l : LaneId} {t : Fin 8} (hk : Keeps s0 s) : Keeps s0 (State.cycleSlip s l t) := by
  unfold State.cycleSlip
  simp +contextual (maxDischargeDepth := 40) [hk]

@[simp ↓] theorem State.canTaken_on {s : State} {l : LaneId} {t : Fin 8} (hk : Keeps s0 s) : Keeps s0 (State.canTaken s l t) := by
  unfold State.canTaken
  try dsimp only
  repeat' first | assumption | (simp +contextual (maxDischargeDepth := 40) [hk]; done) | with_reducible refine out_next ?_ | with_reducible refine out_ite ?_ ?_ | with_reducible refine keeps_ite ?_ ?_ | with_reducible refine laneOn_ite ?_ ?_ | with_reducible refine State.upd_on ?_ ?_ | with_reducible refine keeps_foldl ?_ ?_ | with_reducible refine laneOn_foldl ?_ ?_ | with_reducible refine State.each_on ?_ ?_ | with_reducible refine State.perLane_on ?_ ?_ | with_reducible refine State.ok_on ?_ | with_reducible refine State.raise_on ?_ | with_reducible refine State.raiseUp_on ?_ | with_reducible refine State.rtCall_on ?_ ?_ | split | intro _ | (simp +contextual (maxDischargeDepth := 40) [*]; done)

theorem execCycleFinish_on {lane : LaneId} {task : Fin 8} {writes : List MemWrite} {s : State} (hk : Keeps s0 s) : OutOn s0 (execCycleFinish lane task writes s) := by
  unfold execCycleFinish
  simp +contextual (maxDischargeDepth := 40) [hk]

theorem execEngineTrap_on {lane : LaneId} {engine : Fin 16} {cause : Word} {epc : Word} {tval : Word} {s : State} (hk : Keeps s0 s) : OutOn s0 (execEngineTrap lane engine cause epc tval s) := by
  unfold execEngineTrap
  simp +contextual (maxDischargeDepth := 40) [hk]

@[simp ↓] theorem State.deliver_on {s : State} {l : LaneId} {img : List OutVal} {wr : List (Nat × Bool × Word)} (hk : Keeps s0 s) : Keeps s0 (State.deliver s l img wr) := by
  unfold State.deliver
  try dsimp only
  repeat' first | assumption | (simp +contextual (maxDischargeDepth := 40) [hk]; done) | with_reducible refine out_next ?_ | with_reducible refine out_ite ?_ ?_ | with_reducible refine keeps_ite ?_ ?_ | with_reducible refine laneOn_ite ?_ ?_ | with_reducible refine State.upd_on ?_ ?_ | with_reducible refine keeps_foldl ?_ ?_ | with_reducible refine laneOn_foldl ?_ ?_ | with_reducible refine State.each_on ?_ ?_ | with_reducible refine State.perLane_on ?_ ?_ | with_reducible refine State.ok_on ?_ | with_reducible refine State.raise_on ?_ | with_reducible refine State.raiseUp_on ?_ | with_reducible refine State.rtCall_on ?_ ?_ | split | intro _ | (simp +contextual (maxDischargeDepth := 40) [*]; done)

@[simp ↓] theorem State.cycleOver_on {s : State} {l : LaneId} {t : Fin 8} (hk : Keeps s0 s) : Keeps s0 (State.cycleOver s l t) := by
  unfold State.cycleOver
  simp +contextual (maxDischargeDepth := 40) [hk]

@[simp ↓] theorem State.publishTask_on {s : State} {t : Fin 8} (hk : Keeps s0 s) : Keeps s0 (State.publishTask s t) := by
  unfold State.publishTask
  simp +contextual (maxDischargeDepth := 40) [hk]

theorem rowPublishInstant_on {s : State} (hk : Keeps s0 s) : OutOn s0 (rowPublishInstant s) := by
  unfold rowPublishInstant
  dsimp only
  repeat' first | (simp +contextual (maxDischargeDepth := 40) [hk]; done) | split | intro _

theorem execMirrorWindowEnd_on {task : Fin 8} {s : State} (hk : Keeps s0 s) : OutOn s0 (execMirrorWindowEnd task s) := by
  unfold execMirrorWindowEnd
  dsimp only
  repeat' first | (simp +contextual (maxDischargeDepth := 40) [hk]; done) | split | intro _

theorem rowOverrunInstant_on {io : RegIO} {task : Fin 8} {s : State} (hio : KeepsIO io) (hk : Keeps s0 s) : OutOn s0 (@rowOverrunInstant io task s) := by
  unfold rowOverrunInstant
  simp +contextual (maxDischargeDepth := 40) [hio, hk]

@[simp ↓] theorem State.rtRet_on {s : State} {l : LaneId} {e : Fin 16} {a0 : Word} {a1 : Word} {a2 : Word} (hk : Keeps s0 s) : Keeps s0 (State.rtRet s l e a0 a1 a2) := by
  unfold State.rtRet
  simp +contextual (maxDischargeDepth := 40) [hk]

@[simp ↓] theorem State.rtRet1_on {s : State} {l : LaneId} {e : Fin 16} {a0 : Word} (hk : Keeps s0 s) : Keeps s0 (State.rtRet1 s l e a0) := by
  unfold State.rtRet1
  simp +contextual (maxDischargeDepth := 40) [hk]

@[simp ↓] theorem State.rtCall_on {l : LaneId} {e : Fin 16} {code : Word} {args : List Word} {f : Fin 8 → State → State} (hk : Keeps s0 s)
    (hkf : ∀ t s, Keeps s0 s → Keeps s0 (f t s)) : Keeps s0 (State.rtCall s l e code args f) := by
  unfold State.rtCall State.rtEcall
  split
  · exact hk
  · exact hkf _ _ (State.upd_on (State.engTrapCsr_on (State.engRan_on hk)) fun L hL => Lane.engUpd_on hL)

@[simp ↓] theorem State.rtTrap_on {s : State} {l : LaneId} {e : Fin 16} (hk : Keeps s0 s) : Keeps s0 (State.rtTrap s l e) := by
  unfold State.rtTrap
  simp +contextual (maxDischargeDepth := 40) [hk]

theorem execRtInfo_on {lane : LaneId} {engine : Fin 16} {s : State} (hk : Keeps s0 s) : OutOn s0 (execRtInfo lane engine s) := by
  unfold execRtInfo
  repeat' first | (simp +contextual (maxDischargeDepth := 40) [hk]; done) | split | intro _

theorem execRtNow_on {lane : LaneId} {engine : Fin 16} {s : State} (hk : Keeps s0 s) : OutOn s0 (execRtNow lane engine s) := by
  unfold execRtNow
  repeat' first | (simp +contextual (maxDischargeDepth := 40) [hk]; done) | split | intro _

theorem execRtTmr_on {lane : LaneId} {engine : Fin 16} {sym : Word} {input : Bool} {s : State} (hk : Keeps s0 s) : OutOn s0 (execRtTmr lane engine sym input s) := by
  unfold execRtTmr
  try dsimp only
  repeat' first | assumption | (simp +contextual (maxDischargeDepth := 40) [hk]; done) | with_reducible refine out_next ?_ | with_reducible refine out_ite ?_ ?_ | with_reducible refine keeps_ite ?_ ?_ | with_reducible refine laneOn_ite ?_ ?_ | with_reducible refine State.upd_on ?_ ?_ | with_reducible refine keeps_foldl ?_ ?_ | with_reducible refine laneOn_foldl ?_ ?_ | with_reducible refine State.each_on ?_ ?_ | with_reducible refine State.perLane_on ?_ ?_ | with_reducible refine State.ok_on ?_ | with_reducible refine State.raise_on ?_ | with_reducible refine State.raiseUp_on ?_ | with_reducible refine State.rtCall_on ?_ ?_ | split | intro _ | (simp +contextual (maxDischargeDepth := 40) [*]; done)

theorem execRtEdge_on {lane : LaneId} {engine : Fin 16} {sym : Word} {input : Bool} {s : State} (hk : Keeps s0 s) : OutOn s0 (execRtEdge lane engine sym input s) := by
  unfold execRtEdge
  try dsimp only
  repeat' first | assumption | (simp +contextual (maxDischargeDepth := 40) [hk]; done) | with_reducible refine out_next ?_ | with_reducible refine out_ite ?_ ?_ | with_reducible refine keeps_ite ?_ ?_ | with_reducible refine laneOn_ite ?_ ?_ | with_reducible refine State.upd_on ?_ ?_ | with_reducible refine keeps_foldl ?_ ?_ | with_reducible refine laneOn_foldl ?_ ?_ | with_reducible refine State.each_on ?_ ?_ | with_reducible refine State.perLane_on ?_ ?_ | with_reducible refine State.ok_on ?_ | with_reducible refine State.raise_on ?_ | with_reducible refine State.raiseUp_on ?_ | with_reducible refine State.rtCall_on ?_ ?_ | split | intro _ | (simp +contextual (maxDischargeDepth := 40) [*]; done)

theorem execRtHwtStart_on {lane : LaneId} {engine : Fin 16} {timer : Word} {duration : DWord} {evt : Bool} {s : State} (hk : Keeps s0 s) : OutOn s0 (execRtHwtStart lane engine timer duration evt s) := by
  unfold execRtHwtStart
  repeat' first | (simp +contextual (maxDischargeDepth := 40) [hk]; done) | split | intro _

theorem execRtHwtStop_on {lane : LaneId} {engine : Fin 16} {timer : Word} {s : State} (hk : Keeps s0 s) : OutOn s0 (execRtHwtStop lane engine timer s) := by
  unfold execRtHwtStop
  repeat' first | (simp +contextual (maxDischargeDepth := 40) [hk]; done) | split | intro _

theorem execRtHwtQuery_on {lane : LaneId} {engine : Fin 16} {timer : Word} {s : State} (hk : Keeps s0 s) : OutOn s0 (execRtHwtQuery lane engine timer s) := by
  unfold execRtHwtQuery
  repeat' first | (simp +contextual (maxDischargeDepth := 40) [hk]; done) | split | intro _

theorem execRtForced_on {lane : LaneId} {engine : Fin 16} {sym : Word} {s : State} (hk : Keeps s0 s) : OutOn s0 (execRtForced lane engine sym s) := by
  unfold execRtForced
  try dsimp only
  repeat' first | assumption | (simp +contextual (maxDischargeDepth := 40) [hk]; done) | with_reducible refine out_next ?_ | with_reducible refine out_ite ?_ ?_ | with_reducible refine keeps_ite ?_ ?_ | with_reducible refine laneOn_ite ?_ ?_ | with_reducible refine State.upd_on ?_ ?_ | with_reducible refine keeps_foldl ?_ ?_ | with_reducible refine laneOn_foldl ?_ ?_ | with_reducible refine State.each_on ?_ ?_ | with_reducible refine State.perLane_on ?_ ?_ | with_reducible refine State.ok_on ?_ | with_reducible refine State.raise_on ?_ | with_reducible refine State.raiseUp_on ?_ | with_reducible refine State.rtCall_on ?_ ?_ | split | intro _ | (simp +contextual (maxDischargeDepth := 40) [*]; done)

theorem execHwtExpiry_on {lane : LaneId} {timer : Fin 256} {s : State} (hk : Keeps s0 s) : OutOn s0 (execHwtExpiry lane timer s) := by
  unfold execHwtExpiry
  simp +contextual (maxDischargeDepth := 40) [hk]

@[simp ↓] theorem State.taskCmd_on {s : State} {l : LaneId} {key : Half} {t : Fin 8} {ok : Bool} {f : State → State} (hk : Keeps s0 s) (hkf : ∀ s, Keeps s0 s → Keeps s0 (f s)) : Keeps s0 (State.taskCmd s l key t ok f) := by
  unfold State.taskCmd
  simp +contextual (maxDischargeDepth := 40) [hk, hkf]

@[simp ↓] theorem State.taskRestart_on {s : State} {l : LaneId} {key : Half} {t : Fin 8} (hk : Keeps s0 s) : Keeps s0 (State.taskRestart s l key t) := by
  unfold State.taskRestart
  simp +contextual (maxDischargeDepth := 40) [hk]

theorem execTaskRestart_on {src : Src} {key : Half} {task : Fin 8} {s : State} (hk : Keeps s0 s) : OutOn s0 (execTaskRestart src key task s) := by
  unfold execTaskRestart
  simp +contextual (maxDischargeDepth := 40) [hk]

@[simp ↓] theorem State.taskStep_on {s : State} {l : LaneId} {key : Half} {t : Fin 8} (hk : Keeps s0 s) : Keeps s0 (State.taskStep s l key t) := by
  unfold State.taskStep
  simp +contextual (maxDischargeDepth := 40) [hk]

theorem execTaskStep_on {src : Src} {key : Half} {task : Fin 8} {s : State} (hk : Keeps s0 s) : OutOn s0 (execTaskStep src key task s) := by
  unfold execTaskStep
  simp +contextual (maxDischargeDepth := 40) [hk]

@[simp ↓] theorem State.taskClrCnt_on {s : State} {l : LaneId} {key : Half} {t : Fin 8} (hk : Keeps s0 s) : Keeps s0 (State.taskClrCnt s l key t) := by
  unfold State.taskClrCnt
  simp +contextual (maxDischargeDepth := 40) [hk]

theorem execTaskClrCnt_on {src : Src} {key : Half} {task : Fin 8} {s : State} (hk : Keeps s0 s) : OutOn s0 (execTaskClrCnt src key task s) := by
  unfold execTaskClrCnt
  simp +contextual (maxDischargeDepth := 40) [hk]

theorem execDebugHalt_on {lane : LaneId} {engine : Fin 16} {s : State} (hk : Keeps s0 s) : OutOn s0 (execDebugHalt lane engine s) := by
  unfold execDebugHalt
  simp +contextual (maxDischargeDepth := 40) [hk]

theorem execDebugResume_on {lane : LaneId} {engine : Fin 16} {s : State} (hk : Keeps s0 s) : OutOn s0 (execDebugResume lane engine s) := by
  unfold execDebugResume
  simp +contextual (maxDischargeDepth := 40) [hk]

@[simp ↓] theorem Lane.tasksEnd_on {L : Lane} (hk : LaneOn s0 L) : LaneOn s0 (Lane.tasksEnd L) := by
  unfold Lane.tasksEnd
  simp +contextual (maxDischargeDepth := 40) [hk]

@[simp ↓] theorem Lane.tasksBegin_on {L : Lane} (hk : LaneOn s0 L) : LaneOn s0 (Lane.tasksBegin L) := by
  unfold Lane.tasksBegin
  simp +contextual (maxDischargeDepth := 40) [hk]

end Sys2Proof.Machine
end

