-- ==== Sys2Proof/Laws/KeepsOlc.lean ====
section
/-! SUPPORT. Laws/KeepsOlc.lean: everything in Machine/Olc.lean keeps what every command keeps (online change). -/
namespace Sys2Proof.Machine

variable {s0 s t : State} {L : Lane}

@[simp ↓] theorem Lane.olcShow_on {L : Lane} (hk : LaneOn s0 L) : LaneOn s0 (Lane.olcShow L) := by
  unfold Lane.olcShow
  simp +contextual (maxDischargeDepth := 40) [hk]

@[simp ↓] theorem Lane.olcDigest_on {L : Lane} {d : Big} (hk : LaneOn s0 L) : LaneOn s0 (Lane.olcDigest L d) := by
  unfold Lane.olcDigest
  simp +contextual (maxDischargeDepth := 40) [hk]

@[simp ↓] theorem State.olcRefuse_on {s : State} {l : LaneId} (hk : Keeps s0 s) : Keeps s0 (State.olcRefuse s l) := by
  unfold State.olcRefuse
  simp +contextual (maxDischargeDepth := 40) [hk]

@[simp ↓] theorem State.olcAbandon_on {s : State} {l : LaneId} {code : Nat} (hk : Keeps s0 s) : Keeps s0 (State.olcAbandon s l code) := by
  unfold State.olcAbandon
  simp +contextual (maxDischargeDepth := 40) [hk]

@[simp ↓] theorem State.olcStart_on {s : State} {l : LaneId} {key : Half} (hk : Keeps s0 s) : Keeps s0 (State.olcStart s l key) := by
  unfold State.olcStart
  simp +contextual (maxDischargeDepth := 40) [hk]

theorem execOlcStart_on {src : Src} {key : Half} {s : State} (hk : Keeps s0 s) : OutOn s0 (execOlcStart src key s) := by
  unfold execOlcStart
  simp +contextual (maxDischargeDepth := 40) [hk]

@[simp ↓] theorem State.olcPlace_on {s : State} {l : LaneId} {x : Delta} (hk : Keeps s0 s) : Keeps s0 (State.olcPlace s l x) := by
  unfold State.olcPlace
  simp +contextual (maxDischargeDepth := 40) [hk]

@[simp ↓] theorem State.olcSchedule_on {s : State} (hk : Keeps s0 s) : Keeps s0 (State.olcSchedule s) := by
  unfold State.olcSchedule
  dsimp only
  repeat' first | (simp +contextual (maxDischargeDepth := 40) [hk]; done) | split | intro _

@[simp ↓] theorem State.olcDecide_on {s : State} {l : LaneId} (hk : Keeps s0 s) : Keeps s0 (State.olcDecide s l) := by
  unfold State.olcDecide
  dsimp only
  repeat' first | (simp +contextual (maxDischargeDepth := 40) [hk]; done) | split | intro _

theorem execOlcVerifyDone_on {lane : LaneId} {s : State} (hk : Keeps s0 s) : OutOn s0 (execOlcVerifyDone lane s) := by
  unfold execOlcVerifyDone
  repeat' first | (simp +contextual (maxDischargeDepth := 40) [hk]; done) | split | intro _

theorem execOlcPeerResult_on {lane : LaneId} {s : State} (hk : Keeps s0 s) : OutOn s0 (execOlcPeerResult lane s) := by
  unfold execOlcPeerResult
  repeat' first | (simp +contextual (maxDischargeDepth := 40) [hk]; done) | split | intro _

theorem execOlcPeerTimeout_on {lane : LaneId} {s : State} (hk : Keeps s0 s) : OutOn s0 (execOlcPeerTimeout lane s) := by
  unfold execOlcPeerTimeout
  simp +contextual (maxDischargeDepth := 40) [hk]

@[simp ↓] theorem State.symPut_on {s : State} {l : LaneId} {t : Nat} {y : Sym} {vs : List (Nat × Bytes)} (hk : Keeps s0 s) : Keeps s0 (State.symPut s l t y vs) := by
  unfold State.symPut
  simp +contextual (maxDischargeDepth := 40) [hk]

@[simp ↓] theorem State.olcForces_on {s : State} {l : LaneId} {olds : List Sym} {news : List Sym} {outs : List Nat} (hk : Keeps s0 s) : Keeps s0 (State.olcForces s l olds news outs) := by
  unfold State.olcForces
  try dsimp only
  repeat' first | assumption | (simp +contextual (maxDischargeDepth := 40) [hk]; done) | with_reducible refine out_next ?_ | with_reducible refine out_ite ?_ ?_ | with_reducible refine keeps_ite ?_ ?_ | with_reducible refine laneOn_ite ?_ ?_ | with_reducible refine State.upd_on ?_ ?_ | with_reducible refine keeps_foldl ?_ ?_ | with_reducible refine laneOn_foldl ?_ ?_ | with_reducible refine State.each_on ?_ ?_ | with_reducible refine State.perLane_on ?_ ?_ | with_reducible refine State.ok_on ?_ | with_reducible refine State.raise_on ?_ | with_reducible refine State.raiseUp_on ?_ | with_reducible refine State.rtCall_on ?_ ?_ | split | intro _ | (simp +contextual (maxDischargeDepth := 40) [*]; done)

@[simp ↓] theorem State.symFresh_on {s : State} {l : LaneId} {t : Nat} {data : Bytes} {y : Sym} (hk : Keeps s0 s) : Keeps s0 (State.symFresh s l t data y) := by
  unfold State.symFresh
  simp +contextual (maxDischargeDepth := 40) [hk]

@[simp ↓] theorem State.olcSwap_on {l : LaneId} {x : Delta} {news : List Drawer} (hk : Keeps s0 s) : Keeps s0 (s.olcSwap l x news) := by
  unfold State.olcSwap
  extract_lets L ts maps kept staged bound s1 s2 s2' s3 outs s4 nNew
  have h1 : Keeps s0 s1 := State.upd_on hk fun L hL => by split <;> exact hL
  have h2 : Keeps s0 s2 := keeps_foldl h1 fun s k hs => State.symPut_on hs
  have h2' : Keeps s0 s2' := keeps_ite h2 (keeps_foldl h2 fun s m hs => keeps_foldl hs fun s y hy => State.symFresh_on hy)
  have h3 : Keeps s0 s3 := keeps_foldl h2' fun s m hs => keeps_foldl hs fun s y hy => State.symPut_on hy
  have h4 : Keeps s0 s4 := State.olcForces_on h3
  exact State.upd_on h4 fun L hL => Lane.wrapFld_on (Lane.setFld_on (Lane.putN_on (Lane.putN_on hL)))

@[simp ↓] theorem State.olcSwitchLane_on {s : State} {l : LaneId} (hk : Keeps s0 s) : Keeps s0 (State.olcSwitchLane s l) := by
  unfold State.olcSwitchLane
  dsimp only
  repeat' first | (simp +contextual (maxDischargeDepth := 40) [hk]; done) | split | intro _

@[simp ↓] theorem State.olcAbort_on {s : State} {l : LaneId} {key : Half} (hk : Keeps s0 s) : Keeps s0 (State.olcAbort s l key) := by
  unfold State.olcAbort
  simp +contextual (maxDischargeDepth := 40) [hk]

theorem execOlcAbort_on {src : Src} {key : Half} {s : State} (hk : Keeps s0 s) : OutOn s0 (execOlcAbort src key s) := by
  unfold execOlcAbort
  simp +contextual (maxDischargeDepth := 40) [hk]

@[simp ↓] theorem State.olcRevert_on {s : State} {l : LaneId} {key : Half} (hk : Keeps s0 s) : Keeps s0 (State.olcRevert s l key) := by
  unfold State.olcRevert
  dsimp only
  repeat' first | (simp +contextual (maxDischargeDepth := 40) [hk]; done) | split | intro _

theorem execOlcRevert_on {src : Src} {key : Half} {s : State} (hk : Keeps s0 s) : OutOn s0 (execOlcRevert src key s) := by
  unfold execOlcRevert
  simp +contextual (maxDischargeDepth := 40) [hk]

@[simp ↓] theorem State.olcRelease_on {s : State} {l : LaneId} {key : Half} (hk : Keeps s0 s) : Keeps s0 (State.olcRelease s l key) := by
  unfold State.olcRelease
  simp +contextual (maxDischargeDepth := 40) [hk]

theorem execOlcRelease_on {src : Src} {key : Half} {s : State} (hk : Keeps s0 s) : OutOn s0 (execOlcRelease src key s) := by
  unfold execOlcRelease
  simp +contextual (maxDischargeDepth := 40) [hk]

@[simp ↓] theorem Lane.olcFull_on {L : Lane} (hk : LaneOn s0 L) : LaneOn s0 (Lane.olcFull L) := by
  unfold Lane.olcFull
  extract_lets L1 d src
  have hL1 : LaneOn s0 L1 := laneOn_foldl hk fun L x h => by split <;> exact h
  clear_value L1 d
  have h : LaneOn s0 src := Lane.olcDigest_on hL1
  exact Lane.olcShow_on ⟨h.1, h.2.1, h.2.2.1, h.2.2.2⟩

@[simp ↓] theorem State.olcMode_on {l : LaneId} {m : Mode} (hk : Keeps s0 s) : Keeps s0 (s.olcMode l m) := by
  unfold State.olcMode
  extract_lets st s1
  have h1 : Keeps s0 s1 := keeps_ite (State.olcAbandon_on hk) hk
  clear_value s1
  split
  · exact keeps_ite (State.upd_on h1 fun L hL => Lane.olcFull_on hL) (State.loadPrograms_on (State.upd_on h1 fun L hL => Lane.olcFull_on hL))
  · refine State.upd_on h1 fun L hL => ?_
    split
    · extract_lets t' L1
      have h : LaneOn s0 L1 := Lane.putN_on (Lane.putN_on hL)
      exact ⟨h.1, h.2.1, h.2.2.1, h.2.2.2⟩
    · exact hL
  · exact h1

@[simp ↓] theorem State.olcAlone_on {s : State} {l : LaneId} (hk : Keeps s0 s) : Keeps s0 (State.olcAlone s l) := by
  unfold State.olcAlone
  simp +contextual (maxDischargeDepth := 40) [hk]

end Sys2Proof.Machine
end

