-- ==== Sys2Proof/Laws/KeepsRec.lean ====
section
/-! SUPPORT. Laws/KeepsRec.lean: everything in Machine/Rec.lean keeps what every command keeps (the recorder). -/
namespace Sys2Proof.Machine

variable {s0 s t : State} {L : Lane}

@[simp ↓] theorem Lane.setWatch_on {L : Lane} {w : Nat} {x : Watch} (hk : LaneOn s0 L) : LaneOn s0 (Lane.setWatch L w x) := by
  unfold Lane.setWatch
  simp +contextual (maxDischargeDepth := 40) [hk]

@[simp ↓] theorem State.watchSample_on {s : State} {l : LaneId} {w : Nat} (hk : Keeps s0 s) : Keeps s0 (State.watchSample s l w) := by
  unfold State.watchSample
  dsimp only
  repeat' first | (simp +contextual (maxDischargeDepth := 40) [hk]; done) | split | intro _

@[simp ↓] theorem Lane.watchServed_on {L : Lane} {w : Nat} {c : Nat} (hk : LaneOn s0 L) : LaneOn s0 (Lane.watchServed L w c) := by
  unfold Lane.watchServed
  repeat' first | (simp +contextual (maxDischargeDepth := 40) [hk]; done) | split | intro _

theorem execRecWatchSample_on {watch : Fin 1024} {s : State} (hk : Keeps s0 s) : OutOn s0 (execRecWatchSample watch s) := by
  unfold execRecWatchSample
  simp +contextual (maxDischargeDepth := 40) [hk]

@[simp ↓] theorem State.watchBody_on {s : State} {e : Bytes} {x : Watch} (hk : Keeps s0 s) : Keeps s0 (State.watchBody s e x).2 := by
  unfold State.watchBody
  dsimp only
  repeat' first | (simp +contextual (maxDischargeDepth := 40) [hk]; done) | split | intro _

@[simp ↓] theorem State.recPush_on {s : State} {l : LaneId} {j : RecJob} (hk : Keeps s0 s) : Keeps s0 (State.recPush s l j) := by
  unfold State.recPush
  simp +contextual (maxDischargeDepth := 40) [hk]

@[simp ↓] theorem State.watchEnd_on {s : State} {l : LaneId} {w : Nat} {adjusted : Bool} (hk : Keeps s0 s) : Keeps s0 (State.watchEnd s l w adjusted) := by
  unfold State.watchEnd
  repeat' first | (simp +contextual (maxDischargeDepth := 40) [hk]; done) | split | intro _

theorem execRecPeriodEnd_on {watch : Fin 1024} {s : State} (hk : Keeps s0 s) : OutOn s0 (execRecPeriodEnd watch s) := by
  unfold execRecPeriodEnd
  dsimp only
  repeat' first | (simp +contextual (maxDischargeDepth := 40) [hk]; done) | split | intro _

@[simp ↓] theorem State.recEndAll_on {s : State} {adjusted : Bool} (hk : Keeps s0 s) : Keeps s0 (State.recEndAll s adjusted) := by
  unfold State.recEndAll
  simp +contextual (maxDischargeDepth := 40) [hk]

@[simp ↓] theorem State.recStartAll_on {s : State} {l : LaneId} {partial_ : Bool} (hk : Keeps s0 s) : Keeps s0 (State.recStartAll s l partial_) := by
  unfold State.recStartAll
  simp +contextual (maxDischargeDepth := 40) [hk]

@[simp ↓] theorem State.recSet_on {s : State} (hk : Keeps s0 s) : Keeps s0 (State.recSet s) := by
  unfold State.recSet
  simp +contextual (maxDischargeDepth := 40) [hk]

@[simp ↓] theorem State.recLatch_on {s : State} {l : LaneId} {req : Requester} {data : Word} (hk : Keeps s0 s) : Keeps s0 (State.recLatch s l req data) := by
  unfold State.recLatch
  simp +contextual (maxDischargeDepth := 40) [hk]

theorem execRecRaiseVal_on {src : Src} {data : Word} {s : State} (hk : Keeps s0 s) : OutOn s0 (execRecRaiseVal src data s) := by
  unfold execRecRaiseVal
  simp +contextual (maxDischargeDepth := 40) [hk]

@[simp ↓] theorem State.recRaise_on {s : State} {l : LaneId} {req : Requester} {key : Half} {c : Nat} (hk : Keeps s0 s) : Keeps s0 (State.recRaise s l req key c) := by
  unfold State.recRaise
  simp +contextual (maxDischargeDepth := 40) [hk]

theorem execRecRaise_on {src : Src} {key : Half} {code : Fin 1024} {s : State} (hk : Keeps s0 s) : OutOn s0 (execRecRaise src key code s) := by
  unfold execRecRaise
  simp +contextual (maxDischargeDepth := 40) [hk]

@[simp ↓] theorem State.recRewrite_on {s : State} {l : LaneId} {c : Nat} (hk : Keeps s0 s) : Keeps s0 (State.recRewrite s l c) := by
  unfold State.recRewrite
  repeat' first | (simp +contextual (maxDischargeDepth := 40) [hk]; done) | split | intro _

theorem execRecTallyRewriteDue_on {code : Fin 1024} {s : State} (hk : Keeps s0 s) : OutOn s0 (execRecTallyRewriteDue code s) := by
  unfold execRecTallyRewriteDue
  try dsimp only
  repeat' first | assumption | (simp +contextual (maxDischargeDepth := 40) [hk]; done) | with_reducible refine out_next ?_ | with_reducible refine out_ite ?_ ?_ | with_reducible refine keeps_ite ?_ ?_ | with_reducible refine laneOn_ite ?_ ?_ | with_reducible refine State.upd_on ?_ ?_ | with_reducible refine keeps_foldl ?_ ?_ | with_reducible refine laneOn_foldl ?_ ?_ | with_reducible refine State.each_on ?_ ?_ | with_reducible refine State.perLane_on ?_ ?_ | with_reducible refine State.ok_on ?_ | with_reducible refine State.raise_on ?_ | with_reducible refine State.raiseUp_on ?_ | with_reducible refine State.rtCall_on ?_ ?_ | split | intro _ | (simp +contextual (maxDischargeDepth := 40) [*]; done)

@[simp ↓] theorem State.tallyBody_on {s : State} {t : Tally} (hk : Keeps s0 s) : Keeps s0 (State.tallyBody s t).2 := by
  unfold State.tallyBody
  dsimp only
  repeat' first | (simp +contextual (maxDischargeDepth := 40) [hk]; done) | split | intro _

@[simp ↓] theorem State.recProtected_on {s : State} {l : LaneId} {a : Nat} (hk : Keeps s0 s) : Keeps s0 (State.recProtected s l a) := by
  unfold State.recProtected
  simp +contextual (maxDischargeDepth := 40) [hk]

@[simp ↓] theorem Lane.recNote_on {L : Lane} {rtc : Word} {i : Nat} {kind : Nat} {sev : Nat} {id : Nat} (hk : LaneOn s0 L) : LaneOn s0 (Lane.recNote L rtc i kind sev id) := by
  unfold Lane.recNote
  repeat' first | (simp +contextual (maxDischargeDepth := 40) [hk]; done) | split | intro _

@[simp ↓] theorem State.recStore_on {s : State} {l : LaneId} {i : Nat} {kind : Nat} {sev : Nat} {id : Nat} {body : Bytes} (hk : Keeps s0 s) : Keeps s0 (State.recStore s l i kind sev id body) := by
  unfold State.recStore
  try dsimp only
  repeat' first | assumption | (simp +contextual (maxDischargeDepth := 40) [hk]; done) | with_reducible refine out_next ?_ | with_reducible refine out_ite ?_ ?_ | with_reducible refine keeps_ite ?_ ?_ | with_reducible refine laneOn_ite ?_ ?_ | with_reducible refine State.upd_on ?_ ?_ | with_reducible refine keeps_foldl ?_ ?_ | with_reducible refine laneOn_foldl ?_ ?_ | with_reducible refine State.each_on ?_ ?_ | with_reducible refine State.perLane_on ?_ ?_ | with_reducible refine State.ok_on ?_ | with_reducible refine State.raise_on ?_ | with_reducible refine State.raiseUp_on ?_ | with_reducible refine State.rtCall_on ?_ ?_ | split | intro _ | (simp +contextual (maxDischargeDepth := 40) [*]; done)

@[simp ↓] theorem State.recBody_on {s : State} {l : LaneId} {j : RecJob} (hk : Keeps s0 s) : Keeps s0 (State.recBody s l j).2 := by
  unfold State.recBody
  repeat' first | (simp +contextual (maxDischargeDepth := 40) [hk]; done) | split | intro _

@[simp ↓] theorem State.recLost_on {s : State} {l : LaneId} (hk : Keeps s0 s) : Keeps s0 (State.recLost s l) := by
  unfold State.recLost
  repeat' first | (simp +contextual (maxDischargeDepth := 40) [hk]; done) | split | intro _

@[simp ↓] theorem State.recPut_on {s : State} {l : LaneId} {i : Nat} {j : RecJob} (hk : Keeps s0 s) : Keeps s0 (State.recPut s l i j) := by
  unfold State.recPut
  repeat' first | (simp +contextual (maxDischargeDepth := 40) [hk]; done) | split | intro _

theorem execRecRecordWrite_on {lane : LaneId} {s : State} (hk : Keeps s0 s) : OutOn s0 (execRecRecordWrite lane s) := by
  unfold execRecRecordWrite
  dsimp only
  repeat' first | (simp +contextual (maxDischargeDepth := 40) [hk]; done) | split | intro _

@[simp ↓] theorem Lane.recScanned_on {n : Nat} {kept : List (Nat × RecSlot × Bytes)} {top : Option Word} (hk : LaneOn s0 L) :
    LaneOn s0 (L.recScanned n kept top) := by
  unfold Lane.recScanned
  have h1 : LaneOn s0 (((L.setFld (aRec 0) 17 15 (min n 0x7FFF)).setFlag (aRec 0) 2 false).setFlag (aRec 0) 1 true) :=
    Lane.setFlag_on (Lane.setFlag_on (Lane.setFld_on hk))
  cases top with
  | none => exact ⟨h1.1, h1.2.1, h1.2.2.1, h1.2.2.2⟩
  | some w =>
    have h2 := Lane.put_on h1 (a := aRec 0xC) (w := w + 1)
    exact ⟨h2.1, h2.2.1, h2.2.2.1, h2.2.2.2⟩

@[simp ↓] theorem State.recScan_on {l : LaneId} (hk : Keeps s0 s) : Keeps s0 (s.recScan l) := by
  unfold State.recScan
  exact State.upd_on hk fun L hL => Lane.recScanned_on hL

theorem execRecScanEnd_on {lane : LaneId} {s : State} (hk : Keeps s0 s) : OutOn s0 (execRecScanEnd lane s) := by
  unfold execRecScanEnd
  simp +contextual (maxDischargeDepth := 40) [hk]

@[simp ↓] theorem State.recEnter_on {s : State} {l : LaneId} (hk : Keeps s0 s) : Keeps s0 (State.recEnter s l) := by
  unfold State.recEnter
  simp +contextual (maxDischargeDepth := 40) [hk]

@[simp ↓] theorem Lane.recLeave_on {L : Lane} (hk : LaneOn s0 L) : LaneOn s0 (Lane.recLeave L) := by
  unfold Lane.recLeave
  simp +contextual (maxDischargeDepth := 40) [hk]

@[simp ↓] theorem State.recClear_on {s : State} {l : LaneId} {key : Half} (hk : Keeps s0 s) : Keeps s0 (State.recClear s l key) := by
  unfold State.recClear
  simp +contextual (maxDischargeDepth := 40) [hk]

theorem execRecClear_on {src : Src} {key : Half} {s : State} (hk : Keeps s0 s) : OutOn s0 (execRecClear src key s) := by
  unfold execRecClear
  simp +contextual (maxDischargeDepth := 40) [hk]

@[simp ↓] theorem State.recClrCnt_on {s : State} {l : LaneId} {key : Half} (hk : Keeps s0 s) : Keeps s0 (State.recClrCnt s l key) := by
  unfold State.recClrCnt
  simp +contextual (maxDischargeDepth := 40) [hk]

theorem execRecClrCnt_on {src : Src} {key : Half} {s : State} (hk : Keeps s0 s) : OutOn s0 (execRecClrCnt src key s) := by
  unfold execRecClrCnt
  simp +contextual (maxDischargeDepth := 40) [hk]

@[simp ↓] theorem Lane.recLoad_on {L : Lane} (hk : LaneOn s0 L) : LaneOn s0 (Lane.recLoad L) := by
  unfold Lane.recLoad
  simp +contextual (maxDischargeDepth := 40) [hk]

end Sys2Proof.Machine
end

