-- ==== Sys2Proof/Laws/KeepsTb.lean ====
section
/-! SUPPORT. Laws/KeepsTb.lean: everything in Machine/Tb.lean keeps what every command keeps (the time base). -/
namespace Sys2Proof.Machine

variable {s0 s t : State} {L : Lane}

@[simp ↓] theorem State.tbLoRead_on {s : State} {l : LaneId} {req : Requester} (hk : Keeps s0 s) : Keeps s0 (State.tbLoRead s l req) := by
  unfold State.tbLoRead
  simp +contextual (maxDischargeDepth := 40) [hk]

theorem execTbNowLoRead_on {src : Src} {s : State} (hk : Keeps s0 s) : OutOn s0 (execTbNowLoRead src s) := by
  unfold execTbNowLoRead
  simp +contextual (maxDischargeDepth := 40) [hk]

@[simp ↓] theorem State.tbHiRead_on {s : State} {l : LaneId} {req : Requester} (hk : Keeps s0 s) : Keeps s0 (State.tbHiRead s l req) := by
  unfold State.tbHiRead
  simp +contextual (maxDischargeDepth := 40) [hk]

theorem execTbNowHiRead_on {src : Src} {s : State} (hk : Keeps s0 s) : OutOn s0 (execTbNowHiRead src s) := by
  unfold execTbNowHiRead
  simp +contextual (maxDischargeDepth := 40) [hk]

theorem execTbWrap_on {s : State} (hk : Keeps s0 s) : OutOn s0 (execTbWrap s) := by
  unfold execTbWrap
  simp +contextual (maxDischargeDepth := 40) [hk]

@[simp ↓] theorem State.rateWrite_on {s : State} {l : LaneId} {data : Word} (hk : Keeps s0 s) : Keeps s0 (State.rateWrite s l data) := by
  unfold State.rateWrite
  simp +contextual (maxDischargeDepth := 40) [hk]

theorem execTbRateWrite_on {src : Src} {data : Word} {s : State} (hk : Keeps s0 s) : OutOn s0 (execTbRateWrite src data s) := by
  unfold execTbRateWrite
  simp +contextual (maxDischargeDepth := 40) [hk]

@[simp ↓] theorem State.tbStepCmd_on {s : State} {src : Src} {key : Half} (hk : Keeps s0 s) : Keeps s0 (State.tbStepCmd s src key) := by
  unfold State.tbStepCmd
  simp +contextual (maxDischargeDepth := 40) [hk]

theorem execTbStep_on {src : Src} {key : Half} {s : State} (hk : Keeps s0 s) : OutOn s0 (execTbStep src key s) := by
  unfold execTbStep
  simp +contextual (maxDischargeDepth := 40) [hk]

@[simp ↓] theorem Lane.stepShift_on {L : Lane} {v : Int} (hk : LaneOn s0 L) : LaneOn s0 (Lane.stepShift L v) := by
  unfold Lane.stepShift
  simp +contextual (maxDischargeDepth := 40) [hk]

theorem execTbStepApply_on {s : State} (hk : Keeps s0 s) : OutOn s0 (execTbStepApply s) := by
  unfold execTbStepApply
  repeat' first | (simp +contextual (maxDischargeDepth := 40) [hk]; done) | split | intro _

theorem execPpsOut_on {s : State} (hk : Keeps s0 s) : OutOn s0 (execPpsOut s) := by
  unfold execPpsOut
  simp +contextual (maxDischargeDepth := 40) [hk]

theorem execPpsInEdge_on {falling : Bool} {s : State} (hk : Keeps s0 s) : OutOn s0 (execPpsInEdge falling s) := by
  unfold execPpsInEdge
  simp +contextual (maxDischargeDepth := 40) [hk]

theorem execRef10CountEnd_on {count : BitVec 24} {s : State} (hk : Keeps s0 s) : OutOn s0 (execRef10CountEnd count s) := by
  unfold execRef10CountEnd
  simp +contextual (maxDischargeDepth := 40) [hk]

@[simp ↓] theorem State.ptpDrop_on {s : State} {l : LaneId} (hk : Keeps s0 s) : Keeps s0 (State.ptpDrop s l) := by
  unfold State.ptpDrop
  simp +contextual (maxDischargeDepth := 40) [hk]

@[simp ↓] theorem State.ptpEnter_on {s : State} {l : LaneId} {entry : Bytes} (hk : Keeps s0 s) : Keeps s0 (State.ptpEnter s l entry) := by
  unfold State.ptpEnter
  simp +contextual (maxDischargeDepth := 40) [hk]

theorem execPtpRx_on {port : Fin 3} {transport : Fin 3} {vlan : Bool} {mac : Bytes} {ip : Bytes} {msg : Bytes} {s : State} (hk : Keeps s0 s) : OutOn s0 (execPtpRx port transport vlan mac ip msg s) := by
  unfold execPtpRx
  simp +contextual (maxDischargeDepth := 40) [hk]

@[simp ↓] theorem State.ptpPop_on {s : State} {l : LaneId} (hk : Keeps s0 s) : Keeps s0 (State.ptpPop s l) := by
  unfold State.ptpPop
  simp +contextual (maxDischargeDepth := 40) [hk]

theorem execPtpRxPop_on {src : Src} {s : State} (hk : Keeps s0 s) : OutOn s0 (execPtpRxPop src s) := by
  unfold execPtpRxPop
  simp +contextual (maxDischargeDepth := 40) [hk]

@[simp ↓] theorem State.ptpSend_on {s : State} {l : LaneId} {key : Half} {tag : Byte} {oneStep : Bool} (hk : Keeps s0 s) : Keeps s0 (State.ptpSend s l key tag oneStep) := by
  unfold State.ptpSend
  simp +contextual (maxDischargeDepth := 40) [hk]

theorem execPtpSend_on {src : Src} {key : Half} {tag : Byte} {oneStep : Bool} {s : State} (hk : Keeps s0 s) : OutOn s0 (execPtpSend src key tag oneStep s) := by
  unfold execPtpSend
  simp +contextual (maxDischargeDepth := 40) [hk]

@[simp ↓] theorem State.ptpDone_on {s : State} {status : Nat} {depart : Word} (hk : Keeps s0 s) : Keeps s0 (State.ptpDone s status depart) := by
  unfold State.ptpDone
  try dsimp only
  repeat' first | assumption | (simp +contextual (maxDischargeDepth := 40) [hk]; done) | with_reducible refine out_next ?_ | with_reducible refine out_ite ?_ ?_ | with_reducible refine keeps_ite ?_ ?_ | with_reducible refine laneOn_ite ?_ ?_ | with_reducible refine State.upd_on ?_ ?_ | with_reducible refine keeps_foldl ?_ ?_ | with_reducible refine laneOn_foldl ?_ ?_ | with_reducible refine State.each_on ?_ ?_ | with_reducible refine State.perLane_on ?_ ?_ | with_reducible refine State.ok_on ?_ | with_reducible refine State.raise_on ?_ | with_reducible refine State.raiseUp_on ?_ | with_reducible refine State.rtCall_on ?_ ?_ | split | intro _ | (simp +contextual (maxDischargeDepth := 40) [*]; done)

theorem execPtpTxDepart_on {linkUp : Bool} {s : State} (hk : Keeps s0 s) : OutOn s0 (execPtpTxDepart linkUp s) := by
  unfold execPtpTxDepart
  dsimp only
  repeat' first | (simp +contextual (maxDischargeDepth := 40) [hk]; done) | split | intro _

theorem execPtpTxLate_on {s : State} (hk : Keeps s0 s) : OutOn s0 (execPtpTxLate s) := by
  unfold execPtpTxLate
  repeat' first | (simp +contextual (maxDischargeDepth := 40) [hk]; done) | split | intro _

@[simp ↓] theorem State.ptpTxsPop_on {s : State} {l : LaneId} (hk : Keeps s0 s) : Keeps s0 (State.ptpTxsPop s l) := by
  unfold State.ptpTxsPop
  simp +contextual (maxDischargeDepth := 40) [hk]

theorem execPtpTxsPop_on {src : Src} {s : State} (hk : Keeps s0 s) : OutOn s0 (execPtpTxsPop src s) := by
  unfold execPtpTxsPop
  simp +contextual (maxDischargeDepth := 40) [hk]

@[simp ↓] theorem State.ptpEnd_on {s : State} {l : LaneId} (hk : Keeps s0 s) : Keeps s0 (State.ptpEnd s l) := by
  unfold State.ptpEnd
  simp +contextual (maxDischargeDepth := 40) [hk]

@[simp ↓] theorem State.rtcSettle_on {s : State} (hk : Keeps s0 s) : Keeps s0 (State.rtcSettle s) := by
  unfold State.rtcSettle
  simp +contextual (maxDischargeDepth := 40) [hk]

@[simp ↓] theorem Keeper.setBits_on {k : Keeper} {a : Nat} {i : Nat} {v : Bool} (hkk : KeeperOn s0 k) : KeeperOn s0 (Keeper.setBits k a i v) := by
  unfold Keeper.setBits
  simp +contextual (maxDischargeDepth := 40) [hkk]

@[simp ↓] theorem State.keep_on {s : State} {f : Keeper → Keeper} (hk : Keeps s0 s) (hkf : ∀ x, KeeperOn s0 x → KeeperOn s0 (f x)) : Keeps s0 (State.keep s f) := by
  unfold State.keep
  simp +contextual (maxDischargeDepth := 40) [hk, hkf]

@[simp ↓] theorem State.rtcRead_on {s : State} {l : LaneId} {r : Nat} (hk : Keeps s0 s) : Keeps s0 (State.rtcRead s l r) := by
  unfold State.rtcRead
  simp +contextual (maxDischargeDepth := 40) [hk]

theorem execRtcTimeRead_on {src : Src} {reg : Fin 7} {s : State} (hk : Keeps s0 s) : OutOn s0 (execRtcTimeRead src reg s) := by
  unfold execRtcTimeRead
  simp +contextual (maxDischargeDepth := 40) [hk]

theorem execRtcFreezeTimeout_on {lane : LaneId} {s : State} (hk : Keeps s0 s) : OutOn s0 (execRtcFreezeTimeout lane s) := by
  unfold execRtcFreezeTimeout
  repeat' first | (simp +contextual (maxDischargeDepth := 40) [hk]; done) | split | intro _

@[simp ↓] theorem State.rtcGo_on {s : State} {key : Half} (hk : Keeps s0 s) : Keeps s0 (State.rtcGo s key) := by
  unfold State.rtcGo
  simp +contextual (maxDischargeDepth := 40) [hk]

theorem execRtcGo_on {src : Src} {key : Half} {s : State} (hk : Keeps s0 s) : OutOn s0 (execRtcGo src key s) := by
  unfold execRtcGo
  simp +contextual (maxDischargeDepth := 40) [hk]

@[simp ↓] theorem Keeper.almPassed_on {k : Keeper} {t : Nat} (hkk : KeeperOn s0 k) : KeeperOn s0 (Keeper.almPassed k t) := by
  unfold Keeper.almPassed
  repeat' first | (simp +contextual (maxDischargeDepth := 40) [hkk]; done) | split | intro _

@[simp ↓] theorem State.almFire_on {s : State} {i : Nat} {skipped : Nat} (hk : Keeps s0 s) : Keeps s0 (State.almFire s i skipped) := by
  unfold State.almFire
  repeat' first | (simp +contextual (maxDischargeDepth := 40) [hk]; done) | split | intro _

@[simp ↓] theorem State.almReached_on {s : State} (hk : Keeps s0 s) : Keeps s0 (State.almReached s) := by
  unfold State.almReached
  simp +contextual (maxDischargeDepth := 40) [hk]

@[simp ↓] theorem State.almAdjust_on {s : State} {t0 : Nat} {t1 : Nat} {sub0 : Nat} {sub1 : Nat} (hk : Keeps s0 s) : Keeps s0 (State.almAdjust s t0 t1 sub0 sub1) := by
  unfold State.almAdjust
  simp +contextual (maxDischargeDepth := 40) [hk]

theorem execRtcSetApply_on {s : State} (hk : Keeps s0 s) : OutOn s0 (execRtcSetApply s) := by
  unfold execRtcSetApply
  repeat' first | (simp +contextual (maxDischargeDepth := 40) [hk]; done) | split | intro _

theorem execRtcOscStop_on {s : State} (hk : Keeps s0 s) : OutOn s0 (execRtcOscStop s) := by
  unfold execRtcOscStop
  simp +contextual (maxDischargeDepth := 40) [hk]

theorem execRtcSecond_on {s : State} (hk : Keeps s0 s) : OutOn s0 (execRtcSecond s) := by
  unfold execRtcSecond
  simp +contextual (maxDischargeDepth := 40) [hk]

theorem execRtcWake_on {s : State} (hk : Keeps s0 s) : OutOn s0 (execRtcWake s) := by
  unfold execRtcWake
  repeat' first | (simp +contextual (maxDischargeDepth := 40) [hk]; done) | split | intro _

@[simp ↓] theorem State.rtcWakeSet_on {s : State} {n : Word} (hk : Keeps s0 s) : Keeps s0 (State.rtcWakeSet s n) := by
  unfold State.rtcWakeSet
  simp +contextual (maxDischargeDepth := 40) [hk]

theorem execRtcWakeWrite_on {src : Src} {n : Word} {s : State} (hk : Keeps s0 s) : OutOn s0 (execRtcWakeWrite src n s) := by
  unfold execRtcWakeWrite
  simp +contextual (maxDischargeDepth := 40) [hk]

@[simp ↓] theorem State.rtcBoot_on {s : State} (hk : Keeps s0 s) : Keeps s0 (State.rtcBoot s) := by
  unfold State.rtcBoot
  simp +contextual (maxDischargeDepth := 40) [hk]

end Sys2Proof.Machine
end

