-- ==== Sys2Proof/Laws/KeepsKey.lean ====
section
/-! SUPPORT. Laws/KeepsKey.lean: everything in Machine/Key.lean keeps what every command keeps (keys). -/
namespace Sys2Proof.Machine

variable {s0 s t : State} {L : Lane}

theorem State.keep_at (h : Keeps s0 s) {f : Keeper → Keeper} (hf : KeeperOn s0 (f s.keeper)) : Keeps s0 (s.keep f) :=
  ⟨h.queue, h.time, h.laneA, h.laneB, h.chest, hf, h.flash⟩

@[simp ↓] theorem Lane.keyUpd_on {L : Lane} {f : KeyUnit → KeyUnit} (hk : LaneOn s0 L) : LaneOn s0 (Lane.keyUpd L f) := by
  unfold Lane.keyUpd
  simp +contextual (maxDischargeDepth := 40) [hk]

@[simp ↓] theorem State.hcEnd_on {s : State} {l : LaneId} (hk : Keeps s0 s) : Keeps s0 (State.hcEnd s l) := by
  unfold State.hcEnd
  simp +contextual (maxDischargeDepth := 40) [hk]

@[simp ↓] theorem State.hcEndSlot_on {s : State} {l : LaneId} {slot : Fin 32} (hk : Keeps s0 s) : Keeps s0 (State.hcEndSlot s l slot) := by
  unfold State.hcEndSlot
  repeat' first | (simp +contextual (maxDischargeDepth := 40) [hk]; done) | split | intro _

@[simp ↓] theorem State.keyRefs_on {s : State} {l : LaneId} (hk : Keeps s0 s) : Keeps s0 (State.keyRefs s l) := by
  unfold State.keyRefs
  simp +contextual (maxDischargeDepth := 40) [hk]

@[simp ↓] theorem State.keyApply_on {s : State} {l : LaneId} {c : KeyCmd} (hk : Keeps s0 s) : Keeps s0 (State.keyApply s l c) := by
  unfold State.keyApply
  simp +contextual (maxDischargeDepth := 40) [hk]

@[simp ↓] theorem State.keyRefuse_on {s : State} {l : LaneId} {code : Nat} (hk : Keeps s0 s) : Keeps s0 (State.keyRefuse s l code) := by
  unfold State.keyRefuse
  simp +contextual (maxDischargeDepth := 40) [hk]

@[simp ↓] theorem State.attRefuse_on {s : State} {l : LaneId} {code : Nat} (hk : Keeps s0 s) : Keeps s0 (State.attRefuse s l code) := by
  unfold State.attRefuse
  simp +contextual (maxDischargeDepth := 40) [hk]

@[simp ↓] theorem State.keyCmd_on {s : State} {l : LaneId} {req : Requester} {key : Half} {f : State → State} (hk : Keeps s0 s) (hkf : ∀ s, Keeps s0 s → Keeps s0 (f s)) : Keeps s0 (State.keyCmd s l req key f) := by
  unfold State.keyCmd
  simp +contextual (maxDischargeDepth := 40) [hk, hkf]

@[simp ↓] theorem State.keyAccept_on {s : State} {l : LaneId} {req : Requester} {op : Nat} {slot : Fin 32} {value : Big} {attr : Half} (hk : Keeps s0 s) : Keeps s0 (State.keyAccept s l req op slot value attr) := by
  unfold State.keyAccept
  simp +contextual (maxDischargeDepth := 40) [hk]

@[simp ↓] theorem Lane.keyWipe_on {L : Lane} (hk : LaneOn s0 L) : LaneOn s0 (Lane.keyWipe L) := by
  unfold Lane.keyWipe
  simp +contextual (maxDischargeDepth := 40) [hk]

@[simp ↓] theorem State.keyWrite_on {s : State} {l : LaneId} {req : Requester} {key : Half} {slot : Fin 32} (hk : Keeps s0 s) : Keeps s0 (State.keyWrite s l req key slot) := by
  unfold State.keyWrite
  simp +contextual (maxDischargeDepth := 40) [hk]

theorem execKeyWrite_on {src : Src} {key : Half} {slot : Fin 32} {s : State} (hk : Keeps s0 s) : OutOn s0 (execKeyWrite src key slot s) := by
  unfold execKeyWrite
  simp +contextual (maxDischargeDepth := 40) [hk]

@[simp ↓] theorem State.keyErase_on {s : State} {l : LaneId} {req : Requester} {key : Half} {slot : Fin 32} (hk : Keeps s0 s) : Keeps s0 (State.keyErase s l req key slot) := by
  unfold State.keyErase
  simp +contextual (maxDischargeDepth := 40) [hk]

theorem execKeyErase_on {src : Src} {key : Half} {slot : Fin 32} {s : State} (hk : Keeps s0 s) : OutOn s0 (execKeyErase src key slot s) := by
  unfold execKeyErase
  simp +contextual (maxDischargeDepth := 40) [hk]

@[simp ↓] theorem State.keyDerive_on {s : State} {l : LaneId} {req : Requester} {key : Half} {slot : Fin 32} (hk : Keeps s0 s) : Keeps s0 (State.keyDerive s l req key slot) := by
  unfold State.keyDerive
  simp +contextual (maxDischargeDepth := 40) [hk]

theorem execKeyDerive_on {src : Src} {key : Half} {slot : Fin 32} {s : State} (hk : Keeps s0 s) : OutOn s0 (execKeyDerive src key slot s) := by
  unfold execKeyDerive
  simp +contextual (maxDischargeDepth := 40) [hk]

theorem execKeyCmdDone_on {lane : LaneId} {s : State} (hk : Keeps s0 s) : OutOn s0 (execKeyCmdDone lane s) := by
  unfold execKeyCmdDone
  repeat' first | (simp +contextual (maxDischargeDepth := 40) [hk]; done) | split | intro _

theorem execKeyForwardedOp_on {lane : LaneId} {s : State} (hk : Keeps s0 s) : OutOn s0 (execKeyForwardedOp lane s) := by
  unfold execKeyForwardedOp
  repeat' first | (simp +contextual (maxDischargeDepth := 40) [hk]; done) | split | intro _

@[simp ↓] theorem State.keyBad_on {s : State} {l : LaneId} {slot : Fin 32} (hk : Keeps s0 s) : Keeps s0 (State.keyBad s l slot) := by
  unfold State.keyBad
  simp +contextual (maxDischargeDepth := 40) [hk]

theorem execKeyScrub_on {lane : LaneId} {slot : Fin 32} {tagOk : Bool} {s : State} (hk : Keeps s0 s) : OutOn s0 (execKeyScrub lane slot tagOk s) := by
  unfold execKeyScrub
  simp +contextual (maxDischargeDepth := 40) [hk]

@[simp ↓] theorem State.keyReconcile_on {s : State} (hk : Keeps s0 s) : Keeps s0 (State.keyReconcile s) := by
  unfold State.keyReconcile
  simp +contextual (maxDischargeDepth := 40) [hk]

@[simp ↓] theorem Lane.seedWipe_on {L : Lane} (hk : LaneOn s0 L) : LaneOn s0 (Lane.seedWipe L) := by
  unfold Lane.seedWipe
  simp +contextual (maxDischargeDepth := 40) [hk]

@[simp ↓] theorem State.seedSet_on {s : State} {src : Src} {key : Half} (hk : Keeps s0 s) : Keeps s0 (State.seedSet s src key) := by
  unfold State.seedSet
  simp +contextual (maxDischargeDepth := 40) [hk]

theorem execSeedSet_on {src : Src} {key : Half} {s : State} (hk : Keeps s0 s) : OutOn s0 (execSeedSet src key s) := by
  unfold execSeedSet
  simp +contextual (maxDischargeDepth := 40) [hk]

@[simp ↓] theorem State.identity_on {s : State} {l : LaneId} (hk : Keeps s0 s) : Keeps s0 (State.identity s l) := by
  unfold State.identity
  repeat' first | (simp +contextual (maxDischargeDepth := 40) [hk]; done) | split | intro _

theorem execKeygenDone_on {lane : LaneId} {s : State} (hk : Keeps s0 s) : OutOn s0 (execKeygenDone lane s) := by
  unfold execKeygenDone
  simp +contextual (maxDischargeDepth := 40) [hk]

theorem State.otpCmd_on {s : State} {src : Src} {key : Half} {ok : Bool} {revoke : Bool} {k : Fin 4} (hk : Keeps s0 s)
    (hp : revoke = false → ok = true → s.keeper.anchors[k].programmed = false) : Keeps s0 (State.otpCmd s src key ok revoke k) := by
  unfold State.otpCmd
  refine keeps_ite (State.busErr_on hk) (keeps_ite (State.ok_on hk) ?_)
  by_cases hok : (!ok || s.keeper.burn.isSome) = true
  · rw [if_pos hok]
    exact State.indFail_on (State.keep_on hk fun K hK => Keeper.setFld_on hK)
  · rw [if_neg hok]
    refine State.ok_on ?_
    refine State.keep_at hk (Keeper.setFld_on (k := { s.keeper with burn := some (revoke, k) }) ⟨hk.keeper.1, fun hb => ⟨fun a e => ?_, (hk.keeper.2 hb).2⟩⟩)
    simp only [Bool.or_eq_true, Bool.not_eq_true', not_or, Bool.not_eq_false] at hok
    cases e
    exact hp rfl hok.1

theorem execAnchorProgram_on {src : Src} {key : Half} {anchor : Fin 4} {s : State} (hk : Keeps s0 s) : OutOn s0 (execAnchorProgram src key anchor s) := by
  unfold execAnchorProgram
  refine out_next (State.otpCmd_on hk fun _ h => ?_)
  simpa [State.anchor] using And.right (Bool.and_eq_true_iff.mp h)

theorem execAnchorRevoke_on {src : Src} {key : Half} {anchor : Fin 4} {s : State} (hk : Keeps s0 s) : OutOn s0 (execAnchorRevoke src key anchor s) := by
  unfold execAnchorRevoke
  exact out_next (State.otpCmd_on hk nofun)

theorem execAnchorBurnDone_on {s : State} (hk : Keeps s0 s) : OutOn s0 (execAnchorBurnDone s) := by
  unfold execAnchorBurnDone
  split
  · exact out_next hk
  · rename_i revoke k hb
    refine out_next (State.raiseUp_on ?_)
    refine State.keep_at hk ?_
    dsimp only
    refine Keeper.put_on ?_
    refine ⟨hk.keeper.1, fun hw => ⟨fun b e => ?_, fun a => ?_⟩⟩
    · cases e
    have h1 := (hk.keeper.2 hw).1
    have h2 := (hk.keeper.2 hw).2 a
    by_cases e : k = a
    · subst e
      cases revoke
      · have hp := h1 k hb
        refine ⟨fun p => ?_, fun p => ?_⟩
        · have := (h2.1 p).1
          rw [hp] at this
          cases this
        · simpa [State.keep, Keeper.put] using h2.2 p
      · refine ⟨fun p => ?_, fun p => ?_⟩
        · simpa [State.keep, Keeper.put] using h2.1 p
        · simp [State.keep, Keeper.put]
    · have e' : (k : Nat) ≠ a := fun c => e (Fin.ext c)
      simpa [State.keep, Keeper.put, Vector.getElem_set, e'] using h2

@[simp ↓] theorem State.attStart_on {s : State} {l : LaneId} {nonce : Big} {hc : Bool} (hk : Keeps s0 s) : Keeps s0 (State.attStart s l nonce hc) := by
  unfold State.attStart
  simp +contextual (maxDischargeDepth := 40) [hk]

@[simp ↓] theorem State.attest_on {s : State} {l : LaneId} {req : Requester} {key : Half} {nonce : Option Big} (hk : Keeps s0 s) : Keeps s0 (State.attest s l req key nonce) := by
  unfold State.attest
  simp +contextual (maxDischargeDepth := 40) [hk]

theorem execAttest_on {src : Src} {key : Half} {s : State} (hk : Keeps s0 s) : OutOn s0 (execAttest src key s) := by
  unfold execAttest
  simp +contextual (maxDischargeDepth := 40) [hk]

theorem execAttestDone_on {lane : LaneId} {s : State} (hk : Keeps s0 s) : OutOn s0 (execAttestDone lane s) := by
  unfold execAttestDone
  simp +contextual (maxDischargeDepth := 40) [hk]

@[simp ↓] theorem Lane.attAbort_on {L : Lane} (hk : LaneOn s0 L) : LaneOn s0 (Lane.attAbort L) := by
  unfold Lane.attAbort
  simp +contextual (maxDischargeDepth := 40) [hk]

@[simp ↓] theorem Lane.attTaken_on {L : Lane} (hk : LaneOn s0 L) : LaneOn s0 (Lane.attTaken L) := by
  unfold Lane.attTaken
  simp +contextual (maxDischargeDepth := 40) [hk]

@[simp ↓] theorem Lane.attDrop_on {L : Lane} (hk : LaneOn s0 L) : LaneOn s0 (Lane.attDrop L) := by
  unfold Lane.attDrop
  simp +contextual (maxDischargeDepth := 40) [hk]

@[simp ↓] theorem Lane.keyMode_on {L : Lane} {from_ : Mode} {to_ : Mode} (hk : LaneOn s0 L) : LaneOn s0 (Lane.keyMode L from_ to_) := by
  unfold Lane.keyMode
  simp +contextual (maxDischargeDepth := 40) [hk]

@[simp ↓] theorem Lane.keyStage_on {L : Lane} {a : Nat} {v : Word} (hk : LaneOn s0 L) : LaneOn s0 (Lane.keyStage L a v) := by
  unfold Lane.keyStage
  simp +contextual (maxDischargeDepth := 40) [hk]

end Sys2Proof.Machine
end

