-- ==== Sys2Proof/Laws/KeepsBen.lean ====
section
/-! SUPPORT. Laws/KeepsBen.lean: everything in Machine/Ben.lean keeps what every command keeps (the bench). -/
namespace Sys2Proof.Machine

variable {s0 s t : State} {L : Lane}

@[simp ↓] theorem Lane.ringUpd_on {L : Lane} {r : Fin 2} {f : BenRing → BenRing} (hk : LaneOn s0 L) : LaneOn s0 (Lane.ringUpd L r f) := by
  unfold Lane.ringUpd
  simp +contextual (maxDischargeDepth := 40) [hk]

@[simp ↓] theorem Lane.benShow_on {L : Lane} (hk : LaneOn s0 L) : LaneOn s0 (Lane.benShow L) := by
  unfold Lane.benShow
  repeat' first | (simp +contextual (maxDischargeDepth := 40) [hk]; done) | split | intro _

@[simp ↓] theorem Lane.gotClear_on {L : Lane} {r : Fin 2} (hk : LaneOn s0 L) : LaneOn s0 (Lane.gotClear L r) := by
  unfold Lane.gotClear
  simp +contextual (maxDischargeDepth := 40) [hk]

@[simp ↓] theorem Lane.ringRestart_on {L : Lane} {r : Fin 2} {now : Nat} (hk : LaneOn s0 L) : LaneOn s0 (Lane.ringRestart L r now) := by
  unfold Lane.ringRestart
  simp +contextual (maxDischargeDepth := 40) [hk]

@[simp ↓] theorem State.benResv_on {s : State} {l : LaneId} {req : Requester} {r : Fin 2} (hk : Keeps s0 s) : Keeps s0 (State.benResv s l req r) := by
  unfold State.benResv
  simp +contextual (maxDischargeDepth := 40) [hk]

theorem execBenResv_on {src : Src} {ring : Fin 2} {s : State} (hk : Keeps s0 s) : OutOn s0 (execBenResv src ring s) := by
  unfold execBenResv
  simp +contextual (maxDischargeDepth := 40) [hk]

@[simp ↓] theorem State.benPost_on {s : State} {l : LaneId} {req : Requester} {r : Fin 2} {data : Word} (hk : Keeps s0 s) : Keeps s0 (State.benPost s l req r data) := by
  unfold State.benPost
  simp +contextual (maxDischargeDepth := 40) [hk]

theorem execBenPost_on {src : Src} {ring : Fin 2} {data : Word} {s : State} (hk : Keeps s0 s) : OutOn s0 (execBenPost src ring data s) := by
  unfold execBenPost
  simp +contextual (maxDischargeDepth := 40) [hk]

@[simp ↓] theorem State.benRingWrite_on {s : State} {l : LaneId} {a : Nat} {data : Word} (hk : Keeps s0 s) : Keeps s0 (State.benRingWrite s l a data) := by
  unfold State.benRingWrite
  simp +contextual (maxDischargeDepth := 40) [hk]

theorem execBenRingConfigWrite_on {src : Src} {addr : Word} {data : Word} {s : State} (hk : Keeps s0 s) : OutOn s0 (execBenRingConfigWrite src addr data s) := by
  unfold execBenRingConfigWrite
  simp +contextual (maxDischargeDepth := 40) [hk]

@[simp ↓] theorem Lane.waitUpd_on {L : Lane} {ring : Nat} {seq : Nat} {f : BenWait → BenWait} (hk : LaneOn s0 L) : LaneOn s0 (Lane.waitUpd L ring seq f) := by
  unfold Lane.waitUpd
  simp +contextual (maxDischargeDepth := 40) [hk]

@[simp ↓] theorem State.ringHalt_on {s : State} {l : LaneId} {r : Fin 2} (hk : Keeps s0 s) : Keeps s0 (State.ringHalt s l r) := by
  unfold State.ringHalt
  simp +contextual (maxDischargeDepth := 40) [hk]

@[simp ↓] theorem State.benFlush_on {io : RegIO} {l : LaneId} {r : Fin 2} {n : Nat} (hio : KeepsIO io) (hk : Keeps s0 s) : Keeps s0 (@State.benFlush io s l r n) := by
  induction n generalizing s with
  | zero => exact hk
  | succ n ih =>
    unfold State.benFlush
    extract_lets L q
    clear_value L q
    split
    · exact hk
    · rename_i w _
      split
      · exact hk
      · extract_lets entry
        clear_value entry
        have h1 : Keeps s0 (@State.winWriteGo io s l w.wins qBench 17 (L.getN (aRing r 8) + 16 * (q % L.ringLen r)) entry).1 := State.winWriteGo_on hio hk
        generalize @State.winWriteGo io s l w.wins qBench 17 (L.getN (aRing r 8) + 16 * (q % L.ringLen r)) entry = p at h1 ⊢
        obtain ⟨s1, _ | f⟩ := p
        · refine ih ?_
          simp +contextual (maxDischargeDepth := 40) [h1]
        · exact State.ringHalt_on (State.winHit_on h1)

@[simp ↓] theorem State.winPut_on {io : RegIO} {l : LaneId} {held : Option (List (Nat × Word))} {q a : Nat} {bs : Bytes} (hio : KeepsIO io)
    (hk : Keeps s0 s) : Keeps s0 (@State.winPut io s l held q a bs).1 := by
  unfold State.winPut
  have h1 : Keeps s0 (@State.winWriteGo io s l held q (bs.length + 1) a bs).1 := State.winWriteGo_on hio hk
  generalize @State.winWriteGo io s l held q (bs.length + 1) a bs = p at h1 ⊢
  obtain ⟨s1, _ | f⟩ := p
  · exact h1
  · exact State.winHit_on h1

@[simp ↓] theorem State.benAgree_on {io : RegIO} {l : LaneId} {w : BenWait} {peer : Option BenPeer} {suspect : Bool} (hio : KeepsIO io) (hk : Keeps s0 s) :
    Keeps s0 (@State.benAgree io s l w peer suspect) := by
  unfold State.benAgree
  extract_lets st differ scen fed fl tb s1 s2 s3 recs q
  have h1 : Keeps s0 s1 := by
    refine State.upd_on hk fun L hL => ?_
    simp +contextual (maxDischargeDepth := 40) [hL]
  have h2 : Keeps s0 s2 := keeps_ite (State.raise_on h1) h1
  clear_value s2 fed
  have h3 : Keeps s0 s3 := by
    unfold s3
    split
    · simp +contextual (maxDischargeDepth := 40) [h2]
    · exact h2
  clear_value s3
  generalize h4 : (if w.failed = true then (s3, true) else _) = p4
  have hp4 : Keeps s0 p4.1 := by
    rw [← h4]
    refine keeps_ite_fst h3 (keeps_foldl_fst h3 fun p i hp => ?_)
    exact keeps_ite_fst hp (State.winPut_on hio hp)
  clear h4
  obtain ⟨s4, bad4⟩ := p4
  dsimp only at hp4 ⊢
  generalize h5 : (if (bad4 || w.header.isEmpty) = true then (s4, bad4) else _) = p5
  have hp5 : Keeps s0 p5.1 := by
    rw [← h5]
    exact keeps_ite_fst hp4 (State.winPut_on hio hp4)
  clear h5
  obtain ⟨s5, bad⟩ := p5
  dsimp only at hp5 ⊢
  simp +contextual (maxDischargeDepth := 40) [hp5, hio]

@[simp ↓] theorem State.benDecide_on {io : RegIO} {l : LaneId} {w : BenWait} {writes : List (Nat × Bytes)} (hio : KeepsIO io) (hk : Keeps s0 s) :
    Keeps s0 (@State.benDecide io s l w writes) := by
  unfold State.benDecide
  extract_lets o pair s1 q
  have h1 : Keeps s0 s1 := by
    unfold s1
    simp +contextual (maxDischargeDepth := 40) [hk]
  clear_value s1
  generalize h2 : writes.foldl _ (s1, false) = p
  have hp : Keeps s0 p.1 := by
    rw [← h2]
    refine keeps_foldl_fst h1 fun p x hp => ?_
    exact keeps_ite_fst hp (State.winPut_on hio hp)
  clear h2
  obtain ⟨s2, bad⟩ := p
  dsimp only at hp ⊢
  generalize hw : { w with failed := bad } = w'
  clear hw
  generalize h3' : s2.upd l _ = s3
  have h3 : Keeps s0 s3 := by
    rw [← h3']
    simp +contextual (maxDischargeDepth := 40) [hp]
  clear h3'
  refine keeps_ite (State.benAgree_on hio h3) ?_
  split
  · simp +contextual (maxDischargeDepth := 40) [h3, hio]
  · exact h3

@[simp ↓] theorem State.benPlain_on {io : RegIO} {s : State} {l : LaneId} {ring : Nat} {seq : Nat} {op : Nat} {tag : Nat} {own : Nat} {deadline : Option Nat} (hio : KeepsIO io) (hk : Keeps s0 s) : Keeps s0 (@State.benPlain io s l ring seq op tag own deadline) := by
  unfold State.benPlain
  simp +contextual (maxDischargeDepth := 40) [hio, hk]

@[simp ↓] theorem Lane.headGone_on {L : Lane} {r : Fin 2} {now : Nat} (hk : LaneOn s0 L) : LaneOn s0 (Lane.headGone L r now) := by
  unfold Lane.headGone
  simp +contextual (maxDischargeDepth := 40) [hk]

theorem rowResvTimeout_on {io : RegIO} {lane : LaneId} {ring : Fin 2} {s : State} (hio : KeepsIO io) (hk : Keeps s0 s) : OutOn s0 (@rowResvTimeout io lane ring s) := by
  unfold rowResvTimeout
  simp +contextual (maxDischargeDepth := 40) [hio, hk]

theorem rowBenchJobStart_on {io : RegIO} {lane : LaneId} {s : State} (hio : KeepsIO io) (hk : Keeps s0 s) : OutOn s0 (@rowBenchJobStart io lane s) := by
  unfold rowBenchJobStart
  try dsimp only
  repeat' first | assumption | (simp +contextual (maxDischargeDepth := 40) [hio, hk]; done) | with_reducible refine keeps_ite_fst ?_ ?_ | with_reducible refine out_next ?_ | with_reducible refine out_ite ?_ ?_ | with_reducible refine keeps_ite ?_ ?_ | with_reducible refine laneOn_ite ?_ ?_ | with_reducible refine State.upd_on ?_ ?_ | with_reducible refine keeps_foldl ?_ ?_ | with_reducible refine laneOn_foldl ?_ ?_ | with_reducible refine State.each_on ?_ ?_ | with_reducible refine State.perLane_on ?_ ?_ | with_reducible refine State.ok_on ?_ | with_reducible refine State.raise_on ?_ | with_reducible refine State.raiseUp_on ?_ | with_reducible refine State.rtCall_on ?_ ?_ | (split <;> try (rename_i e; replace e := keeps_of_eq (s0 := s0) e (by clear e; first | assumption | (simp +contextual (maxDischargeDepth := 40) [hio, hk]; done) | (simp +contextual (maxDischargeDepth := 40) [*]; done)))) | intro _ | (simp +contextual (maxDischargeDepth := 40) [*]; done)

@[simp ↓] theorem State.winReads_on {io : RegIO} {l : LaneId} {q : Nat} {xs : List (Nat × Nat)} (hio : KeepsIO io) (hk : Keeps s0 s) :
    Keeps s0 (@State.winReads io s l q xs).1 := by
  induction xs generalizing s with
  | nil => exact hk
  | cons x t ih =>
    obtain ⟨a, n⟩ := x
    unfold State.winReads
    have h1 : Keeps s0 (@State.winRead io s l q a n).1 := State.winRead_on hio hk
    generalize @State.winRead io s l q a n = p at h1 ⊢
    obtain ⟨s1, f | b⟩ := p
    · exact h1
    · have h2 : Keeps s0 (@State.winReads io s1 l q t).1 := ih h1
      dsimp only
      generalize @State.winReads io s1 l q t = p at h2 ⊢
      obtain ⟨s2, f | bs⟩ := p <;> exact h2

@[simp ↓] theorem State.runGeneral_on {io : RegIO} {s : State} {l : LaneId} {r : BenRun} {cap : Option Nat} {late : Bool} (hio : KeepsIO io) (hk : Keeps s0 s) : Keeps s0 (@State.runGeneral io s l r cap late).1 := by
  unfold State.runGeneral
  try dsimp only
  repeat' first | assumption | (simp +contextual (maxDischargeDepth := 40) [hio, hk]; done) | with_reducible refine keeps_ite_fst ?_ ?_ | with_reducible refine out_next ?_ | with_reducible refine out_ite ?_ ?_ | with_reducible refine keeps_ite ?_ ?_ | with_reducible refine laneOn_ite ?_ ?_ | with_reducible refine State.upd_on ?_ ?_ | with_reducible refine keeps_foldl ?_ ?_ | with_reducible refine laneOn_foldl ?_ ?_ | with_reducible refine State.each_on ?_ ?_ | with_reducible refine State.perLane_on ?_ ?_ | with_reducible refine State.ok_on ?_ | with_reducible refine State.raise_on ?_ | with_reducible refine State.raiseUp_on ?_ | with_reducible refine State.rtCall_on ?_ ?_ | (split <;> try (rename_i e; replace e := keeps_of_eq (s0 := s0) e (by clear e; first | assumption | (simp +contextual (maxDischargeDepth := 40) [hio, hk]; done) | (simp +contextual (maxDischargeDepth := 40) [*]; done)))) | intro _ | (simp +contextual (maxDischargeDepth := 40) [*]; done)

@[simp ↓] theorem State.scenSet_on {io : RegIO} {s : State} {l : LaneId} {n : Net} {a : Nat} (hio : KeepsIO io) (hk : Keeps s0 s) : Keeps s0 (@State.scenSet io s l n a).1 := by
  unfold State.scenSet
  try dsimp only
  repeat' first | assumption | (simp +contextual (maxDischargeDepth := 40) [hio, hk]; done) | with_reducible refine keeps_ite_fst ?_ ?_ | with_reducible refine out_next ?_ | with_reducible refine out_ite ?_ ?_ | with_reducible refine keeps_ite ?_ ?_ | with_reducible refine laneOn_ite ?_ ?_ | with_reducible refine State.upd_on ?_ ?_ | with_reducible refine keeps_foldl ?_ ?_ | with_reducible refine laneOn_foldl ?_ ?_ | with_reducible refine State.each_on ?_ ?_ | with_reducible refine State.perLane_on ?_ ?_ | with_reducible refine State.ok_on ?_ | with_reducible refine State.raise_on ?_ | with_reducible refine State.raiseUp_on ?_ | with_reducible refine State.rtCall_on ?_ ?_ | (split <;> try (rename_i e; replace e := keeps_of_eq (s0 := s0) e (by clear e; first | assumption | (simp +contextual (maxDischargeDepth := 40) [hio, hk]; done) | (simp +contextual (maxDischargeDepth := 40) [*]; done)))) | intro _ | (simp +contextual (maxDischargeDepth := 40) [*]; done)

@[simp ↓] theorem State.scenPut_on {io : RegIO} {s : State} {l : LaneId} {a : Nat} {o : ScenOut} (hio : KeepsIO io) (hk : Keeps s0 s) : Keeps s0 (@State.scenPut io s l a o).1 := by
  unfold State.scenPut
  try dsimp only
  repeat' first | assumption | (simp +contextual (maxDischargeDepth := 40) [hio, hk]; done) | with_reducible refine keeps_ite_fst ?_ ?_ | with_reducible refine out_next ?_ | with_reducible refine out_ite ?_ ?_ | with_reducible refine keeps_ite ?_ ?_ | with_reducible refine laneOn_ite ?_ ?_ | with_reducible refine State.upd_on ?_ ?_ | with_reducible refine keeps_foldl ?_ ?_ | with_reducible refine laneOn_foldl ?_ ?_ | with_reducible refine State.each_on ?_ ?_ | with_reducible refine State.perLane_on ?_ ?_ | with_reducible refine State.ok_on ?_ | with_reducible refine State.raise_on ?_ | with_reducible refine State.raiseUp_on ?_ | with_reducible refine State.rtCall_on ?_ ?_ | (split <;> try (rename_i e; replace e := keeps_of_eq (s0 := s0) e (by clear e; first | assumption | (simp +contextual (maxDischargeDepth := 40) [hio, hk]; done) | (simp +contextual (maxDischargeDepth := 40) [*]; done)))) | intro _ | (simp +contextual (maxDischargeDepth := 40) [*]; done)

@[simp ↓] theorem State.scenStep_on {io : RegIO} {s : State} {l : LaneId} {n : Net} {t : NetTune} {d : Bytes} {warm : Option Bytes} {j : Nat} {cap : Option Nat} (hio : KeepsIO io) (hk : Keeps s0 s) : Keeps s0 (@State.scenStep io s l n t d warm j cap).1 := by
  unfold State.scenStep
  try dsimp only
  repeat' first | assumption | (simp +contextual (maxDischargeDepth := 40) [hio, hk]; done) | with_reducible refine keeps_ite_fst ?_ ?_ | with_reducible refine out_next ?_ | with_reducible refine out_ite ?_ ?_ | with_reducible refine keeps_ite ?_ ?_ | with_reducible refine laneOn_ite ?_ ?_ | with_reducible refine State.upd_on ?_ ?_ | with_reducible refine keeps_foldl ?_ ?_ | with_reducible refine laneOn_foldl ?_ ?_ | with_reducible refine State.each_on ?_ ?_ | with_reducible refine State.perLane_on ?_ ?_ | with_reducible refine State.ok_on ?_ | with_reducible refine State.raise_on ?_ | with_reducible refine State.raiseUp_on ?_ | with_reducible refine State.rtCall_on ?_ ?_ | (split <;> try (rename_i e; replace e := keeps_of_eq (s0 := s0) e (by clear e; first | assumption | (simp +contextual (maxDischargeDepth := 40) [hio, hk]; done) | (simp +contextual (maxDischargeDepth := 40) [*]; done)))) | intro _ | (simp +contextual (maxDischargeDepth := 40) [*]; done)

@[simp ↓] theorem State.runScenarios_on {io : RegIO} {l : LaneId} {n : Net} {t : NetTune} {d : Bytes} {warm : Option Bytes} {k j : Nat} {cap : Option Nat}
    {acc : List ScenOut} (hio : KeepsIO io) (hk : Keeps s0 s) : Keeps s0 (@State.runScenarios io s l n t d warm k j cap acc).1 := by
  induction k generalizing s j cap acc with
  | zero => exact hk
  | succ k ih =>
    unfold State.runScenarios
    refine keeps_ite_fst hk ?_
    have h1 : Keeps s0 (@State.scenStep io s l n t d warm j (cap.map (· - 1))).1 := State.scenStep_on hio hk
    generalize @State.scenStep io s l n t d warm j (cap.map (· - 1)) = p at h1 ⊢
    obtain ⟨s1, _ | o⟩ := p
    · exact h1
    · exact keeps_ite_fst h1 (ih h1)

@[simp ↓] theorem State.runWarm_on {io : RegIO} {s : State} {l : LaneId} {r : BenRun} {n : Net} {cap : Option Nat} {late : Bool} {warmReq : Bool} {rb : Bytes} (hio : KeepsIO io) (hk : Keeps s0 s) : Keeps s0 (@State.runWarm io s l r n cap late warmReq rb).1 := by
  unfold State.runWarm
  simp +contextual (maxDischargeDepth := 40) [hio, hk]

@[simp ↓] theorem State.runNetwork_on {io : RegIO} {s : State} {l : LaneId} {r : BenRun} {cap : Option Nat} {late : Bool} (hio : KeepsIO io) (hk : Keeps s0 s) : Keeps s0 (@State.runNetwork io s l r cap late).1 := by
  unfold State.runNetwork
  try dsimp only
  repeat' first | assumption | (simp +contextual (maxDischargeDepth := 40) [hio, hk]; done) | with_reducible refine keeps_ite_fst ?_ ?_ | with_reducible refine out_next ?_ | with_reducible refine out_ite ?_ ?_ | with_reducible refine keeps_ite ?_ ?_ | with_reducible refine laneOn_ite ?_ ?_ | with_reducible refine State.upd_on ?_ ?_ | with_reducible refine keeps_foldl ?_ ?_ | with_reducible refine laneOn_foldl ?_ ?_ | with_reducible refine State.each_on ?_ ?_ | with_reducible refine State.perLane_on ?_ ?_ | with_reducible refine State.ok_on ?_ | with_reducible refine State.raise_on ?_ | with_reducible refine State.raiseUp_on ?_ | with_reducible refine State.rtCall_on ?_ ?_ | (split <;> try (rename_i e; replace e := keeps_of_eq (s0 := s0) e (by clear e; first | assumption | (simp +contextual (maxDischargeDepth := 40) [hio, hk]; done) | (simp +contextual (maxDischargeDepth := 40) [*]; done)))) | intro _ | (simp +contextual (maxDischargeDepth := 40) [*]; done)

@[simp ↓] theorem State.benEnd_on {io : RegIO} {s : State} {l : LaneId} {r : BenRun} {cap : Option Nat} {late : Bool} (hio : KeepsIO io) (hk : Keeps s0 s) : Keeps s0 (@State.benEnd io s l r cap late) := by
  unfold State.benEnd
  simp +contextual (maxDischargeDepth := 40) [hio, hk]

theorem rowBenchJobEnd_on {io : RegIO} {lane : LaneId} {s : State} (hio : KeepsIO io) (hk : Keeps s0 s) : OutOn s0 (@rowBenchJobEnd io lane s) := by
  unfold rowBenchJobEnd
  repeat' first | (simp +contextual (maxDischargeDepth := 40) [hio, hk]; done) | split | intro _

theorem rowBenchDeadlineMiss_on {io : RegIO} {lane : LaneId} {iterations : Nat} {s : State} (hio : KeepsIO io) (hk : Keeps s0 s) : OutOn s0 (@rowBenchDeadlineMiss io lane iterations s) := by
  unfold rowBenchDeadlineMiss
  repeat' first | (simp +contextual (maxDischargeDepth := 40) [hio, hk]; done) | split | intro _

theorem rowBenchPeerStatus_on {io : RegIO} {lane : LaneId} {s : State} (hio : KeepsIO io) (hk : Keeps s0 s) : OutOn s0 (@rowBenchPeerStatus io lane s) := by
  unfold rowBenchPeerStatus
  repeat' first | (simp +contextual (maxDischargeDepth := 40) [hio, hk]; done) | split | intro _

theorem rowBenchAgreeTimeout_on {io : RegIO} {lane : LaneId} {s : State} (hio : KeepsIO io) (hk : Keeps s0 s) : OutOn s0 (@rowBenchAgreeTimeout io lane s) := by
  unfold rowBenchAgreeTimeout
  dsimp only
  repeat' first | (simp +contextual (maxDischargeDepth := 40) [hio, hk]; done) | split | intro _

@[simp ↓] theorem State.benConfigure_on {io : RegIO} {s : State} {l : LaneId} (hio : KeepsIO io) (hk : Keeps s0 s) : Keeps s0 (@State.benConfigure io s l) := by
  unfold State.benConfigure
  repeat' first | (simp +contextual (maxDischargeDepth := 40) [hio, hk]; done) | split | intro _

@[simp ↓] theorem Lane.benRetain_on {L : Lane} {now : Nat} (hk : LaneOn s0 L) : LaneOn s0 (Lane.benRetain L now) := by
  unfold Lane.benRetain
  simp +contextual (maxDischargeDepth := 40) [hk]

@[simp ↓] theorem State.benAlone_on {io : RegIO} {s : State} {l : LaneId} (hio : KeepsIO io) (hk : Keeps s0 s) : Keeps s0 (@State.benAlone io s l) := by
  unfold State.benAlone
  simp +contextual (maxDischargeDepth := 40) [hio, hk]

@[simp ↓] theorem Lane.netLoad_on {L : Lane} (hk : LaneOn s0 L) : LaneOn s0 (Lane.netLoad L) := by
  unfold Lane.netLoad
  repeat' first | (simp +contextual (maxDischargeDepth := 40) [hk]; done) | split | intro _

end Sys2Proof.Machine
end

