-- ==== Sys2Proof/Laws/KeepsPcl.lean ====
section
/-! SUPPORT. Laws/KeepsPcl.lean: everything in Machine/Pcl.lean keeps what every command keeps (the parcel tracker). -/
namespace Sys2Proof.Machine

variable {s0 s t : State} {L : Lane}

@[simp ↓] theorem Lane.pclLoad_on {L : Lane} (hk : LaneOn s0 L) : LaneOn s0 (Lane.pclLoad L) := by
  unfold Lane.pclLoad
  repeat' first | (simp +contextual (maxDischargeDepth := 40) [hk]; done) | split | intro _

@[simp ↓] theorem State.pclInit_on {s : State} {l : LaneId} (hk : Keeps s0 s) : Keeps s0 (State.pclInit s l) := by
  unfold State.pclInit
  repeat' first | (simp +contextual (maxDischargeDepth := 40) [hk]; done) | split | intro _

@[simp ↓] theorem State.pclStart_on {s : State} {l : LaneId} {take : Option PclSet} (hk : Keeps s0 s) : Keeps s0 (State.pclStart s l take) := by
  unfold State.pclStart
  repeat' first | (simp +contextual (maxDischargeDepth := 40) [hk]; done) | split | intro _

@[simp ↓] theorem Lane.pclDone_on {L : Lane} {n : Net} {r : PclRun} (hk : LaneOn s0 L) : LaneOn s0 (Lane.pclDone L n r) := by
  unfold Lane.pclDone
  simp +contextual (maxDischargeDepth := 40) [hk]

@[simp ↓] theorem State.pclEnd_on {s : State} {l : LaneId} (hk : Keeps s0 s) : Keeps s0 (State.pclEnd s l) := by
  unfold State.pclEnd
  repeat' first | (simp +contextual (maxDischargeDepth := 40) [hk]; done) | split | intro _

theorem execPclStepEnd_on {s : State} (hk : Keeps s0 s) : OutOn s0 (execPclStepEnd s) := by
  unfold execPclStepEnd
  simp +contextual (maxDischargeDepth := 40) [hk]

@[simp ↓] theorem State.retStale_on {s : State} {l : LaneId} {k : Nat} (hk : Keeps s0 s) : Keeps s0 (State.retStale s l k) := by
  unfold State.retStale
  simp +contextual (maxDischargeDepth := 40) [hk]

@[simp ↓] theorem State.retFresh_on {s : State} {l : LaneId} {k : Nat} (hk : Keeps s0 s) : Keeps s0 (State.retFresh s l k) := by
  unfold State.retFresh
  simp +contextual (maxDischargeDepth := 40) [hk]

theorem execRetStale_on {sub : Fin 4096} {s : State} (hk : Keeps s0 s) : OutOn s0 (execRetStale sub s) := by
  unfold execRetStale
  simp +contextual (maxDischargeDepth := 40) [hk]

@[simp ↓] theorem State.predFlows_on {io : RegIO} {l : LaneId} {n : Net} {d : Bytes} (hio : KeepsIO io) (hk : Keeps s0 s) :
    Keeps s0 (@State.predFlows io s l n d).1 := by
  unfold State.predFlows
  generalize [(u32At d 0x10, n.recSize), (u32At d 0x14, n.bndLen)] = xs
  generalize u32At d 0x14 + n.bndLen = a
  have h1 : Keeps s0 (@State.winReads io s l qPcl xs).1 := State.winReads_on hio hk
  generalize @State.winReads io s l qPcl xs = p at h1 ⊢
  obtain ⟨s1, f | bs⟩ := p
  · exact h1
  · refine keeps_ite_fst h1 ?_
    split
    · rename_i e
      exact keeps_of_eq e (State.winRead_on hio h1)
    · rename_i e
      exact keeps_of_eq e (State.winRead_on hio h1)

@[simp ↓] theorem State.predTin_on {io : RegIO} {s : State} {l : LaneId} {d : Bytes} (hio : KeepsIO io) (hk : Keeps s0 s) : Keeps s0 (@State.predTin io s l d).1 := by
  unfold State.predTin
  try dsimp only
  repeat' first | assumption | (simp +contextual (maxDischargeDepth := 40) [hio, hk]; done) | with_reducible refine keeps_ite_fst ?_ ?_ | with_reducible refine out_next ?_ | with_reducible refine out_ite ?_ ?_ | with_reducible refine keeps_ite ?_ ?_ | with_reducible refine laneOn_ite ?_ ?_ | with_reducible refine State.upd_on ?_ ?_ | with_reducible refine keeps_foldl ?_ ?_ | with_reducible refine laneOn_foldl ?_ ?_ | with_reducible refine State.each_on ?_ ?_ | with_reducible refine State.perLane_on ?_ ?_ | with_reducible refine State.ok_on ?_ | with_reducible refine State.raise_on ?_ | with_reducible refine State.raiseUp_on ?_ | with_reducible refine State.rtCall_on ?_ ?_ | (split <;> try (rename_i e; replace e := keeps_of_eq (s0 := s0) e (by clear e; first | assumption | (simp +contextual (maxDischargeDepth := 40) [hio, hk]; done) | (simp +contextual (maxDischargeDepth := 40) [*]; done)))) | intro _ | (simp +contextual (maxDischargeDepth := 40) [*]; done)

@[simp ↓] theorem State.predRead_on {io : RegIO} {l : LaneId} {d : Bytes} {live : PclState} {x : PclIn} {o : Option (List F64 × List F64 × List F64)}
    (hio : KeepsIO io) (hk : Keeps s0 s) : Keeps s0 (@State.predRead io s l d live x o).1 := by
  unfold State.predRead
  cases o with
  | none => exact hk
  | some p =>
    have h1 : Keeps s0 (@State.predTin io s l d).1 := State.predTin_on hio hk
    generalize @State.predTin io s l d = q at h1 ⊢
    obtain ⟨s1, f | t⟩ := q <;> exact h1

@[simp ↓] theorem State.predReads_on {io : RegIO} {l : LaneId} {d : Bytes} {live : PclState} {n : Net} {x : PclIn}
    (hio : KeepsIO io) (hk : Keeps s0 s) : Keeps s0 (@State.predReads io s l d live n x).1 := by
  unfold State.predReads
  refine keeps_ite_fst (State.predRead_on hio hk) ?_
  have h1 : Keeps s0 (@State.predFlows io s l n d).1 := State.predFlows_on hio hk
  generalize @State.predFlows io s l n d = q at h1 ⊢
  obtain ⟨s1, f | o⟩ := q
  · exact h1
  · exact State.predRead_on hio h1

@[simp ↓] theorem State.predOpen_on {io : RegIO} {l : LaneId} {d : Bytes} (hio : KeepsIO io) (hk : Keeps s0 s) : Keeps s0 (@State.predOpen io s l d).1 := by
  unfold State.predOpen
  refine keeps_ite_fst hk ?_
  generalize (s.lane l).pcl.live = a
  generalize (s.lane l).pclDesc = b
  cases a with
  | none => exact hk
  | some live => cases b with
    | none => exact hk
    | some p => exact keeps_ite_fst hk (keeps_ite_fst hk (State.predReads_on hio hk))

@[simp ↓] theorem Lane.predShow_on {L : Lane} {busy : Bool} (hk : LaneOn s0 L) : LaneOn s0 (Lane.predShow L busy) := by
  unfold Lane.predShow
  simp +contextual (maxDischargeDepth := 40) [hk]

@[simp ↓] theorem State.predDesc_on {io : RegIO} {l : LaneId} {q : Nat} {d : Bytes} {o : Sum (Nat × Option (Nat × Nat)) PredRun} (hio : KeepsIO io)
    (hk : Keeps s0 s) : Keeps s0 (@State.predDesc io s l q d o) := by
  unfold State.predDesc
  rcases o with ⟨st, _ | f⟩ | r
  · exact State.benPlain_on hio hk
  · exact State.benPlain_on hio (State.winHit_on hk)
  · exact State.upd_on hk fun L hL => ⟨hL.1, hL.2.1, hL.2.2.1, hL.2.2.2⟩

@[simp ↓] theorem State.predTake_on {io : RegIO} {s : State} {l : LaneId} {q : Nat} (hio : KeepsIO io) (hk : Keeps s0 s) : Keeps s0 (@State.predTake io s l q) := by
  unfold State.predTake
  try dsimp only
  repeat' first | assumption | (simp +contextual (maxDischargeDepth := 40) [hio, hk]; done) | with_reducible refine keeps_ite_fst ?_ ?_ | with_reducible refine out_next ?_ | with_reducible refine out_ite ?_ ?_ | with_reducible refine keeps_ite ?_ ?_ | with_reducible refine laneOn_ite ?_ ?_ | with_reducible refine State.upd_on ?_ ?_ | with_reducible refine keeps_foldl ?_ ?_ | with_reducible refine laneOn_foldl ?_ ?_ | with_reducible refine State.each_on ?_ ?_ | with_reducible refine State.perLane_on ?_ ?_ | with_reducible refine State.ok_on ?_ | with_reducible refine State.raise_on ?_ | with_reducible refine State.raiseUp_on ?_ | with_reducible refine State.rtCall_on ?_ ?_ | (split <;> try (rename_i e; replace e := keeps_of_eq (s0 := s0) e (by clear e; first | assumption | (simp +contextual (maxDischargeDepth := 40) [hio, hk]; done) | (simp +contextual (maxDischargeDepth := 40) [*]; done)))) | intro _ | (simp +contextual (maxDischargeDepth := 40) [*]; done)

@[simp ↓] theorem State.predStart_on {io : RegIO} {l : LaneId} {key : Half} (hio : KeepsIO io) (hk : Keeps s0 s) : Keeps s0 (@State.predStart io s l key) := by
  unfold State.predStart
  refine keeps_ite (State.refuse_on hk) (State.predTake_on hio (State.ok_on (State.upd_on hk fun L hL => ?_)))
  have h := Lane.predShow_on hL (busy := true)
  exact ⟨h.1, h.2.1, h.2.2.1, h.2.2.2⟩

theorem rowPredStart_on {io : RegIO} {src : Src} {key : Half} {s : State} (hio : KeepsIO io) (hk : Keeps s0 s) : OutOn s0 (@rowPredStart io src key s) := by
  unfold rowPredStart
  simp +contextual (maxDischargeDepth := 40) [hio, hk]

@[simp ↓] theorem State.predCut_on {io : RegIO} {s : State} {l : LaneId} {r : PredRun} (hio : KeepsIO io) (hk : Keeps s0 s) : Keeps s0 (@State.predCut io s l r).1 := by
  unfold State.predCut
  repeat' first | (simp +contextual (maxDischargeDepth := 40) [hio, hk]; done) | split | intro _

@[simp ↓] theorem State.predStop_on {io : RegIO} {s : State} {l : LaneId} (hio : KeepsIO io) (hk : Keeps s0 s) : Keeps s0 (@State.predStop io s l) := by
  unfold State.predStop
  repeat' first | (simp +contextual (maxDischargeDepth := 40) [hio, hk]; done) | split | intro _

@[simp ↓] theorem State.predAbort_on {io : RegIO} {s : State} {l : LaneId} {key : Half} (hio : KeepsIO io) (hk : Keeps s0 s) : Keeps s0 (@State.predAbort io s l key) := by
  unfold State.predAbort
  simp +contextual (maxDischargeDepth := 40) [hio, hk]

theorem rowPredAbort_on {io : RegIO} {src : Src} {key : Half} {s : State} (hio : KeepsIO io) (hk : Keeps s0 s) : OutOn s0 (@rowPredAbort io src key s) := by
  unfold rowPredAbort
  simp +contextual (maxDischargeDepth := 40) [hio, hk]

@[simp ↓] theorem State.predEnd_on {io : RegIO} {s : State} {l : LaneId} {r : PredRun} {cap : Option Nat} (hio : KeepsIO io) (hk : Keeps s0 s) : Keeps s0 (@State.predEnd io s l r cap) := by
  unfold State.predEnd
  dsimp only
  repeat' first | (simp +contextual (maxDischargeDepth := 40) [hio, hk]; done) | split | intro _

theorem rowPredEnd_on {io : RegIO} {lane : LaneId} {s : State} (hio : KeepsIO io) (hk : Keeps s0 s) : OutOn s0 (@rowPredEnd io lane s) := by
  unfold rowPredEnd
  repeat' first | (simp +contextual (maxDischargeDepth := 40) [hio, hk]; done) | split | intro _

theorem rowPredDeadlineMiss_on {io : RegIO} {lane : LaneId} {steps : Nat} {s : State} (hio : KeepsIO io) (hk : Keeps s0 s) : OutOn s0 (@rowPredDeadlineMiss io lane steps s) := by
  unfold rowPredDeadlineMiss
  repeat' first | (simp +contextual (maxDischargeDepth := 40) [hio, hk]; done) | split | intro _

@[simp ↓] theorem State.pclConfigure_on {io : RegIO} {s : State} {l : LaneId} (hio : KeepsIO io) (hk : Keeps s0 s) : Keeps s0 (@State.pclConfigure io s l) := by
  unfold State.pclConfigure
  simp +contextual (maxDischargeDepth := 40) [hio, hk]

@[simp ↓] theorem State.pclRetain_on {io : RegIO} {s : State} {l : LaneId} (hio : KeepsIO io) (hk : Keeps s0 s) : Keeps s0 (@State.pclRetain io s l) := by
  unfold State.pclRetain
  repeat' first | (simp +contextual (maxDischargeDepth := 40) [hio, hk]; done) | split | intro _

end Sys2Proof.Machine
end

