-- ==== Sys2Proof/Laws/KeepsApply.lean ====
section
/-! SUPPORT. Laws/KeepsApply.lean: everything in Machine/Apply.lean keeps what every command keeps (applied writes). -/
namespace Sys2Proof.Machine

variable {s0 s t : State} {L : Lane}

@[simp ↓] theorem State.applyWord_on {s : State} {l : LaneId} {a : Nat} {v : Word} (hk : Keeps s0 s) : Keeps s0 (State.applyWord s l a v) := by
  unfold State.applyWord
  simp +contextual (maxDischargeDepth := 40) [hk]

@[simp ↓] theorem Lane.holdWins_on {L : Lane} (hk : LaneOn s0 L) : LaneOn s0 (Lane.holdWins L) := by
  unfold Lane.holdWins
  simp +contextual (maxDischargeDepth := 40) [hk]

@[simp ↓] theorem State.commitLane_on {s : State} {l : LaneId} (hk : Keeps s0 s) : Keeps s0 (State.commitLane s l) := by
  unfold State.commitLane
  dsimp only
  repeat' first | (simp +contextual (maxDischargeDepth := 40) [hk]; done) | split | intro _

@[simp ↓] theorem State.commitDue_on {s : State} (hk : Keeps s0 s) : Keeps s0 (State.commitDue s) := by
  unfold State.commitDue
  simp +contextual (maxDischargeDepth := 40) [hk]

theorem rowCommitInstant_on {s : State} (hk : Keeps s0 s) : OutOn s0 (rowCommitInstant s) := by
  unfold rowCommitInstant
  repeat' first | (simp +contextual (maxDischargeDepth := 40) [hk]; done) | split | intro _

end Sys2Proof.Machine
end

