-- ==== Sys2Proof/Laws/KeepsLoad.lean ====
section
/-! SUPPORT. Laws/KeepsLoad.lean: everything in Machine/Load.lean keeps what every command keeps (loading). -/
namespace Sys2Proof.Machine

variable {s0 s t : State} {L : Lane}

theorem rfCut_on {m : List (Nat × Word)} (h : RfOn s0 m) (xs : List (Nat × Nat)) : RfOn s0 (rfCut m xs) :=
  foldl_prop (P := RfOn s0) (fun _ _ h => rf_erase h) xs h

@[simp ↓] theorem Lane.loadClear_on (h : LaneOn s0 L) : LaneOn s0 L.loadClear := by
  have h1 := rfCut_on h.1 drawerRegs
  unfold Lane.loadClear
  generalize drawerRegs = xs at h1
  exact ⟨h1, h.2.1, h.2.2.1, h.2.2.2⟩

@[simp ↓] theorem Lane.takeDrawers_on {L : Lane} {now : Nat} (hk : LaneOn s0 L) : LaneOn s0 (Lane.takeDrawers L now) := by
  unfold Lane.takeDrawers
  simp +contextual (maxDischargeDepth := 40) [hk]

@[simp ↓] theorem State.paramApply_on {l : LaneId} (hk : Keeps s0 s) : Keeps s0 (s.paramApply l) := by
  unfold State.paramApply
  refine keeps_foldl hk fun s i hs => ?_
  refine keeps_ite ⟨hs.queue, hs.time, hs.laneA, hs.laneB, ⟨hs.chest.1, hs.chest.2⟩, hs.keeper, hs.flash⟩ ?_
  split
  · exact hs
  · refine keeps_ite (State.upd_on (State.applyWord_on hs) fun L hL => Lane.ringRestart_on hL) (State.applyWord_on hs)

@[simp ↓] theorem State.loadLane_on {s : State} {l : LaneId} {img : LoadedImg} {chestToo : Bool} (hk : Keeps s0 s) : Keeps s0 (State.loadLane s l img chestToo) := by
  unfold State.loadLane
  simp +contextual (maxDischargeDepth := 40) [hk]

@[simp ↓] theorem State.loadAll_on {s : State} {ls : List LaneId} {slot : Fin 2} {rd : ImgRd} {anchor : Nat} {fallback : Bool} {chestToo : Bool} (hk : Keeps s0 s) : Keeps s0 (State.loadAll s ls slot rd anchor fallback chestToo).1 := by
  unfold State.loadAll
  try dsimp only
  repeat' first | assumption | (simp +contextual (maxDischargeDepth := 40) [hk]; done) | with_reducible refine out_next ?_ | with_reducible refine out_ite ?_ ?_ | with_reducible refine keeps_ite ?_ ?_ | with_reducible refine laneOn_ite ?_ ?_ | with_reducible refine State.upd_on ?_ ?_ | with_reducible refine keeps_foldl ?_ ?_ | with_reducible refine laneOn_foldl ?_ ?_ | with_reducible refine State.each_on ?_ ?_ | with_reducible refine State.perLane_on ?_ ?_ | with_reducible refine State.ok_on ?_ | with_reducible refine State.raise_on ?_ | with_reducible refine State.raiseUp_on ?_ | with_reducible refine State.rtCall_on ?_ ?_ | split | intro _ | (simp +contextual (maxDischargeDepth := 40) [*]; done)

@[simp ↓] theorem Lane.unload_on {L : Lane} {now : Nat} (hk : LaneOn s0 L) : LaneOn s0 (Lane.unload L now) := by
  unfold Lane.unload
  simp +contextual (maxDischargeDepth := 40) [hk]

end Sys2Proof.Machine
end

