-- ==== Sys2Proof/Laws/KeepsPmu.lean ====
section
/-! SUPPORT. Laws/KeepsPmu.lean: everything in Machine/Pmu.lean keeps what every command keeps (power). -/
namespace Sys2Proof.Machine

variable {s0 s t : State} {L : Lane}

theorem execPaceWindowEnd_on {lane : LaneId} {steps : Nat} {s : State} (hk : Keeps s0 s) : OutOn s0 (execPaceWindowEnd lane steps s) := by
  unfold execPaceWindowEnd
  simp +contextual (maxDischargeDepth := 40) [hk]

@[simp ↓] theorem State.paceMinClr_on {s : State} {l : LaneId} (hk : Keeps s0 s) : Keeps s0 (State.paceMinClr s l) := by
  unfold State.paceMinClr
  simp +contextual (maxDischargeDepth := 40) [hk]

theorem execPaceMinClr_on {src : Src} {s : State} (hk : Keeps s0 s) : OutOn s0 (execPaceMinClr src s) := by
  unfold execPaceMinClr
  simp +contextual (maxDischargeDepth := 40) [hk]

@[simp ↓] theorem State.evtPop_on {l : LaneId} {e : Fin 16} {data : Word} (hk : Keeps s0 s) : Keeps s0 (s.evtPop l e data) := by
  unfold State.evtPop
  refine keeps_ite (State.ok_on (State.upd_on hk fun L hL => ?_)) (State.ok_on hk)
  refine ⟨hL.1, hL.2.1, hL.2.2.1, fun p => ⟨fun i => ?_, (hL.2.2.2 p).2⟩⟩
  have hi := (hL.2.2.2 p).1 i
  by_cases hie : e = i
  · subst hie
    simp only [Fin.getElem_fin, Vector.getElem_set_self, List.length_tail]
    exact Nat.le_trans (Nat.sub_le _ _) hi
  · have : (e : Nat) ≠ i := fun c => hie (Fin.ext c)
    simpa [Vector.getElem_set, this] using hi

theorem execEvtQPop_on {src : Src} {engine : Fin 16} {data : Word} {s : State} (hk : Keeps s0 s) : OutOn s0 (execEvtQPop src engine data s) := by
  unfold execEvtQPop
  simp +contextual (maxDischargeDepth := 40) [hk]

theorem execFeedLost_on {feed : Fin 2} {s : State} (hk : Keeps s0 s) : OutOn s0 (execFeedLost feed s) := by
  unfold execFeedLost
  simp +contextual (maxDischargeDepth := 40) [hk]

theorem execFeedRestored_on {feed : Fin 2} {s : State} (hk : Keeps s0 s) : OutOn s0 (execFeedRestored feed s) := by
  unfold execFeedRestored
  simp +contextual (maxDischargeDepth := 40) [hk]

theorem execHoldupCharged_on {s : State} (hk : Keeps s0 s) : OutOn s0 (execHoldupCharged s) := by
  unfold execHoldupCharged
  simp +contextual (maxDischargeDepth := 40) [hk]

@[simp ↓] theorem State.sprintEnter_on {s : State} {key : Half} (hk : Keeps s0 s) : Keeps s0 (State.sprintEnter s key) := by
  unfold State.sprintEnter
  simp +contextual (maxDischargeDepth := 40) [hk]

theorem execSprintEnter_on {src : Src} {key : Half} {s : State} (hk : Keeps s0 s) : OutOn s0 (execSprintEnter src key s) := by
  unfold execSprintEnter
  simp +contextual (maxDischargeDepth := 40) [hk]

@[simp ↓] theorem State.sprintLeave_on {s : State} {l : LaneId} {reason : Nat} (hk : Keeps s0 s) : Keeps s0 (State.sprintLeave s l reason) := by
  unfold State.sprintLeave
  simp +contextual (maxDischargeDepth := 40) [hk]

@[simp ↓] theorem State.sprintLeaveCmd_on {s : State} {key : Half} (hk : Keeps s0 s) : Keeps s0 (State.sprintLeaveCmd s key) := by
  unfold State.sprintLeaveCmd
  simp +contextual (maxDischargeDepth := 40) [hk]

theorem execSprintLeave_on {src : Src} {key : Half} {s : State} (hk : Keeps s0 s) : OutOn s0 (execSprintLeave src key s) := by
  unfold execSprintLeave
  simp +contextual (maxDischargeDepth := 40) [hk]

theorem execSprintPointReached_on {lane : LaneId} {s : State} (hk : Keeps s0 s) : OutOn s0 (execSprintPointReached lane s) := by
  unfold execSprintPointReached
  repeat' first | (simp +contextual (maxDischargeDepth := 40) [hk]; done) | split | intro _

theorem execSprintStepDown_on {lane : LaneId} {s : State} (hk : Keeps s0 s) : OutOn s0 (execSprintStepDown lane s) := by
  unfold execSprintStepDown
  repeat' first | (simp +contextual (maxDischargeDepth := 40) [hk]; done) | split | intro _

theorem execSprintBudgetBin_on {lane : LaneId} {s : State} (hk : Keeps s0 s) : OutOn s0 (execSprintBudgetBin lane s) := by
  unfold execSprintBudgetBin
  simp +contextual (maxDischargeDepth := 40) [hk]

theorem execJunctionLimit_on {lane : LaneId} {tenths : Half} {s : State} (hk : Keeps s0 s) : OutOn s0 (execJunctionLimit lane tenths s) := by
  unfold execJunctionLimit
  simp +contextual (maxDischargeDepth := 40) [hk]

@[simp ↓] theorem State.tempHigh_on {s : State} {l : LaneId} (hk : Keeps s0 s) : Keeps s0 (State.tempHigh s l) := by
  unfold State.tempHigh
  simp +contextual (maxDischargeDepth := 40) [hk]

@[simp ↓] theorem State.backplate_on {s : State} {tenths : Half} (hk : Keeps s0 s) : Keeps s0 (State.backplate s tenths) := by
  unfold State.backplate
  simp +contextual (maxDischargeDepth := 40) [hk]

theorem execBackplateLimit_on {tenths : Half} {s : State} (hk : Keeps s0 s) : OutOn s0 (execBackplateLimit tenths s) := by
  unfold execBackplateLimit
  simp +contextual (maxDischargeDepth := 40) [hk]

theorem execBackplateWarnCross_on {tenths : Half} {s : State} (hk : Keeps s0 s) : OutOn s0 (execBackplateWarnCross tenths s) := by
  unfold execBackplateWarnCross
  simp +contextual (maxDischargeDepth := 40) [hk]

end Sys2Proof.Machine
end

