-- ==== Sys2Proof/Laws/KeepsModes.lean ====
section
/-! SUPPORT. Laws/KeepsModes.lean: everything in Machine/Modes.lean keeps what every command keeps (modes). -/
namespace Sys2Proof.Machine

variable {s0 s t : State} {L : Lane}

@[simp ↓] theorem State.tasksCut_on {io : RegIO} {s : State} {l : LaneId} (hio : KeepsIO io) (hk : Keeps s0 s) : Keeps s0 (@State.tasksCut io s l) := by
  unfold State.tasksCut
  simp +contextual (maxDischargeDepth := 40) [hio, hk]

@[simp ↓] theorem State.runOver_on {s : State} (hk : Keeps s0 s) : Keeps s0 (State.runOver s) := by
  unfold State.runOver
  simp +contextual (maxDischargeDepth := 40) [hk]

@[simp ↓] theorem State.laneStop_on {s : State} {l : LaneId} (hk : Keeps s0 s) : Keeps s0 (State.laneStop s l) := by
  unfold State.laneStop
  dsimp only
  repeat' first | (simp +contextual (maxDischargeDepth := 40) [hk]; done) | split | intro _

@[simp ↓] theorem State.laneConfigure_on {io : RegIO} {s : State} {l : LaneId} (hio : KeepsIO io) (hk : Keeps s0 s) : Keeps s0 (@State.laneConfigure io s l) := by
  unfold State.laneConfigure
  simp +contextual (maxDischargeDepth := 40) [hio, hk]

@[simp ↓] theorem State.laneRetain_on {io : RegIO} {s : State} {l : LaneId} (hio : KeepsIO io) (hk : Keeps s0 s) : Keeps s0 (@State.laneRetain io s l) := by
  unfold State.laneRetain
  simp +contextual (maxDischargeDepth := 40) [hio, hk]

@[simp ↓] theorem Lane.evtEmpty_on (hL : LaneOn s0 L) : LaneOn s0 L.evtEmpty :=
  ⟨hL.1, hL.2.1, hL.2.2.1, fun p => ⟨fun i => by simp [Lane.evtEmpty], (hL.2.2.2 p).2⟩⟩

@[simp ↓] theorem State.enterShow_on {s : State} {m : Mode} (hk : Keeps s0 s) : Keeps s0 (State.enterShow s m) := by
  unfold State.enterShow
  simp +contextual (maxDischargeDepth := 40) [hk]

@[simp ↓] theorem State.enterUnits_on {io : RegIO} {s : State} {ls : List LaneId} {m : Mode} (hio : KeepsIO io) (hk : Keeps s0 s) : Keeps s0 (@State.enterUnits io s ls m) := by
  unfold State.enterUnits
  simp +contextual (maxDischargeDepth := 40) [hio, hk]

@[simp ↓] theorem State.enterStop_on {s : State} {ls : List LaneId} {from_ : Mode} (hk : Keeps s0 s) : Keeps s0 (State.enterStop s ls from_) := by
  unfold State.enterStop
  simp +contextual (maxDischargeDepth := 40) [hk]

@[simp ↓] theorem State.enterConfigure_on {io : RegIO} {s : State} {ls : List LaneId} {from_ : Mode} (hio : KeepsIO io) (hk : Keeps s0 s) : Keeps s0 (@State.enterConfigure io s ls from_) := by
  unfold State.enterConfigure
  simp +contextual (maxDischargeDepth := 40) [hio, hk]

@[simp ↓] theorem State.enterRetain_on {io : RegIO} {s : State} {ls : List LaneId} (hio : KeepsIO io) (hk : Keeps s0 s) : Keeps s0 (@State.enterRetain io s ls) := by
  unfold State.enterRetain
  simp +contextual (maxDischargeDepth := 40) [hio, hk]

@[simp ↓] theorem State.enter_on {io : RegIO} {m : Mode} (hio : KeepsIO io) (hk : Keeps s0 s) : Keeps s0 (@State.enter io s m) := by
  have h1 : Keeps s0 (s.enterShow m) := State.enterShow_on hk
  have h3 : Keeps s0 (@State.enterUnits io (s.enterShow m) s.ups m) := State.enterUnits_on hio h1
  unfold State.enter
  cases m <;> simp [h1, h3, hio]

@[simp ↓] theorem State.accept_on {s : State} {m : Mode} {task : Fin 8} {due : Nat} {cmd : Bool} (hk : Keeps s0 s) : Keeps s0 (State.accept s m task due cmd) := by
  unfold State.accept
  simp +contextual (maxDischargeDepth := 40) [hk]

@[simp ↓] theorem State.modeCmd_on {s : State} {src : Src} {key : Half} {low : Nat} {f : State → State} (hk : Keeps s0 s) (hkf : ∀ s, Keeps s0 s → Keeps s0 (f s)) : Keeps s0 (State.modeCmd s src key low f) := by
  unfold State.modeCmd
  simp +contextual (maxDischargeDepth := 40) [hk, hkf]

@[simp ↓] theorem State.whenIdle_on {s : State} {f : State → State} (hk : Keeps s0 s) (hkf : ∀ s, Keeps s0 s → Keeps s0 (f s)) : Keeps s0 (State.whenIdle s f) := by
  unfold State.whenIdle
  simp +contextual (maxDischargeDepth := 40) [hk, hkf]

@[simp ↓] theorem State.cmdStop_on {s : State} (hk : Keeps s0 s) : Keeps s0 (State.cmdStop s) := by
  unfold State.cmdStop
  simp +contextual (maxDischargeDepth := 40) [hk]

theorem execModeCmdStop_on {src : Src} {key : Half} {s : State} (hk : Keeps s0 s) : OutOn s0 (execModeCmdStop src key s) := by
  unfold execModeCmdStop
  simp +contextual (maxDischargeDepth := 40) [hk]

@[simp ↓] theorem State.cmdConfigure_on {s : State} (hk : Keeps s0 s) : Keeps s0 (State.cmdConfigure s) := by
  unfold State.cmdConfigure
  simp +contextual (maxDischargeDepth := 40) [hk]

theorem execModeCmdConfigure_on {src : Src} {key : Half} {s : State} (hk : Keeps s0 s) : OutOn s0 (execModeCmdConfigure src key s) := by
  unfold execModeCmdConfigure
  simp +contextual (maxDischargeDepth := 40) [hk]

@[simp ↓] theorem State.cmdRun_on (hk : Keeps s0 s) : Keeps s0 s.cmdRun := by
  unfold State.cmdRun
  refine State.whenIdle_on hk fun s hs => ?_
  refine keeps_ite (keeps_ite (State.modeRefused_on hs) (keeps_ite (State.modeRefused_on hs) (State.accept_on hs))) ?_
  split
  · exact State.accept_on hs
  · exact State.modeRefused_on hs

theorem execModeCmdRun_on {src : Src} {key : Half} {s : State} (hk : Keeps s0 s) : OutOn s0 (execModeCmdRun src key s) := by
  unfold execModeCmdRun
  simp +contextual (maxDischargeDepth := 40) [hk]

@[simp ↓] theorem State.cmdHold_on {s : State} {task : Fin 8} (hk : Keeps s0 s) : Keeps s0 (State.cmdHold s task) := by
  unfold State.cmdHold
  simp +contextual (maxDischargeDepth := 40) [hk]

theorem execModeCmdHold_on {src : Src} {key : Half} {task : Fin 8} {s : State} (hk : Keeps s0 s) : OutOn s0 (execModeCmdHold src key task s) := by
  unfold execModeCmdHold
  simp +contextual (maxDischargeDepth := 40) [hk]

@[simp ↓] theorem State.cmdSafe_on {s : State} (hk : Keeps s0 s) : Keeps s0 (State.cmdSafe s) := by
  unfold State.cmdSafe
  simp +contextual (maxDischargeDepth := 40) [hk]

theorem execModeCmdSafe_on {src : Src} {key : Half} {s : State} (hk : Keeps s0 s) : OutOn s0 (execModeCmdSafe src key s) := by
  unfold execModeCmdSafe
  simp +contextual (maxDischargeDepth := 40) [hk]

theorem execModeCmdNotCommandable_on {src : Src} {key : Half} {target : Fin 16} {s : State} (hk : Keeps s0 s) : OutOn s0 (execModeCmdNotCommandable src key target s) := by
  unfold execModeCmdNotCommandable
  simp +contextual (maxDischargeDepth := 40) [hk]

@[simp ↓] theorem State.holdTask_on {s : State} {l : LaneId} {t : Fin 8} (hk : Keeps s0 s) : Keeps s0 (State.holdTask s l t) := by
  unfold State.holdTask
  simp +contextual (maxDischargeDepth := 40) [hk]

@[simp ↓] theorem Lane.unholdTask_on {L : Lane} {t : Fin 8} (hk : LaneOn s0 L) : LaneOn s0 (Lane.unholdTask L t) := by
  unfold Lane.unholdTask
  simp +contextual (maxDischargeDepth := 40) [hk]

theorem rowModeChangeTakesEffect_on {io : RegIO} {s : State} (hio : KeepsIO io) (hk : Keeps s0 s) : OutOn s0 (@rowModeChangeTakesEffect io s) := by
  unfold rowModeChangeTakesEffect
  dsimp only
  repeat' first | (simp +contextual (maxDischargeDepth := 40) [hio, hk]; done) | split | intro _

theorem rowRunStart_on {io : RegIO} {s : State} (hio : KeepsIO io) (hk : Keeps s0 s) : OutOn s0 (@rowRunStart io s) := by
  unfold rowRunStart
  dsimp only
  repeat' first | (simp +contextual (maxDischargeDepth := 40) [hio, hk]; done) | split | intro _

@[simp ↓] theorem Chest.closePorts_on {c : Chest} (hkc : ChestOn s0 c) : ChestOn s0 (Chest.closePorts c) := by
  unfold Chest.closePorts
  repeat' first | (simp +contextual (maxDischargeDepth := 40) [hkc]; done) | split | intro _

@[simp ↓] theorem State.failRetain_on {io : RegIO} {s : State} (hio : KeepsIO io) (hk : Keeps s0 s) : Keeps s0 (@State.failRetain io s) := by
  unfold State.failRetain
  simp +contextual (maxDischargeDepth := 40) [hio, hk]

theorem rowPowerFail_on {io : RegIO} {s : State} (hio : KeepsIO io) (hk : Keeps s0 s) : OutOn s0 (@rowPowerFail io s) := by
  unfold rowPowerFail
  repeat' first | (simp +contextual (maxDischargeDepth := 40) [hio, hk]; done) | split | intro _

end Sys2Proof.Machine
end

