-- ==== Sys2Proof/Laws/KeepsBoot.lean ====
section
/-! SUPPORT. Laws/KeepsBoot.lean: everything in Machine/Boot.lean keeps what every command keeps (boot and resets). -/
namespace Sys2Proof.Machine

variable {s0 s t : State} {L : Lane}

theorem flashWrite_wf {m : Mem} {a : Nat} {bs : Bytes} (h : m.flashWf = true) : Mem.flashWf (flashWrite m a bs) = true := by
  induction bs generalizing m a with
  | nil => exact h
  | cons b bs ih => exact ih (spSet_wf h nofun)
@[simp ↓] theorem cells_write {m : Mem} (h : CellsOn s0 m) {a : Nat} {bs : Bytes} : CellsOn s0 (flashWrite m a bs) := fun p => flashWrite_wf (h p)

@[simp ↓] theorem State.imgShow_on {s : State} {f : Lane → Lane} (hk : Keeps s0 s) (hkf : ∀ L, LaneOn s0 L → LaneOn s0 (f L)) : Keeps s0 (State.imgShow s f) := by
  unfold State.imgShow
  simp +contextual (maxDischargeDepth := 40) [hk, hkf]

@[simp ↓] theorem State.slotErase_on {slot : Fin 2} (hk : Keeps s0 s) : Keeps s0 (s.slotErase slot) := by
  unfold State.slotErase
  refine State.updBoth_on ?_ fun L hL => ?_
  · simp +contextual (maxDischargeDepth := 40) [hk]
  · split
    · exact laneOn_ite (Lane.unload_on hL) hL
    · exact hL

@[simp ↓] theorem State.slotProgram_on {slot : Fin 2} {rd : ImgRd} {a n : Nat} (hk : Keeps s0 s) : Keeps s0 (s.slotProgram slot rd a n) := by
  unfold State.slotProgram
  simp +contextual (maxDischargeDepth := 40) [hk]

@[simp ↓] theorem State.loaderCut_on (hk : Keeps s0 s) : Keeps s0 s.loaderCut := by
  unfold State.loaderCut
  have h1 : Keeps s0 s.fresh.2 := State.fresh_on hk
  generalize s.fresh = p at h1 ⊢
  obtain ⟨v, s1⟩ := p
  refine keeps_ite hk (keeps_ite (keeps_ite h1 (State.slotProgram_on (State.slotErase_on h1))) (keeps_ite ?_ h1))
  have h2 := State.slotErase_on h1 (slot := s.loader.slot)
  simp +contextual (maxDischargeDepth := 40) [h1, h2]

@[simp ↓] theorem State.imgRefuse_on {s : State} {code : Nat} (hk : Keeps s0 s) : Keeps s0 (State.imgRefuse s code) := by
  unfold State.imgRefuse
  simp +contextual (maxDischargeDepth := 40) [hk]

@[simp ↓] theorem State.imgCmd_on {src : Src} {key : Half} {op : Nat} {slot : Fin 2} (hk : Keeps s0 s) : Keeps s0 (s.imgCmd src key op slot) := by
  unfold State.imgCmd
  refine State.joined_on hk fun s hs => ?_
  split
  · exact State.busErr_on hs
  · simp +contextual (maxDischargeDepth := 40) [hs]

theorem execImgWrite_on {src : Src} {key : Half} {slot : Fin 2} {s : State} (hk : Keeps s0 s) : OutOn s0 (execImgWrite src key slot s) := by
  unfold execImgWrite
  simp +contextual (maxDischargeDepth := 40) [hk]

theorem execImgErase_on {src : Src} {key : Half} {slot : Fin 2} {s : State} (hk : Keeps s0 s) : OutOn s0 (execImgErase src key slot s) := by
  unfold execImgErase
  simp +contextual (maxDischargeDepth := 40) [hk]

theorem execImgCheck_on {src : Src} {key : Half} {slot : Fin 2} {s : State} (hk : Keeps s0 s) : OutOn s0 (execImgCheck src key slot s) := by
  unfold execImgCheck
  simp +contextual (maxDischargeDepth := 40) [hk]

theorem execImgLoad_on {src : Src} {key : Half} {slot : Fin 2} {s : State} (hk : Keeps s0 s) : OutOn s0 (execImgLoad src key slot s) := by
  unfold execImgLoad
  simp +contextual (maxDischargeDepth := 40) [hk]

@[simp ↓] theorem State.loaderWrite_on {s : State} {worn : Bool} (hk : Keeps s0 s) : Keeps s0 (State.loaderWrite s worn).1 := by
  unfold State.loaderWrite
  simp +contextual (maxDischargeDepth := 40) [hk]

@[simp ↓] theorem State.loaderLoad_on {s : State} (hk : Keeps s0 s) : Keeps s0 (State.loaderLoad s).1 := by
  unfold State.loaderLoad
  simp +contextual (maxDischargeDepth := 40) [hk]

@[simp ↓] theorem State.loaderRun_on {s : State} {worn : Bool} (hk : Keeps s0 s) : Keeps s0 (State.loaderRun s worn).1 := by
  unfold State.loaderRun
  simp +contextual (maxDischargeDepth := 40) [hk]

@[simp ↓] theorem State.loaderEnd_on {s : State} {code : Nat} (hk : Keeps s0 s) : Keeps s0 (State.loaderEnd s code) := by
  unfold State.loaderEnd
  simp +contextual (maxDischargeDepth := 40) [hk]

theorem execLoaderDone_on {worn : Bool} {s : State} (hk : Keeps s0 s) : OutOn s0 (execLoaderDone worn s) := by
  unfold execLoaderDone
  simp +contextual (maxDischargeDepth := 40) [hk]

@[simp ↓] theorem Lane.wiped_on {L : Lane} {release cause : Nat} : LaneOn s0 (L.wiped release cause) := by
  unfold Lane.wiped
  refine Lane.setFld_on (Lane.put_on (Lane.put_on ?_))
  exact ⟨rf_nil, mem_nil, mem_nil, evt_init⟩

@[simp ↓] theorem Chest.fullReset_on {c : Chest} {por : Bool} (hk : ChestOn s0 c) : ChestOn s0 (c.fullReset por) := by
  unfold Chest.fullReset
  extract_lets left c1
  have h1 : ChestOn s0 c1 := by
    refine foldl_prop (P := ChestOn s0) (fun c b hc => ?_) left hk
    exact Chest.bankUpd_on (Chest.storeBank_on hc) fun k h => ⟨h.1, h.2⟩
  exact Chest.recall_on ⟨h1.1, h1.2⟩

@[simp ↓] theorem State.fullReset_on {s : State} {cause : Nat} {facts : BootFacts} (hk : Keeps s0 s) : Keeps s0 (State.fullReset s cause facts) := by
  unfold State.fullReset
  simp +contextual (maxDischargeDepth := 40) [hk]

@[simp ↓] theorem State.powerOff_on {s : State} {brownout : Bool} (hk : Keeps s0 s) : Keeps s0 (State.powerOff s brownout) := by
  unfold State.powerOff
  simp +contextual (maxDischargeDepth := 40) [hk]

@[simp ↓] theorem State.pinNow_on {s : State} {facts : BootFacts} (hk : Keeps s0 s) : Keeps s0 (State.pinNow s facts) := by
  unfold State.pinNow
  simp +contextual (maxDischargeDepth := 40) [hk]

theorem execPowerGood_on {pa : Bool} {pb : Bool} {facts : BootFacts} {s : State} (hk : Keeps s0 s) : OutOn s0 (execPowerGood pa pb facts s) := by
  unfold execPowerGood
  simp +contextual (maxDischargeDepth := 40) [hk]

theorem execLaneReadyTimeout_on {lane : LaneId} {s : State} (hk : Keeps s0 s) : OutOn s0 (execLaneReadyTimeout lane s) := by
  unfold execLaneReadyTimeout
  repeat' first | (simp +contextual (maxDischargeDepth := 40) [hk]; done) | split | intro _

theorem execResetPin_on {lowNs : Nat} {facts : BootFacts} {s : State} (hk : Keeps s0 s) : OutOn s0 (execResetPin lowNs facts s) := by
  unfold execResetPin
  simp +contextual (maxDischargeDepth := 40) [hk]

@[simp ↓] theorem State.resetFull_on {s : State} {src : Src} {key : Half} {facts : BootFacts} (hk : Keeps s0 s) : Keeps s0 (State.resetFull s src key facts) := by
  unfold State.resetFull
  simp +contextual (maxDischargeDepth := 40) [hk]

theorem execResetCmdFull_on {src : Src} {key : Half} {facts : BootFacts} {s : State} (hk : Keeps s0 s) : OutOn s0 (execResetCmdFull src key facts s) := by
  unfold execResetCmdFull
  simp +contextual (maxDischargeDepth := 40) [hk]

theorem execChestPowerFailStoreEnd_on {s : State} (hk : Keeps s0 s) : OutOn s0 (execChestPowerFailStoreEnd s) := by
  unfold execChestPowerFailStoreEnd
  repeat' first | (simp +contextual (maxDischargeDepth := 40) [hk]; done) | split | intro _

theorem execRetainEnd_on {facts : BootFacts} {s : State} (hk : Keeps s0 s) : OutOn s0 (execRetainEnd facts s) := by
  unfold execRetainEnd
  simp +contextual (maxDischargeDepth := 40) [hk]

theorem execHoldupBankSpent_on {s : State} (hk : Keeps s0 s) : OutOn s0 (execHoldupBankSpent s) := by
  unfold execHoldupBankSpent
  dsimp only
  repeat' first | (simp +contextual (maxDischargeDepth := 40) [hk]; done) | split | intro _

@[simp ↓] theorem State.resyncBegin_on {s : State} {l : LaneId} {tries : Nat} (hk : Keeps s0 s) : Keeps s0 (State.resyncBegin s l tries) := by
  unfold State.resyncBegin
  simp +contextual (maxDischargeDepth := 40) [hk]

@[simp ↓] theorem setWdg_on {k : Keeper} {l : LaneId} {n : Nat} (hkk : KeeperOn s0 k) : KeeperOn s0 (setWdg k l n) := by
  unfold setWdg
  repeat' first | (simp +contextual (maxDischargeDepth := 40) [hkk]; done) | split | intro _

@[simp ↓] theorem State.bootSlot_on {ls : List LaneId} {slot : Fin 2} {fallback : Bool} (hk : Keeps s0 s) : Keeps s0 (s.bootSlot ls slot fallback).1 := by
  unfold State.bootSlot
  exact keeps_ite_fst hk (State.loadAll_on hk)

@[simp ↓] theorem bootWord_on {s : State} {resA : Nat} {resB : Nat} {slot : Nat} {anchor : Nat} {fallback : Bool} (hk : Keeps s0 s) : Keeps s0 (bootWord s resA resB slot anchor fallback).2 := by
  unfold bootWord
  simp +contextual (maxDischargeDepth := 40) [hk]

@[simp ↓] theorem State.autoRun_on {s : State} (hk : Keeps s0 s) : Keeps s0 (State.autoRun s) := by
  unfold State.autoRun
  dsimp only
  repeat' first | (simp +contextual (maxDischargeDepth := 40) [hk]; done) | split | intro _

@[simp ↓] theorem State.bootOther_on {s : State} {ls : List LaneId} {c1 : Nat} (hk : Keeps s0 s) : Keeps s0 (State.bootOther s ls c1).1 := by
  unfold State.bootOther
  simp +contextual (maxDischargeDepth := 40) [hk]

@[simp ↓] theorem State.bootStat_on {s : State} {pref : Fin 2} {r1 : Nat × Nat} {r2 : Nat × Nat} {loaded : Bool} (hk : Keeps s0 s) : Keeps s0 (State.bootStat s pref r1 r2 loaded).2 := by
  unfold State.bootStat
  simp +contextual (maxDischargeDepth := 40) [hk]

@[simp ↓] theorem State.bootUp_on {s : State} {ls : List LaneId} {w : Word} {apart : Bool} (hk : Keeps s0 s) : Keeps s0 (State.bootUp s ls w apart) := by
  unfold State.bootUp
  simp +contextual (maxDischargeDepth := 40) [hk]

@[simp ↓] theorem State.bootMode_on {io : RegIO} {s : State} {loaded : Bool} (hio : KeepsIO io) (hk : Keeps s0 s) : Keeps s0 (@State.bootMode io s loaded) := by
  unfold State.bootMode
  simp +contextual (maxDischargeDepth := 40) [hio, hk]

@[simp ↓] theorem State.bootEnd_on {io : RegIO} {s : State} {f : BootFacts} {ls : List LaneId} (hio : KeepsIO io) (hk : Keeps s0 s) : Keeps s0 (@State.bootEnd io s f ls) := by
  unfold State.bootEnd
  simp +contextual (maxDischargeDepth := 40) [hio, hk]

theorem rowBootEnd_on {io : RegIO} {s : State} (hio : KeepsIO io) (hk : Keeps s0 s) : OutOn s0 (@rowBootEnd io s) := by
  unfold rowBootEnd
  repeat' first | (simp +contextual (maxDischargeDepth := 40) [hio, hk]; done) | split | intro _

@[simp ↓] theorem State.bootCfgWrite_on {s : State} {src : Src} {data : Word} (hk : Keeps s0 s) : Keeps s0 (State.bootCfgWrite s src data) := by
  unfold State.bootCfgWrite
  simp +contextual (maxDischargeDepth := 40) [hk]

theorem execBootCfgWrite_on {src : Src} {data : Word} {s : State} (hk : Keeps s0 s) : OutOn s0 (execBootCfgWrite src data s) := by
  unfold execBootCfgWrite
  simp +contextual (maxDischargeDepth := 40) [hk]

end Sys2Proof.Machine
end

