-- ==== Sys2Proof/Laws/KeepsDma.lean ====
section
/-! SUPPORT. Laws/KeepsDma.lean: everything in Machine/Dma.lean keeps what every command keeps (DMA). -/
namespace Sys2Proof.Machine

variable {s0 s t : State} {L : Lane}

@[simp ↓] theorem Lane.dmaUpd_on {L : Lane} {c : Fin 16} {f : DmaCh → DmaCh} (hk : LaneOn s0 L) : LaneOn s0 (Lane.dmaUpd L c f) := by
  unfold Lane.dmaUpd
  simp +contextual (maxDischargeDepth := 40) [hk]

@[simp ↓] theorem State.dmaHalt_on {s : State} {l : LaneId} {c : Fin 16} {kind : Nat} {phase : Nat} {addr : Nat} {done : Nat} (hk : Keeps s0 s) : Keeps s0 (State.dmaHalt s l c kind phase addr done) := by
  unfold State.dmaHalt
  simp +contextual (maxDischargeDepth := 40) [hk]

@[simp ↓] theorem State.dmaFetch_on {io : RegIO} {s : State} {l : LaneId} {c : Fin 16} (hio : KeepsIO io) (hk : Keeps s0 s) : Keeps s0 (@State.dmaFetch io s l c) := by
  unfold State.dmaFetch
  dsimp only
  repeat' first | (simp +contextual (maxDischargeDepth := 40) [hio, hk]; done) | split | intro _

@[simp ↓] theorem State.dmaCmd_on {s : State} {l : LaneId} {key : Half} {c : Fin 16} {states : List Nat} {f : State → State} (hk : Keeps s0 s) (hkf : ∀ s, Keeps s0 s → Keeps s0 (f s)) : Keeps s0 (State.dmaCmd s l key c states f) := by
  unfold State.dmaCmd
  simp +contextual (maxDischargeDepth := 40) [hk, hkf]

@[simp ↓] theorem State.dmaStart_on {io : RegIO} {s : State} {l : LaneId} {c : Fin 16} (hio : KeepsIO io) (hk : Keeps s0 s) : Keeps s0 (@State.dmaStart io s l c) := by
  unfold State.dmaStart
  simp +contextual (maxDischargeDepth := 40) [hio, hk]

theorem rowDmaStart_on {io : RegIO} {src : Src} {key : Half} {ch : Fin 16} {s : State} (hio : KeepsIO io) (hk : Keeps s0 s) : OutOn s0 (@rowDmaStart io src key ch s) := by
  unfold rowDmaStart
  simp +contextual (maxDischargeDepth := 40) [hio, hk]

@[simp ↓] theorem State.dmaResume_on {io : RegIO} {s : State} {l : LaneId} {c : Fin 16} (hio : KeepsIO io) (hk : Keeps s0 s) : Keeps s0 (@State.dmaResume io s l c) := by
  unfold State.dmaResume
  simp +contextual (maxDischargeDepth := 40) [hio, hk]

theorem rowDmaResume_on {io : RegIO} {src : Src} {key : Half} {ch : Fin 16} {s : State} (hio : KeepsIO io) (hk : Keeps s0 s) : OutOn s0 (@rowDmaResume io src key ch s) := by
  unfold rowDmaResume
  simp +contextual (maxDischargeDepth := 40) [hio, hk]

@[simp ↓] theorem State.dmaFinish_on {io : RegIO} {s : State} {l : LaneId} {c : Fin 16} {d : DmaDesc} (hio : KeepsIO io) (hk : Keeps s0 s) : Keeps s0 (@State.dmaFinish io s l c d) := by
  unfold State.dmaFinish
  dsimp only
  repeat' first | (simp +contextual (maxDischargeDepth := 40) [hio, hk]; done) | split | intro _

@[simp ↓] theorem State.dmaCopied_on {io : RegIO} {s : State} {l : LaneId} {c : Fin 16} {d : DmaDesc} (hio : KeepsIO io) (hk : Keeps s0 s) : Keeps s0 (@State.dmaCopied io s l c d) := by
  unfold State.dmaCopied
  simp +contextual (maxDischargeDepth := 40) [hio, hk]

theorem rowDmaChestConfirm_on {io : RegIO} {ch : Fin 16} {s : State} (hio : KeepsIO io) (hk : Keeps s0 s) : OutOn s0 (@rowDmaChestConfirm io ch s) := by
  unfold rowDmaChestConfirm
  dsimp only
  repeat' first | (simp +contextual (maxDischargeDepth := 40) [hio, hk]; done) | split | intro _

@[simp ↓] theorem State.dmaTakeover_on {s : State} {l : LaneId} (hk : Keeps s0 s) : Keeps s0 (State.dmaTakeover s l) := by
  unfold State.dmaTakeover
  try dsimp only
  repeat' first | assumption | (simp +contextual (maxDischargeDepth := 40) [hk]; done) | with_reducible refine out_next ?_ | with_reducible refine out_ite ?_ ?_ | with_reducible refine keeps_ite ?_ ?_ | with_reducible refine laneOn_ite ?_ ?_ | with_reducible refine State.upd_on ?_ ?_ | with_reducible refine keeps_foldl ?_ ?_ | with_reducible refine laneOn_foldl ?_ ?_ | with_reducible refine State.each_on ?_ ?_ | with_reducible refine State.perLane_on ?_ ?_ | with_reducible refine State.ok_on ?_ | with_reducible refine State.raise_on ?_ | with_reducible refine State.raiseUp_on ?_ | with_reducible refine State.rtCall_on ?_ ?_ | split | intro _ | (simp +contextual (maxDischargeDepth := 40) [*]; done)

end Sys2Proof.Machine
end

