-- ==== Sys2Proof/Laws/KeepsRed.lean ====
section
/-! SUPPORT. Laws/KeepsRed.lean: everything in Machine/Red.lean keeps what every command keeps (redundancy). -/
namespace Sys2Proof.Machine

variable {s0 s t : State} {L : Lane}

@[simp ↓] theorem State.exchange_on {s : State} {newAct : LaneId} {task : Nat} (hk : Keeps s0 s) : Keeps s0 (State.exchange s newAct task) := by
  unfold State.exchange
  simp +contextual (maxDischargeDepth := 40) [hk]

@[simp ↓] theorem State.alone_on {io : RegIO} {s : State} {l : LaneId} (hio : KeepsIO io) (hk : Keeps s0 s) : Keeps s0 (@State.alone io s l) := by
  unfold State.alone
  simp +contextual (maxDischargeDepth := 40) [hio, hk]

@[simp ↓] theorem State.settle_on {io : RegIO} {s : State} (hio : KeepsIO io) (hk : Keeps s0 s) : Keeps s0 (@State.settle io s) := by
  unfold State.settle
  repeat' first | (simp +contextual (maxDischargeDepth := 40) [hio, hk]; done) | split | intro _

theorem Out.settle_on {io : RegIO} {o : Out} (hio : KeepsIO io) (ho : OutOn s0 o) : OutOn s0 (@Out.settle io o) := by
  cases o with
  | next t => exact fun u e => by cases e; exact State.settle_on hio (ho t rfl)
  | fault f => exact fun _ e => nomatch e
  | refused r => exact fun _ e => nomatch e

@[simp ↓] theorem State.loaderReset_on {s : State} {l : LaneId} (hk : Keeps s0 s) : Keeps s0 (State.loaderReset s l) := by
  unfold State.loaderReset
  simp +contextual (maxDischargeDepth := 40) [hk]

@[simp ↓] theorem State.laneReset_on {io : RegIO} {s : State} {l : LaneId} {cause : Nat} (hio : KeepsIO io) (hk : Keeps s0 s) : Keeps s0 (@State.laneReset io s l cause) := by
  unfold State.laneReset
  simp +contextual (maxDischargeDepth := 40) [hio, hk]

@[simp ↓] theorem State.laneResetNow_on {io : RegIO} {s : State} {l : LaneId} {cause : Nat} (hio : KeepsIO io) (hk : Keeps s0 s) : Keeps s0 (@State.laneResetNow io s l cause) := by
  unfold State.laneResetNow
  simp +contextual (maxDischargeDepth := 40) [hio, hk]

@[simp ↓] theorem State.resetLane_on {io : RegIO} {s : State} {l : LaneId} (hio : KeepsIO io) (hk : Keeps s0 s) : Keeps s0 (@State.resetLane io s l) := by
  unfold State.resetLane
  simp +contextual (maxDischargeDepth := 40) [hio, hk]

@[simp ↓] theorem State.resetLanes_on {io : RegIO} {s : State} {src : Src} {key : Half} {a : Bool} {b : Bool} (hio : KeepsIO io) (hk : Keeps s0 s) : Keeps s0 (@State.resetLanes io s src key a b) := by
  unfold State.resetLanes
  simp +contextual (maxDischargeDepth := 40) [hio, hk]

theorem rowResetCmdLane_on {io : RegIO} {src : Src} {key : Half} {laneA : Bool} {laneB : Bool} {s : State} (hio : KeepsIO io) (hk : Keeps s0 s) : OutOn s0 (@rowResetCmdLane io src key laneA laneB s) := by
  unfold rowResetCmdLane
  simp +contextual (maxDischargeDepth := 40) [hio, hk]

@[simp ↓] theorem State.handOver_on {s : State} {new : LaneId} (hk : Keeps s0 s) : Keeps s0 (State.handOver s new) := by
  unfold State.handOver
  repeat' first | (simp +contextual (maxDischargeDepth := 40) [hk]; done) | split | intro _

theorem rowHitlessTakeover_on {io : RegIO} {s : State} (hio : KeepsIO io) (hk : Keeps s0 s) : OutOn s0 (@rowHitlessTakeover io s) := by
  unfold rowHitlessTakeover
  repeat' first | (simp +contextual (maxDischargeDepth := 40) [hio, hk]; done) | split | intro _

@[simp ↓] theorem State.hardTakeover_on {io : RegIO} {s : State} {new : LaneId} (hio : KeepsIO io) (hk : Keeps s0 s) : Keeps s0 (@State.hardTakeover io s new) := by
  unfold State.hardTakeover
  dsimp only
  repeat' first | (simp +contextual (maxDischargeDepth := 40) [hio, hk]; done) | split | intro _

theorem execHeartbeatSend_on {lane : LaneId} {s : State} (hk : Keeps s0 s) : OutOn s0 (execHeartbeatSend lane s) := by
  unfold execHeartbeatSend
  simp +contextual (maxDischargeDepth := 40) [hk]

theorem rowHeartbeatReceived_on {io : RegIO} {lane : LaneId} {viaLink : Bool} {s : State} (hio : KeepsIO io) (hk : Keeps s0 s) : OutOn s0 (@rowHeartbeatReceived io lane viaLink s) := by
  unfold rowHeartbeatReceived
  simp +contextual (maxDischargeDepth := 40) [hio, hk]

@[simp ↓] theorem State.hbTable_on {io : RegIO} {s : State} {lane : LaneId} (hio : KeepsIO io) (hk : Keeps s0 s) : Keeps s0 (@State.hbTable io s lane) := by
  unfold State.hbTable
  simp +contextual (maxDischargeDepth := 40) [hio, hk]

@[simp ↓] theorem State.hbNote_on {s : State} {lane : LaneId} (hk : Keeps s0 s) : Keeps s0 (State.hbNote s lane) := by
  unfold State.hbNote
  repeat' first | (simp +contextual (maxDischargeDepth := 40) [hk]; done) | split | intro _

@[simp ↓] theorem State.peerOut_on {s : State} {lane : LaneId} (hk : Keeps s0 s) : Keeps s0 (State.peerOut s lane) := by
  unfold State.peerOut
  repeat' first | (simp +contextual (maxDischargeDepth := 40) [hk]; done) | split | intro _

theorem rowHbLoss_on {io : RegIO} {lane : LaneId} {s : State} (hio : KeepsIO io) (hk : Keeps s0 s) : OutOn s0 (@rowHbLoss io lane s) := by
  unfold rowHbLoss
  simp +contextual (maxDischargeDepth := 40) [hio, hk]

theorem rowLaneLinkFault_on {io : RegIO} {s : State} (hio : KeepsIO io) (hk : Keeps s0 s) : OutOn s0 (@rowLaneLinkFault io s) := by
  unfold rowLaneLinkFault
  simp +contextual (maxDischargeDepth := 40) [hio, hk]

theorem rowHashTimeout_on {io : RegIO} {can : Bool} {index : Fin 8} {s : State} (hio : KeepsIO io) (hk : Keeps s0 s) : OutOn s0 (@rowHashTimeout io can index s) := by
  unfold rowHashTimeout
  simp +contextual (maxDischargeDepth := 40) [hio, hk]

theorem execSuspectWindowExpiry_on {s : State} (hk : Keeps s0 s) : OutOn s0 (execSuspectWindowExpiry s) := by
  unfold execSuspectWindowExpiry
  repeat' first | (simp +contextual (maxDischargeDepth := 40) [hk]; done) | split | intro _

@[simp ↓] theorem State.condemnedDue_on {io : RegIO} {s : State} {l : LaneId} {inForce : Bool} (hio : KeepsIO io) (hk : Keeps s0 s) : Keeps s0 (@State.condemnedDue io s l inForce) := by
  unfold State.condemnedDue
  repeat' first | (simp +contextual (maxDischargeDepth := 40) [hio, hk]; done) | split | intro _

@[simp ↓] theorem State.resetsKept_on {s : State} {more : List Nat} (hk : Keeps s0 s) : Keeps s0 (State.resetsKept s more) := by
  unfold State.resetsKept
  repeat' first | (simp +contextual (maxDischargeDepth := 40) [hk]; done) | split | intro _

theorem rowRedLaneReset_on {io : RegIO} {s : State} (hio : KeepsIO io) (hk : Keeps s0 s) : OutOn s0 (@rowRedLaneReset io s) := by
  unfold rowRedLaneReset
  repeat' first | (simp +contextual (maxDischargeDepth := 40) [hio, hk]; done) | split | intro _

theorem execAutoResetAgeOut_on {s : State} (hk : Keeps s0 s) : OutOn s0 (execAutoResetAgeOut s) := by
  unfold execAutoResetAgeOut
  repeat' first | (simp +contextual (maxDischargeDepth := 40) [hk]; done) | split | intro _

@[simp ↓] theorem State.redCmd_on {s : State} {src : Src} {key : Half} {op : Nat} {f : State → State} (hk : Keeps s0 s) (hkf : ∀ s, Keeps s0 s → Keeps s0 (f s)) : Keeps s0 (State.redCmd s src key op f) := by
  unfold State.redCmd
  simp +contextual (maxDischargeDepth := 40) [hk, hkf]

@[simp ↓] theorem State.redRefuse_on {s : State} (hk : Keeps s0 s) : Keeps s0 (State.redRefuse s) := by
  unfold State.redRefuse
  simp +contextual (maxDischargeDepth := 40) [hk]

@[simp ↓] theorem State.redSwitch_on {s : State} (hk : Keeps s0 s) : Keeps s0 (State.redSwitch s) := by
  unfold State.redSwitch
  simp +contextual (maxDischargeDepth := 40) [hk]

theorem execRedSwitch_on {src : Src} {key : Half} {s : State} (hk : Keeps s0 s) : OutOn s0 (execRedSwitch src key s) := by
  unfold execRedSwitch
  simp +contextual (maxDischargeDepth := 40) [hk]

@[simp ↓] theorem State.redDrop_on {io : RegIO} {s : State} (hio : KeepsIO io) (hk : Keeps s0 s) : Keeps s0 (@State.redDrop io s) := by
  unfold State.redDrop
  simp +contextual (maxDischargeDepth := 40) [hio, hk]

theorem rowRedDrop_on {io : RegIO} {src : Src} {key : Half} {s : State} (hio : KeepsIO io) (hk : Keeps s0 s) : OutOn s0 (@rowRedDrop io src key s) := by
  unfold rowRedDrop
  simp +contextual (maxDischargeDepth := 40) [hio, hk]

@[simp ↓] theorem State.redClrCnt_on {s : State} (hk : Keeps s0 s) : Keeps s0 (State.redClrCnt s) := by
  unfold State.redClrCnt
  simp +contextual (maxDischargeDepth := 40) [hk]

theorem execRedClrCnt_on {src : Src} {key : Half} {s : State} (hk : Keeps s0 s) : OutOn s0 (execRedClrCnt src key s) := by
  unfold execRedClrCnt
  simp +contextual (maxDischargeDepth := 40) [hk]

@[simp ↓] theorem State.wdgReset_on {s : State} {lane : LaneId} {n : Nat} {joining : Bool} (hk : Keeps s0 s) : Keeps s0 (State.wdgReset s lane n joining) := by
  unfold State.wdgReset
  simp +contextual (maxDischargeDepth := 40) [hk]

theorem execBootWatchdogExpiry_on {lane : LaneId} {s : State} (hk : Keeps s0 s) : OutOn s0 (execBootWatchdogExpiry lane s) := by
  unfold execBootWatchdogExpiry
  simp +contextual (maxDischargeDepth := 40) [hk]

@[simp ↓] theorem State.resyncPhase_on {s : State} {r : Resync} {phase : Nat} {pending : Nat} (hk : Keeps s0 s) : Keeps s0 (State.resyncPhase s r phase pending) := by
  unfold State.resyncPhase
  simp +contextual (maxDischargeDepth := 40) [hk]

@[simp ↓] theorem State.joinLoad_on {s : State} {r : Resync} {g : LoadedImg} (hk : Keeps s0 s) : Keeps s0 (State.joinLoad s r g) := by
  unfold State.joinLoad
  dsimp only
  repeat' first | (simp +contextual (maxDischargeDepth := 40) [hk]; done) | split | intro _

theorem execResyncBootEnd_on {s : State} (hk : Keeps s0 s) : OutOn s0 (execResyncBootEnd s) := by
  unfold execResyncBootEnd
  dsimp only
  repeat' first | (simp +contextual (maxDischargeDepth := 40) [hk]; done) | split | intro _

theorem execResyncChainEnd_on {s : State} (hk : Keeps s0 s) : OutOn s0 (execResyncChainEnd s) := by
  unfold execResyncChainEnd
  repeat' first | (simp +contextual (maxDischargeDepth := 40) [hk]; done) | split | intro _

@[simp ↓] theorem State.copyMem_on {s : State} {l : LaneId} (hk : Keeps s0 s) : Keeps s0 (State.copyMem s l) := by
  unfold State.copyMem
  simp +contextual (maxDischargeDepth := 40) [hk]

theorem execResyncBulkEnd_on {s : State} (hk : Keeps s0 s) : OutOn s0 (execResyncBulkEnd s) := by
  unfold execResyncBulkEnd
  repeat' first | (simp +contextual (maxDischargeDepth := 40) [hk]; done) | split | intro _

theorem execResyncDirtyPassEnd_on {pendingKiB : Nat} {s : State} (hk : Keeps s0 s) : OutOn s0 (execResyncDirtyPassEnd pendingKiB s) := by
  unfold execResyncDirtyPassEnd
  repeat' first | (simp +contextual (maxDischargeDepth := 40) [hk]; done) | split | intro _

theorem rf_copies {m src : List (Nat × Word)} (h : RfOn s0 m) (hs : RfOn s0 src) (xs : List (Nat × Nat)) (hx : ∀ p ∈ xs, p.1 ≤ p.2) :
    RfOn s0 (xs.foldl (fun m p => spCopy m src p.1 p.2) m) := by
  induction xs generalizing m with
  | nil => exact h
  | cons x xs ih => exact ih (fun p => spCopy_wf (hx x (by simp)) (h p) (hs p)) fun p hp => hx p (by simp [hp])
theorem ownRegs_le : ∀ p ∈ ownRegs, p.1 ≤ p.2 := by decide
@[simp ↓] theorem Lane.finalFrom_on {R : Lane} {now : Nat} (hL : LaneOn s0 L) (hR : LaneOn s0 R) : LaneOn s0 (L.finalFrom R now) := by
  have h1 := rf_copies hR.1 hL.1 ownRegs ownRegs_le
  unfold Lane.finalFrom
  generalize ownRegs = xs at h1
  exact ⟨h1, hR.2.1, hR.2.2.1, hR.2.2.2⟩

@[simp ↓] theorem State.finalCopy_on {s : State} {l : LaneId} {run : LaneId} (hk : Keeps s0 s) : Keeps s0 (State.finalCopy s l run) := by
  unfold State.finalCopy
  simp +contextual (maxDischargeDepth := 40) [hk]

@[simp ↓] theorem State.finalMode_on {s : State} {tries : Nat} (hk : Keeps s0 s) : Keeps s0 (State.finalMode s tries) := by
  unfold State.finalMode
  simp +contextual (maxDischargeDepth := 40) [hk]

theorem execResyncFinal_on {s : State} (hk : Keeps s0 s) : OutOn s0 (execResyncFinal s) := by
  unfold execResyncFinal
  repeat' first | (simp +contextual (maxDischargeDepth := 40) [hk]; done) | split | intro _

theorem execResyncTimeout_on {s : State} (hk : Keeps s0 s) : OutOn s0 (execResyncTimeout s) := by
  unfold execResyncTimeout
  repeat' first | (simp +contextual (maxDischargeDepth := 40) [hk]; done) | split | intro _

theorem execResyncRetry_on {s : State} (hk : Keeps s0 s) : OutOn s0 (execResyncRetry s) := by
  unfold execResyncRetry
  repeat' first | (simp +contextual (maxDischargeDepth := 40) [hk]; done) | split | intro _

end Sys2Proof.Machine
end

