-- ==== Sys2Proof/Laws/KeepsSlow.lean ====
section
/-! SUPPORT. Laws/KeepsSlow.lean: everything in Machine/Slow.lean keeps what every command keeps (slow registers). -/
namespace Sys2Proof.Machine

variable {s0 s t : State} {L : Lane}

theorem Out.st_on {o : Out} (hk : Keeps s0 s) (h : OutOn s0 o) : Keeps s0 (o.st s) := by
  unfold Out.st
  split
  · exact h _ rfl
  · exact hk

theorem State.slowRead_on {s : State} {l : LaneId} {a : Nat} (hk : Keeps s0 s) : OptOn s0 (State.slowRead s l a) := by
  unfold State.slowRead
  repeat' first | (simp +contextual (maxDischargeDepth := 40) [hk]; done) | split | intro _

theorem State.kprCmd_on {src : Src} {name : String} {w : Word} (hk : Keeps s0 s) : OptOn s0 (s.kprCmd src name w) := by
  unfold State.kprCmd
  refine opt_ite (opt_some (keeps_ite (Out.st_on hk (execRtcGo_on hk)) (State.ok_on hk))) ?_
  refine opt_ite (opt_some (Out.st_on hk (execRtcWakeWrite_on hk))) (opt_ite (opt_some ?_) opt_none)
  exact keeps_ite (Out.st_on hk (execAnchorProgram_on hk)) (keeps_ite (Out.st_on hk (execAnchorRevoke_on hk)) (State.ok_on hk))

@[simp ↓] theorem State.kprWrite_on {s : State} {src : Src} {r : RegRow} {a : Nat} {w : Word} (hk : Keeps s0 s) : Keeps s0 (State.kprWrite s src r a w) := by
  unfold State.kprWrite
  simp +contextual (maxDischargeDepth := 40) [hk]

@[simp ↓] theorem State.slowWrite_on {src : Src} {a : Nat} {w : Word} (hk : Keeps s0 s) : Keeps s0 (s.slowWrite src a w) := by
  unfold State.slowWrite
  split
  · refine State.perLane_on hk fun l s hs => ?_
    exact keeps_ite (State.indFailIn_on hs) (keeps_ite (State.ok_on hs) (State.indFailIn_on hs))
  · split
    · exact State.indFail_on hk
    · exact OptOn.getD_on (State.kprCmd_on hk) (State.kprWrite_on hk)

@[simp ↓] theorem State.indRead_on {l : LaneId} {req : Requester} (hk : Keeps s0 s) : Keeps s0 (s.indRead l req) := by
  unfold State.indRead
  dsimp only
  have h1 : Keeps s0 (s.upd l fun L => L.setInd { ((s.lane l).indOf req).step with err := 0 }) := State.upd_on hk fun L hL => Lane.setInd_on hL
  generalize (s.upd l fun L => L.setInd { ((s.lane l).indOf req).step with err := 0 }) = s1 at h1 ⊢
  refine keeps_ite ?_ ?_
  · simp [hk]
  · split
    · rename_i s2 e
      exact State.slowRead_on h1 s2 e
    · simp +contextual (maxDischargeDepth := 40) [h1]

theorem execIndDataRead_on {src : Src} {s : State} (hk : Keeps s0 s) : OutOn s0 (execIndDataRead src s) := by
  unfold execIndDataRead
  simp +contextual (maxDischargeDepth := 40) [hk]

@[simp ↓] theorem State.indPost_on {s : State} {l : LaneId} {req : Requester} {data : Word} (hk : Keeps s0 s) : Keeps s0 (State.indPost s l req data) := by
  unfold State.indPost
  simp +contextual (maxDischargeDepth := 40) [hk]

theorem execIndDataWrite_on {src : Src} {data : Word} {s : State} (hk : Keeps s0 s) : OutOn s0 (execIndDataWrite src data s) := by
  unfold execIndDataWrite
  simp +contextual (maxDischargeDepth := 40) [hk]

@[simp ↓] theorem State.indAlias_on {l : LaneId} {req : Requester} {f : Word → Word} (hk : Keeps s0 s) : Keeps s0 (s.indAlias l req f) := by
  unfold State.indAlias
  extract_lets i
  clear_value i
  refine keeps_ite (by simp [hk]) ?_
  split
  · exact State.indRead_on hk
  · rename_i s1 e
    have h1 := State.slowRead_on hk s1 e
    split
    · exact State.indPost_on h1
    · exact h1

@[simp ↓] theorem State.indApplied_on {s : State} {src : Src} (hk : Keeps s0 s) : Keeps s0 (State.indApplied s src) := by
  unfold State.indApplied
  dsimp only
  repeat' first | (simp +contextual (maxDischargeDepth := 40) [hk]; done) | split | intro _

theorem execIndWriteApplied_on {src : Src} {s : State} (hk : Keeps s0 s) : OutOn s0 (execIndWriteApplied src s) := by
  unfold execIndWriteApplied
  simp +contextual (maxDischargeDepth := 40) [hk]

@[simp ↓] theorem State.snapAsk_on {s : State} (hk : Keeps s0 s) : Keeps s0 (State.snapAsk s) := by
  unfold State.snapAsk
  simp +contextual (maxDischargeDepth := 40) [hk]

@[simp ↓] theorem State.snapCmd_on {s : State} {src : Src} {key : Half} (hk : Keeps s0 s) : Keeps s0 (State.snapCmd s src key) := by
  unfold State.snapCmd
  simp +contextual (maxDischargeDepth := 40) [hk]

theorem execSnapTake_on {src : Src} {key : Half} {s : State} (hk : Keeps s0 s) : OutOn s0 (execSnapTake src key s) := by
  unfold execSnapTake
  simp +contextual (maxDischargeDepth := 40) [hk]

@[simp ↓] theorem State.snapLane_on {s : State} {l : LaneId} (hk : Keeps s0 s) : Keeps s0 (State.snapLane s l) := by
  unfold State.snapLane
  simp +contextual (maxDischargeDepth := 40) [hk]

@[simp ↓] theorem State.snapNow_on {s : State} (hk : Keeps s0 s) : Keeps s0 (State.snapNow s) := by
  unfold State.snapNow
  repeat' first | (simp +contextual (maxDischargeDepth := 40) [hk]; done) | split | intro _

theorem execSnapCapture_on {s : State} (hk : Keeps s0 s) : OutOn s0 (execSnapCapture s) := by
  unfold execSnapCapture
  simp +contextual (maxDischargeDepth := 40) [hk]

end Sys2Proof.Machine
end

