-- ==== Sys2Proof/Laws/KeepsRegs.lean ====
section
/-! SUPPORT. Laws/KeepsRegs.lean: everything in Machine/Regs.lean keeps what every command keeps (register accesses). -/
namespace Sys2Proof.Machine

variable {s0 s t : State} {L : Lane}

@[simp ↓] theorem State.freeFacts_on {s : State} (hk : Keeps s0 s) : Keeps s0 (State.freeFacts s).2 := by
  unfold State.freeFacts
  simp +contextual (maxDischargeDepth := 40) [hk]

theorem State.cmdWrite_on {io : RegIO} {src : Src} {name : String} {i a : Nat} {w : Word} (hio : KeepsIO io) (hk : Keeps s0 s) :
    OptOn s0 (@State.cmdWrite io s src name i a w) := by
  have he {o : Out} (h : OutOn s0 o) : Keeps s0 (o.st s) := Out.st_on hk h
  unfold State.cmdWrite
  dsimp only
  repeat' first
    | (simp +contextual (maxDischargeDepth := 40) [hk, hio, he (execSprintEnter_on hk), he (execSprintLeave_on hk), he (execTbStep_on hk),
        he (execMtrSave_on hk), he (execThqSave_on hk), he (execAxisStop_on hk), he (execMstSend_on hk), he (execMstEpoch_on hk)]; done)
    | split
    | intro _

@[simp ↓] theorem State.regRefuse_on {s : State} {l : LaneId} {name : String} {a : Nat} {i : Nat} (hk : Keeps s0 s) : Keeps s0 (State.regRefuse s l name a i) := by
  unfold State.regRefuse
  repeat' first | (simp +contextual (maxDischargeDepth := 40) [hk]; done) | split | intro _

@[simp ↓] theorem State.canCtrlWrite_on {s : State} {l : LaneId} {req : Requester} {c : Fin 8} {b : Fin 64} {a : Nat} {r : RegRow} {w : Word} (hk : Keeps s0 s) : Keeps s0 (State.canCtrlWrite s l req c b a r w) := by
  unfold State.canCtrlWrite
  simp +contextual (maxDischargeDepth := 40) [hk]

theorem State.ownWrite_on {l : LaneId} {src : Src} {r : RegRow} {i j a : Nat} {w : Word} (hk : Keeps s0 s) :
    OptOn s0 (s.ownWrite l src r i j a w) := by
  unfold State.ownWrite
  split <;> first
    | exact opt_none
    | exact opt_ite (opt_some (State.ok_on hk)) opt_none
    | refine opt_some ?_
  · exact State.ok_on (State.upd_on hk fun L hL => laneOn_ite (Lane.setFld_on (Lane.setFlag_on hL)) hL)
  · have h1 : Keeps s0 (s.upd l fun L => if bitOf w 0 then (L.setFlag a 0 false).tvClear a else L).ok :=
      State.ok_on (State.upd_on hk fun L hL => laneOn_ite (Lane.tvClear_on (Lane.setFlag_on hL)) hL)
    exact keeps_ite (State.paceMinClr_on h1) h1
  · exact State.ok_on (keeps_ite (State.upd_on hk fun L hL => Lane.put_on hL) hk)
  · exact State.rateWrite_on hk
  · exact State.benRingWrite_on hk
  · exact State.benRingWrite_on hk
  · exact State.benRingWrite_on hk
  · exact State.axTargetWrite_on hk
  · exact State.axTargetWrite_on hk
  · exact State.recLatch_on hk
  · have h1 : Keeps s0 (s.chestSetProt l (Fin.ofNat 4 (fieldOf w 0 2))) := State.chestSetProt_on hk
    exact keeps_ite (State.chestLockIt_on h1) h1
  · exact State.ok_on (State.chsWrite_on hk)
  · exact State.ok_on (State.chsWrite_on hk)
  · exact State.canCtrlWrite_on hk
  · exact keeps_ite (State.refuse_on hk) (State.ok_on (State.upd_on hk fun L hL => Lane.setInd_on hL))
  · exact State.ok_on (State.upd_on hk fun L hL => Lane.keyStage_on hL)
  · exact State.ok_on (State.upd_on hk fun L hL => Lane.keyStage_on hL)

@[simp ↓] theorem State.place_on {s : State} {l : LaneId} {req : Requester} {r : RegRow} {a : Nat} {v : Word} (hk : Keeps s0 s) : Keeps s0 (State.place s l req r a v) := by
  unfold State.place
  repeat' first | (simp +contextual (maxDischargeDepth := 40) [hk]; done) | split | intro _

@[simp ↓] theorem State.regWrite_on {l : LaneId} {src : Src} {r : RegRow} {i j a : Nat} {w : Word} (hk : Keeps s0 s) :
    Keeps s0 (s.regWrite l src r i j a w) := by
  unfold State.regWrite
  dsimp only
  refine keeps_ite (State.busErr_on hk) ?_
  have h1 := State.ownWrite_on hk (l := l) (src := src) (r := r) (i := i) (j := j) (a := a) (w := w)
  split
  · rename_i s1 e
    exact h1 s1 e
  · exact keeps_ite (keeps_ite (State.regRefuse_on hk) (State.ok_on hk)) (keeps_ite (State.regRefuse_on hk) (State.place_on hk))

@[simp ↓] theorem State.write32_on {io : RegIO} {src : Src} {a : Nat} {w : Word} (hio : KeepsIO io) (hk : Keeps s0 s) : Keeps s0 (@State.write32 io s src a w) := by
  unfold State.write32
  refine keeps_ite (State.busErr_on hk) ?_
  split
  · exact State.busErr_on hk
  · rename_i r i j e
    have h1 := State.cmdWrite_on hio hk (src := src) (name := r.name) (i := i) (a := a) (w := w)
    refine keeps_ite (State.busErr_on hk) ?_
    split
    · rename_i s1 e
      exact h1 s1 e
    · exact State.perLane_on hk fun l s hs => State.regWrite_on hs

@[simp ↓] theorem State.alias32_on {io : RegIO} {src : Src} {op a : Nat} {data : Word} (hio : KeepsIO io) (hk : Keeps s0 s) :
    Keeps s0 (@State.alias32 io s src op a data) := by
  unfold State.alias32
  refine keeps_ite (State.busErr_on hk) ?_
  split
  · exact State.busErr_on hk
  · dsimp only
    refine keeps_ite (State.busErr_on hk) (keeps_ite (State.write32_on hio hk) (keeps_ite (State.perLane_on hk fun l s hs => State.indAlias_on hs)
      (State.perLane_on hk fun l s hs => keeps_ite (State.ok_on hs) (State.regWrite_on hs))))

@[simp ↓] theorem State.frRefuse_on {s : State} {l : LaneId} (hk : Keeps s0 s) : Keeps s0 (State.frRefuse s l) := by
  unfold State.frRefuse
  simp +contextual (maxDischargeDepth := 40) [hk]

@[simp ↓] theorem State.frWrite_on {s : State} {src : Src} {word : Word} {mask : Word} {f : State → State} (hk : Keeps s0 s) (hkf : ∀ s, Keeps s0 s → Keeps s0 (f s)) : Keeps s0 (State.frWrite s src word mask f) := by
  unfold State.frWrite
  simp +contextual (maxDischargeDepth := 40) [hk, hkf]

@[simp ↓] theorem State.frCmd_on {s : State} {src : Src} {word : Word} (hk : Keeps s0 s) : Keeps s0 (State.frCmd s src word) := by
  unfold State.frCmd
  repeat' first | (simp +contextual (maxDischargeDepth := 40) [hk]; done) | split | intro _

@[simp ↓] theorem State.frSnapCmd_on {s : State} {src : Src} {word : Word} (hk : Keeps s0 s) : Keeps s0 (State.frSnapCmd s src word) := by
  unfold State.frSnapCmd
  simp +contextual (maxDischargeDepth := 40) [hk]

@[simp ↓] theorem State.frRow_on {s : State} {src : Src} {word : Word} {code : Nat} {low : Nat} {f : State → State} (hk : Keeps s0 s) (hkf : ∀ s, Keeps s0 s → Keeps s0 (f s)) : Keeps s0 (State.frRow s src word code low f) := by
  unfold State.frRow
  simp +contextual (maxDischargeDepth := 40) [hk, hkf]

theorem execFrCmdStop_on {src : Src} {word : Word} {s : State} (hk : Keeps s0 s) : OutOn s0 (execFrCmdStop src word s) := by
  unfold execFrCmdStop
  simp +contextual (maxDischargeDepth := 40) [hk]

theorem execFrCmdRun_on {src : Src} {word : Word} {s : State} (hk : Keeps s0 s) : OutOn s0 (execFrCmdRun src word s) := by
  unfold execFrCmdRun
  simp +contextual (maxDischargeDepth := 40) [hk]

theorem execFrCmdSafe_on {src : Src} {word : Word} {s : State} (hk : Keeps s0 s) : OutOn s0 (execFrCmdSafe src word s) := by
  unfold execFrCmdSafe
  simp +contextual (maxDischargeDepth := 40) [hk]

theorem execFrSnap_on {src : Src} {word : Word} {s : State} (hk : Keeps s0 s) : OutOn s0 (execFrSnap src word s) := by
  unfold execFrSnap
  simp +contextual (maxDischargeDepth := 40) [hk]

@[simp ↓] theorem State.frWrite32_on {s : State} {src : Src} {off : Nat} {w : Word} (hk : Keeps s0 s) : Keeps s0 (State.frWrite32 s src off w) := by
  unfold State.frWrite32
  simp +contextual (maxDischargeDepth := 40) [hk]

@[simp ↓] theorem State.writeAny_on {io : RegIO} {src : Src} {a : Nat} {w : Word} (hio : KeepsIO io) (hk : Keeps s0 s) :
    Keeps s0 (@State.writeAny io s src a w) := by
  unfold State.writeAny
  split
  · exact State.write32_on hio hk
  · exact State.alias32_on hio hk
  · exact State.alias32_on hio hk
  · exact State.alias32_on hio hk
  · exact State.frWrite32_on hk
  · exact State.busErr_on hk

@[simp ↓] theorem State.readReg_on {l : LaneId} {src : Src} {r : RegRow} {i a : Nat} (hk : Keeps s0 s) : Keeps s0 (s.readReg l src r i a) := by
  have h1 := State.ok_on hk (w := s.viewWord l src.req a &&& ~~~ BitVec.ofNat 32 r.wo)
  unfold State.readReg
  refine keeps_ite (State.busErr_on hk) (keeps_ite (State.txnBegin_on hk) (keeps_ite (State.benResv_on hk) (keeps_ite (State.tbLoRead_on hk) (keeps_ite (State.tbHiRead_on hk)
    (keeps_ite (State.indRead_on hk) (keeps_ite (State.counterLo_on hk) ⟨h1.queue, h1.time, h1.laneA, h1.laneB, h1.chest, h1.keeper, h1.flash⟩))))))

@[simp ↓] theorem State.readIn_on {l : LaneId} {src : Src} {a : Nat} (hk : Keeps s0 s) : Keeps s0 (s.readIn l src a) := by
  unfold State.readIn
  refine keeps_ite ?_ (keeps_ite ?_ (State.busErr_on hk))
  · split
    · exact State.ok_on hk
    · exact State.busErr_on hk
  · split
    · exact State.busErr_on hk
    · exact State.readReg_on hk

@[simp ↓] theorem State.readAny_on {s : State} {src : Src} {a : Nat} (hk : Keeps s0 s) : Keeps s0 (State.readAny s src a) := by
  unfold State.readAny
  simp +contextual (maxDischargeDepth := 40) [hk]

theorem regIOver_keeps {io : RegIO} (hio : KeepsIO io) : KeepsIO (regIOver io) :=
  ⟨fun _ _ _ _ hk => State.readAny_on hk, fun _ _ _ _ _ hk => State.writeAny_on hio hk⟩
/-- The register accesses of the module keep what every command keeps. -/
@[simp ↓] theorem regIO_keeps : KeepsIO regIO :=
  regIOver_keeps (regIOver_keeps (regIOver_keeps ⟨fun _ _ _ _ hk => hk, fun _ _ _ _ _ hk => hk⟩))
@[simp ↓] theorem State.regStore_on {src : Src} {a : Nat} {w : Word} (hk : Keeps s0 s) : Keeps s0 (s.regStore src a w) :=
  State.writeAny_on regIO_keeps hk

theorem execDmaAbort_on {src : Src} {key : Half} {ch : Fin 16} {pieces : Nat} {s : State} (hk : Keeps s0 s) : OutOn s0 (execDmaAbort src key ch pieces s) := by
  unfold execDmaAbort
  simp +contextual (maxDischargeDepth := 40) [hk]

theorem State.dmaRun_on {io : RegIO} {l : LaneId} {c : Fin 16} {d : DmaDesc} (hio : KeepsIO io) (hk : Keeps s0 s) : Keeps s0 (@State.dmaRun io s l c d).1 :=
  dmaPieces_on hio hk

theorem rowDmaDescComplete_on {io : RegIO} {lane : LaneId} {ch : Fin 16} {s : State} (hio : KeepsIO io) (hk : Keeps s0 s) :
    OutOn s0 (@rowDmaDescComplete io lane ch s) := by
  unfold rowDmaDescComplete
  dsimp only
  split
  · exact out_next hk
  · rename_i d e
    refine out_ite (out_next hk) (out_ite (out_next (State.dmaFinish_on hio hk)) ?_)
    have h1 := State.dmaRun_on hio hk (l := lane) (c := ch) (d := d)
    split
    · exact out_next hk
    · rename_i s1 n e
      rw [e] at h1
      exact out_next (State.dmaCopied_on hio h1)

@[simp ↓] theorem State.dmaEcc_on {l : LaneId} {ch : Fin 16} {d : DmaDesc} {eccAt : Option Nat} (hk : Keeps s0 s) : Keeps s0 (s.dmaEcc l ch d eccAt) := by
  unfold State.dmaEcc
  split
  · exact hk
  · refine keeps_ite hk ?_
    split
    · exact hk
    · exact keeps_ite (State.upd_on hk fun L hL => ⟨hL.1, hL.2.1, hL.2.2.1, hL.2.2.2⟩) hk

theorem rowDmaFault_on {io : RegIO} {lane : LaneId} {ch : Fin 16} {eccAt : Option Nat} {s : State} (hio : KeepsIO io) (hk : Keeps s0 s) :
    OutOn s0 (@rowDmaFault io lane ch eccAt s) := by
  unfold rowDmaFault
  dsimp only
  split
  · exact out_next hk
  · rename_i d e
    refine out_ite (out_next hk) ?_
    have h1 := State.dmaRun_on hio (State.dmaEcc_on hk (l := lane) (ch := ch) (d := d) (eccAt := eccAt)) (l := lane) (c := ch) (d := d)
    split
    · rename_i s1 n k p a e
      rw [e] at h1
      exact out_next (State.dmaHalt_on h1)
    · exact out_next hk

theorem execRegisterWrite_on {src : Src} {addr : Word} {width : Width} {data : DWord} {s : State} (hk : Keeps s0 s) : OutOn s0 (execRegisterWrite src addr width data s) := by
  unfold execRegisterWrite
  repeat' first | (simp +contextual (maxDischargeDepth := 40) [hk]; done) | split | intro _

@[simp ↓] theorem State.aliasRow_on {s : State} {src : Src} {r : Region} {op : Nat} {base : Nat} {addr : Word} {data : Word} (hk : Keeps s0 s) : Keeps s0 (State.aliasRow s src r op base addr data) := by
  unfold State.aliasRow
  simp +contextual (maxDischargeDepth := 40) [hk]

theorem execAliasSetWrite_on {src : Src} {addr : Word} {data : Word} {s : State} (hk : Keeps s0 s) : OutOn s0 (execAliasSetWrite src addr data s) := by
  unfold execAliasSetWrite
  simp +contextual (maxDischargeDepth := 40) [hk]

theorem execAliasClearWrite_on {src : Src} {addr : Word} {data : Word} {s : State} (hk : Keeps s0 s) : OutOn s0 (execAliasClearWrite src addr data s) := by
  unfold execAliasClearWrite
  simp +contextual (maxDischargeDepth := 40) [hk]

theorem execAliasToggleWrite_on {src : Src} {addr : Word} {data : Word} {s : State} (hk : Keeps s0 s) : OutOn s0 (execAliasToggleWrite src addr data s) := by
  unfold execAliasToggleWrite
  simp +contextual (maxDischargeDepth := 40) [hk]

theorem execAliasRead_on {src : Src} {addr : Word} {s : State} (hk : Keeps s0 s) : OutOn s0 (execAliasRead src addr s) := by
  unfold execAliasRead
  simp +contextual (maxDischargeDepth := 40) [hk]

@[simp ↓] theorem State.tvScrub_on {s : State} {l : LaneId} {a : Nat} {c0 : Word} {c1 : Word} {c2 : Word} (hk : Keeps s0 s) : Keeps s0 (State.tvScrub s l a c0 c1 c2) := by
  unfold State.tvScrub
  repeat' first | (simp +contextual (maxDischargeDepth := 40) [hk]; done) | split | intro _

theorem execTvScrub_on {lane : LaneId} {addr : Word} {c0 : Word} {c1 : Word} {c2 : Word} {s : State} (hk : Keeps s0 s) : OutOn s0 (execTvScrub lane addr c0 c1 c2 s) := by
  unfold execTvScrub
  simp +contextual (maxDischargeDepth := 40) [hk]

end Sys2Proof.Machine
end

