-- ==== Sys2Proof/Laws/KeepsHc.lean ====
section
/-! SUPPORT. Laws/KeepsHc.lean: everything in Machine/Hc.lean keeps what every command keeps (the host channel). -/
namespace Sys2Proof.Machine

variable {s0 s t : State} {L : Lane}

@[simp ↓] theorem State.hcBoth_on {s : State} {f : HcUnit → HcUnit} (hk : Keeps s0 s) : Keeps s0 (State.hcBoth s f) := by
  unfold State.hcBoth
  simp +contextual (maxDischargeDepth := 40) [hk]

@[simp ↓] theorem State.hcSend_on {s : State} {ip : Bytes} {port : Half} {payload : Bytes} (hk : Keeps s0 s) : Keeps s0 (State.hcSend s ip port payload) := by
  unfold State.hcSend
  simp +contextual (maxDischargeDepth := 40) [hk]

@[simp ↓] theorem State.hcReply_on {s : State} {l : LaneId} {h : HcSess} {typ : Nat} {dir : Nat} {seq : Word} {xinfo : Word} {text : Bytes} (hk : Keeps s0 s) : Keeps s0 (State.hcReply s l h typ dir seq xinfo text) := by
  unfold State.hcReply
  simp +contextual (maxDischargeDepth := 40) [hk]

@[simp ↓] theorem State.hcAuthFail_on {s : State} {l : LaneId} (hk : Keeps s0 s) : Keeps s0 (State.hcAuthFail s l) := by
  unfold State.hcAuthFail
  simp +contextual (maxDischargeDepth := 40) [hk]

@[simp ↓] theorem State.hcHello_on {s : State} {d : HcDatagram} (hk : Keeps s0 s) : Keeps s0 (State.hcHello s d) := by
  unfold State.hcHello
  simp +contextual (maxDischargeDepth := 40) [hk]

theorem execHcHello_on {dg : HcDatagram} {s : State} (hk : Keeps s0 s) : OutOn s0 (execHcHello dg s) := by
  unfold execHcHello
  simp +contextual (maxDischargeDepth := 40) [hk]

@[simp ↓] theorem State.hcBegun_on {s : State} {d : HcDatagram} {c : HcChal} (hk : Keeps s0 s) : Keeps s0 (State.hcBegun s d c) := by
  unfold State.hcBegun
  repeat' first | (simp +contextual (maxDischargeDepth := 40) [hk]; done) | split | intro _

@[simp ↓] theorem State.hcOpened_on {s : State} {d : HcDatagram} {c : HcChal} {x0 : Option Bytes} (hk : Keeps s0 s) : Keeps s0 (State.hcOpened s d c x0) := by
  unfold State.hcOpened
  repeat' first | (simp +contextual (maxDischargeDepth := 40) [hk]; done) | split | intro _

@[simp ↓] theorem State.hcOpen_on {s : State} {d : HcDatagram} (hk : Keeps s0 s) : Keeps s0 (State.hcOpen s d) := by
  unfold State.hcOpen
  repeat' first | (simp +contextual (maxDischargeDepth := 40) [hk]; done) | split | intro _

theorem execHcOpen_on {dg : HcDatagram} {s : State} (hk : Keeps s0 s) : OutOn s0 (execHcOpen dg s) := by
  unfold execHcOpen
  simp +contextual (maxDischargeDepth := 40) [hk]

theorem execHcChallengeTimeout_on {s : State} (hk : Keeps s0 s) : OutOn s0 (execHcChallengeTimeout s) := by
  unfold execHcChallengeTimeout
  repeat' first | (simp +contextual (maxDischargeDepth := 40) [hk]; done) | split | intro _

@[simp ↓] theorem hcWords_on {step : Nat → State → State} (hf : ∀ i s, Keeps s0 s → Keeps s0 (step i s)) {read ind : Bool} {n i : Nat} {s : State} {x y : HcAcc}
    (hk : Keeps s0 s) : Keeps s0 (hcWords step read ind n i s x y).1 := by
  induction n generalizing i s x y with
  | zero => exact hk
  | succ n ih =>
    unfold hcWords
    exact keeps_ite_fst hk (ih (hf _ _ ⟨hk.queue, hk.time, hk.laneA, hk.laneB, hk.chest, hk.keeper, hk.flash⟩))

@[simp ↓] theorem State.hcWait_on {s : State} {src : Src} {f : State → State} (hk : Keeps s0 s) (hkf : ∀ s, Keeps s0 s → Keeps s0 (f s)) : Keeps s0 (State.hcWait s src f) := by
  unfold State.hcWait
  simp +contextual (maxDischargeDepth := 40) [hk, hkf]

@[simp ↓] theorem State.hcFault_on {s : State} {l : LaneId} {f : Nat × Nat} (hk : Keeps s0 s) : Keeps s0 (State.hcFault s l f) := by
  unfold State.hcFault
  simp +contextual (maxDischargeDepth := 40) [hk]

@[simp ↓] theorem State.hcBulkRead_on {io : RegIO} {s : State} {l : LaneId} {o : HcOp} (hio : KeepsIO io) (hk : Keeps s0 s) : Keeps s0 (@State.hcBulkRead io s l o).1 := by
  unfold State.hcBulkRead
  dsimp only
  repeat' first | (simp +contextual (maxDischargeDepth := 40) [hio, hk]; done) | split | intro _

@[simp ↓] theorem State.hcBulkWrite_on {io : RegIO} {s : State} {l : LaneId} {o : HcOp} (hio : KeepsIO io) (hk : Keeps s0 s) : Keeps s0 (@State.hcBulkWrite io s l o).1 := by
  unfold State.hcBulkWrite
  dsimp only
  repeat' first | (simp +contextual (maxDischargeDepth := 40) [hio, hk]; done) | split | intro _

@[simp ↓] theorem State.hcBulk_on {io : RegIO} {s : State} {l : LaneId} {o : HcOp} (hio : KeepsIO io) (hk : Keeps s0 s) : Keeps s0 (@State.hcBulk io s l o).1 := by
  unfold State.hcBulk
  simp +contextual (maxDischargeDepth := 40) [hio, hk]

@[simp ↓] theorem hcSame_on {s : State} {r : HcRec} (hk : Keeps s0 s) : Keeps s0 (hcSame s r).1 := by
  unfold hcSame
  simp +contextual (maxDischargeDepth := 40) [hk]

@[simp ↓] theorem State.hcRun_on {o : HcOp} {step : Nat → State → State} {read ind : Bool} {n : Nat} (hk : Keeps s0 s)
    (hf : ∀ i s, Keeps s0 s → Keeps s0 (step i s)) : Keeps s0 (s.hcRun o step read ind n).1 := hcWords_on hf hk

@[simp ↓] theorem State.hcRead_on {s : State} {src : Src} {o : HcOp} (hk : Keeps s0 s) : Keeps s0 (State.hcRead s src o).1 := by
  unfold State.hcRead
  simp +contextual (maxDischargeDepth := 40) [hk]

@[simp ↓] theorem State.hcWrite_on {s : State} {src : Src} {o : HcOp} (hk : Keeps s0 s) : Keeps s0 (State.hcWrite s src o).1 := by
  unfold State.hcWrite
  simp +contextual (maxDischargeDepth := 40) [hk]

@[simp ↓] theorem State.hcIndAddr_on {s : State} {src : Src} {a : Nat} (hk : Keeps s0 s) : Keeps s0 (State.hcIndAddr s src a) := by
  unfold State.hcIndAddr
  simp +contextual (maxDischargeDepth := 40) [hk]

@[simp ↓] theorem State.hcIndRead_on {s : State} {src : Src} {o : HcOp} (hk : Keeps s0 s) : Keeps s0 (State.hcIndRead s src o).1 := by
  unfold State.hcIndRead
  simp +contextual (maxDischargeDepth := 40) [hk]

@[simp ↓] theorem State.hcIndWrite_on {s : State} {src : Src} {o : HcOp} (hk : Keeps s0 s) : Keeps s0 (State.hcIndWrite s src o).1 := by
  unfold State.hcIndWrite
  simp +contextual (maxDischargeDepth := 40) [hk]

@[simp ↓] theorem State.hcSnap_on {s : State} {l : LaneId} (hk : Keeps s0 s) : Keeps s0 (State.hcSnap s l).1 := by
  unfold State.hcSnap
  simp +contextual (maxDischargeDepth := 40) [hk]

@[simp ↓] theorem State.hcBegin_on {s : State} {src : Src} {o : HcOp} (hk : Keeps s0 s) : Keeps s0 (State.hcBegin s src o).1 := by
  unfold State.hcBegin
  simp +contextual (maxDischargeDepth := 40) [hk]

@[simp ↓] theorem State.hcTxn_on {s : State} {src : Src} {l : LaneId} {o : HcOp} (hk : Keeps s0 s) : Keeps s0 (State.hcTxn s src l o).1 := by
  unfold State.hcTxn
  simp +contextual (maxDischargeDepth := 40) [hk]

@[simp ↓] theorem State.hcAlias_on {src : Src} {o : HcOp} (hk : Keeps s0 s) : Keeps s0 (s.hcAlias src o).1 := by
  unfold State.hcAlias
  exact keeps_ite_fst hk (State.hcRun_on hk fun _ _ h => State.alias32_on regIO_keeps h)

@[simp ↓] theorem State.hcMove_on {io : RegIO} {s : State} {src : Src} {l : LaneId} {o : HcOp} (hio : KeepsIO io) (hk : Keeps s0 s) : Keeps s0 (@State.hcMove io s src l o).1 := by
  unfold State.hcMove
  simp +contextual (maxDischargeDepth := 40) [hio, hk]

@[simp ↓] theorem State.hcAck_on {s : State} {src : Src} {l : LaneId} {o : HcOp} (hk : Keeps s0 s) : Keeps s0 (State.hcAck s src l o).1 := by
  unfold State.hcAck
  simp +contextual (maxDischargeDepth := 40) [hk]

@[simp ↓] theorem State.hcAttest_on {s : State} {src : Src} {o : HcOp} (hk : Keeps s0 s) : Keeps s0 (State.hcAttest s src o).1 := by
  unfold State.hcAttest
  simp +contextual (maxDischargeDepth := 40) [hk]

@[simp ↓] theorem State.hcOp_on {io : RegIO} {s : State} {src : Src} {o : HcOp} (hio : KeepsIO io) (hk : Keeps s0 s) : Keeps s0 (@State.hcOp io s src o).1 := by
  unfold State.hcOp
  try dsimp only
  repeat' first | assumption | (simp +contextual (maxDischargeDepth := 40) [hio, hk]; done) | with_reducible refine out_next ?_ | with_reducible refine out_ite ?_ ?_ | with_reducible refine keeps_ite ?_ ?_ | with_reducible refine laneOn_ite ?_ ?_ | with_reducible refine State.upd_on ?_ ?_ | with_reducible refine keeps_foldl ?_ ?_ | with_reducible refine laneOn_foldl ?_ ?_ | with_reducible refine State.each_on ?_ ?_ | with_reducible refine State.perLane_on ?_ ?_ | with_reducible refine State.ok_on ?_ | with_reducible refine State.raise_on ?_ | with_reducible refine State.raiseUp_on ?_ | with_reducible refine State.rtCall_on ?_ ?_ | split | intro _ | (simp +contextual (maxDischargeDepth := 40) [*]; done)

@[simp ↓] theorem State.hcOps_on {io : RegIO} {src : Src} {os : List HcOp} {s : State} {xs ys : List HcRec} (hio : KeepsIO io) (hk : Keeps s0 s) : Keeps s0 (@State.hcOps io s src os xs ys).1 := by
  induction os generalizing s xs ys with
  | nil => exact hk
  | cons o os ih =>
    unfold State.hcOps
    exact keeps_ite_fst (ih (State.hcOp_on hio hk)) (State.hcOp_on hio hk)

@[simp ↓] theorem State.hcBody_on {io : RegIO} {s : State} {src : Src} {body : Bytes} (hio : KeepsIO io) (hk : Keeps s0 s) : Keeps s0 (@State.hcBody io s src body).1 := by
  unfold State.hcBody
  repeat' first | (simp +contextual (maxDischargeDepth := 40) [hio, hk]; done) | split | intro _

@[simp ↓] theorem State.hcClose_on {s : State} (hk : Keeps s0 s) : Keeps s0 (State.hcClose s) := by
  unfold State.hcClose
  simp +contextual (maxDischargeDepth := 40) [hk]

@[simp ↓] theorem State.hcFlush_on {s : State} (hk : Keeps s0 s) : Keeps s0 (State.hcFlush s) := by
  unfold State.hcFlush
  dsimp only
  repeat' first | (simp +contextual (maxDischargeDepth := 40) [hk]; done) | split | intro _

@[simp ↓] theorem State.hcExecute_on {io : RegIO} {s : State} {l : LaneId} {seq : Word} {body : Bytes} (hio : KeepsIO io) (hk : Keeps s0 s) : Keeps s0 (@State.hcExecute io s l seq body) := by
  unfold State.hcExecute
  simp +contextual (maxDischargeDepth := 40) [hio, hk]

@[simp ↓] theorem State.hcRepeat_on {s : State} {l : LaneId} {h : HcSess} {seq : Word} (hk : Keeps s0 s) : Keeps s0 (State.hcRepeat s l h seq) := by
  unfold State.hcRepeat
  dsimp only
  repeat' first | (simp +contextual (maxDischargeDepth := 40) [hk]; done) | split | intro _

@[simp ↓] theorem State.hcServe_on {io : RegIO} {s : State} {d : HcDatagram} {h : HcSess} {x0 : Option Bytes} (hio : KeepsIO io) (hk : Keeps s0 s) : Keeps s0 (@State.hcServe io s d h x0) := by
  unfold State.hcServe
  repeat' first | (simp +contextual (maxDischargeDepth := 40) [hio, hk]; done) | split | intro _

@[simp ↓] theorem State.hcRequest_on {io : RegIO} {s : State} {d : HcDatagram} (hio : KeepsIO io) (hk : Keeps s0 s) : Keeps s0 (@State.hcRequest io s d) := by
  unfold State.hcRequest
  dsimp only
  repeat' first | (simp +contextual (maxDischargeDepth := 40) [hio, hk]; done) | split | intro _

theorem rowHcRequest_on {io : RegIO} {dg : HcDatagram} {s : State} (hio : KeepsIO io) (hk : Keeps s0 s) : OutOn s0 (@rowHcRequest io dg s) := by
  unfold rowHcRequest
  simp +contextual (maxDischargeDepth := 40) [hio, hk]

@[simp ↓] theorem State.hcTaken_on {isEv : Bool} {seq : Word} {text : Bytes} (hk : Keeps s0 s) : Keeps s0 (s.hcTaken isEv seq text) := by
  unfold State.hcTaken
  refine keeps_ite hk (keeps_ite ?_ (State.upd_on hk fun L hL => ⟨hL.1, hL.2.1, hL.2.2.1, hL.2.2.2⟩))
  split
  · exact hk
  · refine State.upd_on hk fun L hL => ⟨hL.1, hL.2.1, hL.2.2.1, fun p => ⟨(hL.2.2.2 p).1, ?_⟩⟩
    exact Nat.le_trans (List.length_filter_le _ _) (hL.2.2.2 p).2

@[simp ↓] theorem State.hcConfirm_on (hk : Keeps s0 s) : Keeps s0 s.hcConfirm := by
  unfold State.hcConfirm
  dsimp only
  split
  · exact hk
  · exact State.hcFlush_on (State.hcTaken_on hk)

theorem execHcResponseConfirm_on {s : State} (hk : Keeps s0 s) : OutOn s0 (execHcResponseConfirm s) := by
  unfold execHcResponseConfirm
  simp +contextual (maxDischargeDepth := 40) [hk]

@[simp ↓] theorem State.hcEvent_on (hk : Keeps s0 s) : Keeps s0 s.hcEvent := by
  unfold State.hcEvent
  dsimp only
  have h1 (F : HcUnit → HcUnit) : Keeps s0 (s.upd s.act fun L => { L with evt := { L.evt with hcq := L.evt.hcq.drop 64 }, hc := F L.hc }) := by
    refine State.upd_on hk fun L hL => ⟨hL.1, hL.2.1, hL.2.2.1, fun p => ⟨(hL.2.2.2 p).1, ?_⟩⟩
    exact Nat.le_trans (List.length_drop ▸ Nat.sub_le _ _) (hL.2.2.2 p).2
  exact keeps_ite hk (keeps_ite (h1 fun _ => _) (State.hcFlush_on (h1 fun _ => _)))

theorem execHcEventFrameSend_on {s : State} (hk : Keeps s0 s) : OutOn s0 (execHcEventFrameSend s) := by
  unfold execHcEventFrameSend
  simp +contextual (maxDischargeDepth := 40) [hk]

theorem execHcEventResend_on {s : State} (hk : Keeps s0 s) : OutOn s0 (execHcEventResend s) := by
  unfold execHcEventResend
  dsimp only
  repeat' first | (simp +contextual (maxDischargeDepth := 40) [hk]; done) | split | intro _

@[simp ↓] theorem State.uartFrame_on {io : RegIO} {s : State} {f : Bytes} (hio : KeepsIO io) (hk : Keeps s0 s) : Keeps s0 (@State.uartFrame io s f) := by
  unfold State.uartFrame
  simp +contextual (maxDischargeDepth := 40) [hio, hk]

theorem rowUartFrame_on {io : RegIO} {frame : Bytes} {s : State} (hio : KeepsIO io) (hk : Keeps s0 s) : OutOn s0 (@rowUartFrame io frame s) := by
  unfold rowUartFrame
  simp +contextual (maxDischargeDepth := 40) [hio, hk]

end Sys2Proof.Machine
end

