-- ==== Sys2Proof/Laws/KeepsGrid.lean ====
section
/-! SUPPORT. Laws/KeepsGrid.lean: everything in Machine/Grid.lean keeps what every command keeps (the instants of the grid). -/
namespace Sys2Proof.Machine

variable {s0 s t : State} {L : Lane}

@[simp ↓] theorem State.olcSwitchNow_on {s : State} (hk : Keeps s0 s) : Keeps s0 (State.olcSwitchNow s) := by
  unfold State.olcSwitchNow
  repeat' first | (simp +contextual (maxDischargeDepth := 40) [hk]; done) | split | intro _

@[simp ↓] theorem State.gridDue_on {s : State} (hk : Keeps s0 s) : Keeps s0 (State.gridDue s) := by
  unfold State.gridDue
  dsimp only
  repeat' first | (simp +contextual (maxDischargeDepth := 40) [hk]; done) | split | intro _

theorem rowOlcSwitch_on {s : State} (hk : Keeps s0 s) : OutOn s0 (rowOlcSwitch s) := by
  unfold rowOlcSwitch
  repeat' first | (simp +contextual (maxDischargeDepth := 40) [hk]; done) | split | intro _

theorem rowCycleStart_on {task : Fin 8} {saveFault : Option (LaneId × Fin 16)} {s : State} (hk : Keeps s0 s) : OutOn s0 (rowCycleStart task saveFault s) := by
  unfold rowCycleStart
  dsimp only
  repeat' first | (simp +contextual (maxDischargeDepth := 40) [hk]; done) | split | intro _

theorem rowLoopSample_on {loop : Fin 128} {s : State} (hk : Keeps s0 s) : OutOn s0 (rowLoopSample loop s) := by
  unfold rowLoopSample
  repeat' first | (simp +contextual (maxDischargeDepth := 40) [hk]; done) | split | intro _

theorem rowPclStepStart_on {s : State} (hk : Keeps s0 s) : OutOn s0 (rowPclStepStart s) := by
  unfold rowPclStepStart
  simp +contextual (maxDischargeDepth := 40) [hk]

end Sys2Proof.Machine
end

