-- ==== Sys2Proof/Laws/KeepsRows.lean ====
section
/-! SUPPORT. Laws/KeepsRows.lean: everything in Machine/Rows.lean keeps what every command keeps (commands that reach registers). -/
namespace Sys2Proof.Machine

variable {s0 s t : State} {L : Lane}

theorem execBenchAgreeTimeout_on {lane : LaneId} {s : State} (hk : Keeps s0 s) : OutOn s0 (execBenchAgreeTimeout lane s) := Out.settle_on regIO_keeps (rowBenchAgreeTimeout_on regIO_keeps hk)

theorem execBenchDeadlineMiss_on {lane : LaneId} {iterations : Nat} {s : State} (hk : Keeps s0 s) : OutOn s0 (execBenchDeadlineMiss lane iterations s) := Out.settle_on regIO_keeps (rowBenchDeadlineMiss_on regIO_keeps hk)

theorem execBenchJobEnd_on {lane : LaneId} {s : State} (hk : Keeps s0 s) : OutOn s0 (execBenchJobEnd lane s) := Out.settle_on regIO_keeps (rowBenchJobEnd_on regIO_keeps hk)

theorem execBenchJobStart_on {lane : LaneId} {s : State} (hk : Keeps s0 s) : OutOn s0 (execBenchJobStart lane s) := rowBenchJobStart_on regIO_keeps hk

theorem execBenchPeerStatus_on {lane : LaneId} {s : State} (hk : Keeps s0 s) : OutOn s0 (execBenchPeerStatus lane s) := Out.settle_on regIO_keeps (rowBenchPeerStatus_on regIO_keeps hk)

theorem execBootEnd_on {s : State} (hk : Keeps s0 s) : OutOn s0 (execBootEnd s) := rowBootEnd_on regIO_keeps hk

theorem execCanTxAttemptStart_on {ch : Fin 8} {s : State} (hk : Keeps s0 s) : OutOn s0 (execCanTxAttemptStart ch s) := Out.settle_on regIO_keeps (rowCanTxAttemptStart_on hk)

theorem execCommitInstant_on {s : State} (hk : Keeps s0 s) : OutOn s0 (execCommitInstant s) := Out.settle_on regIO_keeps (rowCommitInstant_on hk)

theorem execCycleStart_on {task : Fin 8} {saveFault : Option (LaneId × Fin 16)} {s : State} (hk : Keeps s0 s) : OutOn s0 (execCycleStart task saveFault s) := Out.settle_on regIO_keeps (rowCycleStart_on hk)

theorem execDmaChestConfirm_on {ch : Fin 16} {s : State} (hk : Keeps s0 s) : OutOn s0 (execDmaChestConfirm ch s) := rowDmaChestConfirm_on regIO_keeps hk

theorem execDmaDescComplete_on {lane : LaneId} {ch : Fin 16} {s : State} (hk : Keeps s0 s) : OutOn s0 (execDmaDescComplete lane ch s) := rowDmaDescComplete_on regIO_keeps hk

theorem execDmaFault_on {lane : LaneId} {ch : Fin 16} {eccAt : Option Nat} {s : State} (hk : Keeps s0 s) : OutOn s0 (execDmaFault lane ch eccAt s) := rowDmaFault_on regIO_keeps hk

theorem execDmaResume_on {src : Src} {key : Half} {ch : Fin 16} {s : State} (hk : Keeps s0 s) : OutOn s0 (execDmaResume src key ch s) := rowDmaResume_on regIO_keeps hk

theorem execDmaStart_on {src : Src} {key : Half} {ch : Fin 16} {s : State} (hk : Keeps s0 s) : OutOn s0 (execDmaStart src key ch s) := rowDmaStart_on regIO_keeps hk

theorem execHashTimeout_on {can : Bool} {index : Fin 8} {s : State} (hk : Keeps s0 s) : OutOn s0 (execHashTimeout can index s) := rowHashTimeout_on regIO_keeps hk

theorem execHbLoss_on {lane : LaneId} {s : State} (hk : Keeps s0 s) : OutOn s0 (execHbLoss lane s) := rowHbLoss_on regIO_keeps hk

theorem execHcRequest_on {dg : HcDatagram} {s : State} (hk : Keeps s0 s) : OutOn s0 (execHcRequest dg s) := rowHcRequest_on regIO_keeps hk

theorem execHeartbeatReceived_on {lane : LaneId} {viaLink : Bool} {s : State} (hk : Keeps s0 s) : OutOn s0 (execHeartbeatReceived lane viaLink s) := rowHeartbeatReceived_on regIO_keeps hk

theorem execHitlessTakeover_on {s : State} (hk : Keeps s0 s) : OutOn s0 (execHitlessTakeover s) := rowHitlessTakeover_on regIO_keeps hk

theorem execLaneLinkFault_on {s : State} (hk : Keeps s0 s) : OutOn s0 (execLaneLinkFault s) := rowLaneLinkFault_on regIO_keeps hk

theorem execLoopOutputInstant_on {loop : Fin 128} {lateA lateB : Bool} {s : State} (hk : Keeps s0 s) : OutOn s0 (execLoopOutputInstant loop lateA lateB s) := Out.settle_on regIO_keeps (rowLoopOutputInstant_on regIO_keeps hk)

theorem execLoopSample_on {loop : Fin 128} {s : State} (hk : Keeps s0 s) : OutOn s0 (execLoopSample loop s) := Out.settle_on regIO_keeps (rowLoopSample_on hk)

theorem execModeChangeTakesEffect_on {s : State} (hk : Keeps s0 s) : OutOn s0 (execModeChangeTakesEffect s) := rowModeChangeTakesEffect_on regIO_keeps hk

theorem execMstSetpointEval_on {s : State} (hk : Keeps s0 s) : OutOn s0 (execMstSetpointEval s) := Out.settle_on regIO_keeps (rowMstSetpointEval_on hk)

theorem execMstTelegramProcess_on {lane : LaneId} {s : State} (hk : Keeps s0 s) : OutOn s0 (execMstTelegramProcess lane s) := rowMstTelegramProcess_on regIO_keeps hk

theorem execOlcSwitch_on {s : State} (hk : Keeps s0 s) : OutOn s0 (execOlcSwitch s) := Out.settle_on regIO_keeps (rowOlcSwitch_on hk)

theorem execOverrunInstant_on {task : Fin 8} {s : State} (hk : Keeps s0 s) : OutOn s0 (execOverrunInstant task s) := rowOverrunInstant_on regIO_keeps hk

theorem execPclStepStart_on {s : State} (hk : Keeps s0 s) : OutOn s0 (execPclStepStart s) := Out.settle_on regIO_keeps (rowPclStepStart_on hk)

theorem execPowerFail_on {s : State} (hk : Keeps s0 s) : OutOn s0 (execPowerFail s) := rowPowerFail_on regIO_keeps hk

theorem execPredAbort_on {src : Src} {key : Half} {s : State} (hk : Keeps s0 s) : OutOn s0 (execPredAbort src key s) := rowPredAbort_on regIO_keeps hk

theorem execPredDeadlineMiss_on {lane : LaneId} {steps : Nat} {s : State} (hk : Keeps s0 s) : OutOn s0 (execPredDeadlineMiss lane steps s) := Out.settle_on regIO_keeps (rowPredDeadlineMiss_on regIO_keeps hk)

theorem execPredEnd_on {lane : LaneId} {s : State} (hk : Keeps s0 s) : OutOn s0 (execPredEnd lane s) := Out.settle_on regIO_keeps (rowPredEnd_on regIO_keeps hk)

theorem execPredStart_on {src : Src} {key : Half} {s : State} (hk : Keeps s0 s) : OutOn s0 (execPredStart src key s) := rowPredStart_on regIO_keeps hk

theorem execProfilePeriod_on {s : State} (hk : Keeps s0 s) : OutOn s0 (execProfilePeriod s) := Out.settle_on regIO_keeps (rowProfilePeriod_on hk)

theorem execPublishInstant_on {s : State} (hk : Keeps s0 s) : OutOn s0 (execPublishInstant s) := Out.settle_on regIO_keeps (rowPublishInstant_on hk)

theorem execRedDrop_on {src : Src} {key : Half} {s : State} (hk : Keeps s0 s) : OutOn s0 (execRedDrop src key s) := rowRedDrop_on regIO_keeps hk

theorem execRedLaneReset_on {s : State} (hk : Keeps s0 s) : OutOn s0 (execRedLaneReset s) := rowRedLaneReset_on regIO_keeps hk

theorem execResetCmdLane_on {src : Src} {key : Half} {laneA laneB : Bool} {s : State} (hk : Keeps s0 s) : OutOn s0 (execResetCmdLane src key laneA laneB s) := rowResetCmdLane_on regIO_keeps hk

theorem execResvTimeout_on {lane : LaneId} {ring : Fin 2} {s : State} (hk : Keeps s0 s) : OutOn s0 (execResvTimeout lane ring s) := Out.settle_on regIO_keeps (rowResvTimeout_on regIO_keeps hk)

theorem execRunStart_on {s : State} (hk : Keeps s0 s) : OutOn s0 (execRunStart s) := rowRunStart_on regIO_keeps hk

theorem execUartFrame_on {frame : Bytes} {s : State} (hk : Keeps s0 s) : OutOn s0 (execUartFrame frame s) := rowUartFrame_on regIO_keeps hk

end Sys2Proof.Machine
end

