-- ==== Sys2Proof/Laws/Exec.lean ====
section
/-! SUPPORT. Laws/Exec.lean: every command, whatever its row, keeps what every command keeps. -/
namespace Sys2Proof.Machine

variable {s0 s : State}

theorem exec_on (i : Instr) (hk : Keeps s0 s) : OutOn s0 (exec i s) := by
  cases i with
  | powerGood _ _ _ => exact execPowerGood_on hk
  | laneReadyTimeout _ => exact execLaneReadyTimeout_on hk
  | bootEnd => exact execBootEnd_on hk
  | bootWatchdogExpiry _ => exact execBootWatchdogExpiry_on hk
  | resetPin _ _ => exact execResetPin_on hk
  | resetCmdFull _ _ _ => exact execResetCmdFull_on hk
  | resetCmdLane _ _ _ _ => exact execResetCmdLane_on hk
  | bootCfgWrite _ _ => exact execBootCfgWrite_on hk
  | modeCmdStop _ _ => exact execModeCmdStop_on hk
  | modeCmdConfigure _ _ => exact execModeCmdConfigure_on hk
  | modeCmdRun _ _ => exact execModeCmdRun_on hk
  | modeCmdHold _ _ _ => exact execModeCmdHold_on hk
  | modeCmdSafe _ _ => exact execModeCmdSafe_on hk
  | modeCmdNotCommandable _ _ _ => exact execModeCmdNotCommandable_on hk
  | modeChangeTakesEffect => exact execModeChangeTakesEffect_on hk
  | runStart => exact execRunStart_on hk
  | powerFail => exact execPowerFail_on hk
  | chestPowerFailStoreEnd => exact execChestPowerFailStoreEnd_on hk
  | retainEnd _ => exact execRetainEnd_on hk
  | feedLost _ => exact execFeedLost_on hk
  | feedRestored _ => exact execFeedRestored_on hk
  | holdupCharged => exact execHoldupCharged_on hk
  | paceWindowEnd _ _ => exact execPaceWindowEnd_on hk
  | paceMinClr _ => exact execPaceMinClr_on hk
  | registerWrite _ _ _ _ => exact execRegisterWrite_on hk
  | aliasSetWrite _ _ _ => exact execAliasSetWrite_on hk
  | aliasClearWrite _ _ _ => exact execAliasClearWrite_on hk
  | aliasToggleWrite _ _ _ => exact execAliasToggleWrite_on hk
  | aliasRead _ _ => exact execAliasRead_on hk
  | txnBegin _ => exact execTxnBegin_on hk
  | txnCommit _ _ => exact execTxnCommit_on hk
  | txnRollback _ _ => exact execTxnRollback_on hk
  | txnClrCnt _ => exact execTxnClrCnt_on hk
  | commitInstant => exact execCommitInstant_on hk
  | txnIdleTimeout _ => exact execTxnIdleTimeout_on hk
  | pairTimeout _ _ => exact execPairTimeout_on hk
  | imgWrite _ _ _ => exact execImgWrite_on hk
  | imgErase _ _ _ => exact execImgErase_on hk
  | imgCheck _ _ _ => exact execImgCheck_on hk
  | imgLoad _ _ _ => exact execImgLoad_on hk
  | loaderDone _ => exact execLoaderDone_on hk
  | benResv _ _ => exact execBenResv_on hk
  | benPost _ _ _ => exact execBenPost_on hk
  | benRingConfigWrite _ _ _ => exact execBenRingConfigWrite_on hk
  | resvTimeout _ _ => exact execResvTimeout_on hk
  | benchJobStart _ => exact execBenchJobStart_on hk
  | benchDeadlineMiss _ _ => exact execBenchDeadlineMiss_on hk
  | benchJobEnd _ => exact execBenchJobEnd_on hk
  | benchPeerStatus _ => exact execBenchPeerStatus_on hk
  | benchAgreeTimeout _ => exact execBenchAgreeTimeout_on hk
  | pclStepStart => exact execPclStepStart_on hk
  | pclStepEnd => exact execPclStepEnd_on hk
  | retStale _ => exact execRetStale_on hk
  | predStart _ _ => exact execPredStart_on hk
  | predAbort _ _ => exact execPredAbort_on hk
  | predDeadlineMiss _ _ => exact execPredDeadlineMiss_on hk
  | predEnd _ => exact execPredEnd_on hk
  | loopSample _ => exact execLoopSample_on hk
  | loopOutputInstant _ _ _ => exact execLoopOutputInstant_on hk
  | injStart _ _ _ => exact execInjStart_on hk
  | injStop _ _ _ => exact execInjStop_on hk
  | capArm _ _ _ => exact execCapArm_on hk
  | capAbort _ _ _ => exact execCapAbort_on hk
  | profilePeriod => exact execProfilePeriod_on hk
  | setpointLate _ => exact execSetpointLate_on hk
  | holdCurrentDelay _ => exact execHoldCurrentDelay_on hk
  | stallWindowEnd _ _ _ => exact execStallWindowEnd_on hk
  | bridgeFault _ => exact execBridgeFault_on hk
  | axisRef _ _ _ => exact execAxisRef_on hk
  | axisStop _ _ _ => exact execAxisStop_on hk
  | axisSetPos _ _ _ => exact execAxisSetPos_on hk
  | axisTargetWrite _ _ _ _ => exact execAxisTargetWrite_on hk
  | cycleStart _ _ => exact execCycleStart_on hk
  | cycleFinish _ _ _ => exact execCycleFinish_on hk
  | engineTrap _ _ _ _ _ => exact execEngineTrap_on hk
  | publishInstant => exact execPublishInstant_on hk
  | mirrorWindowEnd _ => exact execMirrorWindowEnd_on hk
  | overrunInstant _ => exact execOverrunInstant_on hk
  | rtInfo _ _ => exact execRtInfo_on hk
  | rtNow _ _ => exact execRtNow_on hk
  | rtTmr _ _ _ _ => exact execRtTmr_on hk
  | rtEdge _ _ _ _ => exact execRtEdge_on hk
  | rtHwtStart _ _ _ _ _ => exact execRtHwtStart_on hk
  | rtHwtStop _ _ _ => exact execRtHwtStop_on hk
  | rtHwtQuery _ _ _ => exact execRtHwtQuery_on hk
  | rtForced _ _ _ => exact execRtForced_on hk
  | hwtExpiry _ _ => exact execHwtExpiry_on hk
  | taskRestart _ _ _ => exact execTaskRestart_on hk
  | taskStep _ _ _ => exact execTaskStep_on hk
  | taskClrCnt _ _ _ => exact execTaskClrCnt_on hk
  | debugHalt _ _ => exact execDebugHalt_on hk
  | debugResume _ _ => exact execDebugResume_on hk
  | olcStart _ _ => exact execOlcStart_on hk
  | olcVerifyDone _ => exact execOlcVerifyDone_on hk
  | olcPeerResult _ => exact execOlcPeerResult_on hk
  | olcPeerTimeout _ => exact execOlcPeerTimeout_on hk
  | olcSwitch => exact execOlcSwitch_on hk
  | olcAbort _ _ => exact execOlcAbort_on hk
  | olcRevert _ _ => exact execOlcRevert_on hk
  | olcRelease _ _ => exact execOlcRelease_on hk
  | dmaStart _ _ _ => exact execDmaStart_on hk
  | dmaResume _ _ _ => exact execDmaResume_on hk
  | dmaAbort _ _ _ _ => exact execDmaAbort_on hk
  | dmaDescComplete _ _ => exact execDmaDescComplete_on hk
  | dmaFault _ _ _ => exact execDmaFault_on hk
  | dmaChestConfirm _ => exact execDmaChestConfirm_on hk
  | scrubRead _ _ _ _ => exact execScrubRead_on hk
  | heartbeatSend _ => exact execHeartbeatSend_on hk
  | heartbeatReceived _ _ => exact execHeartbeatReceived_on hk
  | hbLoss _ => exact execHbLoss_on hk
  | laneLinkFault => exact execLaneLinkFault_on hk
  | hashTimeout _ _ => exact execHashTimeout_on hk
  | suspectWindowExpiry => exact execSuspectWindowExpiry_on hk
  | hitlessTakeover => exact execHitlessTakeover_on hk
  | redLaneReset => exact execRedLaneReset_on hk
  | redSwitch _ _ => exact execRedSwitch_on hk
  | redDrop _ _ => exact execRedDrop_on hk
  | redClrCnt _ _ => exact execRedClrCnt_on hk
  | resyncBootEnd => exact execResyncBootEnd_on hk
  | resyncChainEnd => exact execResyncChainEnd_on hk
  | resyncBulkEnd => exact execResyncBulkEnd_on hk
  | resyncDirtyPassEnd _ => exact execResyncDirtyPassEnd_on hk
  | resyncFinal => exact execResyncFinal_on hk
  | resyncTimeout => exact execResyncTimeout_on hk
  | resyncRetry => exact execResyncRetry_on hk
  | ethFrameReceived _ _ _ => exact execEthFrameReceived_on hk
  | ethLinkChange _ _ _ => exact execEthLinkChange_on hk
  | prpSupervisionSend => exact execPrpSupervisionSend_on hk
  | prpLanSilent _ => exact execPrpLanSilent_on hk
  | mstDatagramReceived _ _ _ _ => exact execMstDatagramReceived_on hk
  | mstTelegramProcess _ => exact execMstTelegramProcess_on hk
  | mstValuesVisible => exact execMstValuesVisible_on hk
  | mstSubTimeout _ => exact execMstSubTimeout_on hk
  | mstSetpointEval => exact execMstSetpointEval_on hk
  | mstAckTimeout _ => exact execMstAckTimeout_on hk
  | mstSend _ _ _ => exact execMstSend_on hk
  | mstResume _ _ => exact execMstResume_on hk
  | mstEpoch _ _ _ => exact execMstEpoch_on hk
  | canFrameReceived _ _ _ => exact execCanFrameReceived_on hk
  | canReq _ _ _ => exact execCanReq_on hk
  | canAbort _ _ _ => exact execCanAbort_on hk
  | canTxAttemptStart _ => exact execCanTxAttemptStart_on hk
  | canTxSuccess _ => exact execCanTxSuccess_on hk
  | canArbLost _ => exact execCanArbLost_on hk
  | canTxError _ _ => exact execCanTxError_on hk
  | canBusoffRecovery _ => exact execCanBusoffRecovery_on hk
  | canPeerTxEvent _ => exact execCanPeerTxEvent_on hk
  | canFifoPop _ _ _ => exact execCanFifoPop_on hk
  | tbNowLoRead _ => exact execTbNowLoRead_on hk
  | tbNowHiRead _ => exact execTbNowHiRead_on hk
  | tbWrap => exact execTbWrap_on hk
  | tbRateWrite _ _ => exact execTbRateWrite_on hk
  | tbStep _ _ => exact execTbStep_on hk
  | tbStepApply => exact execTbStepApply_on hk
  | ppsOut => exact execPpsOut_on hk
  | ppsInEdge _ => exact execPpsInEdge_on hk
  | ref10CountEnd _ => exact execRef10CountEnd_on hk
  | ptpRx _ _ _ _ _ _ => exact execPtpRx_on hk
  | ptpRxPop _ => exact execPtpRxPop_on hk
  | ptpSend _ _ _ _ => exact execPtpSend_on hk
  | ptpTxDepart _ => exact execPtpTxDepart_on hk
  | ptpTxLate => exact execPtpTxLate_on hk
  | ptpTxsPop _ => exact execPtpTxsPop_on hk
  | rtcTimeRead _ _ => exact execRtcTimeRead_on hk
  | rtcFreezeTimeout _ => exact execRtcFreezeTimeout_on hk
  | rtcGo _ _ => exact execRtcGo_on hk
  | rtcSetApply => exact execRtcSetApply_on hk
  | rtcOscStop => exact execRtcOscStop_on hk
  | rtcSecond => exact execRtcSecond_on hk
  | rtcWake => exact execRtcWake_on hk
  | rtcWakeWrite _ _ => exact execRtcWakeWrite_on hk
  | mtrIntervalEnd _ _ => exact execMtrIntervalEnd_on hk
  | mtrModFault _ => exact execMtrModFault_on hk
  | mtrModOk _ => exact execMtrModOk_on hk
  | mtrZeroCrossing _ _ _ => exact execMtrZeroCrossing_on hk
  | mtrZcTimeout _ _ => exact execMtrZcTimeout_on hk
  | thqInstant => exact execThqInstant_on hk
  | mtrSave _ _ => exact execMtrSave_on hk
  | thqSave _ _ => exact execThqSave_on hk
  | counterSavePeriod _ => exact execCounterSavePeriod_on hk
  | counterLoRead _ _ => exact execCounterLoRead_on hk
  | diFilterChange _ _ => exact execDiFilterChange_on hk
  | diWireBreak _ => exact execDiWireBreak_on hk
  | diWireBreakEnd _ => exact execDiWireBreakEnd_on hk
  | dqSwitchOnSlot => exact execDqSwitchOnSlot_on hk
  | lplusLow _ => exact execLplusLow_on hk
  | lplusReturn _ => exact execLplusReturn_on hk
  | dqOverload _ => exact execDqOverload_on hk
  | dqOvertemp _ => exact execDqOvertemp_on hk
  | dqCooled _ => exact execDqCooled_on hk
  | dqOpenWire _ => exact execDqOpenWire_on hk
  | dqOpenWireClear _ => exact execDqOpenWireClear_on hk
  | dqClear _ _ _ => exact execDqClear_on hk
  | diClrCnt _ _ _ => exact execDiClrCnt_on hk
  | chestStoreCmd _ _ _ => exact execChestStoreCmd_on hk
  | chestBankStoreEnd => exact execChestBankStoreEnd_on hk
  | chestMarginRead _ page _ => exact execChestMarginRead_on (page := page) hk
  | chestProtWrite _ _ => exact execChestProtWrite_on hk
  | chestLock _ => exact execChestLock_on hk
  | chestGroupOpen _ _ _ _ _ => exact execChestGroupOpen_on hk
  | chestGroupClose _ _ _ => exact execChestGroupClose_on hk
  | chestGroupDiscard _ _ _ => exact execChestGroupDiscard_on hk
  | chestGroupCommitApplied _ => exact execChestGroupCommitApplied_on hk
  | pairRecordWrite _ _ => exact execPairRecordWrite_on hk
  | pairRecordRead _ _ => exact execPairRecordRead_on hk
  | pairUnitDone _ => exact execPairUnitDone_on hk
  | recWatchSample _ => exact execRecWatchSample_on hk
  | recPeriodEnd _ => exact execRecPeriodEnd_on hk
  | recRaise _ _ _ => exact execRecRaise_on hk
  | recRaiseVal _ _ => exact execRecRaiseVal_on hk
  | recTallyRewriteDue _ => exact execRecTallyRewriteDue_on hk
  | recRecordWrite _ => exact execRecRecordWrite_on hk
  | recScanEnd _ => exact execRecScanEnd_on hk
  | recClear _ _ => exact execRecClear_on hk
  | recClrCnt _ _ => exact execRecClrCnt_on hk
  | keyWrite _ _ _ => exact execKeyWrite_on hk
  | keyErase _ _ _ => exact execKeyErase_on hk
  | keyDerive _ _ _ => exact execKeyDerive_on hk
  | keyCmdDone _ => exact execKeyCmdDone_on hk
  | keyForwardedOp _ => exact execKeyForwardedOp_on hk
  | keyScrub _ _ _ => exact execKeyScrub_on hk
  | attest _ _ => exact execAttest_on hk
  | attestDone _ => exact execAttestDone_on hk
  | seedSet _ _ => exact execSeedSet_on hk
  | anchorProgram _ _ _ => exact execAnchorProgram_on hk
  | anchorRevoke _ _ _ => exact execAnchorRevoke_on hk
  | anchorBurnDone => exact execAnchorBurnDone_on hk
  | hcHello _ => exact execHcHello_on hk
  | hcOpen _ => exact execHcOpen_on hk
  | hcChallengeTimeout => exact execHcChallengeTimeout_on hk
  | hcRequest _ => exact execHcRequest_on hk
  | hcResponseConfirm => exact execHcResponseConfirm_on hk
  | hcEventFrameSend => exact execHcEventFrameSend_on hk
  | hcEventResend => exact execHcEventResend_on hk
  | uartFrame _ => exact execUartFrame_on hk
  | indDataRead _ => exact execIndDataRead_on hk
  | indDataWrite _ _ => exact execIndDataWrite_on hk
  | indWriteApplied _ => exact execIndWriteApplied_on hk
  | tvScrub _ _ _ _ _ => exact execTvScrub_on hk
  | snapTake _ _ => exact execSnapTake_on hk
  | snapCapture => exact execSnapCapture_on hk
  | frCmdStop _ _ => exact execFrCmdStop_on hk
  | frCmdRun _ _ => exact execFrCmdRun_on hk
  | frCmdSafe _ _ => exact execFrCmdSafe_on hk
  | frSnap _ _ => exact execFrSnap_on hk
  | evtQPop _ _ _ => exact execEvtQPop_on hk
  | sprintEnter _ _ => exact execSprintEnter_on hk
  | sprintLeave _ _ => exact execSprintLeave_on hk
  | sprintPointReached _ => exact execSprintPointReached_on hk
  | sprintBudgetBin _ => exact execSprintBudgetBin_on hk
  | junctionLimit _ _ => exact execJunctionLimit_on hk
  | backplateLimit _ => exact execBackplateLimit_on hk
  | sprintStepDown _ => exact execSprintStepDown_on hk
  | backplateWarnCross _ => exact execBackplateWarnCross_on hk
  | canBusIntegrated _ => exact execCanBusIntegrated_on hk
  | canRxError _ _ _ => exact execCanRxError_on hk
  | axFltNHigh _ => exact execAxFltNHigh_on hk
  | holdupBankSpent => exact execHoldupBankSpent_on hk
  | chestWrite _ _ _ _ => exact execChestWrite_on hk
  | autoResetAgeOut => exact execAutoResetAgeOut_on hk
  | keygenDone _ => exact execKeygenDone_on hk

/-- A command that answers a next state keeps the sound part of the state, the queue, the time and the burnt anchors. -/
theorem exec_keeps {i : Instr} {s t : State} (h : exec i s = .next t) : Keeps s t := exec_on i (keeps_refl s) t h

end Sys2Proof.Machine
end

