-- ==== Sys2Proof/Laws/State.lean ====
section
/-! SUPPORT. Laws/State.lean: what the named operations over lanes and registers read and leave, one lemma each, so that no
proof unfolds a record update. -/
namespace Sys2Proof.Machine

variable {s t : State} {L M : Lane}

/-! Lanes. -/

@[simp] theorem other_other (l : LaneId) : other (other l) = l := by cases l <;> rfl
@[simp] theorem other_ne (l : LaneId) : other l ≠ l := by cases l <;> decide
theorem lane_cases (k l : LaneId) : k = l ∨ k = other l := by cases k <;> cases l <;> decide

@[simp] theorem setLane_lane (l : LaneId) : (s.setLane l L).lane l = L := by cases l <;> rfl
@[simp] theorem setLane_other (l : LaneId) : (s.setLane l L).lane (other l) = s.lane (other l) := by cases l <;> rfl
theorem setLane_ne {k l : LaneId} (h : k ≠ l) : (s.setLane l L).lane k = s.lane k := by
  cases k <;> cases l <;> first | rfl | exact absurd rfl h
@[simp] theorem upd_lane (l : LaneId) (f : Lane → Lane) : (s.upd l f).lane l = f (s.lane l) := setLane_lane l
@[simp] theorem upd_other (l : LaneId) (f : Lane → Lane) : (s.upd l f).lane (other l) = s.lane (other l) := setLane_other l
theorem upd_ne {k l : LaneId} (f : Lane → Lane) (h : k ≠ l) : (s.upd l f).lane k = s.lane k := setLane_ne h

@[simp] theorem setLane_pending (l : LaneId) : (s.setLane l L).pending = s.pending := by cases l <;> rfl
@[simp] theorem setLane_tb (l : LaneId) : (s.setLane l L).tb = s.tb := by cases l <;> rfl
@[simp] theorem setLane_mode (l : LaneId) : (s.setLane l L).mode = s.mode := by cases l <;> rfl
@[simp] theorem setLane_boot (l : LaneId) : (s.setLane l L).boot = s.boot := by cases l <;> rfl
@[simp] theorem setLane_field (l : LaneId) : (s.setLane l L).field = s.field := by cases l <;> rfl
@[simp] theorem setLane_link (l : LaneId) : (s.setLane l L).link = s.link := by cases l <;> rfl
@[simp] theorem setLane_chest (l : LaneId) : (s.setLane l L).chest = s.chest := by cases l <;> rfl
@[simp] theorem setLane_keeper (l : LaneId) : (s.setLane l L).keeper = s.keeper := by cases l <;> rfl
@[simp] theorem setLane_flash (l : LaneId) : (s.setLane l L).flash = s.flash := by cases l <;> rfl
@[simp] theorem setLane_loader (l : LaneId) : (s.setLane l L).loader = s.loader := by cases l <;> rfl
@[simp] theorem setLane_supply (l : LaneId) : (s.setLane l L).supply = s.supply := by cases l <;> rfl
@[simp] theorem setLane_red (l : LaneId) : (s.setLane l L).red = s.red := by cases l <;> rfl
@[simp] theorem setLane_twins (l : LaneId) : (s.setLane l L).twins = s.twins := by cases l <;> rfl
@[simp] theorem setLane_hello (l : LaneId) : (s.setLane l L).hello = s.hello := by cases l <;> rfl
@[simp] theorem setLane_hcOut (l : LaneId) : (s.setLane l L).hcOut = s.hcOut := by cases l <;> rfl
@[simp] theorem setLane_uartOut (l : LaneId) : (s.setLane l L).uartOut = s.uartOut := by cases l <;> rfl
@[simp] theorem setLane_reply (l : LaneId) : (s.setLane l L).reply = s.reply := by cases l <;> rfl
@[simp] theorem setLane_peerReply (l : LaneId) : (s.setLane l L).peerReply = s.peerReply := by cases l <;> rfl
@[simp] theorem setLane_free (l : LaneId) : (s.setLane l L).free = s.free := by cases l <;> rfl

@[simp] theorem upd_pending (l : LaneId) (f : Lane → Lane) : (s.upd l f).pending = s.pending := setLane_pending l
@[simp] theorem upd_tb (l : LaneId) (f : Lane → Lane) : (s.upd l f).tb = s.tb := setLane_tb l
@[simp] theorem upd_mode (l : LaneId) (f : Lane → Lane) : (s.upd l f).mode = s.mode := setLane_mode l
@[simp] theorem upd_field (l : LaneId) (f : Lane → Lane) : (s.upd l f).field = s.field := setLane_field l
@[simp] theorem upd_link (l : LaneId) (f : Lane → Lane) : (s.upd l f).link = s.link := setLane_link l
@[simp] theorem upd_chest (l : LaneId) (f : Lane → Lane) : (s.upd l f).chest = s.chest := setLane_chest l
@[simp] theorem upd_keeper (l : LaneId) (f : Lane → Lane) : (s.upd l f).keeper = s.keeper := setLane_keeper l
@[simp] theorem upd_flash (l : LaneId) (f : Lane → Lane) : (s.upd l f).flash = s.flash := setLane_flash l
@[simp] theorem upd_supply (l : LaneId) (f : Lane → Lane) : (s.upd l f).supply = s.supply := setLane_supply l
@[simp] theorem upd_red (l : LaneId) (f : Lane → Lane) : (s.upd l f).red = s.red := setLane_red l
@[simp] theorem upd_reply (l : LaneId) (f : Lane → Lane) : (s.upd l f).reply = s.reply := setLane_reply l

@[simp] theorem ok_reply (w : Word) : (s.ok w).reply = .ok w := rfl
@[simp] theorem ok_lane (w : Word) (l : LaneId) : (s.ok w).lane l = s.lane l := by cases l <;> rfl
@[simp] theorem busErr_reply : s.busErr.reply = .busError := rfl
@[simp] theorem busErr_lane (l : LaneId) : s.busErr.lane l = s.lane l := by cases l <;> rfl

@[simp] theorem ticks_tb (n : Nat) : (s.ticks n).tb = { s.tb with count := s.tb.count + n * s.tickU, run := s.tb.run + n * s.tickU } := rfl
@[simp] theorem ticks_lane (n : Nat) (l : LaneId) : (s.ticks n).lane l = s.lane l := by cases l <;> rfl

/-! Registers. -/

/-- Read after write of one register (in a register file in canonical form). -/
theorem get_put (h : rfWf L.rf = true) (a b : Nat) (w : Word) : (L.put a w).get b = if b = a then w else L.get b := spGet_spSet h
theorem put_wf (h : rfWf L.rf = true) (a : Nat) (w : Word) : rfWf (L.put a w).rf = true := spSet_wf h nofun
theorem get_put_same (h : rfWf L.rf = true) (a : Nat) (w : Word) : (L.put a w).get a = w := by simp [get_put h]
theorem get_put_ne (h : rfWf L.rf = true) {a b : Nat} (w : Word) (n : b ≠ a) : (L.put a w).get b = L.get b := by simp [get_put h, n]
theorem get_setFld_ne (h : rfWf L.rf = true) {a b lo n v : Nat} (e : b ≠ a) : (L.setFld a lo n v).get b = L.get b := get_put_ne h _ e
theorem setFld_wf (h : rfWf L.rf = true) (a lo n v : Nat) : rfWf (L.setFld a lo n v).rf = true := put_wf h a _

@[simp] theorem put_phase (a : Nat) (w : Word) : (L.put a w).phase = L.phase := rfl
@[simp] theorem put_mem (a : Nat) (w : Word) : (L.put a w).mem = L.mem := rfl
@[simp] theorem put_evt (a : Nat) (w : Word) : (L.put a w).evt = L.evt := rfl
@[simp] theorem put_img (a : Nat) (w : Word) : (L.put a w).img = L.img := rfl

end Sys2Proof.Machine
end

