-- ==== Sys2Proof/Laws/Events.lean ====
section
/-! SUPPORT. Laws/Events.lean: the delivery of events leaves everything but event state as it was. -/
namespace Sys2Proof.Machine

variable {s t u : State} {L M N : Lane}

theorem Lane.evtFrame_refl (L : Lane) : L.evtFrame L := ⟨rfl, fun h => ⟨h, fun _ _ => rfl⟩⟩

theorem Lane.evtFrame_trans (h : L.evtFrame M) (g : M.evtFrame N) : L.evtFrame N := by
  refine ⟨?_, fun w => ?_⟩
  · rw [g.1]
    conv => lhs; rw [h.1]
  · obtain ⟨w1, e1⟩ := h.2 w
    obtain ⟨w2, e2⟩ := g.2 w1
    exact ⟨w2, fun a ha => (e2 a ha).trans (e1 a ha)⟩

theorem Lane.evtFrame_phase (h : L.evtFrame M) : M.phase = L.phase := by rw [h.1]
theorem Lane.evtFrame_mem (h : L.evtFrame M) : M.mem = L.mem := by rw [h.1]

theorem evtFrame_put (a : Nat) (w : Word) (ha : evtReg a = true) : L.evtFrame (L.put a w) := by
  refine ⟨rfl, fun h => ⟨put_wf h a w, fun b hb => get_put_ne h w ?_⟩⟩
  rintro rfl
  rw [ha] at hb
  cases hb

theorem frame_ite {c : Prop} [Decidable c] (a : L.evtFrame M) (b : L.evtFrame N) : L.evtFrame (if c then M else N) := by
  split
  · exact a
  · exact b
theorem frame_ite_fst {γ : Type} {c : Prop} [Decidable c] {p q : Lane × γ} (a : L.evtFrame p.1) (b : L.evtFrame q.1) :
    L.evtFrame (if c then p else q).1 := by
  split
  · exact a
  · exact b

theorem foldl_frame {α : Type} {f : Lane → α → Lane} (hf : ∀ M a, L.evtFrame M → L.evtFrame (f M a)) (xs : List α) (h : L.evtFrame M) :
    L.evtFrame (xs.foldl f M) := by
  induction xs generalizing M with
  | nil => exact h
  | cons x xs ih => exact ih (hf _ _ h)

theorem foldl_frame_fst {α γ : Type} {f : Lane × γ → α → Lane × γ} (hf : ∀ p a, L.evtFrame p.1 → L.evtFrame (f p a).1) (xs : List α)
    {p : Lane × γ} (h : L.evtFrame p.1) : L.evtFrame (xs.foldl f p).1 := by
  induction xs generalizing p with
  | nil => exact h
  | cons x xs ih => exact ih (hf _ _ h)

theorem evtReg_drop : evtReg 0x40170008 = true := by decide

theorem recDrop_frame (run : Nat) : L.evtFrame (L.recDrop run).1 := by
  have h1 : L.evtFrame (L.incFld 0x40170008 16 16) := evtFrame_put _ _ evtReg_drop
  have h2 : L.evtFrame { L.incFld 0x40170008 16 16 with recU := { (L.incFld 0x40170008 16 16).recU with dropEvAt := some run } } :=
    Lane.evtFrame_trans h1 ⟨rfl, fun h => ⟨h, fun _ _ => rfl⟩⟩
  unfold Lane.recDrop
  exact frame_ite h2 h1

theorem recQueue_frame (run : Nat) (j : RecJob) : L.evtFrame (L.recQueue run j).1 := by
  unfold Lane.recQueue
  split
  · exact ⟨rfl, fun h => ⟨h, fun _ _ => rfl⟩⟩
  · exact recDrop_frame run

theorem setTally_frame (c : Nat) (t : Tally) : L.evtFrame (L.setTally c t) := ⟨rfl, fun h => ⟨h, fun _ _ => rfl⟩⟩

theorem recOccur_frame (tb rtc : Word) (run c : Nat) (v : F32) : L.evtFrame (L.recOccur tb rtc run c v).1 := by
  unfold Lane.recOccur
  exact frame_ite_fst (Lane.evtFrame_trans (setTally_frame _ _) (recQueue_frame _ _))
    (Lane.evtFrame_trans (setTally_frame _ _) (evtFrame_put _ _ evtReg_drop))

theorem recEvent_frame (tb rtc : Word) (run id : Nat) : L.evtFrame (L.recEvent tb rtc run id).1 := by
  unfold Lane.recEvent
  split
  · exact Lane.evtFrame_refl L
  · refine foldl_frame_fst (L := L) (p := (L, false)) (fun p c hp => ?_) _ (Lane.evtFrame_refl L)
    exact Lane.evtFrame_trans hp (recOccur_frame tb rtc run c 0)

theorem evtReg_queue (e : Fin 16) : evtReg (aEvtQ e + 0x10) = true := by
  have := e.isLt
  have h : 0x40011000 ≤ aEvtQ e + 0x10 ∧ aEvtQ e + 0x10 < 0x40011200 := by unfold aEvtQ; omega
  simp [evtReg, h]

theorem evtEngine_frame (r : EvtRec) (e : Fin 16) : L.evtFrame (L.evtEngine r e).1 := by
  have h1 : L.evtFrame (L.incFld (aEvtQ e + 0x10) 16 16) := evtFrame_put _ _ (evtReg_queue e)
  unfold Lane.evtEngine
  dsimp only
  split
  · exact ⟨rfl, fun h => ⟨h, fun _ _ => rfl⟩⟩
  · split
    · exact h1
    · exact Lane.evtFrame_trans h1 ⟨rfl, fun h => ⟨h, fun _ _ => rfl⟩⟩

theorem evtHc_frame (r : EvtRec) : L.evtFrame (L.evtHc r).1 := by
  unfold Lane.evtHc
  split <;> exact ⟨rfl, fun h => ⟨h, fun _ _ => rfl⟩⟩

theorem evtReg_seq {id : Nat} (h : id < 256) : evtReg (aEvtSeq id) = true := by
  have h : 0x40010500 ≤ aEvtSeq id ∧ aEvtSeq id < 0x40010900 := by unfold aEvtSeq; omega
  simp [evtReg, h]

/-- One event of an id of the catalogue. -/
theorem evtOne_frame {id : Nat} (hid : id < 256) (l : LaneId) (tb rtc : Word) (run idx sub : Nat) :
    L.evtFrame (L.evtOne l tb rtc run id idx sub).1 := by
  unfold Lane.evtOne
  have h0 : L.evtFrame (L.recEvent tb rtc run id).1 := recEvent_frame ..
  generalize L.recEvent tb rtc run id = p at h0
  obtain ⟨L0, d⟩ := p
  dsimp only
  split
  · exact h0
  · have h1 : L.evtFrame (L0.putN (aEvtSeq id) (L0.getN (aEvtSeq id) + 1)) := Lane.evtFrame_trans h0 (evtFrame_put _ _ (evtReg_seq hid))
    generalize (L0.putN (aEvtSeq id) (L0.getN (aEvtSeq id) + 1)) = L1 at h1 ⊢
    generalize hx : (List.finRange 16).foldl _ (L1, ([] : List Nat)) = q
    have h2 : L.evtFrame q.1 := by
      subst hx
      refine foldl_frame_fst (fun p e hp => ?_) _ h1
      split
      · exact Lane.evtFrame_trans hp (evtEngine_frame ..)
      · exact hp
    split
    · have h3 := Lane.evtFrame_trans h2 (evtHc_frame (L := q.1)
        { id := id, lane := l, prio := fieldOf (L0.get (aEvtCfg id)) 24 4, seq := L1.get (aEvtSeq id), tb := tb,
          data := BitVec.ofNat 32 (idx % 2 ^ 16 + sub % 2 ^ 8 * 2 ^ 16) })
      exact frame_ite_fst (Lane.evtFrame_trans h3 ⟨rfl, fun h => ⟨h, fun _ _ => rfl⟩⟩) h3
    · exact h2

/-- What follows from an event has an id of the catalogue. -/
theorem evtOne_follow (l : LaneId) (tb rtc : Word) (run id idx sub : Nat) : ∀ p ∈ (L.evtOne l tb rtc run id idx sub).2, p.1 < 256 := by
  unfold Lane.evtOne
  generalize L.recEvent tb rtc run id = p
  obtain ⟨L0, d⟩ := p
  dsimp only
  have h0 : ∀ p ∈ (if d = true then [(0xED, 0)] else [] : List (Nat × Nat)), p.1 < 256 := by
    split <;> simp
  split
  · exact h0
  · have h1 (xs : List Nat) : ∀ p ∈ (if d = true then [(0xED, 0)] else []) ++ xs.map fun e => ((0x0C : Nat), e), p.1 < 256 := by
      intro p hp
      rcases List.mem_append.1 hp with h | h
      · exact h0 p h
      · obtain ⟨e, _, rfl⟩ := List.mem_map.1 h
        exact (by decide : (12 : Nat) < 256)
    have h2 (xs : List Nat) : ∀ p ∈ ((if d = true then [(0xED, 0)] else []) ++ xs.map fun e => ((0x0C : Nat), e)) ++ [(0xDD, 0)], p.1 < 256 := by
      intro p hp
      rcases List.mem_append.1 hp with h | h
      · exact h1 xs p h
      · simp only [List.mem_singleton] at h
        subst h
        decide
    have pick {c : Prop} [Decidable c] {x y : Lane × List (Nat × Nat)} (hx : ∀ p ∈ x.2, p.1 < 256) (hy : ∀ p ∈ y.2, p.1 < 256) :
        ∀ p ∈ (if c then x else y).2, p.1 < 256 := by
      split
      · exact hx
      · exact hy
    exact pick (pick (h2 _) (h1 _)) (h1 _)

theorem evtRound_frame (l : LaneId) (tb rtc : Word) (run : Nat) (evs : List (Nat × Nat × Nat)) (h : ∀ e ∈ evs, e.1 < 256) :
    L.evtFrame (L.evtRound l tb rtc run evs).1 ∧ ∀ p ∈ (L.evtRound l tb rtc run evs).2, p.1 < 256 := by
  unfold Lane.evtRound
  have key (evs : List (Nat × Nat × Nat)) (h : ∀ e ∈ evs, e.1 < 256) (q : Lane × List (Nat × Nat)) (hq : L.evtFrame q.1) (hp : ∀ p ∈ q.2, p.1 < 256) :
      let r := evs.foldl (fun (p : Lane × List (Nat × Nat)) e => ((p.1.evtOne l tb rtc run e.1 e.2.1 e.2.2).1, p.2 ++ (p.1.evtOne l tb rtc run e.1 e.2.1 e.2.2).2)) q
      L.evtFrame r.1 ∧ ∀ p ∈ r.2, p.1 < 256 := by
    induction evs generalizing q with
    | nil => exact ⟨hq, hp⟩
    | cons x xs ih =>
      refine ih (fun e he => h e (by simp [he])) _ (Lane.evtFrame_trans hq (evtOne_frame (h x (by simp)) ..)) fun p hpm => ?_
      rcases List.mem_append.1 hpm with g | g
      · exact hp p g
      · exact evtOne_follow _ _ _ _ _ _ _ p g
  exact key evs h (L, []) (Lane.evtFrame_refl L) (by simp)

theorem evtAll_frame (l : LaneId) (tb rtc : Word) (run n : Nat) (evs : List (Nat × Nat × Nat)) (h : ∀ e ∈ evs, e.1 < 256) :
    L.evtFrame (Lane.evtAll l tb rtc run n L evs) := by
  induction n generalizing L evs with
  | zero => exact Lane.evtFrame_refl L
  | succ n ih =>
    unfold Lane.evtAll
    have h1 := evtRound_frame (L := L) l tb rtc run evs h
    generalize L.evtRound l tb rtc run evs = r at h1
    dsimp only
    split
    · exact h1.1
    · refine Lane.evtFrame_trans h1.1 (ih _ fun e he => ?_)
      obtain ⟨p, hp, rfl⟩ := List.mem_map.1 he
      exact h1.2 p hp

/-- An event changes event state in the lane that raises it and nothing else. -/
theorem raise_lane {id : Nat} (hid : id < 256) (l : LaneId) (idx sub : Nat) : (s.lane l).evtFrame ((s.raise l id idx sub).lane l) := by
  unfold State.raise
  split
  · rw [upd_lane]
    generalize (20 : Nat) = n
    exact evtAll_frame _ _ _ _ _ _ fun e he => by
      simp only [List.mem_singleton] at he
      subst he
      exact hid
  · exact Lane.evtFrame_refl _
theorem raise_ne {k l : LaneId} (h : k ≠ l) (id idx sub : Nat) : (s.raise l id idx sub).lane k = s.lane k := by
  unfold State.raise
  split
  · exact upd_ne _ h
  · rfl
theorem raise_off (l : LaneId) (id idx sub : Nat) :
    s.raise l id idx sub = { s with laneA := (s.raise l id idx sub).laneA, laneB := (s.raise l id idx sub).laneB } := by
  unfold State.raise
  split
  · cases l <;> rfl
  · rfl

theorem State.evtFrame_refl (s : State) : s.evtFrame s := ⟨rfl, Lane.evtFrame_refl _, Lane.evtFrame_refl _⟩
theorem State.evtFrame_trans (h : s.evtFrame t) (g : t.evtFrame u) : s.evtFrame u := by
  refine ⟨?_, Lane.evtFrame_trans h.2.1 g.2.1, Lane.evtFrame_trans h.2.2 g.2.2⟩
  rw [g.1]
  conv => lhs; rw [h.1]

theorem raise_frame {id : Nat} (hid : id < 256) (l : LaneId) (idx sub : Nat) : s.evtFrame (s.raise l id idx sub) := by
  have key (k : LaneId) : (s.lane k).evtFrame ((s.raise l id idx sub).lane k) := by
    by_cases h : k = l
    · subst h
      exact raise_lane hid k idx sub
    · rw [raise_ne h]
      exact Lane.evtFrame_refl _
  exact ⟨raise_off .., key .a, key .b⟩

theorem raiseUp_frame {id : Nat} (hid : id < 256) (idx sub : Nat) : s.evtFrame (s.raiseUp id idx sub) := by
  unfold State.raiseUp State.each
  have key (ls : List LaneId) (u : State) (h : s.evtFrame u) : s.evtFrame (ls.foldl (fun s l => s.raise l id idx sub) u) := by
    induction ls generalizing u with
    | nil => exact h
    | cons x xs ih => exact ih _ (State.evtFrame_trans h (raise_frame hid ..))
  exact key _ s (State.evtFrame_refl s)

end Sys2Proof.Machine
end

