-- ==== Sys2Proof/Laws/Lanes.lean ====
section
/-! SUPPORT. Laws/Lanes.lean: a source's command, lane by lane (R481): what each lane it acts in does makes what the module
does. -/
namespace Sys2Proof.Machine

variable {s t u v : State} {L : Lane} {l : LaneId}

theorem State.offLanes_refl (s : State) : s.offLanes s := rfl
theorem State.offLanes_trans (h : s.offLanes t) (g : t.offLanes u) : s.offLanes u := by
  unfold State.offLanes at *
  rw [g]
  conv => lhs; rw [h]

/-- From `u` to `v` in lane `l`: that lane is `L` and the events it raised, the other lane stands, nothing else but the
completion moves. -/
def LaneStep (l : LaneId) (u v : State) (L : Lane) : Prop :=
  u.offLanes v ∧ L.evtFrame (v.lane l) ∧ v.lane (other l) = u.lane (other l)

theorem LaneStep.refl (l : LaneId) (u : State) : LaneStep l u u (u.lane l) := ⟨rfl, Lane.evtFrame_refl _, rfl⟩
theorem LaneStep.upd (l : LaneId) (u : State) (g : Lane → Lane) : LaneStep l u (u.upd l g) (g (u.lane l)) := by
  refine ⟨?_, ?_, upd_other l g⟩
  · cases l <;> rfl
  · rw [upd_lane]
    exact Lane.evtFrame_refl _
theorem LaneStep.setLane (l : LaneId) (u : State) (M : Lane) : LaneStep l u (u.setLane l M) M := LaneStep.upd l u fun _ => M
theorem LaneStep.raise (h : LaneStep l u v L) {id : Nat} (hid : id < 256) {idx sub : Nat} : LaneStep l u (v.raise l id idx sub) L := by
  refine ⟨State.offLanes_trans h.1 ?_, Lane.evtFrame_trans h.2.1 (raise_lane hid l idx sub), ?_⟩
  · unfold State.offLanes State.raise
    split
    · cases l <;> rfl
    · rfl
  · rw [raise_ne (other_ne l)]
    exact h.2.2
theorem LaneStep.ok (h : LaneStep l u v L) {w : Word} : LaneStep l u (v.ok w) L := by
  refine ⟨State.offLanes_trans h.1 rfl, ?_, ?_⟩
  · rw [ok_lane]
    exact h.2.1
  · rw [ok_lane]
    exact h.2.2
theorem LaneStep.busErr (h : LaneStep l u v L) : LaneStep l u v.busErr L := by
  refine ⟨State.offLanes_trans h.1 rfl, ?_, ?_⟩
  · rw [busErr_lane]
    exact h.2.1
  · rw [busErr_lane]
    exact h.2.2

/-- The lanes an access can reach. -/
theorem reached_cases (s : State) (src : Src) (wr : Bool) :
    s.reached src wr = [] ∨ (∃ l, s.reached src wr = [l]) ∨ s.reached src wr = [.a, .b] := by
  have one (l : LaneId) : [l].filter s.isUp = [] ∨ (∃ k, [l].filter s.isUp = [k]) ∨ [l].filter s.isUp = [.a, .b] := by
    cases h : s.isUp l
    · exact .inl (by simp [h])
    · exact .inr (.inl ⟨l, by simp [h]⟩)
  have two : [LaneId.a, .b].filter s.isUp = [] ∨ (∃ k, [LaneId.a, .b].filter s.isUp = [k]) ∨ [LaneId.a, .b].filter s.isUp = [.a, .b] := by
    cases ha : s.isUp .a <;> cases hb : s.isUp .b
    · exact .inl (by simp [ha, hb])
    · exact .inr (.inl ⟨.b, by simp [ha, hb]⟩)
    · exact .inr (.inl ⟨.a, by simp [ha, hb]⟩)
    · exact .inr (.inr (by simp [ha, hb]))
  unfold State.reached
  cases src.req with
  | hc => exact two
  | hcBulk => exact two
  | uart => exact one _
  | debugger =>
    show ([src.lane].filter fun l => s.debugMay l wr).filter s.isUp = [] ∨ _
    cases h : s.debugMay src.lane wr
    · exact .inl (by simp [h])
    · have e : ([src.lane].filter fun l => s.debugMay l wr) = [src.lane] := by simp [h]
      rw [e]
      exact one _
  | engine => exact one _
  | dma => exact one _
  | unit => exact one _

theorem offLanes_peerReply (s t : State) (r : Reply) (h : s.offLanes t) : s.offLanes { t with peerReply := r } := by
  unfold State.offLanes at *
  rw [h]

/-- An access whose step in each lane it reaches is `E`. -/
theorem perLaneIn_inThe {ls : List LaneId} {f : LaneId → State → State} {E : LaneId → Lane → Lane} {r : Reply}
    (hc : ls = [] ∨ (∃ l, ls = [l]) ∨ ls = [.a, .b]) (hne : ls ≠ [])
    (hf : ∀ l ∈ ls, ∀ u, s.offLanes u → u.lane l = s.lane l → LaneStep l u (f l u) (E l (s.lane l)) ∧ (f l u).reply = r) :
    s.inThe ls E (s.perLaneIn ls f) ∧ (s.perLaneIn ls f).reply = r := by
  rcases hc with h | ⟨l, h⟩ | h
  · exact absurd h hne
  · have h1 := hf l (by simp [h]) s rfl rfl
    have hp : s.perLaneIn ls f = f l s := by simp [State.perLaneIn, h]
    rw [hp]
    refine ⟨⟨h1.1.1, fun k => ?_⟩, h1.2⟩
    rw [h]
    rcases lane_cases k l with rfl | rfl
    · rw [if_pos (by simp)]
      exact h1.1.2.1
    · rw [if_neg (by simp)]
      exact h1.1.2.2
  · have main (p q : LaneId) (hpq : q = other p) (hm : ∀ k : LaneId, k = p ∨ k = q) (hin : ∀ k : LaneId, k ∈ ls) :
        s.inThe ls E { f q (f p s) with peerReply := (f p s).reply } ∧ (f q (f p s)).reply = r := by
      have h1 := hf p (hin p) s rfl rfl
      have h2 := hf q (hin q) (f p s) h1.1.1 (by rw [hpq]; exact h1.1.2.2)
      refine ⟨⟨offLanes_peerReply _ _ _ (State.offLanes_trans h1.1.1 h2.1.1), fun k => ?_⟩, h2.2⟩
      rw [if_pos (hin k)]
      have hl (x : State) (r : Reply) (k : LaneId) : ({ x with peerReply := r } : State).lane k = x.lane k := by cases k <;> rfl
      have hg := hl (f q (f p s)) (f p s).reply k
      rw [hg]
      rcases hm k with rfl | rfl
      · have := h2.1.2.2
        rw [hpq, other_other] at this
        rw [hpq, this]
        exact h1.1.2.1
      · exact h2.1.2.1
    have hin (k : LaneId) : k ∈ ls := by rw [h]; cases k <;> simp
    rcases lane_cases s.act .a with ha | ha
    · have hp : s.perLaneIn ls f = { f .a (f .b s) with peerReply := (f .b s).reply } := by
        simp [State.perLaneIn, h, ha, State.each]
      rw [hp]
      exact main .b .a rfl (fun k => by cases k <;> simp) hin
    · have hp : s.perLaneIn ls f = { f .b (f .a s) with peerReply := (f .a s).reply } := by
        simp [State.perLaneIn, h, ha, State.each, other]
      rw [hp]
      exact main .a .b rfl (fun k => by cases k <;> simp) hin

/-- A command of a source whose step in each lane it acts in is `E`. -/
theorem perLane_inLanes {src : Src} {f : LaneId → State → State} {E : LaneId → Lane → Lane} {r : Reply} (hne : s.lanesOf src ≠ [])
    (hf : ∀ l ∈ s.lanesOf src, ∀ u, s.offLanes u → u.lane l = s.lane l → LaneStep l u (f l u) (E l (s.lane l)) ∧ (f l u).reply = r) :
    s.inLanes src E (s.perLane src f) ∧ (s.perLane src f).reply = r := perLaneIn_inThe (reached_cases s src true) hne hf
/-- The same for a read. -/
theorem perLaneRead_inThe {src : Src} {f : LaneId → State → State} {E : LaneId → Lane → Lane} {r : Reply} (hne : s.readersOf src ≠ [])
    (hf : ∀ l ∈ s.readersOf src, ∀ u, s.offLanes u → u.lane l = s.lane l → LaneStep l u (f l u) (E l (s.lane l)) ∧ (f l u).reply = r) :
    s.inThe (s.readersOf src) E (s.perLaneRead src f) ∧ (s.perLaneRead src f).reply = r := perLaneIn_inThe (reached_cases s src false) hne hf

/-- A command of the module as a whole that is not the second of twins: its own effect, and perhaps a note that its twin is to
come (R531). -/
theorem joined_first {src : Src} {addr : Nat} {word : Word} (f : State → State) (h : s.first src addr word = true) :
    ∃ tw, s.joined src addr word f = { f s with twins := tw } := by
  unfold State.first at h
  unfold State.joined
  split
  · rename_i e he
    rw [he] at h
    dsimp only at h
    split
    · rename_i hd
      simp only [hd, Bool.true_and, Bool.not_eq_true', List.any_eq_false] at h
      have hn : (s.twins.find? fun t => t.1 == other src.lane && t.2.1 == e && t.2.2.1 == addr && t.2.2.2.1 == word) = none := by
        rw [List.find?_eq_none]
        exact h
      rw [hn]
      exact ⟨_, rfl⟩
    · exact ⟨_, rfl⟩
  · exact ⟨_, rfl⟩

theorem next_joined {src : Src} {addr : Nat} {word : Word} {f : State → State} (h : s.first src addr word = true) (e : f s = t) :
    ∃ tw, (Host.Outcome.next (s.joined src addr word f) : Out) = .next { t with twins := tw } := by
  obtain ⟨tw, k⟩ := joined_first f h
  exact ⟨tw, by rw [k, e]⟩

/-- A command of a source whose step `f` in each lane it acts in is `g` there, where one lane's step does not undo what the
other lane's needs. -/
theorem perLane_congr {src : Src} {f g : LaneId → State → State} {P : LaneId → State → Prop} (h : ∀ l ∈ s.lanesOf src, P l s)
    (hf : ∀ l u, P l u → f l u = g l u) (hs : ∀ l u, P (other l) u → P (other l) (g l u)) : s.perLane src f = s.perLane src g := by
  rcases reached_cases s src true with e | ⟨l, e⟩ | e
  · simp [State.perLane, State.lanesOf, State.perLaneIn, e]
  · have := hf l s (h l (by simp [State.lanesOf, e]))
    simp [State.perLane, State.lanesOf, State.perLaneIn, e, this]
  · have ha := h .a (by simp [State.lanesOf, e])
    have hb := h .b (by simp [State.lanesOf, e])
    rcases lane_cases s.act .a with e1 | e1
    · have h1 := hf .b s hb
      have h2 := hf .a (g .b s) (hs .b s ha)
      simp [State.perLane, State.lanesOf, State.perLaneIn, e, e1, State.each, h1, h2]
    · have h1 := hf .a s ha
      have h2 := hf .b (g .a s) (hs .a s hb)
      simp [State.perLane, State.lanesOf, State.perLaneIn, e, e1, State.each, other, h1, h2]

end Sys2Proof.Machine
end

