-- ==== Sys2Proof/Laws/Claims.lean ====
section
/-! SUPPORT. Laws/Claims.lean: what single operations do, said once for the statements' proofs to cite. -/
namespace Sys2Proof.Machine

/-- A source that acts in one lane acts there alone (R481). -/
theorem perLane_one {s : State} {src : Src} {l : LaneId} (hl : s.lanesOf src = [l]) (f : LaneId → State → State) : s.perLane src f = f l s := by
  simp [State.perLane, State.perLaneIn, hl]

/-! What a full reset keeps of the Chest and of a lane's registers (R54, R55). -/
theorem recall_lock (c : Chest) : c.recall.lock = c.lock := by
  unfold Chest.recall
  have key (xs : List Nat) (f : Chest → Nat → Chest) (hf : ∀ c b, (f c b).lock = c.lock) (c : Chest) : (xs.foldl f c).lock = c.lock := by
    induction xs generalizing c with
    | nil => rfl
    | cons x xs ih => exact (ih _).trans (hf _ _)
  refine (key _ _ (fun c b => ?_) _).trans rfl
  dsimp only
  have h1 (c : Chest) (b : Nat) (f : Bank → Bank) : (c.bankUpd b f).lock = c.lock := by unfold Chest.bankUpd; split <;> rfl
  rw [h1]
  split
  · split
    · rfl
    · split <;> rw [h1]
  · split
    · rfl
    · split <;> rw [h1]

theorem wiped_get (L : Lane) (r cause a : Nat) : (L.wiped r cause).get a =
    if a = 0x401A0018 then withField (resetWord 0x401A0018) 0 16 (if cause = 0 then 0 else L.fld 0x401A0018 0 16)
    else if a = 0x40180004 then L.get 0x40180004
    else if a = 0x4000000C then (if cause = 0 then 1 else withField (L.get 0x4000000C) cause 1 1) else resetWord a := by
  have w0 : rfWf ([] : List (Nat × Word)) = true := rfl
  unfold Lane.wiped
  dsimp only
  generalize hL0 : ({ Lane.init with phase := LanePhase.booting, bootAt := r, keys := { KeyUnit.init with slots := L.keys.slots }, red := { RedLane.init with hbLink := r, hbField := r, lastSent := r }, sprint := { SprintUnit.init with binAt := r } } : Lane) = L0
  have h0 : L0.rf = [] := by subst hL0; rfl
  have hw0 : rfWf L0.rf = true := by rw [h0]; rfl
  have hg : ∀ a, L0.get a = resetWord a := by intro a; unfold Lane.get; rw [h0]; rfl
  have h1 := put_wf hw0 0x4000000C (if cause = 0 then 1 else withField (L.get 0x4000000C) cause 1 1)
  have h2 := put_wf h1 0x40180004 (L.get 0x40180004)
  unfold Lane.setFld
  rw [get_put h2]
  split
  · rw [get_put h1, get_put hw0, hg]
    simp
  · rw [get_put h1]
    split
    · rfl
    · rw [get_put hw0, hg]

/-! Time passing changes no mode. -/
theorem advTo_mode (s : State) (d : Nat) : (s.advTo d).mode = s.mode := by unfold State.advTo; split <;> rfl

/-! A write of EVT_SRC_CFG, the register the alias rules are stated on (R36, R37, R294): where it stands, what its bits keep, what a write does in one lane and in all of a source's lanes. -/
def evtRow : RegRow := rwT "EVT_SRC_CFG" 0x40010100 0x8F01FFFF 256 4 0x88010000

theorem regAt_evt : ∀ id : Fin 256, regAt (0x40010100 + 4 * id.val) = some (evtRow, id.val, 0) := by decide +kernel

theorem evt_merge (old w : Word) : evtRow.merge old w = (old &&& ~~~ 0x8F01FFFF) ||| (w &&& 0x8F01FFFF) := by
  simp only [RegRow.merge, evtRow, rwT]
  rw [show (BitVec.ofNat 32 0 : Word) = 0#32 from rfl, BitVec.and_zero, BitVec.not_zero, BitVec.and_allOnes, BitVec.or_zero]
  rfl

theorem evt_prio (old w : Word) : fieldOf ((old &&& ~~~ 0x8F01FFFF) ||| (w &&& 0x8F01FFFF)) 24 4 = fieldOf w 24 4 := by
  apply Nat.eq_of_testBit_eq
  intro j
  rw [fieldOf_bit, fieldOf_bit]
  by_cases h : j < 4
  · have : j = 0 ∨ j = 1 ∨ j = 2 ∨ j = 3 := by omega
    rcases this with rfl | rfl | rfl | rfl <;> simp
  · simp [h]

theorem evt_step (s u : State) (l : LaneId) (src : Src) (id : Fin 256) (a : Nat) (w : Word) (ha : a = 0x40010100 + 4 * id.val)
    (hr : evtReserved id.val = false) (hp : 1 ≤ fieldOf w 24 4) (hu : u.lane l = s.lane l)
    (ht : (s.lane l).txnState = 0 ∧ ∀ p ∈ (s.lane l).txn.pairs, p.addr ≠ a) :
    LaneStep l u (u.regWrite l src evtRow id.val 0 a w) (((s.lane l).tvClear a).put a (((s.lane l).get a &&& ~~~ 0x8F01FFFF) ||| (w &&& 0x8F01FFFF))) ∧
      (u.regWrite l src evtRow id.val 0 a w).reply = .ok 0 := by
  have hid := id.isLt
  have hv : (u.lane l).viewOf src.req a = (s.lane l).get a := by
    rw [hu]
    unfold Lane.viewOf
    rw [if_neg (by rw [ht.1]; simp)]
    have : ((s.lane l).txn.pairs.find? fun p => p.addr == a) = none := by
      rw [List.find?_eq_none]
      intro p hp
      simpa using ht.2 p hp
    rw [this]
  have hb : a / 0x10000 = 0x4001 := by omega
  have hok : u.regOk l src.req evtRow.name a id.val 0 (((s.lane l).get a &&& ~~~ 0x8F01FFFF) ||| (w &&& 0x8F01FFFF)) = true := by
    unfold State.regOk
    simp only [hb]
    rw [evt_prio]
    simp [evtRow, rwT, hr, hp]
  have e : u.regWrite l src evtRow id.val 0 a w = (u.applyWord l a (((s.lane l).get a &&& ~~~ 0x8F01FFFF) ||| (w &&& 0x8F01FFFF))).ok := by
    unfold State.regWrite
    dsimp only
    rw [if_neg (by omega)]
    have : u.ownWrite l src evtRow id.val 0 a w = none := by
      unfold State.ownWrite
      rfl
    rw [this]
    dsimp only
    have hbase : u.baseOf l src.req a = (s.lane l).get a := by
      unfold State.baseOf
      rw [if_neg (by omega)]
      exact hv
    rw [if_neg (show ¬ (evtRow.rw = 0 ∧ evtRow.w1c = 0 ∧ evtRow.w1s = 0) by decide), if_pos (show evtRow.t ≠ 0 ∨ evtRow.pair ≠ .none by decide), hbase, evt_merge, hok]
    simp only [Bool.not_true, Bool.false_eq_true, if_false]
    unfold State.place
    dsimp only
    rw [if_neg (by rw [hu, ht.1]; simp)]
    rfl
  have e2 (v : Word) : u.applyWord l a v = (u.upd l (·.tvClear a)).upd l (·.put a v) := by
    unfold State.applyWord
    dsimp only
    rw [if_neg (by omega), if_neg (by omega), if_neg (by omega), if_neg (by omega), if_neg (by omega), if_neg (by omega), if_neg (by omega), if_neg (by omega), if_neg (by omega)]
  rw [e, e2]
  refine ⟨?_, rfl⟩
  have h1 := LaneStep.upd l u fun L => (L.tvClear a).put a (((s.lane l).get a &&& ~~~ 0x8F01FFFF) ||| (w &&& 0x8F01FFFF))
  rw [hu] at h1
  have h2 : (u.upd l (·.tvClear a)).upd l (·.put a (((s.lane l).get a &&& ~~~ 0x8F01FFFF) ||| (w &&& 0x8F01FFFF))) =
      u.upd l fun L => (L.tvClear a).put a (((s.lane l).get a &&& ~~~ 0x8F01FFFF) ||| (w &&& 0x8F01FFFF)) := by
    cases l <;> rfl
  rw [h2]
  exact h1.ok

theorem evt_alias (s : State) (src : Src) (op : Nat) (id : Fin 256) (a : Nat) (w : Word) (ha : a = 0x40010100 + 4 * id.val)
    (hr : evtReserved id.val = false) (hl : s.lanesOf src ≠ []) (hc : s.closed src a = false)
    (ht : ∀ l ∈ s.lanesOf src, (s.lane l).txnState = 0 ∧ ∀ p ∈ (s.lane l).txn.pairs, p.addr ≠ a)
    (hp : ∀ l ∈ s.lanesOf src, 1 ≤ fieldOf (aliasWord op ((s.lane l).get a) w &&& 0x8F01FFFF) 24 4) :
    s.inLanes src (fun _ L => (L.tvClear a).put a ((L.get a &&& ~~~ 0x8F01FFFF) ||| (aliasWord op (L.get a) w &&& 0x8F01FFFF))) (@State.alias32 regIO s src op a w) ∧
      (@State.alias32 regIO s src op a w).reply = .ok 0 := by
  have hid := id.isLt
  unfold State.alias32
  rw [if_neg (by simp [hl, hc]; omega), show regAt a = some (evtRow, id.val, 0) by rw [ha]; exact regAt_evt id]
  dsimp only
  rw [if_neg (by simp [ringDenied, evtRow, rwT]), if_neg (by decide), if_neg (by decide)]
  refine perLane_inLanes hl fun l hm u _ e => ?_
  rw [if_neg (by rintro ⟨h, _⟩; revert h; decide), if_pos (by decide)]
  have hv : (u.lane l).viewOf src.req a = (s.lane l).get a := by
    rw [e]
    unfold Lane.viewOf
    rw [if_neg (by rw [(ht l hm).1]; simp)]
    have : ((s.lane l).txn.pairs.find? fun p => p.addr == a) = none := by
      rw [List.find?_eq_none]
      intro p hp
      simpa using (ht l hm).2 p hp
    rw [this]
  have hbase : u.baseOf l src.req a = (s.lane l).get a := by
    unfold State.baseOf
    rw [if_neg (by omega)]
    exact hv
  rw [hbase]
  have h := evt_step s u l src id a (aliasWord op ((s.lane l).get a) w &&& 0x8F01FFFF) ha hr (hp l hm) e (ht l hm)
  rw [show aliasWord op ((s.lane l).get a) w &&& 0x8F01FFFF &&& 0x8F01FFFF = aliasWord op ((s.lane l).get a) w &&& 0x8F01FFFF by rw [BitVec.and_assoc, BitVec.and_self]] at h
  exact h

/-! An access refused in every lane moves nothing but the completion. -/
/-- Nothing but the completion moves. -/
def still (s t : State) : Prop := s.offLanes t ∧ ∀ l, t.lane l = s.lane l

theorem still_busErr {s t : State} (h : still s t) (hr : t.reply = .busError) (src : Src) :
    t.reply = .busError ∧ s.inLanes src (fun _ L => L) t := by
  refine ⟨hr, h.1, fun l => ?_⟩
  rw [h.2]
  split
  · exact Lane.evtFrame_refl _
  · rfl

theorem perLaneIn_busErr (src : Src) (ls : List LaneId) {f : LaneId → State → State} (hf : ∀ l u, f l u = u.busErr) (s : State) :
    (s.perLaneIn ls f).reply = .busError ∧ s.inLanes src (fun _ L => L) (s.perLaneIn ls f) := by
  have hfe : f = fun _ u => u.busErr := funext fun l => funext fun u => hf l u
  subst hfe
  have hb (u : State) : still s u → still s u.busErr := fun h => ⟨by have := h.1; unfold State.offLanes at *; rw [this]; rfl, fun l => by rw [busErr_lane]; exact h.2 l⟩
  have hs : still s s := ⟨rfl, fun _ => rfl⟩
  unfold State.perLaneIn
  split
  · exact still_busErr (hb _ hs) rfl src
  · exact still_busErr (hb _ hs) rfl src
  · rename_i l1 l2
    have he (ls : List LaneId) (u : State) (h : still s u) : still s (u.each ls fun _ u => u.busErr) := by
      unfold State.each
      induction ls generalizing u with
      | nil => exact h
      | cons x xs ih => exact ih _ (hb _ h)
    have hne : ∀ ls : List LaneId, ls ≠ [] → ∀ u : State, (u.each ls fun _ u => u.busErr).reply = .busError := by
      intro ls
      induction ls with
      | nil => exact fun h => absurd rfl h
      | cons x xs ih =>
        intro _ u
        cases xs with
        | nil => rfl
        | cons y ys => exact ih (by simp) _
    by_cases hc : (ls.contains s.act) = true
    · have h1 := hb _ (he (ls.filter (· != s.act)) s hs)
      dsimp only
      rw [if_pos hc]
      refine still_busErr ⟨?_, fun l => ?_⟩ rfl src
      · have := h1.1
        unfold State.offLanes at *
        rw [this]
      · have := h1.2 l
        cases l <;> exact this
    · dsimp only
      rw [if_neg hc]
      refine still_busErr (he _ s hs) (hne _ ?_ s) src
      obtain ⟨x, hx⟩ := List.exists_mem_of_ne_nil _ l1
      refine List.ne_nil_of_mem (List.mem_filter.2 ⟨hx, ?_⟩)
      simp only [bne_iff_ne, ne_eq]
      rintro rfl
      exact hc (by simpa using hx)

/-! What a transaction command asks of its lane (R87). -/
theorem txnBegin_may (u : State) (l : LaneId) (req : Requester) (hr : req = .hc ∨ ∃ e, req = .engine e) :
    u.txnBegin l req = if (u.lane l).txnState ≠ 0 then (u.upd l (·.txnLast 8)).ok 0
      else ((u.upd l fun L => { ((L.setFld aTxnStat 13 2 1).setFld aTxnStat 24 8 (reqCode req)).setFld aTxnStat 0 13 0 with
        txn := { (((L.setFld aTxnStat 13 2 1).setFld aTxnStat 24 8 (reqCode req)).setFld aTxnStat 0 13 0).txn with
          token := if (u.lane l).txn.token = 0xFFFF then 1 else (u.lane l).txn.token + 1, journal := [], lastAct := u.tb.run, sealedAt := none, sent := none } }).ok
        (BitVec.ofNat 32 (0x10000 + (if (u.lane l).txn.token = 0xFFFF then 1 else (u.lane l).txn.token + 1).toNat))) := by
  rcases hr with rfl | ⟨e, rfl⟩ <;> rfl

theorem upd_upd (u : State) (l : LaneId) (f g : Lane → Lane) : (u.upd l f).upd l g = u.upd l fun L => g (f L) := by cases l <;> rfl

theorem touch_mine (L : Lane) (q q' : Requester) (n : Nat) (k : Half) : (L.txnTouch q n).txnMine q' k = L.txnMine q' k := by
  unfold Lane.txnTouch
  split <;> rfl

theorem touch_state (L : Lane) (q : Requester) (n : Nat) : (L.txnTouch q n).txnState = L.txnState := by
  unfold Lane.txnTouch
  split <;> rfl

theorem touch_owner (L : Lane) (q : Requester) (n : Nat) (k : Half) (h : L.txnMine q k = true) :
    L.txnTouch q n = { L with txn := { L.txn with lastAct := n } } := by
  unfold Lane.txnTouch
  unfold Lane.txnMine at h
  simp only [Bool.and_eq_true, beq_iff_eq, bne_iff_ne, ne_eq] at h
  rw [if_pos ⟨h.2, h.1.1⟩]

theorem dualRun_of (s u : State) (h1 : u.mode = s.mode) (hm1 : s.mode.mode ≠ .run) (hm2 : s.mode.mode ≠ .hold) : u.dualRun = false := by
  simp [State.dualRun, h1, hm1, hm2]

/-! The loader's check, from its operation to its end. -/
theorem loaderRun_check (s : State) (ho : s.loader.op = 3) : s.loaderRun false = (s, (s.imgCheck (s.slotRd s.loader.slot)).1) := by
  unfold State.loaderRun
  rw [ho, if_neg (by decide), if_neg (by decide), if_pos rfl]

theorem loaderDone_run (s : State) (hb : s.loader.busy = true) (c : Nat) (e : s.loaderRun false = (s, c)) :
    exec (.loaderDone false) s = .next (s.loaderEnd c) := by
  show execLoaderDone false s = _
  unfold execLoaderDone
  rw [hb, if_neg (by decide), e]

theorem loaderDone_check (s : State) (hb : s.loader.busy = true) (ho : s.loader.op = 3) :
    exec (.loaderDone false) s = .next (s.loaderEnd (s.imgCheck (s.slotRd s.loader.slot)).1) := loaderDone_run s hb _ (loaderRun_check s ho)

/-! A piece read from sound DRAM, and two updates of one channel. -/
theorem rdMem_same {s u : State} {l : LaneId} (h1 : u.lane l = s.lane l) (h2 : u.chest = s.chest) (h3 : u.free = s.free) (e a n : Nat) :
    u.rdMem l e a n = s.rdMem l e a n := by
  unfold State.rdMem
  rw [h1, h2, h3]

/-- A read of one piece in sound DRAM. -/
theorem winRead_dram (io : RegIO) (s : State) (l : LaneId) (q a : Nat) (g : Target) (hh : (s.lane l).heldWins q = none) (ha : a % 32 = 0)
    (hg : (s.lane l).winMap none q a 32 false = .inr g) (hr : g.region = .dram) (hb : (s.lane l).badWords = []) :
    @State.winRead io s l q a 32 = (s, .inr (s.rdMem l g.engine g.addr 32)) := by
  have ht : @State.tgtRead io s l q g 32 = (s, s.rdMem l g.engine g.addr 32, none) := by
    unfold State.tgtRead
    rw [hr, if_neg (by decide), if_neg (by decide), if_neg (by simp), if_neg (by decide), hb]
    rfl
  have hp : pieceLen a 32 = 32 := by unfold pieceLen; omega
  unfold State.winRead State.winReadGo
  rw [hh]
  dsimp only
  rw [if_neg (by decide), hp, hg]
  dsimp only
  rw [ht]
  dsimp only
  unfold State.winReadGo
  rw [if_pos rfl]
  rfl

theorem dmaUpd_twice (L : Lane) (c : Fin 16) (f g : DmaCh → DmaCh) : (L.dmaUpd c f).dmaUpd c g = L.dmaUpd c fun x => g (f x) := by
  unfold Lane.dmaUpd
  simp

/-! Events, the end of a session and a bad key leave the mode. -/
theorem raise_mode (s : State) (l : LaneId) (id idx sub : Nat) : (s.raise l id idx sub).mode = s.mode := by
  unfold State.raise
  split <;> simp

theorem hcEnd_mode (s : State) (l : LaneId) : (s.hcEnd l).mode = s.mode := by
  unfold State.hcEnd
  split <;> simp [raise_mode]

theorem keyBad_mode (s : State) (l : LaneId) (k : Fin 32) : (s.keyBad l k).mode = s.mode := by
  unfold State.keyBad State.hcEndSlot
  dsimp only
  split
  · rfl
  · split
    · split <;> simp [raise_mode, hcEnd_mode]
    · simp [raise_mode]

/-! What queuing an event record keeps of the records of one source (R297). -/
theorem mem_evtInsert {r x : EvtRec} : ∀ {q : List EvtRec}, x ∈ evtInsert r q → x = r ∨ x ∈ q
  | [], h => by simpa [evtInsert] using h
  | h :: t, hx => by
    unfold evtInsert at hx
    split at hx
    · simpa using hx
    · rcases List.mem_cons.mp hx with rfl | hx
      · simp
      · rcases mem_evtInsert hx with rfl | hx <;> simp_all

theorem evtInsert_filter (r : EvtRec) (p : EvtRec → Bool) : ∀ q : List EvtRec,
    (∀ a b, q = a ++ b → (∀ h ∈ b.head?, (h.prio < r.prio ∧ ∀ x ∈ b, x.id ≠ r.id) → p r = true → ∀ x ∈ b, p x = false)) →
    (evtInsert r q).filter p = q.filter p ++ (if p r then [r] else [])
  | [], _ => by cases hp : p r <;> simp [evtInsert, hp]
  | h :: t, hb => by
    unfold evtInsert
    split
    · rename_i hc
      simp only [Bool.and_eq_true, decide_eq_true_eq, List.all_eq_true, bne_iff_ne, ne_eq] at hc
      cases hp : p r
      · rw [List.filter_cons_of_neg (by simp [hp])]
        simp
      · have := hb [] (h :: t) rfl h (by simp) hc hp
        rw [List.filter_cons_of_pos hp, List.filter_eq_nil_iff.mpr fun x hx => by simp [this x hx]]
        rfl
    · have ih := evtInsert_filter r p t fun a b e => hb (h :: a) b (by rw [e]; rfl)
      cases hq : p h
      · rw [List.filter_cons_of_neg (by simp [hq]), List.filter_cons_of_neg (by simp [hq]), ih]
      · rw [List.filter_cons_of_pos hq, List.filter_cons_of_pos hq, ih]
        rfl

/-! The serial difference of two counters is the signed difference. -/
theorem serial_diff (a b : Word) : signed 32 (b.toNat + 2 ^ 32 - a.toNat) = (b - a).toInt := by
  have ha := a.isLt
  have hb := b.isLt
  unfold signed
  rw [BitVec.toInt_eq_toNat_cond, BitVec.toNat_sub, show 2 ^ 32 - a.toNat + b.toNat = b.toNat + 2 ^ 32 - a.toNat by omega]
  split <;> split <;> omega

end Sys2Proof.Machine
end

