-- ==== Sys2Proof/WellFormed.lean ====
section
/-! DEFINITION. WellFormed.lean: which operands can reach the module. A command's operands come from a register access, a
frame on a wire or the plant; the checks here say what such an access, frame or measurement can carry. No meaning rests on
them: `exec` is defined on every operand, and a malformed frame is handled as the spec says. -/
namespace Sys2Proof

/-- Width of an access in bits (R486). -/
def Width.bits : Width → Nat
  | .w8 => 8
  | .w16 => 16
  | .w32 => 32
  | .w64 => 64

/-- A frame as a CAN bus can carry it (R350, R355): a base identifier has 11 bits, a remote frame is classic and carries
no data, BRS and ESI exist in FD frames only, a classic frame carries at most 8 bytes and an FD frame at most 64. -/
def CanFrame.wf (f : CanFrame) : Bool :=
  (f.ide || decide (f.ident.toNat < 2048)) && !(f.fdf && f.rtr) && (!f.rtr || f.data.isEmpty) && (f.fdf || !(f.brs || f.esi || f.res)) &&
    decide (f.data.length ≤ if f.fdf then 64 else 8)

/-- A datagram as UDP can carry it to the host channel (R475): an IPv4 or IPv6 sender, at most 1,452 bytes with header and,
for an encrypted type, a 16-byte tag; an unencrypted type has none. -/
def HcDatagram.wf (d : HcDatagram) (sealed_ : Bool) : Bool :=
  (d.ip.length == 4 || d.ip.length == 16) && d.tag.length == (if sealed_ then 16 else 0) &&
    decide (16 + d.body.length + d.tag.length ≤ 1452)

/-- A command that can reach the module. -/
def Instr.wf (i : Instr) : Bool :=
  match i with
  | .modeCmdNotCommandable _ _ target => target.val == 0 || target.val == 4 || target.val == 7
  | .registerWrite _ _ width data => decide (data.toNat < 2 ^ width.bits)
  | .pairTimeout _ addr => addr.toNat % 4 == 0
  | .cycleFinish _ _ writes => writes.all fun w => !w.data.isEmpty
  | .ethFrameReceived _ frame _ => decide (14 ≤ frame.length)
  | .mstDatagramReceived _ vid source _ => decide (vid < 4096) && source.length == 16
  | .canFrameReceived _ frame _ => frame.wf
  | .ptpRx _ _ _ mac ip _ => mac.length == 6 && (ip.length == 4 || ip.length == 16)
  | .mtrIntervalEnd _ raw => raw.length == 6 && raw.all fun c => c.length == 80
  | .mtrZeroCrossing _ _ vals => decide (2 ≤ vals.length)
  | .chestGroupOpen _ _ _ words _ => decide (words < 128)
  | .hcHello dg => dg.wf false
  | .hcOpen dg => dg.wf true
  | .hcRequest dg => dg.wf true
  | .chestWrite _ _ _ data => !data.isEmpty && decide (data.length ≤ 8)
  | .powerGood _ _ _ | .laneReadyTimeout _ | .bootEnd | .bootWatchdogExpiry _ | .resetPin _ _ | .resetCmdFull _ _ _
  | .resetCmdLane _ _ _ _ | .bootCfgWrite _ _ | .modeCmdStop _ _ | .modeCmdConfigure _ _ | .modeCmdRun _ _
  | .modeCmdHold _ _ _ | .modeCmdSafe _ _ | .modeChangeTakesEffect | .runStart | .powerFail | .chestPowerFailStoreEnd
  | .retainEnd _ | .feedLost _ | .feedRestored _ | .holdupCharged | .paceWindowEnd _ _ | .paceMinClr _
  | .aliasSetWrite _ _ _ | .aliasClearWrite _ _ _ | .aliasToggleWrite _ _ _ | .aliasRead _ _ | .txnBegin _
  | .txnCommit _ _ | .txnRollback _ _ | .txnClrCnt _ | .commitInstant | .txnIdleTimeout _ | .imgWrite _ _ _
  | .imgErase _ _ _ | .imgCheck _ _ _ | .imgLoad _ _ _ | .loaderDone _ | .benResv _ _ | .benPost _ _ _
  | .benRingConfigWrite _ _ _ | .resvTimeout _ _ | .benchJobStart _ | .benchDeadlineMiss _ _ | .benchJobEnd _
  | .benchPeerStatus _ | .benchAgreeTimeout _ | .pclStepStart | .pclStepEnd | .retStale _ | .predStart _ _
  | .predAbort _ _ | .predDeadlineMiss _ _ | .predEnd _ | .loopSample _ | .loopOutputInstant _ _ _ | .injStart _ _ _
  | .injStop _ _ _ | .capArm _ _ _ | .capAbort _ _ _ | .profilePeriod | .setpointLate _ | .holdCurrentDelay _
  | .stallWindowEnd _ _ _ | .bridgeFault _ | .axisRef _ _ _ | .axisStop _ _ _ | .axisSetPos _ _ _
  | .axisTargetWrite _ _ _ _ | .cycleStart _ _ | .engineTrap _ _ _ _ _ | .publishInstant | .mirrorWindowEnd _
  | .overrunInstant _ | .rtInfo _ _ | .rtNow _ _ | .rtTmr _ _ _ _ | .rtEdge _ _ _ _ | .rtHwtStart _ _ _ _ _
  | .rtHwtStop _ _ _ | .rtHwtQuery _ _ _ | .rtForced _ _ _ | .hwtExpiry _ _ | .taskRestart _ _ _ | .taskStep _ _ _
  | .taskClrCnt _ _ _ | .debugHalt _ _ | .debugResume _ _ | .olcStart _ _ | .olcVerifyDone _ | .olcPeerResult _
  | .olcPeerTimeout _ | .olcSwitch | .olcAbort _ _ | .olcRevert _ _ | .olcRelease _ _ | .dmaStart _ _ _
  | .dmaResume _ _ _ | .dmaAbort _ _ _ _ | .dmaDescComplete _ _ | .dmaFault _ _ _ | .dmaChestConfirm _
  | .scrubRead _ _ _ _ | .heartbeatSend _ | .heartbeatReceived _ _ | .hbLoss _ | .laneLinkFault | .hashTimeout _ _
  | .suspectWindowExpiry | .hitlessTakeover | .redLaneReset | .redSwitch _ _ | .redDrop _ _ | .redClrCnt _ _
  | .resyncBootEnd | .resyncChainEnd | .resyncBulkEnd | .resyncDirtyPassEnd _ | .resyncFinal | .resyncTimeout
  | .resyncRetry | .ethLinkChange _ _ _ | .prpSupervisionSend | .prpLanSilent _ | .mstTelegramProcess _
  | .mstValuesVisible | .mstSubTimeout _ | .mstSetpointEval | .mstAckTimeout _ | .mstSend _ _ _ | .mstResume _ _
  | .mstEpoch _ _ _ | .canReq _ _ _ | .canAbort _ _ _ | .canTxAttemptStart _ | .canTxSuccess _ | .canArbLost _
  | .canTxError _ _ | .canBusoffRecovery _ | .canPeerTxEvent _ | .canFifoPop _ _ _ | .tbNowLoRead _ | .tbNowHiRead _
  | .tbWrap | .tbRateWrite _ _ | .tbStep _ _ | .tbStepApply | .ppsOut | .ppsInEdge _ | .ref10CountEnd _ | .ptpRxPop _
  | .ptpSend _ _ _ _ | .ptpTxDepart _ | .ptpTxLate | .ptpTxsPop _ | .rtcTimeRead _ _ | .rtcFreezeTimeout _
  | .rtcGo _ _ | .rtcSetApply | .rtcOscStop | .rtcSecond | .rtcWake | .rtcWakeWrite _ _ | .mtrModFault _
  | .mtrModOk _ | .mtrZcTimeout _ _ | .thqInstant | .mtrSave _ _ | .thqSave _ _ | .counterSavePeriod _
  | .counterLoRead _ _ | .diFilterChange _ _ | .diWireBreak _ | .diWireBreakEnd _ | .dqSwitchOnSlot | .lplusLow _
  | .lplusReturn _ | .dqOverload _ | .dqOvertemp _ | .dqCooled _ | .dqOpenWire _ | .dqOpenWireClear _
  | .dqClear _ _ _ | .diClrCnt _ _ _ | .chestStoreCmd _ _ _ | .chestBankStoreEnd | .chestMarginRead _ _ _
  | .chestProtWrite _ _ | .chestLock _ | .chestGroupClose _ _ _ | .chestGroupDiscard _ _ _
  | .chestGroupCommitApplied _ | .pairRecordWrite _ _ | .pairRecordRead _ _ | .pairUnitDone _ | .recWatchSample _
  | .recPeriodEnd _ | .recRaise _ _ _ | .recRaiseVal _ _ | .recTallyRewriteDue _ | .recRecordWrite _ | .recScanEnd _
  | .recClear _ _ | .recClrCnt _ _ | .keyWrite _ _ _ | .keyErase _ _ _ | .keyDerive _ _ _ | .keyCmdDone _
  | .keyForwardedOp _ | .keyScrub _ _ _ | .attest _ _ | .attestDone _ | .seedSet _ _ | .anchorProgram _ _ _
  | .anchorRevoke _ _ _ | .anchorBurnDone | .hcChallengeTimeout | .hcResponseConfirm | .hcEventFrameSend
  | .hcEventResend | .uartFrame _ | .indDataRead _ | .indDataWrite _ _ | .indWriteApplied _ | .tvScrub _ _ _ _ _
  | .snapTake _ _ | .snapCapture | .frCmdStop _ _ | .frCmdRun _ _ | .frCmdSafe _ _ | .frSnap _ _ | .evtQPop _ _ _
  | .sprintEnter _ _ | .sprintLeave _ _ | .sprintPointReached _ | .sprintBudgetBin _ | .junctionLimit _ _
  | .backplateLimit _ | .sprintStepDown _ | .backplateWarnCross _ | .canBusIntegrated _ | .canRxError _ _ _
  | .axFltNHigh _ | .holdupBankSpent | .autoResetAgeOut | .keygenDone _ => true

end Sys2Proof
end

