-- ==== Sys2Proof/Tests/Slice0.lean ====
section
/-! SUPPORT. Tests/Slice0.lean: small tests. An ill-formed command for every check of `Instr.wf`; the spec's worked cases, one
step or one operation each; and for every statement with hypotheses a named witness that meets them. -/
namespace Sys2Proof.Tests
open Sys2Proof.Machine

/-! One test after another: each waits for the kernel to have checked what stands before it. -/
set_option Elab.async false

/-! Sources and states the tests and witnesses start from. -/

def tHc : Src := { lane := .a, req := .hc }
def tFacts : BootFacts := { provEn := false, readyA := true, readyB := false, digestsAgree := true }
/-- Both lanes run, powered, lane A active, in a mode. -/
def tUp (m : Mode) : State :=
  { State.reset with laneA := { Lane.init with phase := .up }, laneB := { Lane.init with phase := .up },
                     mode := { ModeUnit.init with mode := m, active := some .a }, supply := { Supply.init with good := true } }
def tBoot : State := { State.reset with boot := some { facts := tFacts }, laneA := { Lane.init with phase := .booting },
                                        laneB := { Lane.init with phase := .booting }, supply := { Supply.init with good := true } }
def tBack : State := { tUp .retain with supply := { Supply.init with good := true, storeDone := true, feedsBack := true } }
/-- An image with task 7 in its CODE drawer. -/
def tImgOf : LoadedImg :=
  { (default : LoadedImg) with drawers := [{ typ := 3, inst := 0, flags := 0, source := 0, digest := 0, bytes := [1] ++ zeros 15 ++ [7] ++ zeros 31 }] }
def tImg (m : Mode) : State :=
  { tUp m with laneA := { Lane.init with phase := .up, img := some tImgOf }, laneB := { Lane.init with phase := .up, img := some tImgOf } }
def tHeld : State := { tImg .hold with mode := { ModeUnit.init with mode := .hold, active := some .a, held := some 7, heldFrom := .run } }
def tPend : State := { tImg .run with mode := { ModeUnit.init with mode := .run, active := some .a, pend := some { target := .stop, task := 0, due := 0, cmd := true } } }
def tAuto : State := { tPend with mode := { tPend.mode with pend := some { target := .stop, task := 0, due := 0, cmd := false } } }
def tSick : State := (tImg .stop).updBoth fun L => L.put 0x40090004 1
def tPendAt (m n : Mode) : State := { tImg m with mode := { ModeUnit.init with mode := m, held := some 7, pend := some { target := n, task := 7, due := 0, cmd := true } } }
def tDue : State := { (tPendAt .stop .run).advTo 0 with mode := { ((tPendAt .stop .run).advTo 0).mode with pend := none } }
def tStored : State := { tUp .retain with supply := { Supply.init with good := false, storeDone := true } }
def tFed : State := { tUp .run with supply := { Supply.init with good := true, paOk := true, pbOk := true } }
def tLow : State := (tUp .run).updBoth fun L => { L with lowWindows := 1 }
def tHot : State := (tUp .run).updBoth fun L => { L with rf := [(0x401A0008, 800), (0x401A0014, 60)] }
def tCool : State := (tUp .run).updBoth fun L => { L with rf := [(0x401A0000, 4), (0x401A0008, 300), (0x401A0014, 60)] }
def tSprint : State :=
  ((tUp .run).upd .a fun L => { L with sprint := { L.sprint with entry := some 5, step := some (7, 2, 1), above := true } }).upd .b fun L =>
    { L with sprint := { L.sprint with step := some (7, 1, 1) } }
def tSnap : State := (tUp .run).updBoth fun L => { L with snapAt := some 5 }
def tUart : Src := { lane := .a, req := .uart }
/-- Both lanes hold an open transaction of the host channel with token 7 and a staged pair member. -/
def tTxn : State := (tUp .stop).updBoth fun L =>
  { L with rf := [(0x40060008, 0x80002000), (0x4006000C, 30)],
           txn := { L.txn with token := 7, pairs := [{ addr := 0x40020000, value := 1, req := .hc, at_ := 0 }] } }
def tSealed : State :=
  { tTxn with laneA := { tTxn.laneA with rf := [(0x40060008, 0x80004000)], txn := { tTxn.laneA.txn with sealedAt := some 0 } }, laneB := Lane.init }
def tBusy : State := (tUp .run).updBoth fun L =>
  { L with ind := [{ req := .hc, addr := 0x010020, busy := some (0x010020, 5), err := 0 }, { req := .uart, addr := 0x010020, busy := some (0x010020, 5), err := 0 }] }
def tInd : State := (tUp .run).updBoth fun L => { L with ind := [{ req := .hc, addr := 0x80040000, busy := none, err := 0 }] }
def tLoad (op : Nat) : State := { tUp .configure with loader := { busy := true, op := op, slot := 1, lane := .a } }
def tDesc : DmaDesc := { ctrl := 1, len := 4, src := 0x10000000, dst := 0x10000100, next := 0 }
/-- Channel 0 IDLE, channel 1 HALTED and channel 15 RUNNING with a descriptor. -/
def tCh : DmaCh := { desc := some tDesc, done := 0, copied := false, confirmed := 0, wins := none }
def tDma : State := (tUp .run).updBoth fun L =>
  { L with rf := [(aDma 1 0xC, 2), (aDma 15 0xC, 1)], dma := (L.dma.set 1 tCh).set 15 tCh }
/-- RUN, with task 7 in a state. -/
def tTask (st : Nat) : State := (tImg .run).updBoth fun L => { L with rf := [(aT 7 0, BitVec.ofNat 32 st)] }
def tPub : State := { (tImg .single).updBoth (fun L => { L with rf := [(aT 7 0, 3)], tasks := L.tasks.set 7 { Task.init with finished := some 9 } }) with
  laneB := { Lane.init with phase := .failed } }
def tWin : State := (tImg .run).updBoth fun L => { L with tasks := L.tasks.set 7 { Task.init with windowEnd := some 0 } }
def tTimer : Sym := { id := 5, addr := 0x10000000, typ := 0x10, size := 32, attr := 0 }
def tEdge : Sym := { id := 6, addr := 0x10000020, typ := 0x13, size := 2, attr := 0 }
/-- Engine 15 of lane A runs task 7, whose MAP has a timer and an edge object; hardware timer 255 is armed with its event. -/
def tEngMap : Bytes := [2] ++ zeros 15 ++ leBytes 4 5 ++ leBytes 4 0x10000000 ++ leBytes 4 32 ++ [0x10, 0] ++ zeros 2 ++
  leBytes 4 6 ++ leBytes 4 0x10000020 ++ leBytes 4 2 ++ [0x13, 0] ++ zeros 2
def tEngImg : LoadedImg := { tImgOf with drawers := [{ typ := 4, inst := 7, flags := 0, source := 0, digest := 0, bytes := tEngMap }] }
def tEng : State := (tUp .run).upd .a fun L =>
  { L with engines := L.engines.set 15 { Engine.init with cur := some 7 }, rf := [(aHwt 255, 0x101)], img := some tEngImg }
def tDbg : State := ((tImg .single).upd .a fun L => { L with rf := [(0x40020008, 1)], engines := L.engines.set 14 { Engine.init with halted := true } }).upd .b fun L => { L with phase := .failed }
def tHcE (k : Fin 16) : Src := { lane := .a, req := .engine k }
def tRing : Lane := ({ Lane.init with phase := .up }.putN (aRing 0 4) 4).putN (aRing 1 4) 4
/-- Both Bench rings of both lanes have four slots; SEQ 0 is reserved in both rings of both lanes. -/
def tBen : State := (tUp .run).updBoth fun _ => (tRing.ringUpd 0 fun g => { g with nextSeq := 1 }).ringUpd 1 fun g => { g with nextSeq := 1 }

/-! Commands that cannot reach the module. -/

theorem test_wf_mode_target : (Instr.modeCmdNotCommandable tHc 0x4D4F 3).wf = false := by decide
theorem test_wf_mode_target_ok : (Instr.modeCmdNotCommandable tHc 0x4D4F 4).wf = true := by decide
theorem test_wf_write_width : (Instr.registerWrite tHc 0x40000000 .w8 256).wf = false := by decide
theorem test_wf_write_width_ok : (Instr.registerWrite tHc 0x40000000 .w8 255).wf = true := by decide
theorem test_wf_pair_align : (Instr.pairTimeout .a 0x40000003).wf = false := by decide
theorem test_wf_cycle_write : (Instr.cycleFinish .a 0 [{ engine := 0, addr := 0x10000000, data := [] }]).wf = false := by decide
theorem test_wf_eth_short : (Instr.ethFrameReceived 0 (zeros 13) true).wf = false := by decide
theorem test_wf_mst_vid : (Instr.mstDatagramReceived 0 4096 (zeros 16) []).wf = false := by decide
theorem test_wf_mst_source : (Instr.mstDatagramReceived 0 1 (zeros 4) []).wf = false := by decide
theorem test_wf_ptp_mac : (Instr.ptpRx 0 0 false (zeros 5) (zeros 4) []).wf = false := by decide
theorem test_wf_ptp_ip : (Instr.ptpRx 0 0 false (zeros 6) (zeros 5) []).wf = false := by decide
theorem test_wf_mtr_channels : (Instr.mtrIntervalEnd 0 (List.replicate 5 (List.replicate 80 0))).wf = false := by decide
theorem test_wf_mtr_samples : (Instr.mtrIntervalEnd 0 (List.replicate 6 (List.replicate 79 0))).wf = false := by decide
theorem test_wf_zero_crossing : (Instr.mtrZeroCrossing 0 0 [0]).wf = false := by decide
theorem test_wf_group_words : (Instr.chestGroupOpen tHc 0 0 128 0).wf = false := by decide
theorem test_wf_chest_empty : (Instr.chestWrite .a 0 0 []).wf = false := by decide
theorem test_wf_chest_long : (Instr.chestWrite .a 0 0 (zeros 9)).wf = false := by decide
def tWire : CanFrame := { ide := false, ident := 2047, fdf := false, brs := false, esi := false, res := false, rtr := false, dlc := 8, data := zeros 8 }
theorem test_wf_can_ok : (Instr.canFrameReceived 0 tWire 0).wf = true := by decide
theorem test_wf_can_base_id : (Instr.canFrameReceived 0 { tWire with ident := 2048 } 0).wf = false := by decide
theorem test_wf_can_fd_remote : (Instr.canFrameReceived 0 { tWire with fdf := true, rtr := true, data := [] } 0).wf = false := by decide
theorem test_wf_can_remote_data : (Instr.canFrameReceived 0 { tWire with rtr := true } 0).wf = false := by decide
theorem test_wf_can_classic_brs : (Instr.canFrameReceived 0 { tWire with brs := true } 0).wf = false := by decide
theorem test_wf_can_length : (Instr.canFrameReceived 0 { tWire with data := zeros 9 } 0).wf = false := by decide
def tDatagram : HcDatagram := { ip := zeros 4, port := 1, typ := 1, session := 0, seq := 0, body := [], tag := [] }
theorem test_wf_hello_ok : (Instr.hcHello tDatagram).wf = true := by decide
theorem test_wf_hello_tag : (Instr.hcHello { tDatagram with tag := zeros 16 }).wf = false := by decide
theorem test_wf_open_tag : (Instr.hcOpen tDatagram).wf = false := by decide
theorem test_wf_request_sender : (Instr.hcRequest { tDatagram with ip := zeros 5, tag := zeros 16 }).wf = false := by decide
theorem test_wf_request_length : (Instr.hcRequest { tDatagram with body := zeros 1421, tag := zeros 16 }).wf = false := by decide +kernel

/-! Worked cases of the spec. -/

/-- 00 R12: a deadline at 0xFFFF_F000 read at 0x0000_1000 passed 8,192 ns ago. -/
theorem test_deadline_after_wrap : signed 32 ((0xFFFFF000 : Word) - 0x1000).toNat = -8192 := by decide

/-- 21 R484: toggling EN of a force entry whose word is 0 makes it 1. -/
theorem test_toggle_alias : aliasWord 3 0 1 = 1 ∧ aliasWord 3 1 1 = 0 ∧ aliasWord 2 0x0F 5 = 0x0A ∧ aliasWord 1 0x0A 5 = 0x0F := by decide

/-- 13 R343: readings 1,200 (a wrap), 350 (a meter reset) and 900 of a meter of modulus 10^8 give 800,001,750 Wh. -/
theorem test_meter_readings :
    meterStep (some (99998500, 100000000)) 799998500 1200 100000000 = ((1200, 100000000), 800001200, false) ∧
    meterStep (some (1200, 100000000)) 800001200 350 100000000 = ((350, 100000000), 800001200, true) ∧
    meterStep (some (350, 100000000)) 800001200 900 100000000 = ((900, 100000000), 800001750, false) := by decide +kernel

/-- 11 R298: 10,000 bytes at a 64-byte aligned address are 157 pieces, the last of 16 bytes; 68 of them end the window. -/
theorem test_dma_pieces : pieceLen 0x80100F00 10000 = 64 ∧ pieceLen (0x80100F00 + 64 * 156) (10000 - 64 * 156) = 16 ∧ 0x80100F00 + 64 * 68 = 0x80102000 := by decide

def tNear (x : F64) (n : Int) : Bool := flt (fabs (fsub x (fRat n 1000))) (fRat 1 1000)

/-- 07 R202: at 6 s the reference supplies 116 with v = 4 and latches 110; by 8 s it is at 122 with v = 2, by 14 s at 116.067 with v = -3.483. -/
theorem test_shaper_reversal :
    (let k := shapeStep (fOfNat 116, fOfNat 4) (fOfNat 110) (fOfNat 4) (fOfNat 1) (fOfNat 2); tNear k.1 122000 && tNear k.2 2000) = true ∧
    (let k := shapeStep (fOfNat 116, fOfNat 4) (fOfNat 110) (fOfNat 4) (fOfNat 1) (fOfNat 8); tNear k.1 116067 && tNear k.2 (-3483)) = true := by decide +kernel

/-- 08 R233: e = (0.1307, 1.4943) V against i at 0° has the amount 1.500 V. -/
theorem test_stall_amount : tNear (vecLen (fRat 1307 10000, fRat 14943 10000)) 1500 = true := by decide +kernel

/-- 15 R387: 28 February of a leap year is followed by the 29th, the last second of 2199 by the first of 2000. -/
theorem test_calendar_next :
    (Cal.next { year := 2028, month := 2, day := 28, hour := 23, min := 59, sec := 59, subsec := 0 }).day = 29 ∧
    (Cal.next { year := 2199, month := 12, day := 31, hour := 23, min := 59, sec := 59, subsec := 0 }).year = 2000 ∧
    (Cal.wday { year := 2000, month := 1, day := 1, hour := 0, min := 0, sec := 0, subsec := 0 }) = 5 := by decide +kernel

/-- 01 R25 and R24: two windows of 599 steps per us set LOW. -/
theorem test_low_pace_sets_low :
    ∃ t, step { tLow with pending := [.paceWindowEnd .a 2399] } = .next t ∧ (t.lane .a).flag 0x40000048 0 = true := ⟨_, rfl, by decide +kernel⟩

/-- 02 R45: RUN needs a verified image: without one the command is refused with NO_IMAGE and the mode stands. -/
theorem test_run_without_image :
    ∃ t, step { tUp .stop with pending := [.modeCmdRun tHc 0x4D4F] } = .next t ∧ t.mode.pend = none ∧ t.mode.mode = .stop := ⟨_, rfl, by decide +kernel⟩

/-- A command the table's bits spell: the table gives no row bits. -/
theorem test_no_table_words : decodeTableWord 32 0 = none ∧ (State.reset.withFetchWord 32 0).pending = [] := by decide +kernel


/-! The first commands after a reset: one sound step keeps the queue's order, and the invariants hold at reset. -/

theorem wit_IdleTick : State.reset.pending = [] := by decide +kernel
theorem wit_SoundnessKept : (tUp .run).wf ∧ (∃ t, step (tUp .run) = .next t) := by
  refine ⟨⟨?_, ?_, ⟨rfl, fun b => ?_⟩, rfl, rfl⟩, _, rfl⟩
  · exact ⟨rfl, rfl, rfl, fun e => by simp [tUp, Lane.init, EvtUnit.init], by simp [tUp, Lane.init, EvtUnit.init]⟩
  · exact ⟨rfl, rfl, rfl, fun e => by simp [tUp, Lane.init, EvtUnit.init], by simp [tUp, Lane.init, EvtUnit.init]⟩
  · simp [tUp, State.reset, Chest.init, Bank.wf, Bank.init, Mem.wf, spWf]
theorem wit_AnchorsOneWay : ((tUp .configure).keep fun k => { k with burn := some (false, 2) }).keeper.burnWf ∧
    (∃ t, step ((tUp .configure).keep fun k => { k with burn := some (false, 2) }) = .next t) :=
  ⟨fun a h => (by cases h; rfl), _, rfl⟩
theorem wit_QueueFirstInFirstOut : ∃ t, step { State.reset with pending := [.powerFail, .tbWrap] } = .next t ∧ t.pending = [.tbWrap] := ⟨_, rfl, by decide +kernel⟩
theorem wit_ElapsedTimeForward : ∃ t, step State.reset = .next t ∧ State.reset.tb.run < t.tb.run := ⟨_, rfl, by decide +kernel⟩

theorem wit_PowerUpCommands :
    ((true || false) = true ∧ (tUp .retain).mode.mode = .retain) ∧
    ((true || false) = true ∧ State.reset.mode.mode = .reset ∧ State.reset.supply.good = false) ∧
    (tBoot.boot = some { facts := tFacts } ∧ tFacts.readyB = false ∧ (tBoot.lane .b).phase = .booting) ∧
    (tBoot.boot = some { facts := tFacts } ∧ tBoot.bootLanes tFacts ≠ []) := by decide +kernel

theorem wit_FullResetCommands :
    ((9999 : Nat) < 10000) ∧
    ((10000 : Nat) ≤ 10000 ∧ (tUp .stop).mode.mode ≠ .retain ∧ (tUp .stop).supply.good = true) ∧
    ((10000 : Nat) ≤ 10000 ∧ (tUp .retain).mode.mode = .retain ∧ (tUp .retain).supply.storeDone = false) ∧
    ((10000 : Nat) ≤ 10000 ∧ tBack.mode.mode = .retain ∧ tBack.supply.storeDone = true ∧ tBack.supply.feedsBack = true) ∧
    ((tUp .run).resetCmdOpen tHc = true ∧ (tUp .run).mode.mode ≠ .retain ∧ tBoot.resetCmdOpen tHc = true) ∧
    ((tUp .run).resetCmdOpen tHc = true ∧ ((tUp .run).mode.mode = .retain ∨ (0xB006 : Half) ≠ 0xB007)) := by decide +kernel

theorem wit_FullResetEffect : (tUp .run).loader.busy = false := by decide +kernel

theorem wit_BootConfigurationWrite :
    ((tUp .stop).first tHc 0x40000014 5 = true ∧ (tUp .stop).lanesOf tHc ≠ [] ∧ ((tUp .stop).mode.mode = .configure ∨ (tUp .stop).mode.mode = .stop)) ∧
    ((tUp .run).first tHc 0x40000014 5 = true ∧ (tUp .run).lanesOf tHc ≠ [] ∧ (tUp .run).mode.mode ≠ .configure ∧ (tUp .run).mode.mode ≠ .stop) := by
  decide +kernel

theorem wit_ModeCommandsAccepted :
    ((tImg .configure).first tHc 0x40000008 0x4D4F0002 = true ∧ (tImg .configure).lanesOf tHc ≠ [] ∧ (tImg .configure).mode.pend = none ∧
      (tImg .configure).mode.mode = .configure ∧ (tImg .configure).ups.any (tImg .configure).verified = true) ∧
    ((tImg .safe).first tHc 0x40000008 0x4D4F0002 = true ∧ (tImg .safe).lanesOf tHc ≠ [] ∧ (tImg .safe).mode.pend = none ∧ (tImg .safe).roleMode = true) ∧
    ((tImg .stop).first tHc 0x40000008 0x4D4F0001 = true ∧ (tImg .stop).lanesOf tHc ≠ [] ∧ (tImg .stop).mode.pend = none ∧ (tImg .stop).mode.mode = .stop) ∧
    ((tImg .stop).first tHc 0x40000008 0x4D4F0003 = true ∧ (tImg .stop).ups.any (tImg .stop).healthy = true) ∧
    (tHeld.first tHc 0x40000008 0x4D4F0003 = true ∧ tHeld.lanesOf tHc ≠ [] ∧ tHeld.mode.pend = none ∧ tHeld.mode.mode = .hold ∧ tHeld.mode.held = some 7) ∧
    ((tImg .run).first tHc 0x40000008 (BitVec.ofNat 32 (0x4D4F * 2 ^ 16 + (16 * 7 + 5))) = true ∧ (tImg .run).lanesOf tHc ≠ [] ∧ (tImg .run).mode.pend = none ∧
      ((tImg .run).mode.mode = .run ∨ (tImg .run).mode.mode = .single) ∧ ((tImg .run).lane (tImg .run).act).taskDef 7 = true) ∧
    ((tImg .run).first tHc 0x40000008 0x4D4F0006 = true ∧ ((tImg .run).running = true ∨ (tImg .run).mode.mode = .stop)) := by decide +kernel

theorem wit_ModeCommandsRefused :
    ((tUp .run).lanesOf tHc ≠ [] ∧ (tUp .run).first tHc 0x40000008 (BitVec.ofNat 32 ((0x4D4F : Half).toNat * 2 ^ 16 + 15)) = true) ∧
    ((tUp .run).first tHc 0x40000008 (BitVec.ofNat 32 ((0 : Half).toNat * 2 ^ 16 + 3)) = true ∧ (0 : Half) ≠ 0x4D4F) ∧
    (tPend.lanesOf tHc ≠ [] ∧ tPend.first tHc 0x40000008 0x4D4F0003 = true ∧ tPend.mode.pend.isSome = true) ∧
    ((tUp .run).first tHc 0x40000008 0x4D4F0001 = true ∧ (tUp .run).mode.pend = none ∧ (tUp .run).mode.mode ≠ .stop) ∧
    ((tUp .stop).mode.pend = none ∧ (tUp .stop).mode.mode = .stop ∧ (tUp .stop).ups.any (tUp .stop).verified = false) ∧
    (tSick.lanesOf tHc ≠ [] ∧ tSick.mode.pend = none ∧ tSick.mode.mode = .stop ∧ tSick.ups.any tSick.verified = true ∧ tSick.ups.any tSick.healthy = false) ∧
    ((tUp .run).mode.pend = none ∧ ((tUp .run).mode.mode = .run ∨ (tUp .run).mode.mode = .single) ∧ ((tUp .run).lane (tUp .run).act).taskDef 7 = false) ∧
    (tPend.running = true ∧ tPend.mode.pend = some { target := .stop, task := 0, due := 0, cmd := true } ∧ Mode.stop ≠ .safe) := by decide +kernel

theorem wit_ModeRefusalShown :
    ((tUp .run).lanesOf tHc ≠ [] ∧ (tUp .run).first tHc 0x40000008 (BitVec.ofNat 32 ((0 : Half).toNat * 2 ^ 16 + 2)) = true ∧ (0 : Half) ≠ 0x4D4F) ∧
    (rfWf (tUp .run).laneA.rf = true ∧ rfWf (tUp .run).laneB.rf = true ∧ (15 : Nat) < 16 ∧ (tUp .run).isUp .b = true) := by decide +kernel

theorem wit_ModeChangesTakeEffect :
    (tPend.mode.pend = some { target := .stop, task := 0, due := 0, cmd := true } ∧ (tPend.roleMode || tPend.mode.mode == .configure) = true) ∧
    ((tPendAt .stop .configure).mode.pend = some { target := .configure, task := 7, due := 0, cmd := true } ∧ (tPendAt .stop .configure).mode.mode = .stop) ∧
    ((tPendAt .hold .safe).mode.pend = some { target := .safe, task := 7, due := 0, cmd := true } ∧
      ((tPendAt .hold .safe).running || (tPendAt .hold .safe).mode.mode == .stop) = true) ∧
    ((tPendAt .run .hold).mode.pend = some { target := .hold, task := 7, due := 0, cmd := true } ∧ (tPendAt .run .hold).mode.mode = .run) ∧
    ((tPendAt .hold .run).mode.pend = some { target := .run, task := 7, due := 0, cmd := true } ∧ (tPendAt .hold .run).mode.mode = .hold ∧ (tPendAt .hold .run).mode.held = some 7) ∧
    ((tPendAt .stop .run).mode.pend = some { target := .run, task := 7, due := 0, cmd := true } ∧ (tPendAt .stop .run).mode.mode = .stop ∧
      tDue.ups.filter tDue.healthy = [LaneId.a, .b] ∧ tDue.mode.active = none) := by decide +kernel

theorem wit_PowerFailCommands :
    State.reset.mode.mode = .reset ∧ ((tUp .retain).mode.mode = .retain ∧ (tUp .retain).supply.storeDone = false ∧ (tUp .retain).supply.pinReset = none) ∧
    ((tUp .run).mode.mode ≠ .reset ∧ (tUp .run).mode.mode ≠ .retain ∧ (tUp .run).mode.pend = none) ∧ (tPend.mode.pend = some { target := .stop, task := 0, due := 0, cmd := true } ∧ tAuto.mode.pend = some { target := .stop, task := 0, due := 0, cmd := false } ∧ tPend.mode.mode = .run ∧ tAuto.mode.mode = .run) ∧
    (tBack.mode.mode = .retain ∧ tBack.supply.storeDone = true ∧ tBack.supply.feedsBack = true) ∧
    (tStored.mode.mode = .retain ∧ tStored.supply.storeDone = true ∧ tStored.supply.feedsBack = false) := by decide +kernel

theorem wit_FeedCommands :
    (tFed.supply.paOk = true ∧ tFed.supply.pbOk = true) ∧
    ((tUp .run).supply.paOk = false ∧ (tUp .run).supply.pbOk = false ∧ (tUp .run).mode.mode ≠ .retain) ∧
    ((tUp .retain).supply.pbOk = false ∧ (tUp .retain).mode.mode = .retain ∧ (tUp .retain).supply.feedsBack = false) := by decide +kernel

theorem wit_PaceWindows :
    (min (2399 / 4) 0xFFFF < 600 ∧ 1 ≤ (tLow.lane .a).lowWindows ∧ (tLow.lane .a).flag 0x40000048 0 = false) ∧ 600 ≤ min (2400 / 4) 0xFFFF ∧
    (rfWf ((tUp .run).lane .b).rf = true ∧ 600 ≤ 2400 / 4 ∧ 2400 / 4 < 2 ^ 16) := by decide +kernel

theorem wit_PaceMinimumCleared : (2399 / 4 < 600 ∧ ((tLow.lane .b).setFlag 0x40000048 0 true).flag 0x40000048 0 = true) ∧ (tUp .stop).lanesOf tHc ≠ [] ∧ bitOf (1 : Word) 0 = true := by decide +kernel

theorem wit_SprintCommands :
    ((tUp .stop).first tHc 0x401A0010 0x53500001 = true ∧ ((tUp .stop).roleMode || (tUp .stop).mode.mode == .stop) = true ∧
      signed 16 (((tUp .stop).lane (tUp .stop).act).fld 0x401A0008 0 16) ≤ 500 ∧
      ∀ l ∈ (tUp .stop).ups, 1 ≤ ((tUp .stop).lane l).fld 0x401A0000 24 8 ∧ ((tUp .stop).lane l).sprintBusy = false) ∧
    500 < signed 16 ((tHot.lane tHot.act).fld 0x401A0008 0 16) ∧ tHot.first tHc 0x401A0010 0x53500001 = true ∧
    (tUp .stop).first tHc 0x401A0010 0x53500002 = true ∧ (tSprint.lane .a).sprint.entry = some 5 ∧
    ((tSprint.lane .a).sprint.step = some (7, 2, 1) ∧ (1 : Nat) < 2) ∧ ((tSprint.lane .b).sprint.step = some (7, 1, 1) ∧ (1 : Nat) ≤ 1) := by
  decide +kernel

theorem wit_ThermalCommands :
    ((1049 : Half).toInt < 1050) ∧ ((1050 : Int) ≤ (1050 : Half).toInt ∧ ((tSprint.upd .a (·.setFld 0x401A0008 16 16 1050)).lane .a).sprint.above = true) ∧
    ((600 : Half).toInt ≤ 600) ∧ (600 < (601 : Half).toInt) ∧
    ((tHot.lane .a).flag 0x401A0000 2 = false ∧ ((tHot.lane .a).fld 0x401A0014 0 8 : Int) * 10 < signed 16 ((tHot.lane .a).fld 0x401A0008 0 16)) ∧
    ((tCool.lane .a).flag 0x401A0000 2 = true ∧ signed 16 ((tCool.lane .a).fld 0x401A0008 0 16) < ((tCool.lane .a).fld 0x401A0014 0 8 : Int) * 10 - 20) := by
  decide +kernel

theorem wit_RegisterAndAliasWrites :
    evtReserved (0 : Fin 256).val = false ∧ (tUp .run).lanesOf tHc ≠ [] ∧ (tUp .run).closed tHc 0x40010100 = false ∧
    (∀ l ∈ (tUp .run).lanesOf tHc, ((tUp .run).lane l).txnState = 0 ∧ ∀ p ∈ ((tUp .run).lane l).txn.pairs, p.addr ≠ 0x40010100) ∧
    1 ≤ fieldOf (0x01000000 : Word) 24 4 ∧
    (∀ l ∈ (tUp .run).lanesOf tHc, 1 ≤ fieldOf ((((tUp .run).lane l).get 0x40010100 ||| 0) &&& 0x8F01FFFF) 24 4) ∧
    (∀ l ∈ (tUp .run).lanesOf tHc, 1 ≤ fieldOf ((((tUp .run).lane l).get 0x40010100 &&& ~~~ 1) &&& 0x8F01FFFF) 24 4) ∧
    (∀ l ∈ (tUp .run).lanesOf tHc, 1 ≤ fieldOf ((((tUp .run).lane l).get 0x40010100 ^^^ 0x8F01FFFF) &&& 0x8F01FFFF) 24 4) := by decide +kernel

theorem wit_AccessesWithoutEffect :
    ((tUp .run).lanesOf tHc ≠ [] ∧ 0x41000000 ≤ (0x431AFFFF : Word).toNat ∧ (0x431AFFFF : Word).toNat ≤ 0x431AFFFF) ∧ popCount (1 : Word) % 2 = 1 ∧
    (regionOf (0x40010100 : Word).toNat = .reg ∧ (regAt ((0x40010100 : Word).toNat / 4 * 4)).isSome = true ∧
      (tUp .run).closed tHc (0x40010100 : Word).toNat = false) := by decide +kernel

theorem wit_WindowAndSnapshotCommands :
    ((tUp .run).lanesOf tHc ≠ [] ∧ popCount (0x80000001 : Word) % 2 = 0 ∧ (0x80000001 : Word) &&& ~~~ 0x80000007 = 0 ∧ fieldOf (0x80000001 : Word) 0 3 = 1) ∧
    (popCount (0x80000002 : Word) % 2 = 0 ∧ (0x80000002 : Word) &&& ~~~ 0x80000007 = 0 ∧ fieldOf (0x80000002 : Word) 0 3 = 2) ∧
    (popCount (3 : Word) % 2 = 0 ∧ (3 : Word) &&& ~~~ 0x80000007 = 0 ∧ fieldOf (3 : Word) 0 3 = 3) ∧
    (tSnap.ups.filterMap fun l => (tSnap.lane l).snapAt).min? = some 5 ∧
    ((tUp .run).isUp .a = true ∧ fieldOf (2 : Word) 0 1 = fieldOf ((tUp .run).viewRaw .a .hc 0x40000048) 0 1) := by decide +kernel

theorem wit_TransactionCommands :
    ((tUp .stop).lanesOf tHc ≠ [] ∧ ∀ l ∈ (tUp .stop).lanesOf tHc, ((tUp .stop).lane l).txnState = 0 ∧ ((tUp .stop).lane l).txn.token = 0) ∧
    (tTxn.lanesOf tHc ≠ [] ∧ tTxn.mode.mode ≠ .run ∧ tTxn.mode.mode ≠ .hold ∧
      ∀ l ∈ tTxn.lanesOf tHc, (tTxn.lane l).txnMine .hc 7 = true ∧ (tTxn.lane l).txnState = 1 ∧ (tTxn.lane l).txnState ≠ 0 ∧ (tTxn.lane l).txnState ≠ 2) ∧
    (∀ l ∈ tTxn.lanesOf tHc, (tTxn.lane l).txnMine .hc 8 = false) ∧
    ((tSealed.commits.map (·.1)).min? = some (usU 250)) ∧
    ((tTxn.lane .b).txnState = 1 ∧ (tTxn.lane .b).fld 0x4006000C 0 10 ≠ 0) ∧
    ((tTxn.lane .a).txn.pairs.find? fun p => p.addr == (0x40020000 : Word).toNat) = some { addr := 0x40020000, value := 1, req := .hc, at_ := 0 } := by
  decide +kernel

theorem wit_IndirectWindow :
    ((tUp .run).lanesOf tHc ≠ [] ∧ ∀ l ∈ (tUp .run).lanesOf tHc, (((tUp .run).lane l).indOf .hc).busy = none) ∧
    (tBusy.lanesOf tHc ≠ [] ∧ ∀ l ∈ tBusy.lanesOf tHc, ((tBusy.lane l).indOf .hc).busy.isSome = true) ∧
    (tInd.readersOf tHc ≠ [] ∧ ∀ l ∈ tInd.readersOf tHc, ((tInd.lane l).indOf .hc).busy = none ∧ ((tInd.lane l).indOf .hc).addr.toNat % 2 ^ 24 = 0x040000) ∧
    (tBusy.lanesOf tUart = [.a] ∧ ((tBusy.lane .a).indOf .uart).busy = some (0x010020, 5)) := by decide +kernel

theorem wit_ImageLoaderCommands :
    ((tUp .configure).lanesOf tHc = .a :: [.b] ∧ (tUp .configure).loader.busy = false ∧ (tUp .configure).mode.mode = .configure ∧
      (tUp .configure).first tHc 0x40060100 (BitVec.ofNat 32 ((0x494D : Half).toNat * 2 ^ 16 + (1 : Fin 2).val * 2 ^ 8 + 4)) = true) ∧
    ((tUp .stop).lanesOf tHc ≠ [] ∧ (tUp .stop).loader.busy = false ∧ (tUp .stop).mode.mode ≠ .configure) ∧
    ((tLoad 2).loader.busy = true ∧ (tLoad 2).loader.op = 2 ∧ (tLoad 3).loader.op = 3) := by decide +kernel

theorem wit_DmaCommands :
    (tDma.lanesOf tHc ≠ [] ∧ (∀ l ∈ tDma.lanesOf tHc, (tDma.lane l).dmaState 0 = 0)) ∧
    (∀ l ∈ tDma.lanesOf tHc, (tDma.lane l).dmaState 1 = 2 ∧ (tDma.lane l).dma[1].desc.isSome = true) ∧
    (tDma.lanesOf tUart = [.a] ∧ (tDma.lane .a).dmaState 15 = 1 ∧ (tDma.lane .a).dma[15].desc = some tDesc ∧ (tDma.lane .a).dma[15].copied = false ∧
      (tDma.lane .a).flag (aDma 15 0xC) 10 = false) ∧
    (tDesc.ctrl.testBit 3 = false ∧ tDesc.ctrl.testBit 0 = true) ∧
    (tDma.dualRun = true ∧ (tDma.lane (other tDma.act)).dma[0].desc = none) := by decide +kernel

theorem wit_ScrubbedWords : (tUp .run).isUp .b = true ∧ scrubbed (regionOf (0x107FFFFF : Word).toNat) = true ∧ ((tUp .run).lane .a).eccCeAt = none ∧
    ((tUp .run).tb.run < 0 + sU 1) := by decide +kernel

theorem wit_CycleCommands :
    ((tTask 1).running = true ∧ ((tTask 1).lane (tTask 1).act).taskDef 7 = true ∧
      (((((tTask 1).advTo (nsU ((tTask 1).gridNs (tTask 1).act 7 0))).gridDue).lane (tTask 1).act).tState 7 = 1)) ∧
    (((((tTask 2).advTo (nsU ((tTask 2).gridNs (tTask 2).act 7 0))).gridDue).lane (tTask 2).act).tState 7 = 2 ∧ (tTask 2).isUp .b = true ∧ ((tTask 2).lane .b).canFinish 7 = true ∧
      ((tTask 2).lane (tTask 2).act).tState 7 = 2 ∧ ((tTask 2).lane (tTask 2).act).tasks[(7 : Fin 8)].suspended = false) ∧
    ((((List.finRange 8).filterMap fun t => ((tPub.lane tPub.act).pubDue t).map fun d => (t, d)).map (·.2)).min? = some 9 ∧ (tPub.advTo (nsU 9)).compares = false ∧
      (tPub.advTo (nsU 9)).red.failsafe = false) ∧
    ((tWin.lane tWin.act).tasks[(7 : Fin 8)].windowEnd = some 0 ∧ (tWin.advTo 0).dualRun = true) := by decide +kernel

theorem wit_RuntimeCalls :
    (tEng.rtTask .a 15 = some 7 ∧ (tEng.lane .a).sym? 7 (5 : Word).toNat = some tTimer ∧ 0x10 ≤ tTimer.typ ∧ tTimer.typ ≤ 0x12 ∧
      (tEng.lane .a).sym? 7 (6 : Word).toNat = some tEdge ∧ tEdge.typ = 0x13 ∧ (tEng.lane .a).sym? 7 (7 : Word).toNat = none) ∧
    ((255 : Word).toNat ≤ 255 ∧ (0x1000000000000 : DWord) ≠ 0 ∧ (0x1000000000000 : DWord).toNat ≤ 2 ^ 48 ∧ 255 < (256 : Word).toNat) ∧
    ((tEng.lane .a).engines[(15 : Fin 16)].cur = some 7 ∧ (2 : Word) ≠ 1 ∧ (2 : Word) ≠ 5 ∧ (2 : Word) ≠ 7) ∧
    ((tEng.lane .a).fld (aHwt 255) 0 2 = 1 ∧ (tEng.lane .a).flag (aHwt 255) 8 = true) := by decide +kernel

theorem wit_TimerRules : (5 : Nat) ≤ 5 := by decide

theorem wit_TaskAndDebugCommands :
    ((tTask 5).lanesOf tHc ≠ [] ∧ (tTask 5).running = true ∧ ∀ l ∈ (tTask 5).lanesOf tHc, ((tTask 5).lane l).taskDef 7 = true ∧ ((tTask 5).lane l).tState 7 = 5) ∧
    ((tTask 4).lanesOf tHc ≠ [] ∧ ∀ l ∈ (tTask 4).lanesOf tHc, ((tTask 4).lane l).taskDef 7 = true ∧ ((tTask 4).lane l).tState 7 = 4) ∧
    ((tDbg.lane .a).flag 0x40020008 0 = true ∧ tDbg.running = true ∧ tDbg.dualRun = false ∧ tDbg.isUp .a = true ∧
      (tDbg.lane .a).engines[(15 : Fin 16)].halted = false ∧ (tDbg.lane .a).engines[(14 : Fin 16)].halted = true) := by decide +kernel

theorem wit_LaneResetCommands :
    ((tBoot.lane .a).phase = .booting ∧ tBoot.boot.isSome = true ∧ (tUp .run).boot = none ∧ (1 : Nat) ≠ 3) ∧
    ((tUp .run).first tHc 0x40000018 (BitVec.ofNat 32 ((0xB007 : Half).toNat * 2 ^ 16 + bit true * 4 + bit true * 2)) = true ∧ (tUp .run).resetCmdOpen tHc = true) ∧
    ((tUp .run).isUp .a = true ∧ (tUp .run).isUp .b = true ∧ (tUp .run).isAct .a = true ∧ (tUp .run).isAct .b = false ∧
      (tSealed.isUp .a = true ∧ tSealed.isUp .b = false)) ∧
    ({ tUp .run with red := { (tUp .run).red with autoResets := [0, 5] } } : State).red.autoResets.min? = some 0 := by decide +kernel

theorem wit_BenchRingCommands :
    (tBen.lanesOf tHc ≠ [] ∧ ringTakes 1 tHc.req = true ∧ ringTakes 0 (tHcE 15).req = true ∧ ringTakes 0 tHc.req = false ∧
      (∀ l ∈ tBen.lanesOf tHc, tBen.benUnavail l 1 = false ∧ (tBen.lane l).outstanding 1 < (tBen.lane l).ringLen 1 ∧ (tBen.lane l).ben.rings[(1 : Fin 2)].nextSeq = 1)) ∧
    (∀ l ∈ (tBen.updBoth fun L => L.ringUpd 1 fun g => { g with nextSeq := 4 }).lanesOf tHc,
      (tBen.updBoth fun L => L.ringUpd 1 fun g => { g with nextSeq := 4 }).benUnavail l 1 = false ∧
      ((tBen.updBoth fun L => L.ringUpd 1 fun g => { g with nextSeq := 4 }).lane l).ringLen 1 ≤
        ((tBen.updBoth fun L => L.ringUpd 1 fun g => { g with nextSeq := 4 }).lane l).outstanding 1) ∧
    (∀ l ∈ (tUp .run).lanesOf tHc, (tUp .run).benUnavail l 1 = true ∧ ((tUp .run).lane l).outstanding 1 = 0) ∧
    (∀ l ∈ tBen.lanesOf tHc, (tBen.lane l).reservedSeq 1 (fieldOf 0 0 16) = true ∧ (tBen.lane l).ben.rings[(1 : Fin 2)].posted.contains (fieldOf 0 0 16) = false ∧
      (tBen.lane l).ben.rings[(1 : Fin 2)].halted = false ∧ (tBen.lane l).reservedSeq 1 (fieldOf 1 0 16) = false ∧ (tBen.lane l).outstanding 1 ≠ 0) ∧
    ((tBen.lane .b).fld 0x400A0004 16 8 ≠ 0 ∧ tBen.benUnavail .b 1 = false ∧ (tBen.lane .b).reservedSeq 1 ((tBen.lane .b).runSeq 1) = true ∧
      (tBen.lane .b).ben.rings[(1 : Fin 2)].posted.contains ((tBen.lane .b).runSeq 1) = false) := by decide +kernel

def tPosted : State := tBen.updBoth fun L => (L.ringUpd 0 fun g => { g with posted := [0] }).ringUpd 1 fun g => { g with posted := [0] }
def tRun (d : Bytes) : State := tBen.updBoth fun L => { L with ben := { L.ben with run := some { ring := 0, seq := 0, desc := d, tbStart := 0, tune := L.benTune, wins := none } } }
def tWait : BenWait := { (default : BenWait) with ring := 1, seq := 0, limit := 9, final := none }
def tPeer : BenPeer := { ring := 1, seq := 0, status := 0, scen := [] }
theorem wit_BenchJobCommands :
    ((tPosted.lane .b).benPick.isSome = true ∧ (tPosted.lane .b).ben.run = none ∧ tPosted.isUp .b = true ∧ tPosted.mode.mode = .run) ∧
    (((tRun (zeros 64)).lane .a).ben.run.isSome = true ∧ (tRun (zeros 64)).foundMissed 0 = false ∧
      ((tRun (zeros 64)).advTo (msU 1)).foundMissed 0 = true) ∧
    (tUp .run).agrees = true ∧ ({ tUp .run with laneB := Lane.init } : State).agrees = false ∧
    ((tUp .run).updBoth fun L => { L with ben := { L.ben with inbox := [tPeer], wait := [tWait] } }).agrees = true ∧
    [tWait].find? (fun w => w.ring == tPeer.ring && w.seq == tPeer.seq) = some tWait ∧
    ((tUp .run).lane .a).seqPassed tPeer.ring tPeer.seq = false ∧
    ({ Lane.init with ben := { Lane.init.ben with wait := [tWait] } } : Lane).firstWait = some tWait := by decide +kernel

def tPclTopo : Bytes := [1] ++ zeros 31
def tPclLane (p : PclUnit → PclUnit) : Lane := { tRing with pcl := p tRing.pcl }
def tPcl : State := (tUp .run).updBoth fun L => { L with pcl := { L.pcl with live := some default } }
def tPred : State := (tUp .run).updBoth fun L => { L with pcl := { L.pcl with pred := some default } }
theorem wit_TrackerCommands :
    (tPcl.ups.filter (fun l => (tPcl.lane l).pcl.live.isSome) ≠ []) ∧
    ((tUp .run).lanesOf (tHcE 3) = [LaneId.a] ∧ ((tUp .run).lane .a).flag aPclStat 3 = false) ∧
    ((tPred.lane .b).pcl.pred.isSome = true) := by decide +kernel

def tLoopImg : LoadedImg := { tImgOf with drawers := [{ typ := 9, inst := 0, flags := 0, source := 0, digest := 0, bytes := [1] ++ zeros 31 ++ [4] ++ zeros 9 ++ [1] ++ zeros 1013 }] }
def tLoopUp : State := (tUp .run).updBoth fun L => { L with img := some tLoopImg, rf := [(aLoop 0 0, 0x800)] }
def tLoop : State := (tUp .run).updBoth fun L => L.loopUpd 127 fun t => { t with pend := some default, core := { t.core with injReq := true } }
theorem wit_LoopCommands :
    ((tLoopUp.sampleAt 0).isSome = true ∧ (∀ l ∈ tLoopUp.lanesOf tHc, tLoopUp.injMay l 0 = true)) ∧
    (tLoop.running = true ∧ (tLoop.lane tLoop.act).ctl.loops[(127 : Fin 128)].pend.isSome = true) ∧
    (tLoop.lanesOf tHc ≠ [] ∧ (∀ l ∈ tLoop.lanesOf tHc, tLoop.injMay l 127 = false ∧ (tLoop.lane l).ctl.loops[(127 : Fin 128)].core.injReq = true)) ∧
    (∀ l ∈ tLoop.lanesOf tHc, (tLoop.lane l).capState 3 ≠ 1 ∧ (tLoop.lane l).capState 3 ≠ 2 ∧
      (tLoop.lane l).fld (aCap 3 0xC) 0 17 ≤ (tLoop.lane l).fld (aCap 3 8) 0 17 ∧ (tLoop.lane l).fld (aCap 3 8) 0 17 = 0) := by decide +kernel

def tAxImg : LoadedImg := { tImgOf with drawers := [{ typ := 10, inst := 0, flags := 0, source := 0, digest := 0, bytes := zeros 32 ++ [1, 0, 0, 1] ++ zeros 1020 }] }
def tAx (m : Mode) : State := (tUp m).updBoth fun L => { L with img := some tAxImg }
def tRest : State := (tAx .run).axDie 0 fun d => { d with restAt := some 5, enableAt := some 0, slow := false }
theorem wit_AxisDieCommands :
    ((tAx .run).lane (tAx .run).act).axEn 0 = true ∧ ((tAx .run).lane (tAx .run).act).axEn 15 = false ∧
    (tRest.field.ax[(0 : Fin 16)].restAt = some 5 ∧ tRest.field.ax[(0 : Fin 16)].enableAt.isSome = true) ∧
    (tRest.field.ax[(0 : Fin 16)].slow = false ∧ flt (fabs (tRest.lane tRest.act).axes[(0 : Fin 16)].v) ((tRest.lane tRest.act).axVal 0 0x24) = false) ∧
    (tRest.axDie 0 fun d => { d with slow := true }).field.ax[(0 : Fin 16)].slow = true := by decide +kernel

theorem wit_AxisCommands :
    (((tAx .stop).lane .a).axEn 0 = true ∧ (tAx .stop).mode.mode = .stop ∧ (tAx .stop).field.ax[(0 : Fin 16)].fltLow = false ∧
      u8At (((tAx .stop).lane .a).axE 0) 3 ≠ 0 ∧ ((tAx .stop).lane .a).axStat 0 7 = false ∧ (tAx .stop).portOpen .b = true ∧ (tAx .run).portOpen .b = false) ∧
    ((tAx .safe).mode.mode ≠ .stop ∧ (tAx .safe).running = false ∧ ((tAx .safe).lane .b).axEn 0 = true) ∧
    (((tAx .run).updBoth fun L => { L with engines := L.engines.set 15 { Engine.init with cur := some 0 } }).lanesOf (tHcE 15) = [LaneId.a] ∧
      (((tAx .run).updBoth fun L => { L with engines := L.engines.set 15 { Engine.init with cur := some 0 } }).lane .a).engines[(15 : Fin 16)].cur.any (·.val == 0) = true ∧
      u8At (((tAx .run).lane .a).axE 0) 1 = 0 ∧ (u8At (((tAx .run).lane .a).axE 0) 0).testBit 2 = false) ∧
    ((tAx .run).lanesOf tHc ≠ [] ∧ tHc.req = .hc) := by decide +kernel

def tOlc (n : Nat) : State := (tUp .stop).updBoth fun L => { L with rf := [(aOlcStat, BitVec.ofNat 32 n)], olc := { L.olc with fallback := some default, ts := some 0, pendDelta := some default } }
theorem wit_OnlineChangeCommands :
    ((tUp .stop).lanesOf tHc ≠ [] ∧ (tUp .stop).mode.mode = .stop ∧ (tUp .stop).loader.busy = false ∧ (tUp .stop).red.resync = none ∧
      (∀ l ∈ (tUp .stop).lanesOf tHc, ((tUp .stop).lane l).olcState = 0 ∧ ((tUp .stop).lane l).olc.chain.length < 16)) ∧
    ((tOlc 1).isUp .b = true ∧ ((tOlc 1).lane .b).olcState = 1 ∧ ((tOlc 1).lane .b).olc.own = none ∧ (tOlc 1).bothUp = true ∧
      ((tOlc 1).lane .b).olc.peer = none) ∧
    (tOlc 3).olcPlanned.isSome = true ∧
    (∀ l ∈ (tOlc 3).lanesOf tHc, ((tOlc 3).lane l).olcState = 3) ∧
    (∀ l ∈ (tOlc 5).lanesOf tHc, ((tOlc 5).lane l).olcState = 5 ∧ ((tOlc 5).lane l).olc.fallback.isSome = true) ∧
    (tOlc 5).lanesOf (tHcE 0) = [LaneId.a] := by decide +kernel

theorem wit_RedundancyTable : (tUp .run).tableDual = true ∧ (tUp .run).tableRow false true true false = 4 ∧ (tUp .run).tableRow false true false true = 3 ∧
    (tUp .run).tableRow true true false true = 8 ∧ ((tUp .single).tableDual = false ∧ (tUp .single).running = true) ∧
    (tUp .stop).tableRow false true true true = 0 := by decide +kernel

def tRed (r : RedUnit → RedUnit) : State := { tUp .run with red := r (tUp .run).red }
def tSick2 : State := (tUp .run).upd .b fun L => L.put aHealth 1
theorem wit_RedundancyCommands :
    ((tUp .run).isUp .b = true ∧ (tUp .run).isUp (other .b) = true ∧ (tUp .run).health (other .b) = ((tUp .run).lane .b).fld aHealth 8 6 % 32 ∧ (tUp .run).bothUp = true) ∧
    (tSick2.health (other .a) = 1 ∧ (tSick2.lane .a).fld aHealth 8 6 = 0 ∧ ((List.range 5).filter fun i => (1 : Nat).testBit i && !(0 : Nat).testBit i) ≠ []) ∧
    (((tUp .run).hbNote .b).running = true ∧ ((tUp .stop).hbNote .b).running = false ∧ ((tUp .stop).hbNote .b).isUp .b = true) ∧
    (((tUp .run).setHealth .a 4).setHealth .b 4).tableDual = true ∧
    (tRed fun r => { r with suspects := [3] }).red.suspects.min? = some 3 ∧
    (tRed fun r => { r with takeover := some .switch }).isUp (other (tRed fun r => { r with takeover := some .switch }).act) = true ∧
    (tRed fun r => { r with condemned := some (.b, true) }).red.condemned = some (.b, true) ∧
    ((tUp .run).lanesOf tHc ≠ [] ∧ (tUp .run).first tHc 0x40090008 (BitVec.ofNat 32 ((0x5244 : Half).toNat * 2 ^ 16 + 1)) = true ∧
      (tUp .run).first tHc 0x40090008 (BitVec.ofNat 32 ((0x5244 : Half).toNat * 2 ^ 16 + 2)) = true ∧
      (tUp .run).first tHc 0x40090008 (BitVec.ofNat 32 ((0x5244 : Half).toNat * 2 ^ 16 + 3)) = true ∧
      ((tUp .run).lane .a).fld aHealth 0 14 = 0 ∧ ((tUp .run).lane .b).fld aHealth 0 14 = 0 ∧ (tUp .run).red.suspects = [] ∧ (tUp .run).red.takeover = none) := by decide +kernel

def tResync (p : Nat) : State := { (tUp .single).upd .b (fun L => { L with phase := .resync }) with
  red := { (tUp .single).red with resync := some { lane := .b, phase := p, phaseAt := 0, tries := 1, passes := 0, retryAt := none, held := false } } }
theorem wit_ResyncCommands :
    ((tResync 8).isUp (other .b) = true ∧ ((tResync 8).lane (other .b)).finalWaits = false ∧ ((tResync 8).lane .a).img = none) ∧
    ({ tResync 1 with laneA := Lane.init } : State).isUp (other .b) = false ∧ (tImg .single).lane .a ≠ Lane.init ∧
    (1024 < min 5000 bulkKiB ∧ min 100 bulkKiB ≤ 1024) := by decide +kernel

def tEth : State := (tUp .run).updBoth fun L => { L with rf := [(0x40120010, 0x07D00001), (aEth 0 0, 1), (aEth 0 4, 1)] }
theorem wit_EthernetCommands :
    (tEth.ups ≠ [] ∧ tEth.mode.mode = .run ∧ tEth.ethL.ethLive 0 = true ∧ tEth.ethL.flag (aEth 0 4) 0 ≠ false ∧ tEth.ethL.prpOn = true ∧
      tEth.link.lanSilent.getLsbD (bit true) = false) ∧
    (14 ≤ (1 :: zeros 60 : Bytes).length ∧ tEth.ethL.flag (aEth 0 0) 3 = false ∧ beAt (1 :: zeros 60) 12 2 ≠ 0x8100 ∧
      (u8At (1 :: zeros 60) 0).testBit 0 = true ∧ (zeros 13).length < 14) := by decide +kernel

def tMstImg : LoadedImg := { tImgOf with drawers := [{ typ := 13, inst := 0, flags := 0, source := 0, digest := 0, bytes := [1] ++ zeros 31 ++ [1] ++ zeros 63 }] }
def tMst : State := (tUp .stop).updBoth fun L => { L with img := some tMstImg, rf := [(0x40140004, 0x00640005), (aSub 0, 1)] }
def tRx : MstRx := { no := 0, at_ := 0, stamp := 0, port := 1, vid := 0, source := [], payload := zeros 10 }
theorem wit_TelegramCommands :
    (tMst.ups ≠ [] ∧ tMst.mstReceives = true ∧ tMst.ethL.mstOn = true ∧ tMst.link.overEvAt = none ∧
      tokenU ≤ min (16384 * tokenU) (tMst.link.tokens + (tMst.tb.run - tMst.link.tokenAt)) ∧ min (16384 * tokenU) (0 + (tMst.tb.run - tMst.tb.run)) < tokenU) ∧
    (tMst.lane .b).mstCheck tRx = .drop ctrFormat none ∧
    ((tMst.lane tMst.act).flag (aSub 0) 0 = true ∧ (tMst.lane tMst.act).fld 0x40140004 0 16 ≠ 0) ∧
    tMst.isUp (other tMst.act) = true ∧ tMst.mode.mode = .stop ∧ tMst.compares = false ∧ (tUp .run).compares = true ∧
    (tMst.lanesOf tHc ≠ [] ∧ (∀ l ∈ tMst.lanesOf tHc, (tMst.lane l).mstEn 0 = true ∧ (tMst.lane l).mstEn 4095 = false)) := by decide +kernel

def tCanL : Lane := { Lane.init with phase := .up, rf := [(aCan 7 0, 1), (aCan 7 0x10, 0), (aBuf 7 63 4, 0), (aBufCfg 7 63, 3)] }
def tCan (n : Nat) : State := (tUp .run).updBoth fun L => (((L.setFlag (aCan 7 0) 0 true).setFld (aBufCfg 7 63) 0 2 3).setTxs 7 63 n).setFld (aCan 7 0x10) 0 2 0
theorem wit_CanTransmitCommands :
    ((tCan 0).lanesOf tHc ≠ [] ∧ (tCan 0).mode.mode = .run ∧ (∀ l ∈ (tCan 0).lanesOf tHc, ((tCan 0).lane l).canEn 7 = true ∧ ((tCan 0).lane l).canIsTx 7 63 = true ∧
      ((tCan 0).lane l).canTxs 7 63 = 0 ∧ ((tCan 1).lane l).canTxs 7 63 = 1 ∧ ((tCan 2).lane l).canTxs 7 63 = 2 ∧ ((tCan 0).lane l).canIsTx 7 62 = false)) ∧
    ((tCan 1).canOn = true ∧ ((tCan 1).lane .a).canState 7 < 2 ∧ ((tCan 1).lane .a).fld (aCan 7 0) 1 2 ≠ 1 ∧ (∀ k, k < 64 → ((tCan 1).lane .a).canTxs 7 k ≠ 2) ∧
      ((tCan 1).lane .a).canOffer 7 = some 63 ∧ (tCan 1).compares = true ∧ ((tCan 1).lane .a).can[(7 : Fin 8)].bufs[(63 : Fin 64)].compared = false ∧
      ((tCan 1).lane .b).canOffer 7 = some 63 ∧ ((tCan 2).lane .b).canOffer 7 = none) ∧
    (tCan 2).canOnWire 7 = some 63 ∧
    (tCan 2).isUp (other (tCan 2).act) = true := by decide +kernel

def tFrame : CanFrame := { ide := false, ident := 5, rtr := false, fdf := false, brs := false, esi := false, res := false, dlc := 0, data := [] }
theorem wit_CanBusCommands :
    ((tCan 0).canOn = true ∧ ((tCan 0).lane (tCan 0).act).canHears 7 0 = true ∧ ((tCan 0).lane (tCan 0).act).canValid 7 tFrame = true ∧
      ((tCan 0).lane (tCan 0).act).canRec 7 = 0 ∧ (((tCan 0).lane .a).setFld (aCan 7 0x10) 16 8 200).canRec 7 = 200) ∧
    (((tCan 0).upd .a fun L => L.setFld (aCan 7 0x10) 0 2 2).lane .a).canState 7 = 2 := by decide +kernel

def tTbOf (m : Mode) : State := (tUp m).updBoth fun L => { L with rf := [(aTb 0x10, 5), (aTb 0x24, 7)] }
def tStepped : State := { tTbOf .stop with tb := { (tTbOf .stop).tb with step := some (0, -3), count := 2 ^ 43 } }
theorem wit_TimeBaseCommands :
    ((tTbOf .stop).reads tHc = true ∧ (({ tTbOf .stop with laneA := { (tTbOf .stop).laneA with tbCap := [(.hc, 7)] } }.lane
        ((tTbOf .stop).readLane tHc)).tbCap.find? fun c => c.1 == tHc.req) = some (.hc, 7) ∧
      (((tTbOf .stop).lane ((tTbOf .stop).readLane tHc)).tbCap.find? fun c => c.1 == tHc.req) = none) ∧
    ((tTbOf .stop).lanesOf tHc ≠ [] ∧ (tTbOf .stop).first tHc (aTb 0x20) ((0x5442 : Half) ++ (1 : Half)) = true ∧
      (tTbOf .stop).stepDeny (((tTbOf .stop).lane .a).s64 (aTb 0x10)) = 0 ∧ (tTbOf .run).stepDeny (((tTbOf .run).lane .a).s64 (aTb 0x10)) ≠ 0) ∧
    tStepped.tb.step = some (0, -3) ∧
    ((tTbOf .stop).ups ≠ [] ∧ ((tTbOf .stop).lane (tTbOf .stop).act).flag (aTb 0x24) 0 = true ∧
      ((tTbOf .stop).lane .a).flag (aTb 0x24) 1 = true ∧ ((tTbOf .stop).lane .a).flag (aTb 0x24) 2 = true) := by decide +kernel

def tPtp (m : Mode) : State := (tUp m).updBoth fun L => { L with rf := [(aEth 0 0, 1), (aEth 0 4, 1), (aTb 0x100, 9), (aTb 0x128, 5), (aTb 0x300, 0x00220000)] }
def tPtpQ : State := (tPtp .run).upd .a fun L => { L with ptp := { L.ptp with txq := [{ entry := [], tag := 1, plan := some 5 }, { entry := [], tag := 2, plan := none }] } }
theorem wit_PtpCommands :
    ((tPtp .run).ups ≠ [] ∧ (tPtp .run).ptpRuns = true ∧ ((tPtp .run).lane (tPtp .run).act).ethLive 0 = true ∧
      bitOf (((tPtp .run).lane (tPtp .run).act).get (aTb 0x100)) 0 = true ∧ bitOf (((tPtp .run).lane (tPtp .run).act).get (aTb 0x100)) 3 = true) ∧
    ((tPtp .run).lane .a).ptp.rxq = [] ∧
    ((tPtp .single).lanesOf { lane := .b, req := .engine 3 } = [.b] ∧ ((tPtp .run).lane .b).ptp.txq = [] ∧
      u16At ((((tPtp .run).lane .b).getWords (aTb 0x300) 40).map fun w => leBytes 4 w.toNat).flatten 2 = 34 ∧
      ((tPtp .run).lane .b).flag (aEth 0 0) 0 = true ∧ diff32 (((tPtp .run).lane .b).get (aTb 0x128)).toNat (tPtp .run).tb32 = 5) ∧
    ((tPtpQ.lane tPtpQ.act).ptp.txq.length = 2 ∧ diff32 5 tPtpQ.tb32 = 5) := by decide +kernel

def tRtc : State := (tUp .run).keep fun k => { k with rtc := { k.rtc with wakeAt := some 9, setPend := some (k.rtc.cal, 7) } }
theorem wit_CalendarCommands :
    ((tUp .run).reads tHc = true ∧ ((tUp .run).lane ((tUp .run).readLane tHc)).rtcFrozen = none) ∧
    (tUp .run).dieOpen tHc = true ∧ (tUp .run).lanesOf tHc ≠ [] ∧ (tUp .run).keeper.rtc.setPend = none ∧
    (stagedCal ((tUp .run).keep fun k => k.put 0x010024 0x07D0021E).keeper).ok = false ∧
    (stagedCal ((tUp .run).keep fun k => (k.put 0x010024 0x07D0021D).put 0x010020 0x05C00000).keeper).ok = true ∧
    tRtc.keeper.rtc.setPend.isSome = true ∧ tRtc.keeper.rtc.wakeAt = some 9 := by decide +kernel

def tThqD (k : Byte) : Bytes := [1, 0, 0, 0, k, 0, 0, 0] ++ leBytes 4 0x3F800000 ++ zeros 4
def tDrawer (typ : Nat) (bytes : Bytes) : Drawer := { typ := typ, inst := 0, flags := 0, source := 0, digest := 0, bytes := bytes }
def tMtrImg : LoadedImg :=
  { tImgOf with drawers := [tDrawer 0x0E (zeros 2 ++ [60, 0]), tDrawer 0x0F (zeros 2 ++ [60, 0] ++ zeros 28 ++ [1] ++ zeros 15 ++ tThqD 2 ++ tThqD 3 ++ tThqD 4)] }
def tMtr : State := (tUp .run).updBoth fun L =>
  { L with rf := [(0x400F0000, 0x80)], img := some tMtrImg,
           mst := { L.mst with subs := L.mst.subs.set 0 { Sub.init with vis := { Sub.init.vis with stamps := Vector.replicate 9 (some 0) } } } }
theorem wit_MeterCommands :
    (tMtr.counts = true ∧ (tMtr.lane tMtr.act).ptEn 7 = true ∧ (tMtr.lane tMtr.act).mtr.ch[(44 : Fin 48)].timedOut = false ∧ (44 : Fin 48).val = 6 * (7 : Fin 8).val + 2) ∧
    ((tUp .run).lane .a).thqSrc (slice (((tUp .run).lane .a).accE 0) 0x10 16) = none ∧
    ((tMtr.lane .a).fld 0x40100500 0 16 = 0 ∧ ([0x10, 0x20, 0x30].all fun k => ((tMtr.lane .a).thqSrc (slice ((tMtr.lane .a).accE 0) k 16)).any fun v => !flt v.1 f0 && !flt (fOfNat 150) v.1) = true) ∧
    ((tUp .single).lanesOf (tHcE 15) = [.a] ∧ .a = (tUp .single).act ∧ (tUp .run).lanesOf { lane := .b, req := .engine 15 } = [.b] ∧ .b ≠ (tUp .run).act) ∧
    (tMtr.saves = true ∧ tMtr.isUp tMtr.act = true ∧ (tMtr.lane tMtr.act).dr 0x0E ≠ [] ∧ (tMtr.lane tMtr.act).dr 0x0F ≠ []) ∧
    (tMtr.readersOf tHc ≠ [] ∧ (∀ l ∈ tMtr.readersOf tHc, (tMtr.lane l).counterAt 0x400F17F0 = some (0, false)) ∧ (tMtr.lane .a).counterAt 0x400F17F4 = some (0, true)) := by decide +kernel

def tDioImg : LoadedImg := { tImgOf with drawers := [{ typ := 0x0B, inst := 0, flags := 0, source := 0, digest := 0, bytes := List.replicate 1024 1 }] }
/-- Every input and output is enabled; input 63 has WB_EN and WB_ACT 1, input 62 is in wire break with WB_ACT 1, and each has LIMIT 5; input 61's filter has changed meanwhile. -/
def tDio : State :=
  let s := (tUp .run).updBoth fun L => { L with img := some tDioImg, rf := [(aDi 62, 0x610000), (aDi 63, 0x610000), (aDi 63 + 4, 5), (aDq 31, 6)] }
  { s with field := { s.field with
      di := (s.field.di.set 62 { DiCh.init with wb := true }).set 61 { DiCh.init with wb := true, f := true }
      dq := (((s.field.dq.set 0 { DqCh.init with on := true, target := true }).set 1 { DqCh.init with overtemp := true }).set 2
        { DqCh.init with overtemp := true, latched := true, clearHeld := true }).set 3 { DqCh.init with overtemp := true, latched := true, cooled := true }
      queue := [4, 5], slotAt := some 9, lplusLow := 8 } }
theorem wit_DigitalIoCommands :
    (tDio.sampling = true ∧ (tDio.lane tDio.act).diEn 63 = true ∧ (tDio.lane tDio.act).diEn 62 = true ∧ tDio.field.di[(63 : Fin 64)].filt ≠ true ∧
      tDio.field.di[(62 : Fin 64)].filt ≠ true ∧ tDio.field.di[(62 : Fin 64)].wb = true ∧ (tDio.lane tDio.act).fld (aDi 62) 22 2 ≠ 0 ∧
      tDio.field.di[(63 : Fin 64)].wb = false ∧ tDio.field.di[(63 : Fin 64)].f ≠ true ∧ (tDio.lane tDio.act).flag (aDi 63) 16 = true ∧
      bitOf ((tDio.lane tDio.act).get (aDi 63)) 19 = false) ∧
    (((tDio.advTo (ceilDiv tDio.tb.count (nsU 10000) * nsU 10000)).diSampleWb 62 true).isSome = true ∧
      tDio.field.di[(62 : Fin 64)].f = tDio.field.di[(62 : Fin 64)].filt ∧ tDio.field.di[(61 : Fin 64)].f ≠ tDio.field.di[(61 : Fin 64)].filt) ∧
    (tDio.lanesOf { lane := .a, req := .engine 0 } = [.a] ∧ tDio.lanesOf { lane := .b, req := .engine 0 } = [.b] ∧ (tDio.lane .b).diEn 63 = true ∧
      tDio.portOpen .a = true ∧ tDio.portOpen .b = false) ∧
    (tDio.field.slotAt = some 9 ∧ tDio.field.queue ≠ []) ∧
    (tDio.field.lplusLow.getLsbD (0 : Fin 4) = false ∧ tDio.field.lplusLow.getLsbD (3 : Fin 4) = true) ∧
    (tDio.field.dq[(0 : Fin 32)].on = true ∧ tDio.field.dq[(0 : Fin 32)].overload = false ∧ tDio.field.dq[(0 : Fin 32)].overtemp = false) ∧
    (tDio.field.dq[(1 : Fin 32)].overtemp = true ∧ tDio.field.dq[(1 : Fin 32)].latched = false ∧ tDio.field.dq[(2 : Fin 32)].overtemp = true ∧
      tDio.field.dq[(2 : Fin 32)].latched = true ∧ tDio.field.dq[(2 : Fin 32)].clearHeld = true ∧ tDio.field.dq[(3 : Fin 32)].overtemp = true ∧
      tDio.field.dq[(3 : Fin 32)].latched = true ∧ tDio.field.dq[(3 : Fin 32)].clearHeld = false ∧ tDio.field.dq[(3 : Fin 32)].cooled = true ∧
      tDio.field.dq[(2 : Fin 32)].cooled = false ∧ (tDio.lane .a).dqEn 31 = true) ∧
    (tDio.lplusIsLow 0 = false ∧ (tDio.lane tDio.act).get (aDq 31) = 6 ∧ tDio.field.dq[(0 : Fin 32)].target = true ∧
      (({ tDio with field := { tDio.field with lplusLow := 0 } } : State).lplusIsLow 31 = false ∧ tDio.field.dq[(31 : Fin 32)].target = false ∧
        tDio.field.dq[(31 : Fin 32)].openOff = false)) := by decide +kernel

def tSrcA : Src := { lane := .a, req := .engine 0 }
def tSrcB : Src := { lane := .b, req := .engine 0 }
/-- Group 7 of lane A free with its base at the start of bank 1; group 6 open there; group 5 closing at the start of bank 7; the pair unit idle with sound arguments. -/
def tChest : State := (tUp .run).upd .a fun L => { L with
  rf := [(aGrp 5 8, 2), (aGrp 6 8, 1), (aGrp 7 0, 0x20200000), (aPair 0, 0x20000000), (aPair 4, 0x10000000), (aPair 8, 4)],
  grps := (L.grps.set 6 { base := 0x20200100, words := 64, owner := 15, buf := [] }).set 5 { base := 0x20E00000, words := 1, owner := 15, buf := [(0xE00000, 9)] },
  commits := [5] }
def tOp (w : Bool) (r : Nat) : PairOp := { write := w, result := r, copyB := true, seq := 7, tie := false, data := [1] }
theorem wit_ChestCommands :
    (tChest.lanesOf tSrcA = [.a] ∧ tChest.lanesOf tSrcB = [.b] ∧ tChest.portOpen .a = true ∧ tChest.portOpen .b = false ∧ tChest.chest.lock = false ∧
      (tChest.lane .a).grpState 7 = 0 ∧ regionOf ((tChest.lane .a).getN (aGrp 7 0)) = .chest ∧
      chestBankOf (chestOff 0x20200000) = chestBankOf (chestOff 0x20200000 + 4 * 64 - 1) ∧ tChest.chestProt (chestOff 0x20200000) = false ∧
      (tChest.lane .a).grpTouch (chestOff 0x20200000) (4 * 64) = false ∧ (tChest.lane .a).grpState 6 = 1 ∧ (tChest.lane .a).pairBusy = false ∧
      (tChest.lane .a).pairArgsOk = true ∧ (tChest.lane .b).pairArgsOk = false ∧ tChest.chestProt (tChest.lane .a).pairOff = false ∧
      (tChest.pairNewest (tChest.lane .a).pairOff 4) = none) ∧
    ({ tChest with chest := { tChest.chest with lock := true } } : State).chest.prot ≠ 3 ∧
    ({ tChest with chest := { tChest.chest with storing := some 7 } } : State).chest.storing = some 7 ∧
    ((tChest.lane .a).commits = [5] ∧ tChest.grpWaits .a 5 = false ∧ tChest.chest.storing = none ∧ tChest.chestProt (tChest.lane .a).grps[(5 : Fin 8)].off = false ∧ tChest.chestPort = .a ∧
      ({ tChest with chest := { tChest.chest with prot := 1 } } : State).chestProt (tChest.lane .a).grps[(5 : Fin 8)].off = true) ∧
    (tChest.isUp .a = true ∧ regionOf 0x20FFFFFF = .chest ∧ (tChest.lane .a).grpAt 0x2001FF = some 6 ∧ (tChest.lane .a).grpAt 0x200200 = none ∧ tChest.dualRun = true) ∧
    ((tChest.upd .a fun L => { L with pairOp := some (tOp true 1) }).lane .a).pairOp = some (tOp true 1) := by decide +kernel
theorem wit_ChestCommands_pair :
    let s := { tChest with chest := { tChest.chest with array := memWrite [] 0 (pairHeader 7 [1, 2, 3, 4] ++ [1, 2, 3, 4]) } }
    s.pairNewest (s.lane .a).pairOff (s.lane .a).pairLen = some (false, 7, [1, 2, 3, 4], false) := by decide +kernel

/-- A watch point of a substation field that has never come, a raised tally, an event's tally, and two slots at the start of the Chest. -/
def tRecD : Bytes := [1, 0, 2, 0] ++ leBytes 4 0x20000000 ++ [2, 0, 0, 0] ++ zeros 20 ++ ([1, 0, 0, 2, 0, 0, 0, 0, 5, 0] ++ zeros 22) ++ ([1] ++ zeros 15) ++ ([3] ++ zeros 15)
def tRecW : Watch := (tUp .run).watchNew false
def tRecU : RecUnit := { RecUnit.init with watches := [(0, tRecW)], queue := [.watch 0 []], slots := some [(0, { kind := 1, sev := 0, id := 0, wseq := 0, wrtc := 0 })],
                                           tallies := [(0, { Tally.init with due := true, lastWrite := some 3 })] }
def tRec (m : Mode) : State := (tUp m).updBoth fun L =>
  { L with rf := [(aRec 0, 7)], recU := tRecU, img := some { tImgOf with drawers := [{ typ := 0x10, inst := 0, flags := 0, source := 0, digest := 0, bytes := tRecD }] } }
theorem wit_RecorderCommands :
    (((tRec .run).lane (tRec .run).act).recAvail = true ∧ ((tRec .run).lane (tRec .run).act).watchOn 0 = true ∧ ((tRec .run).lane .a).watch? 0 = some tRecW ∧
      ((tRec .run).lane .a).recRuns = true ∧ ((tRec .run).srcVal .a (u8At (((tRec .run).lane .a).watchE 0) 3) (u32At (((tRec .run).lane .a).watchE 0) 4)).2 = none) ∧
    (flt f0 0x3FF0000000000000 = true ∧ flt 0x3FF0000000000000 f0 = false) ∧
    ((tRec .run).osf = true ∧ ((tRec .run).keep (·.setBits 0x01002C 0 false)).osf = false) ∧
    ((tRec .stop).lanesOf { lane := .a, req := .engine 0 } = [.a] ∧ ((tRec .stop).lane .a).tallyOn 0 = true ∧ ((tRec .stop).lane .a).tallyEvt 0 = false ∧
      ((tRec .stop).lane .a).tallyOn 1 = true ∧ ((tRec .stop).lane .a).tallyEvt 1 = true ∧
      (((tRec .stop).lane .a).recOccur 0 0 0 0 0).2 = false ∧
      (((tRec .stop).upd .a fun L => { L with recU := { tRecU with queue := List.replicate 2048 (.tally 1) } }).lane .a |>.recOccur 0 0 0 0 0).2 = true) ∧
    ((tRec .stop).lanesOf tHc ≠ [] ∧ ((tRec .run).ups.filterMap fun l => ((tRec .run).lane l).tallyDueAt 0).min? = some 3) ∧
    ((tRec .run).recBehind .a = false ∧ (tRec .run).recSlotFor .a (.watch 0 []) = some 1 ∧ (tRec .run).chest.storing = none ∧
      ((tUp .run).recSlotFor .a (.watch 0 [])) = none) ∧
    ((tRec .run).chestProt 0 = false ∧ (tRec .run).portOpen .a = true ∧ ((tRec .run).lane .a).flag (aRec 0) 2 = true) := by decide +kernel
theorem wit_RecorderCommands_clear (a : Nat) : (tRec .stop).chestProt a = false := rfl

/-- Slot 0 empty, slot 1 VALID with KDF, slot 2 VALID and locked; a derivation from slot 1 into a slot is set up, from slot 0 in lane B; a root seed; one label. -/
def tKeyD : Bytes := [0, 1] ++ zeros 14 ++ [1, 65] ++ zeros 30
def tKeyOf (m : Mode) (latch : Bool) : State :=
  let s := (tUp m).updBoth fun L => { L with
    rf := [(aKey 0x40, 1), (aKey 0x48, 1)], img := some { tImgOf with drawers := [{ typ := 0x12, inst := 0, flags := 0, source := 0, digest := 0, bytes := tKeyD }] },
    keys := { L.keys with slots := (L.keys.slots.set 1 { value := 7, attr := 8, tag := 0, state := 1 }).set 2 { value := 7, attr := 0x200, tag := 0, state := 1 },
                          fwd := [{ op := 1, slot := 3, value := 1, attr := 0, effective := true, forward := true }] } }
  { s.keep (fun k => { k with rootSeed := some 5, provLatch := latch }) with
    laneB := { s.laneB with rf := [(aKey 0x40, 0x0400)], keys := { s.laneB.keys with cmd := some { op := 3, slot := 0, value := 0, attr := 0, effective := true, forward := false } } } }
theorem wit_KeyCommands :
    ((tKeyOf .stop false).lanesOf { lane := .a, req := .uart } ≠ [] ∧ (tKeyOf .single false).lanesOf tHc ≠ [] ∧
      (tKeyOf .single true).keyWho .a .uart = 0 ∧ (tKeyOf .run false).keyWho .a .hc = 0 ∧ ((tKeyOf .run false).lane .a).keys.cmd = none ∧
      (tKeyOf .run false).slotRefusal .a 0 1 = 0 ∧ (tKeyOf .run false).slotRefusal .a 2 1 = 3 ∧ (tKeyOf .run false).slotRefusal .a 0 0x400 = 6 ∧
      (tUp .run).slotRefusal .a 0 1 = 4 ∧ ((tKeyOf .run false).lane .a).keyAttr = 1 ∧ (tKeyOf .run false).deriveRefusal .a 0 = 0 ∧
      (tKeyOf .run false).deriveRefusal .b 0 = 5) ∧
    ((((tKeyOf .run false).lane .a).keys.slots[(2 : Fin 32)]).attr.getLsbD 9 = true ∧ (((tKeyOf .run false).lane .a).keys.slots[(1 : Fin 32)]).attr.getLsbD 3 = true ∧
      (((tKeyOf .run false).lane .a).keys.slots[(2 : Fin 32)]).attr.getLsbD 3 = false ∧ 0 < ((tKeyOf .run false).lane .a).keyLabels) ∧
    ((((tKeyOf .run false).lane .b).keys.cmd.map (·.op)) = some 3 ∧ ((tKeyOf .run false).lane .a).keys.fwd ≠ []) ∧
    ((tKeyOf .run false).isUp .a = true ∧ (((tKeyOf .run false).lane .a).keys.slots[(1 : Fin 32)]).state = 1) ∧
    ((tKeyOf .run false).act = .a ∧ ((tKeyOf .run false).lane .a).img ≠ none ∧ ((tKeyOf .run false).lane .a).keys.attBusy = false ∧
      ((tKeyOf .run false).lane .a).keys.keygen = false ∧ ((tUp .run).lane .a).img = none ∧ (tUp .run).keeper.rootSeed = none) ∧
    ((tKeyOf .configure true).provLatch = true ∧ (tKeyOf .configure true).keyWho ((tKeyOf .configure true).readLane tHc) .hc = 0) ∧
    ((tKeyOf .configure true).dieOpen tHc = true ∧ (tKeyOf .configure true).keeper.burn = none ∧ (tKeyOf .configure true).otherAnchors 3 = false ∧
      (tKeyOf .configure true).keeper.anchors[(3 : Fin 4)].programmed = false ∧
      ((tKeyOf .configure true).keep fun q => { q with anchors := (q.anchors.set 3 { digest := 1, programmed := true, revoked := false }).set 0 { digest := 1, programmed := true, revoked := false } }).otherAnchors 3 = true) := by decide +kernel
theorem wit_KeyCommands_lane : (tKeyOf .configure true).lanesOf { lane := .a, req := .uart } = [.a] ∧ (tKeyOf .single true).mode.mode ≠ .run := by decide +kernel

def tDg (typ : Byte) (n : Nat) : HcDatagram := { ip := [10, 0, 0, 1], port := 9, typ := typ, session := 0, seq := 1, body := zeros n, tag := [] }
def tSess : HcSess := { ip := [10, 0, 0, 1], port := 9, nH := [], nD := [], slot := 31, lastAt := 0 }
def tChal : HcChal := { session := 0, ip := [10, 0, 0, 1], port := 9, nH := [], nD := [], slot := 31, at_ := 0 }
/-- Slot 31 holds an HC key and the channel is enabled, a challenge is out, an EVENT record waits and a frame waits for the standby. -/
def tHch : State := (tUp .run).updBoth fun L => { L with
  rf := [(aHch 0, 0x000A1F01)], keys := { L.keys with slots := L.keys.slots.set 31 { value := 7, attr := 1, tag := 0, state := 1 } },
  evt := { L.evt with hcq := [{ (default : EvtRec) with id := 1 }] },
  hc := { L.hc with chal := some tChal, sess := some tSess, confirm := [(false, 1, [])] } }
def tUartF : Bytes := [0x7E, 1, 0, 5] ++ leBytes 2 (crc16 [1, 0, 5])
theorem wit_HostChannelCommands :
    (hcFits (tDg 1 32) 1 = true ∧ (tDg 1 32).body.length = 32 ∧ tHch.hcListens = true ∧ tHch.mode.mode ≠ .reset ∧ tHch.ups ≠ [] ∧
      (let k := (tHch.lane tHch.act).keys.slots[(Fin.ofNat 32 (fieldOf ((tHch.lane tHch.act).get (aHch 0)) 8 5))]; k.state = 1 ∧ k.attr.getLsbD 0 = true) ∧
      bitOf ((tHch.lane tHch.act).get (aHch 0)) 0 = true ∧ (tHch.lane tHch.act).keys.cmd = none ∧
      (let s := tHch.advRun (sU 10); s.hcListens = true ∧ tSess.lastAt + sU (fieldOf ((s.lane s.act).get (aHch 0)) 16 12) ≤ s.tb.run)) ∧
    ((tHch.lane tHch.act).hc.chal = some tChal ∧ hcFits (tDg 3 0) 3 = true ∧ (tDg 3 0).session = tChal.session ∧ tHch.tb.run ≤ tChal.at_ + sU 2) ∧
    ((tHch.lane tHch.act).hc.sess = some tSess ∧ hcFits (tDg 5 1420) 5 = true ∧ (tDg 5 1420).ip = tSess.ip ∧ (tDg 5 1420).port = tSess.port ∧
      (tDg 5 1420).session.toNat = (tHch.lane tHch.act).fld (aHch 4) 16 16 ∧ (tDg 5 1420).seq.toNat = (tHch.lane tHch.act).getN (aHch 8) + 1) ∧
    ((tHch.lane tHch.act).hc.confirm = [(false, 1, [])] ∧ (tHch.lane tHch.act).hc.evFrame = none ∧ (tHch.lane tHch.act).evt.hcq ≠ [] ∧
      (tHch.lane tHch.act).hc.closing = false ∧ (tHch.upd .a id).bothUp = true ∧ (tUp .single).ups ≠ []) ∧
    (1 ≤ u16At tUartF 1 ∧ u8At tUartF 0 = 0x7E ∧ tUartF.length = u16At tUartF 1 + 5 ∧
      crc16 ((tUartF.drop 1).take (u16At tUartF 1 + 2)) = u16At tUartF (u16At tUartF 1 + 3) ∧ tHch.isUp tHch.act = true ∧ tHch.provLatch = false) := by decide +kernel

def tRecs : List EvtRec := [{ (default : EvtRec) with id := 1, prio := 9 }, { (default : EvtRec) with id := 2, prio := 3 }]
theorem wit_EventQueueOrder :
    (tRecs.Pairwise (fun x y => y.prio ≤ x.prio) ∧ ∀ x ∈ tRecs, x.id = 3 → x.prio = 5) ∧
    (evtInsert { (default : EvtRec) with id := 3, prio := 5 } tRecs).map (·.id) = [1, 3, 2] ∧ Lane.init.evt.q[(15 : Fin 16)].length < 64 ∧
    (({ Lane.init with evt := { Lane.init.evt with q := Lane.init.evt.q.set 15 (List.replicate 64 default) } } : Lane).evt.q[(15 : Fin 16)].length = 64) ∧
    Lane.init.evt.ovf.getLsbD (15 : Fin 16) = false := by decide +kernel

/-- The pair unit idle with sound arguments; copies of 4 bytes with the given sequence numbers and last bytes. -/
def tPair (qa qb : Option Word) : State :=
  let c (q : Option Word) (x : Byte) : Bytes := match q with
    | some w => pairHeader w [1, 2, 3, x] ++ [1, 2, 3, x]
    | none => zeros 20
  let s := (tUp .run).upd .a fun L => { L with rf := [(aPair 0, 0x20000000), (aPair 4, 0x10000000), (aPair 8, 4)] }
  { s with chest := { s.chest with array := memWrite (memWrite [] 0 (c qa 4)) 64 (c qb 5) } }
def tPairRec (b tie : Bool) (q : Word) (x : Byte) : PairOp := { write := false, result := 1, copyB := b, seq := q, tie := tie, data := [1, 2, 3, x] }
theorem wit_PairRecordNewest :
    ((tPair none none).pairPlan .a false).result = 2 ∧ (tPair (some 7) none).pairPlan .a false = tPairRec false false 7 4 ∧
    (tPair none (some 7)).pairPlan .a false = tPairRec true false 7 5 ∧ (tPair (some 0xFFFFFFFF) (some 1)).pairPlan .a false = tPairRec true false 1 5 ∧
    (tPair (some 0) (some 0x80000000)).pairPlan .a false = tPairRec false false 0 4 ∧ (tPair (some 7) (some 7)).pairPlan .a false = tPairRec false true 7 4 ∧
    ((tPair none none).lanesOf { lane := .a, req := .engine 0 } = [.a] ∧ ((tPair none none).lane .a).pairBusy = false ∧ ((tPair none none).lane .a).pairArgsOk = true ∧
      rfWf ((tPair none none).lane .a).rf = true) := by decide +kernel

end Sys2Proof.Tests
end

section
/-! The module as a whole: the queue it takes its commands from, and the writes of EVT_SRC_CFG, plain and through the
aliases (R9, R36). -/
namespace Sys2Proof.Machine

variable {s t : State} {src : Src}

/-! The queue (log 2). -/

theorem step_of_pending_nil (h : s.pending = []) : step s = .next (s.ticks 1) := by simp [step, h]

theorem step_of_pending_cons {c : Instr} {rest : List Instr} (h : s.pending = c :: rest) :
    step s = exec c { s with pending := rest } := by simp [step, h]

theorem exec_pending {c : Instr} (h : exec c s = .next t) : t.pending = s.pending := (exec_keeps h).queue

/-- Settles O1: the two states differ in nothing, since a queue replaced twice is replaced once. -/
theorem stepRunsFront : Obligations.StepRunsFront := by
  intro c s
  exact step_of_pending_cons (s := { s with pending := c :: s.pending }) rfl

/-- Settles O6: a tick finds the queue empty and leaves it so, and no command's meaning touches the rest it is run with. -/
theorem queueFirstInFirstOut : Obligations.QueueFirstInFirstOut := by
  intro s t h
  cases hq : s.pending with
  | nil =>
    rw [step_of_pending_nil hq] at h
    cases h
    exact hq
  | cons c rest =>
    rw [step_of_pending_cons hq] at h
    exact exec_pending h

/-! Where EVT_SRC_CFG and its aliases lie, and what a write there comes to (R29, R36). -/

theorem regionOf_evtCfg {a : Nat} (h : 0x40010100 ≤ a ∧ a < 0x40010500) : regionOf a = .reg := by
  unfold regionOf
  iterate 6 rw [if_neg (by omega)]
  exact if_pos (by omega)

theorem regionOf_evtCfg_set {a : Nat} (h : 0x40010100 ≤ a ∧ a < 0x40010500) : regionOf (a + 0x1000000) = .aliasSet := by
  unfold regionOf
  iterate 7 rw [if_neg (by omega)]
  exact if_pos (by omega)

theorem regionOf_evtCfg_clear {a : Nat} (h : 0x40010100 ≤ a ∧ a < 0x40010500) : regionOf (a + 0x2000000) = .aliasClr := by
  unfold regionOf
  iterate 8 rw [if_neg (by omega)]
  exact if_pos (by omega)

theorem regionOf_evtCfg_toggle {a : Nat} (h : 0x40010100 ≤ a ∧ a < 0x40010500) : regionOf (a + 0x3000000) = .aliasTgl := by
  unfold regionOf
  iterate 9 rw [if_neg (by omega)]
  exact if_pos (by omega)

/-- An alias row whose address lies in its own region is the alias operation on the register below it. -/
theorem aliasRow_own_region {r : Region} {op base a : Nat} {w : Word} (hr : regionOf (a + base) = r) (hlt : a + base < 2 ^ 32) :
    s.aliasRow src r op base (BitVec.ofNat 32 (a + base)) w = @State.alias32 regIO s src op a w := by
  have ht : (BitVec.ofNat 32 (a + base)).toNat = a + base := by rw [BitVec.toNat_ofNat, Nat.mod_eq_of_lt hlt]
  unfold State.aliasRow
  rw [ht, if_pos hr, Nat.add_sub_cancel]

/-- EVT_SRC_CFG is no command register: a write that reaches it is a plain write in every lane. -/
theorem regStore_evtCfg {id : Fin 256} {a : Nat} {w : Word} (ha : a = 0x40010100 + 4 * id.val) (hl : s.lanesOf src ≠ [])
    (hc : s.closed src a = false) : s.regStore src a w = s.perLane src fun l u => u.regWrite l src evtRow id.val 0 a w := by
  have hid := id.isLt
  have hrow : regAt a = some (evtRow, id.val, 0) := by rw [ha]; exact regAt_evt id
  have hopen : ¬ ((s.lanesOf src).isEmpty ∨ a % 4 ≠ 0 ∨ s.closed src a) := by
    simp [hl, hc]
    omega
  unfold State.regStore State.writeAny
  rw [regionOf_evtCfg (by omega)]
  dsimp only
  unfold State.write32
  rw [if_neg hopen, hrow]
  dsimp only
  rw [if_neg (by simp [ringDenied, evtRow, rwT])]
  rfl

/-- A plain write of EVT_SRC_CFG gives its RW bits the written values in every lane the source acts in. -/
theorem regStore_evtCfg_inLanes {id : Fin 256} {a : Nat} {w : Word} (ha : a = 0x40010100 + 4 * id.val)
    (hr : evtReserved id.val = false) (hl : s.lanesOf src ≠ []) (hc : s.closed src a = false)
    (ht : ∀ l ∈ s.lanesOf src, (s.lane l).txnState = 0 ∧ ∀ p ∈ (s.lane l).txn.pairs, p.addr ≠ a) (hp : 1 ≤ fieldOf w 24 4) :
    s.inLanes src (fun _ L => (L.tvClear a).put a ((L.get a &&& ~~~ 0x8F01FFFF) ||| (w &&& 0x8F01FFFF))) (s.regStore src a w) ∧
      (s.regStore src a w).reply = .ok 0 := by
  rw [regStore_evtCfg ha hl hc]
  exact perLane_inLanes hl fun l hm u _ hu => evt_step s u l src id a w ha hr hp hu (ht l hm)

theorem exec_registerWrite_w32 {a : Nat} {w : Word} (h : a < 2 ^ 32) :
    exec (.registerWrite src (BitVec.ofNat 32 a) .w32 (w.setWidth 64)) s = .next (s.regStore src a w) := by
  have ha : (BitVec.ofNat 32 a).toNat = a := by rw [BitVec.toNat_ofNat, Nat.mod_eq_of_lt h]
  have hw : (w.setWidth 64).truncate 32 = w := BitVec.setWidth_setWidth_of_le w (by decide)
  show Host.Outcome.next (s.regStore src (BitVec.ofNat 32 a).toNat ((w.setWidth 64).truncate 32)) = _
  rw [ha, hw]

/-- Settles O23: the plain write by the step in each lane, the three alias writes by their common operation `alias32`, whose
word the operation's code selects. -/
theorem registerAndAliasWrites : Obligations.RegisterAndAliasWrites := by
  intro s src id w a ha hr hl hc ht
  have hid := id.isLt
  have hrange : 0x40010100 ≤ a ∧ a < 0x40010500 := by omega
  refine ⟨fun hp => ?_, fun hp => ?_, fun hp => ?_, fun hp => ?_⟩
  · obtain ⟨hlanes, hreply⟩ := regStore_evtCfg_inLanes ha hr hl hc ht hp
    exact ⟨_, exec_registerWrite_w32 (by omega), hreply, hlanes⟩
  · obtain ⟨hlanes, hreply⟩ := evt_alias s src 1 id a w ha hr hl hc ht hp
    exact ⟨_, congrArg Host.Outcome.next (aliasRow_own_region (regionOf_evtCfg_set hrange) (by omega)), hreply, hlanes⟩
  · obtain ⟨hlanes, hreply⟩ := evt_alias s src 2 id a w ha hr hl hc ht hp
    exact ⟨_, congrArg Host.Outcome.next (aliasRow_own_region (regionOf_evtCfg_clear hrange) (by omega)), hreply, hlanes⟩
  · obtain ⟨hlanes, hreply⟩ := evt_alias s src 3 id a w ha hr hl hc ht hp
    exact ⟨_, congrArg Host.Outcome.next (aliasRow_own_region (regionOf_evtCfg_toggle hrange) (by omega)), hreply, hlanes⟩

end Sys2Proof.Machine
end

section
/-! The module's architecture (chapter 01): every command is answered by a next state, the pace monitor's windows, and the
commands that clear its minimum and pop an event queue. -/
namespace Sys2Proof.Machine

variable {s : State} {L : Lane} {l : LaneId} {src : Src}

/-! No command stops the module (R16, R486). -/

theorem exec_answers (c : Instr) (s : State) : ∃ t, exec c s = .next t := by
  cases c with
  | powerGood _ _ _ => exact execPowerGood_answers s _ _ _
  | laneReadyTimeout _ => exact execLaneReadyTimeout_answers s _
  | bootEnd => exact execBootEnd_answers s
  | bootWatchdogExpiry _ => exact execBootWatchdogExpiry_answers s _
  | resetPin _ _ => exact execResetPin_answers s _ _
  | resetCmdFull _ _ _ => exact execResetCmdFull_answers s _ _ _
  | resetCmdLane _ _ _ _ => exact execResetCmdLane_answers s _ _ _ _
  | bootCfgWrite _ _ => exact execBootCfgWrite_answers s _ _
  | modeCmdStop _ _ => exact execModeCmdStop_answers s _ _
  | modeCmdConfigure _ _ => exact execModeCmdConfigure_answers s _ _
  | modeCmdRun _ _ => exact execModeCmdRun_answers s _ _
  | modeCmdHold _ _ _ => exact execModeCmdHold_answers s _ _ _
  | modeCmdSafe _ _ => exact execModeCmdSafe_answers s _ _
  | modeCmdNotCommandable _ _ _ => exact execModeCmdNotCommandable_answers s _ _ _
  | modeChangeTakesEffect => exact execModeChangeTakesEffect_answers s
  | runStart => exact execRunStart_answers s
  | powerFail => exact execPowerFail_answers s
  | chestPowerFailStoreEnd => exact execChestPowerFailStoreEnd_answers s
  | retainEnd _ => exact execRetainEnd_answers s _
  | feedLost _ => exact execFeedLost_answers s _
  | feedRestored _ => exact execFeedRestored_answers s _
  | holdupCharged => exact execHoldupCharged_answers s
  | paceWindowEnd _ _ => exact execPaceWindowEnd_answers s _ _
  | paceMinClr _ => exact execPaceMinClr_answers s _
  | registerWrite _ _ _ _ => exact execRegisterWrite_answers s _ _ _ _
  | aliasSetWrite _ _ _ => exact execAliasSetWrite_answers s _ _ _
  | aliasClearWrite _ _ _ => exact execAliasClearWrite_answers s _ _ _
  | aliasToggleWrite _ _ _ => exact execAliasToggleWrite_answers s _ _ _
  | aliasRead _ _ => exact execAliasRead_answers s _ _
  | txnBegin _ => exact execTxnBegin_answers s _
  | txnCommit _ _ => exact execTxnCommit_answers s _ _
  | txnRollback _ _ => exact execTxnRollback_answers s _ _
  | txnClrCnt _ => exact execTxnClrCnt_answers s _
  | commitInstant => exact execCommitInstant_answers s
  | txnIdleTimeout _ => exact execTxnIdleTimeout_answers s _
  | pairTimeout _ _ => exact execPairTimeout_answers s _ _
  | imgWrite _ _ _ => exact execImgWrite_answers s _ _ _
  | imgErase _ _ _ => exact execImgErase_answers s _ _ _
  | imgCheck _ _ _ => exact execImgCheck_answers s _ _ _
  | imgLoad _ _ _ => exact execImgLoad_answers s _ _ _
  | loaderDone _ => exact execLoaderDone_answers s _
  | benResv _ _ => exact execBenResv_answers s _ _
  | benPost _ _ _ => exact execBenPost_answers s _ _ _
  | benRingConfigWrite _ _ _ => exact execBenRingConfigWrite_answers s _ _ _
  | resvTimeout _ _ => exact execResvTimeout_answers s _ _
  | benchJobStart _ => exact execBenchJobStart_answers s _
  | benchDeadlineMiss _ _ => exact execBenchDeadlineMiss_answers s _ _
  | benchJobEnd _ => exact execBenchJobEnd_answers s _
  | benchPeerStatus _ => exact execBenchPeerStatus_answers s _
  | benchAgreeTimeout _ => exact execBenchAgreeTimeout_answers s _
  | pclStepStart => exact execPclStepStart_answers s
  | pclStepEnd => exact execPclStepEnd_answers s
  | retStale _ => exact execRetStale_answers s _
  | predStart _ _ => exact execPredStart_answers s _ _
  | predAbort _ _ => exact execPredAbort_answers s _ _
  | predDeadlineMiss _ _ => exact execPredDeadlineMiss_answers s _ _
  | predEnd _ => exact execPredEnd_answers s _
  | loopSample _ => exact execLoopSample_answers s _
  | loopOutputInstant _ _ _ => exact execLoopOutputInstant_answers s _ _ _
  | injStart _ _ _ => exact execInjStart_answers s _ _ _
  | injStop _ _ _ => exact execInjStop_answers s _ _ _
  | capArm _ _ _ => exact execCapArm_answers s _ _ _
  | capAbort _ _ _ => exact execCapAbort_answers s _ _ _
  | profilePeriod => exact execProfilePeriod_answers s
  | setpointLate _ => exact execSetpointLate_answers s _
  | holdCurrentDelay _ => exact execHoldCurrentDelay_answers s _
  | stallWindowEnd _ _ _ => exact execStallWindowEnd_answers s _ _ _
  | bridgeFault _ => exact execBridgeFault_answers s _
  | axisRef _ _ _ => exact execAxisRef_answers s _ _ _
  | axisStop _ _ _ => exact execAxisStop_answers s _ _ _
  | axisSetPos _ _ _ => exact execAxisSetPos_answers s _ _ _
  | axisTargetWrite _ _ _ _ => exact execAxisTargetWrite_answers s _ _ _ _
  | cycleStart _ _ => exact execCycleStart_answers s _ _
  | cycleFinish _ _ _ => exact execCycleFinish_answers s _ _ _
  | engineTrap _ _ _ _ _ => exact execEngineTrap_answers s _ _ _ _ _
  | publishInstant => exact execPublishInstant_answers s
  | mirrorWindowEnd _ => exact execMirrorWindowEnd_answers s _
  | overrunInstant _ => exact execOverrunInstant_answers s _
  | rtInfo _ _ => exact execRtInfo_answers s _ _
  | rtNow _ _ => exact execRtNow_answers s _ _
  | rtTmr _ _ _ _ => exact execRtTmr_answers s _ _ _ _
  | rtEdge _ _ _ _ => exact execRtEdge_answers s _ _ _ _
  | rtHwtStart _ _ _ _ _ => exact execRtHwtStart_answers s _ _ _ _ _
  | rtHwtStop _ _ _ => exact execRtHwtStop_answers s _ _ _
  | rtHwtQuery _ _ _ => exact execRtHwtQuery_answers s _ _ _
  | rtForced _ _ _ => exact execRtForced_answers s _ _ _
  | hwtExpiry _ _ => exact execHwtExpiry_answers s _ _
  | taskRestart _ _ _ => exact execTaskRestart_answers s _ _ _
  | taskStep _ _ _ => exact execTaskStep_answers s _ _ _
  | taskClrCnt _ _ _ => exact execTaskClrCnt_answers s _ _ _
  | debugHalt _ _ => exact execDebugHalt_answers s _ _
  | debugResume _ _ => exact execDebugResume_answers s _ _
  | olcStart _ _ => exact execOlcStart_answers s _ _
  | olcVerifyDone _ => exact execOlcVerifyDone_answers s _
  | olcPeerResult _ => exact execOlcPeerResult_answers s _
  | olcPeerTimeout _ => exact execOlcPeerTimeout_answers s _
  | olcSwitch => exact execOlcSwitch_answers s
  | olcAbort _ _ => exact execOlcAbort_answers s _ _
  | olcRevert _ _ => exact execOlcRevert_answers s _ _
  | olcRelease _ _ => exact execOlcRelease_answers s _ _
  | dmaStart _ _ _ => exact execDmaStart_answers s _ _ _
  | dmaResume _ _ _ => exact execDmaResume_answers s _ _ _
  | dmaAbort _ _ _ _ => exact execDmaAbort_answers s _ _ _ _
  | dmaDescComplete _ _ => exact execDmaDescComplete_answers s _ _
  | dmaFault _ _ _ => exact execDmaFault_answers s _ _ _
  | dmaChestConfirm _ => exact execDmaChestConfirm_answers s _
  | scrubRead _ _ _ _ => exact execScrubRead_answers s _ _ _ _
  | heartbeatSend _ => exact execHeartbeatSend_answers s _
  | heartbeatReceived _ _ => exact execHeartbeatReceived_answers s _ _
  | hbLoss _ => exact execHbLoss_answers s _
  | laneLinkFault => exact execLaneLinkFault_answers s
  | hashTimeout _ _ => exact execHashTimeout_answers s _ _
  | suspectWindowExpiry => exact execSuspectWindowExpiry_answers s
  | hitlessTakeover => exact execHitlessTakeover_answers s
  | redLaneReset => exact execRedLaneReset_answers s
  | redSwitch _ _ => exact execRedSwitch_answers s _ _
  | redDrop _ _ => exact execRedDrop_answers s _ _
  | redClrCnt _ _ => exact execRedClrCnt_answers s _ _
  | resyncBootEnd => exact execResyncBootEnd_answers s
  | resyncChainEnd => exact execResyncChainEnd_answers s
  | resyncBulkEnd => exact execResyncBulkEnd_answers s
  | resyncDirtyPassEnd _ => exact execResyncDirtyPassEnd_answers s _
  | resyncFinal => exact execResyncFinal_answers s
  | resyncTimeout => exact execResyncTimeout_answers s
  | resyncRetry => exact execResyncRetry_answers s
  | ethFrameReceived _ _ _ => exact execEthFrameReceived_answers s _ _ _
  | ethLinkChange _ _ _ => exact execEthLinkChange_answers s _ _ _
  | prpSupervisionSend => exact execPrpSupervisionSend_answers s
  | prpLanSilent _ => exact execPrpLanSilent_answers s _
  | mstDatagramReceived _ _ _ _ => exact execMstDatagramReceived_answers s _ _ _ _
  | mstTelegramProcess _ => exact execMstTelegramProcess_answers s _
  | mstValuesVisible => exact execMstValuesVisible_answers s
  | mstSubTimeout _ => exact execMstSubTimeout_answers s _
  | mstSetpointEval => exact execMstSetpointEval_answers s
  | mstAckTimeout _ => exact execMstAckTimeout_answers s _
  | mstSend _ _ _ => exact execMstSend_answers s _ _ _
  | mstResume _ _ => exact execMstResume_answers s _ _
  | mstEpoch _ _ _ => exact execMstEpoch_answers s _ _ _
  | canFrameReceived _ _ _ => exact execCanFrameReceived_answers s _ _ _
  | canReq _ _ _ => exact execCanReq_answers s _ _ _
  | canAbort _ _ _ => exact execCanAbort_answers s _ _ _
  | canTxAttemptStart _ => exact execCanTxAttemptStart_answers s _
  | canTxSuccess _ => exact execCanTxSuccess_answers s _
  | canArbLost _ => exact execCanArbLost_answers s _
  | canTxError _ _ => exact execCanTxError_answers s _ _
  | canBusoffRecovery _ => exact execCanBusoffRecovery_answers s _
  | canPeerTxEvent _ => exact execCanPeerTxEvent_answers s _
  | canFifoPop _ _ _ => exact execCanFifoPop_answers s _ _ _
  | tbNowLoRead _ => exact execTbNowLoRead_answers s _
  | tbNowHiRead _ => exact execTbNowHiRead_answers s _
  | tbWrap => exact execTbWrap_answers s
  | tbRateWrite _ _ => exact execTbRateWrite_answers s _ _
  | tbStep _ _ => exact execTbStep_answers s _ _
  | tbStepApply => exact execTbStepApply_answers s
  | ppsOut => exact execPpsOut_answers s
  | ppsInEdge _ => exact execPpsInEdge_answers s _
  | ref10CountEnd _ => exact execRef10CountEnd_answers s _
  | ptpRx _ _ _ _ _ _ => exact execPtpRx_answers s _ _ _ _ _ _
  | ptpRxPop _ => exact execPtpRxPop_answers s _
  | ptpSend _ _ _ _ => exact execPtpSend_answers s _ _ _ _
  | ptpTxDepart _ => exact execPtpTxDepart_answers s _
  | ptpTxLate => exact execPtpTxLate_answers s
  | ptpTxsPop _ => exact execPtpTxsPop_answers s _
  | rtcTimeRead _ _ => exact execRtcTimeRead_answers s _ _
  | rtcFreezeTimeout _ => exact execRtcFreezeTimeout_answers s _
  | rtcGo _ _ => exact execRtcGo_answers s _ _
  | rtcSetApply => exact execRtcSetApply_answers s
  | rtcOscStop => exact execRtcOscStop_answers s
  | rtcSecond => exact execRtcSecond_answers s
  | rtcWake => exact execRtcWake_answers s
  | rtcWakeWrite _ _ => exact execRtcWakeWrite_answers s _ _
  | mtrIntervalEnd _ _ => exact execMtrIntervalEnd_answers s _ _
  | mtrModFault _ => exact execMtrModFault_answers s _
  | mtrModOk _ => exact execMtrModOk_answers s _
  | mtrZeroCrossing _ _ _ => exact execMtrZeroCrossing_answers s _ _ _
  | mtrZcTimeout _ _ => exact execMtrZcTimeout_answers s _ _
  | thqInstant => exact execThqInstant_answers s
  | mtrSave _ _ => exact execMtrSave_answers s _ _
  | thqSave _ _ => exact execThqSave_answers s _ _
  | counterSavePeriod _ => exact execCounterSavePeriod_answers s _
  | counterLoRead _ _ => exact execCounterLoRead_answers s _ _
  | diFilterChange _ _ => exact execDiFilterChange_answers s _ _
  | diWireBreak _ => exact execDiWireBreak_answers s _
  | diWireBreakEnd _ => exact execDiWireBreakEnd_answers s _
  | dqSwitchOnSlot => exact execDqSwitchOnSlot_answers s
  | lplusLow _ => exact execLplusLow_answers s _
  | lplusReturn _ => exact execLplusReturn_answers s _
  | dqOverload _ => exact execDqOverload_answers s _
  | dqOvertemp _ => exact execDqOvertemp_answers s _
  | dqCooled _ => exact execDqCooled_answers s _
  | dqOpenWire _ => exact execDqOpenWire_answers s _
  | dqOpenWireClear _ => exact execDqOpenWireClear_answers s _
  | dqClear _ _ _ => exact execDqClear_answers s _ _ _
  | diClrCnt _ _ _ => exact execDiClrCnt_answers s _ _ _
  | chestStoreCmd _ _ _ => exact execChestStoreCmd_answers s _ _ _
  | chestBankStoreEnd => exact execChestBankStoreEnd_answers s
  | chestMarginRead _ page _ => exact execChestMarginRead_answers s _ page _
  | chestProtWrite _ _ => exact execChestProtWrite_answers s _ _
  | chestLock _ => exact execChestLock_answers s _
  | chestGroupOpen _ _ _ _ _ => exact execChestGroupOpen_answers s _ _ _ _ _
  | chestGroupClose _ _ _ => exact execChestGroupClose_answers s _ _ _
  | chestGroupDiscard _ _ _ => exact execChestGroupDiscard_answers s _ _ _
  | chestGroupCommitApplied _ => exact execChestGroupCommitApplied_answers s _
  | pairRecordWrite _ _ => exact execPairRecordWrite_answers s _ _
  | pairRecordRead _ _ => exact execPairRecordRead_answers s _ _
  | pairUnitDone _ => exact execPairUnitDone_answers s _
  | recWatchSample _ => exact execRecWatchSample_answers s _
  | recPeriodEnd _ => exact execRecPeriodEnd_answers s _
  | recRaise _ _ _ => exact execRecRaise_answers s _ _ _
  | recRaiseVal _ _ => exact execRecRaiseVal_answers s _ _
  | recTallyRewriteDue _ => exact execRecTallyRewriteDue_answers s _
  | recRecordWrite _ => exact execRecRecordWrite_answers s _
  | recScanEnd _ => exact execRecScanEnd_answers s _
  | recClear _ _ => exact execRecClear_answers s _ _
  | recClrCnt _ _ => exact execRecClrCnt_answers s _ _
  | keyWrite _ _ _ => exact execKeyWrite_answers s _ _ _
  | keyErase _ _ _ => exact execKeyErase_answers s _ _ _
  | keyDerive _ _ _ => exact execKeyDerive_answers s _ _ _
  | keyCmdDone _ => exact execKeyCmdDone_answers s _
  | keyForwardedOp _ => exact execKeyForwardedOp_answers s _
  | keyScrub _ _ _ => exact execKeyScrub_answers s _ _ _
  | attest _ _ => exact execAttest_answers s _ _
  | attestDone _ => exact execAttestDone_answers s _
  | seedSet _ _ => exact execSeedSet_answers s _ _
  | anchorProgram _ _ _ => exact execAnchorProgram_answers s _ _ _
  | anchorRevoke _ _ _ => exact execAnchorRevoke_answers s _ _ _
  | anchorBurnDone => exact execAnchorBurnDone_answers s
  | hcHello _ => exact execHcHello_answers s _
  | hcOpen _ => exact execHcOpen_answers s _
  | hcChallengeTimeout => exact execHcChallengeTimeout_answers s
  | hcRequest _ => exact execHcRequest_answers s _
  | hcResponseConfirm => exact execHcResponseConfirm_answers s
  | hcEventFrameSend => exact execHcEventFrameSend_answers s
  | hcEventResend => exact execHcEventResend_answers s
  | uartFrame _ => exact execUartFrame_answers s _
  | indDataRead _ => exact execIndDataRead_answers s _
  | indDataWrite _ _ => exact execIndDataWrite_answers s _ _
  | indWriteApplied _ => exact execIndWriteApplied_answers s _
  | tvScrub _ _ _ _ _ => exact execTvScrub_answers s _ _ _ _ _
  | snapTake _ _ => exact execSnapTake_answers s _ _
  | snapCapture => exact execSnapCapture_answers s
  | frCmdStop _ _ => exact execFrCmdStop_answers s _ _
  | frCmdRun _ _ => exact execFrCmdRun_answers s _ _
  | frCmdSafe _ _ => exact execFrCmdSafe_answers s _ _
  | frSnap _ _ => exact execFrSnap_answers s _ _
  | evtQPop _ _ _ => exact execEvtQPop_answers s _ _ _
  | sprintEnter _ _ => exact execSprintEnter_answers s _ _
  | sprintLeave _ _ => exact execSprintLeave_answers s _ _
  | sprintPointReached _ => exact execSprintPointReached_answers s _
  | sprintBudgetBin _ => exact execSprintBudgetBin_answers s _
  | junctionLimit _ _ => exact execJunctionLimit_answers s _ _
  | backplateLimit _ => exact execBackplateLimit_answers s _
  | sprintStepDown _ => exact execSprintStepDown_answers s _
  | backplateWarnCross _ => exact execBackplateWarnCross_answers s _
  | canBusIntegrated _ => exact execCanBusIntegrated_answers s _
  | canRxError _ _ _ => exact execCanRxError_answers s _ _ _
  | axFltNHigh _ => exact execAxFltNHigh_answers s _
  | holdupBankSpent => exact execHoldupBankSpent_answers s
  | chestWrite _ _ _ _ => exact execChestWrite_answers s _ _ _ _
  | autoResetAgeOut => exact execAutoResetAgeOut_answers s
  | keygenDone _ => exact execKeygenDone_answers s _

/-- Settles O8: each constructor by the lemma about its own meaning. -/
theorem everyCommandCompletes : Obligations.EveryCommandCompletes := exec_answers

/-! The end of a pace window in one lane (R21, R24). -/

/-- The lane with a window of pace `pace` in PACE, SEQ counted on and VALID set. -/
def Lane.paceNow (L : Lane) (pace : Nat) : Lane :=
  ((L.setFld 0x40000040 0 16 pace).wrapFld 0x40000040 16 12).setFlag 0x40000048 2 true

/-- The lane with that window written to its end: MIN follows, and `low` low windows in a row are now behind it. -/
def Lane.paceWindow (L : Lane) (pace low : Nat) : Lane :=
  { (L.paceNow pace).setFld 0x4000004C 0 16 (min ((L.paceNow pace).fld 0x4000004C 0 16) pace) with lowWindows := low }

/-- The low windows in a row, counted to two, after a window of pace `pace`. -/
def Lane.lowRun (L : Lane) (pace : Nat) : Nat := if pace < 600 then min 2 (L.lowWindows + 1) else 0

theorem lowRun_of_low {pace : Nat} (h : pace < 600) : L.lowRun pace = min 2 (L.lowWindows + 1) := if_pos h

theorem lowRun_eq_two {pace : Nat} (h : pace < 600) (hw : 1 ≤ L.lowWindows) : L.lowRun pace = 2 := by
  rw [lowRun_of_low h]
  omega

theorem lowRun_ne_two {pace : Nat} (h : 600 ≤ pace ∨ L.lowWindows = 0) : L.lowRun pace ≠ 2 := by
  unfold Lane.lowRun
  split <;> omega

/-- What the end of a window does: it is written, and the second low one and each behind it reports LOW unless it stands. -/
theorem exec_paceWindowEnd (s : State) (l : LaneId) (steps : Nat) {pace low : Nat} (hp : pace = min (steps / 4) 0xFFFF)
    (hlow : low = (s.lane l).lowRun pace) :
    exec (.paceWindowEnd l steps) s =
      if low = 2 ∧ !(s.lane l).flag 0x40000048 0 then
        .next ((((s.upd l (·.paceWindow pace low)).upd l fun L => (L.setFlag 0x40000048 0 true).tvClear 0x40000048).raise l 0x02).setHealth l 2)
      else .next (s.upd l (·.paceWindow pace low)) := by
  subst hlow hp
  rfl

theorem exec_paceWindowEnd_quiet {steps pace low : Nat} (hp : pace = min (steps / 4) 0xFFFF) (hlow : low = (s.lane l).lowRun pace)
    (hq : low ≠ 2 ∨ (s.lane l).flag 0x40000048 0 = true) :
    exec (.paceWindowEnd l steps) s = .next (s.upd l (·.paceWindow pace low)) := by
  rw [exec_paceWindowEnd s l steps hp hlow, if_neg]
  rintro ⟨h2, hclear⟩
  rcases hq with hne | hset
  · exact hne h2
  · simp [hset] at hclear

/-! What a written window leaves in the lane's registers. -/

theorem fld_setFld (h : rfWf L.rf = true) (a v : Nat) {lo n : Nat} (hn : lo + n ≤ 32) : (L.setFld a lo n v).fld a lo n = v % 2 ^ n := by
  unfold Lane.fld Lane.setFld
  rw [get_put_same h, fieldOf_withField _ hn]

theorem fld_setFld_disjoint (h : rfWf L.rf = true) (a v : Nat) {lo n lo' n' : Nat} (hn : lo + n ≤ 32) (hn' : lo' + n' ≤ 32)
    (hd : lo' + n' ≤ lo ∨ lo + n ≤ lo') : (L.setFld a lo n v).fld a lo' n' = L.fld a lo' n' := by
  unfold Lane.fld Lane.setFld
  rw [get_put_same h, fieldOf_withField_ne _ hn hn' hd]

theorem paceNow_wf (h : rfWf L.rf = true) (pace : Nat) : rfWf (L.paceNow pace).rf = true :=
  setFld_wf (setFld_wf (setFld_wf h ..) ..) ..

theorem paceNow_get (h : rfWf L.rf = true) (pace : Nat) {a : Nat} (h40 : a ≠ 0x40000040) (h48 : a ≠ 0x40000048) :
    (L.paceNow pace).get a = L.get a := by
  have h1 := setFld_wf h 0x40000040 0 16 pace
  unfold Lane.paceNow Lane.setFlag Lane.wrapFld
  rw [get_setFld_ne (setFld_wf h1 ..) h48, get_setFld_ne h1 h40, get_setFld_ne h h40]

theorem paceNow_pace (h : rfWf L.rf = true) {pace : Nat} (hp : pace < 2 ^ 16) : (L.paceNow pace).fld 0x40000040 0 16 = pace := by
  have h1 := setFld_wf h 0x40000040 0 16 pace
  have hget : (L.paceNow pace).get 0x40000040 = ((L.setFld 0x40000040 0 16 pace).wrapFld 0x40000040 16 12).get 0x40000040 := by
    unfold Lane.paceNow Lane.setFlag
    exact get_setFld_ne (setFld_wf h1 ..) (by decide)
  calc (L.paceNow pace).fld 0x40000040 0 16
      _ = ((L.setFld 0x40000040 0 16 pace).wrapFld 0x40000040 16 12).fld 0x40000040 0 16 := congrArg (fieldOf · 0 16) hget
      _ = (L.setFld 0x40000040 0 16 pace).fld 0x40000040 0 16 := fld_setFld_disjoint h1 _ _ (by decide) (by decide) (by decide)
      _ = pace := by rw [fld_setFld h _ _ (by decide), Nat.mod_eq_of_lt hp]

/-- Behind SEQ, PACE and VALID a window's end writes no register but MIN. -/
theorem paceWindow_get (h : rfWf L.rf = true) (pace low : Nat) {a : Nat} (h4c : a ≠ 0x4000004C) :
    (L.paceWindow pace low).get a = (L.paceNow pace).get a := by
  have hmin := get_setFld_ne (paceNow_wf h pace) (lo := 0) (n := 16) (v := min ((L.paceNow pace).fld 0x4000004C 0 16) pace) h4c
  rw [← hmin]
  unfold Lane.get Lane.paceWindow
  rfl

theorem paceWindow_pace (h : rfWf L.rf = true) {pace : Nat} (hp : pace < 2 ^ 16) (low : Nat) :
    (L.paceWindow pace low).fld 0x40000040 0 16 = pace := by
  have hget := paceWindow_get h pace low (a := 0x40000040) (by decide)
  exact (congrArg (fieldOf · 0 16) hget).trans (paceNow_pace h hp)

/-- Settles O19: the two answers of a window's end, then what the written window leaves in the registers. -/
theorem paceWindows : Obligations.PaceWindows := by
  refine ⟨fun s u l steps pace low hp hlow hu => ⟨?_, fun hq => ?_⟩, fun s l steps hwf hge hlt => ?_⟩
  · rintro ⟨hlt, hw, hclear⟩
    rw [exec_paceWindowEnd s l steps hp hlow, if_pos ⟨hlow.trans (lowRun_eq_two hlt hw), by rw [hclear]; rfl⟩, hu]
    rfl
  · rw [exec_paceWindowEnd_quiet hp hlow (.inl (hlow ▸ lowRun_ne_two hq)), hu]
    rfl
  · have hp : steps / 4 = min (steps / 4) 0xFFFF := by omega
    have hlane := upd_lane (s := s) l (·.paceWindow (steps / 4) ((s.lane l).lowRun (steps / 4)))
    refine ⟨_, exec_paceWindowEnd_quiet hp rfl (.inl (lowRun_ne_two (.inl hge))), ?_, ?_, fun a h40 h48 h4c => ?_⟩
    · rw [hlane, paceWindow_pace hwf hlt]
    · rw [hlane]
      rfl
    · rw [hlane, paceWindow_get hwf _ _ h4c, paceNow_get hwf _ h40 h48]

/-! MIN_CLR and EVT_Q_POP act alike in every lane the source acts in (R24, R481, R497). -/

/-- A command whose step in each lane is one change of that lane and a completion makes that change in every lane its source
acts in. -/
theorem perLane_upd_ok {f : Lane → Lane} (hne : s.lanesOf src ≠ []) :
    s.inLanes src (fun _ => f) (s.perLane src fun l u => (u.upd l f).ok) ∧ (s.perLane src fun l u => (u.upd l f).ok).reply = .ok 0 :=
  perLane_inLanes hne fun l _ u _ hu => ⟨hu ▸ (LaneStep.upd l u f).ok, rfl⟩

/-- The lane with the head record of engine `e`'s queue removed; a queue that held one reports its next overflow again. -/
def Lane.evtPopped (L : Lane) (e : Fin 16) : Lane :=
  { L with evt := { L.evt with q := L.evt.q.set e L.evt.q[e].tail,
                               ovf := if L.evt.q[e].isEmpty then L.evt.ovf else L.evt.ovf &&& ~~~ BitVec.ofNat 16 (2 ^ e.val) } }

theorem exec_evtQPop {e : Fin 16} {data : Word} (hbit : bitOf data 0 = true) :
    exec (.evtQPop src e data) s = .next (s.perLane src fun l u => (u.upd l (·.evtPopped e)).ok) :=
  congrArg (fun f => Host.Outcome.next (s.perLane src f)) (funext fun _ => funext fun _ => if_pos hbit)

/-- Settles O20: the quiet answer of a window's end, and the two commands by the change each makes in a lane. -/
theorem paceMinimumCleared : Obligations.PaceMinimumCleared := by
  refine ⟨fun s l steps hlt hset => ?_, fun s src hne => ?_, fun s src e data hne hbit => ?_⟩
  · have hp : steps / 4 = min (steps / 4) 0xFFFF := by omega
    exact exec_paceWindowEnd_quiet hp (lowRun_of_low hlt).symm (.inr hset)
  · obtain ⟨hlanes, hreply⟩ := perLane_upd_ok (f := (·.setFld 0x4000004C 0 16 0xFFFF)) hne
    exact ⟨_, rfl, hlanes, hreply⟩
  · obtain ⟨hlanes, hreply⟩ := perLane_upd_ok (f := (·.evtPopped e)) hne
    exact ⟨_, exec_evtQPop hbit, hreply, hlanes⟩

end Sys2Proof.Machine
end

section
/-! Resets and the power-up sequence (chapter 02): the state after reset, what a full reset keeps, the commands that ask for one,
a lane's reset alone, and the end of boot. -/
namespace Sys2Proof.Machine

variable {s : State} {L : Lane} {l : LaneId} {src : Src} {facts : BootFacts} {cause : Nat}

/-! The state after reset is sound (R52). -/

theorem EvtUnit.init_wf : EvtUnit.init.wf := ⟨fun e => by simp [EvtUnit.init], Nat.zero_le _⟩

theorem Lane.init_wf : Lane.init.wf := ⟨rfl, rfl, rfl, EvtUnit.init_wf⟩

theorem Chest.init_wf : Chest.init.wf := ⟨rfl, fun b => by simp [Chest.init, Bank.wf, Bank.init, Mem.wf, spWf]⟩

/-- The keeper as new lists one register, RTC_STAT with OSF, whose reset value it is not. -/
theorem Keeper.init_slow_wf : rfWf Keeper.init.slow = true := by decide +kernel

theorem Keeper.init_burnWf : Keeper.init.burnWf := nofun

/-- Settles O3: part by part; a memory that lists nothing is canonical. -/
theorem resetSound : Obligations.ResetSound :=
  ⟨⟨Lane.init_wf, Lane.init_wf, Chest.init_wf, rfl, Keeper.init_slow_wf⟩, Keeper.init_burnWf⟩

/-! What a full reset keeps (R52, R53, R56, R457). -/

theorem loaderCut_idle (h : s.loader.busy = false) : s.loaderCut = s := by simp [State.loaderCut, h]

@[simp] theorem Lane.wiped_phase (release : Nat) : (L.wiped release cause).phase = .booting := rfl
@[simp] theorem Lane.wiped_slots (release : Nat) : (L.wiped release cause).keys.slots = L.keys.slots := rfl

theorem wiped_get_causes (release : Nat) :
    (L.wiped release cause).get 0x4000000C = if cause = 0 then 1 else withField (L.get 0x4000000C) cause 1 1 := by
  rw [wiped_get, if_neg (by decide), if_neg (by decide), if_pos rfl]

theorem wiped_get_reset (release : Nat) {a : Nat} (hcause : a ≠ 0x4000000C) (hgen : a ≠ 0x40180004) (hloss : a ≠ 0x401A0018) :
    (L.wiped release cause).get a = resetWord a := by
  rw [wiped_get, if_neg hloss, if_neg hgen, if_neg hcause]

@[simp] theorem Chest.fullReset_lock (c : Chest) (por : Bool) : (c.fullReset por).lock = false := recall_lock _

/-- Both lanes are wiped, each with its own instant of release (R58). -/
theorem fullReset_lane (h : s.loader.busy = false) (cause : Nat) (facts : BootFacts) (l : LaneId) :
    ∃ release, (s.fullReset cause facts).lane l = (s.lane l).wiped release cause := by
  unfold State.fullReset
  rw [loaderCut_idle h]
  cases l
  · exact ⟨s.tb.run + msU 10, rfl⟩
  · exact ⟨s.tb.run + msU 10 + msU 20, rfl⟩

theorem fullReset_flash (h : s.loader.busy = false) : (s.fullReset cause facts).flash = s.flash := by
  unfold State.fullReset
  rw [loaderCut_idle h]

/-- The keeper die stands, but for the sampled PROV_EN and, at a power-on reset, the boot watchdogs' counts. -/
theorem fullReset_keeper (h : s.loader.busy = false) : (s.fullReset cause facts).keeper =
    { s.keeper with provLatch := facts.provEn, wdgA := if cause = 0 then 0 else s.keeper.wdgA,
                    wdgB := if cause = 0 then 0 else s.keeper.wdgB } := by
  unfold State.fullReset
  rw [loaderCut_idle h]

theorem fullReset_mode (s : State) (cause : Nat) (facts : BootFacts) : (s.fullReset cause facts).mode = ModeUnit.init := rfl

/-- Settles O11: the loader being idle, the shared dies by what the reset writes there, each lane by what wiping it leaves. -/
theorem fullResetEffect : Obligations.FullResetEffect := by
  intro s cause facts hidle
  have hkeep := fullReset_keeper (cause := cause) (facts := facts) hidle
  refine ⟨fullReset_flash hidle, by rw [hkeep], by rw [hkeep], by rw [hkeep], by rw [hkeep], fun hc => ?_, rfl, rfl, rfl, rfl,
    Chest.fullReset_lock .., fun l => ?_⟩
  · rw [hkeep]
    exact ⟨if_neg hc, if_neg hc⟩
  · obtain ⟨release, hlane⟩ := fullReset_lane hidle cause facts l
    rw [hlane]
    exact ⟨rfl, rfl, fun a hcause hgen hloss => wiped_get_reset release hcause hgen hloss, wiped_get_causes release⟩

/-! Power good and the boot (R58, R59, R501, R505). -/

/-- What the supply shows with a feed up: HOLDUP_OK reads 0 until the bank is charged (R501). -/
def Supply.fed (u : Supply) (pa pb : Bool) : Supply := { u with paOk := pa, pbOk := pb, holdupOk := false, good := true }

theorem exec_powerGood {pa pb : Bool} (hfeed : (pa || pb) = true) :
    exec (.powerGood pa pb facts) s =
      if s.mode.mode = .retain then .next { s with supply := { s.supply.fed pa pb with feedsBack := true } }
      else if s.mode.mode = .reset ∧ !s.supply.good then
        .next ({ s with supply := s.supply.fed pa pb }.fullReset (if s.supply.brownout then 4 else 0) facts)
      else .next s :=
  if_neg (by rw [← Bool.not_or, hfeed]; decide)

/-- Whether a lane reports ready in a boot (R59). -/
def bootReady (f : BootFacts) (l : LaneId) : Bool := if l = .a then f.readyA else f.readyB

theorem exec_laneReadyTimeout_late {b : BootSt} (hboot : s.boot = some b)
    (hready : bootReady b.facts l = false) (hphase : (s.lane l).phase = .booting) :
    exec (.laneReadyTimeout l) s =
      .next ((s.advRun (s.supply.powerGoodAt + sU 1)).upd l fun L => { L with phase := .leftOut }) := by
  show execLaneReadyTimeout l s = _
  unfold execLaneReadyTimeout
  rw [hboot]
  have hbooting : ((s.lane l).phase != .booting) = false := by simp [hphase]
  cases l <;> exact if_neg (Bool.eq_false_iff.1 (Bool.or_eq_false_iff.2 ⟨hready, hbooting⟩))

theorem exec_bootEnd_ready {b : BootSt} (hboot : s.boot = some b) (hready : s.bootLanes b.facts ≠ []) :
    exec .bootEnd s = .next (@State.bootEnd regIO s b.facts (s.bootLanes b.facts)) := by
  show @rowBootEnd regIO s = _
  unfold rowBootEnd
  rw [hboot]
  exact if_neg (by simpa using hready)

/-- Settles O9: POWER_GOOD by its two branches, the lane left out and the end of boot by their guards. -/
theorem powerUpCommands : Obligations.PowerUpCommands := by
  refine ⟨fun s pa pb facts hfeed hmode => ?_, fun s pa pb facts hfeed hmode hgood => ?_,
    fun s l b hboot hready hphase => exec_laneReadyTimeout_late hboot (by cases l <;> exact hready) hphase,
    fun s b hboot hready => exec_bootEnd_ready hboot hready⟩
  · rw [exec_powerGood hfeed, if_pos hmode]
    rfl
  · rw [exec_powerGood hfeed, if_neg (by simp [hmode]), if_pos ⟨hmode, by simp [hgood]⟩]
    rfl

/-! The reset input and SYS_RESET_CMD.FULL (R45, R52, R55). -/

theorem exec_resetPin_short {n : Nat} (hshort : n < 10000) : exec (.resetPin n facts) s = .next s := if_pos hshort

theorem exec_resetPin_held {n : Nat} (hheld : 10000 ≤ n) (hmode : s.mode.mode ≠ .retain) (hgood : s.supply.good = true) :
    exec (.resetPin n facts) s = .next (s.fullReset 1 facts) := by
  show execResetPin n facts s = _
  unfold execResetPin
  rw [if_neg (by omega), if_neg hmode, if_pos hgood]

theorem exec_resetPin_retain {n : Nat} (hheld : 10000 ≤ n) (hmode : s.mode.mode = .retain) :
    exec (.resetPin n facts) s =
      .next (if s.supply.storeDone then s.pinNow facts else { s with supply := { s.supply with pinReset := some facts } }) := by
  show execResetPin n facts s = _
  unfold execResetPin
  rw [if_neg (by omega), if_pos hmode]

theorem pinNow_fed (hback : s.supply.feedsBack = true) : s.pinNow facts = s.fullReset 1 facts := by simp [State.pinNow, hback]

theorem exec_resetCmdFull_open {key : Half} (hopen : s.resetCmdOpen src = true) :
    exec (.resetCmdFull src key facts) s =
      .next (if key ≠ 0xB007 ∨ s.mode.mode = .retain then s.ok else (s.fullReset 2 facts).ok) := by
  show Host.Outcome.next (s.resetFull src key facts) = _
  unfold State.resetFull
  rw [if_neg (by simp [hopen])]

/-- Settles O10: the reset input by how long it is held and the mode it meets, the command by its key and the mode. -/
theorem fullResetCommands : Obligations.FullResetCommands := by
  refine ⟨fun s n facts => exec_resetPin_short, fun s n facts => exec_resetPin_held, fun s n facts hheld hmode hstore => ?_,
    fun s n facts hheld hmode hstore hback => ?_, fun s src facts hopen hmode => ?_, fun s src key facts hopen hno => ?_⟩
  · rw [exec_resetPin_retain hheld hmode, if_neg (by simp [hstore])]
  · rw [exec_resetPin_retain hheld hmode, if_pos hstore, pinNow_fed hback]
  · rw [exec_resetCmdFull_open hopen, if_neg (by simp [hmode])]
  · rw [exec_resetCmdFull_open hopen, if_pos hno.symm]

/-! The boot watchdog and the reset of one lane (R54, R55, R57, R318). -/

@[simp] theorem upd_boot (l : LaneId) (f : Lane → Lane) : (s.upd l f).boot = s.boot := setLane_boot l

theorem exec_bootWatchdogExpiry_due
    (hdue : (s.lane l).phase = .booting ∨ (s.lane l).phase = .leftOut ∨ s.wdgJoins l = true) {u : State}
    (hu : u = s.advRun ((s.lane l).bootAt + sU 8)) :
    exec (.bootWatchdogExpiry l) s = .next (u.wdgReset l (min 3 (wdgOf u.keeper l + 1)) (s.wdgJoins l)) := by
  subst hu
  refine if_neg ?_
  rcases hdue with h | h | h <;> simp [h]

/-- The third expiry: the lane gives up. -/
theorem wdgReset_third (s : State) (l : LaneId) :
    s.wdgReset l 3 false = { s with keeper := setWdg s.keeper l 3 }.upd l
      (fun L => { (L.setFlag 0x4000000C 5 true).setFlag 0x40000010 18 true with phase := .gaveUp }) := rfl

/-- An earlier expiry within a full boot: the lane, wiped, is left out. -/
theorem wdgReset_inBoot {n : Nat} (hn : n ≠ 3) {v : State} (hv : v = { s with keeper := setWdg s.keeper l n })
    (hboot : v.boot.isSome = true) :
    s.wdgReset l n false = v.upd l fun L => { (L.wiped (v.tb.run + usU 20) 5) with phase := .leftOut } := by
  subst hv
  unfold State.wdgReset
  rw [if_neg hn, if_pos (by rw [upd_boot]; exact hboot), upd_upd]

/-- An earlier expiry outside a full boot: the lane, wiped, begins to join anew. -/
theorem wdgReset_joining {n : Nat} (hn : n ≠ 3) {v : State} (hv : v = { s with keeper := setWdg s.keeper l n })
    (hboot : v.boot = none) (joining : Bool) :
    s.wdgReset l n joining = (v.upd l fun L => L.wiped (v.tb.run + usU 20) 5).resyncBegin l 1 := by
  subst hv
  unfold State.wdgReset
  rw [if_neg hn, if_neg (by rw [upd_boot, hboot]; decide)]

section ResetCmd

variable {key : Half} {a b : Bool}
  (hfirst : s.first src 0x40000018 (BitVec.ofNat 32 (key.toNat * 2 ^ 16 + bit b * 4 + bit a * 2)) = true)
  (hopen : s.resetCmdOpen src = true)
include hfirst hopen

/-- The write carried out: the lanes named, the standby's first. -/
theorem exec_resetCmdLane_named {ls : List LaneId} (hkey : key = 0xB007) (hretain : s.mode.mode ≠ .retain)
    (hreset : s.mode.mode ≠ .reset)
    (hls : ls = (if s.isAct .a then [LaneId.b, .a] else [.a, .b]).filter (fun l => if l = .a then a else b)) :
    ∃ tw, exec (.resetCmdLane src key a b) s =
      .next { (s.each ls fun l s => @State.resetLane regIO s l).ok with twins := tw } := by
  refine next_joined hfirst ?_
  rw [if_neg (by simp [hopen]), if_neg (by simp [hkey, hretain, hreset]), hls]
  refine congrArg (fun ls => (s.each ls fun l s => @State.resetLane regIO s l).ok) (List.filter_congr fun l _ => ?_)
  cases l <;> rfl

theorem exec_resetCmdLane_ignored (hno : key ≠ 0xB007 ∨ s.mode.mode = .retain ∨ s.mode.mode = .reset) :
    ∃ tw, exec (.resetCmdLane src key a b) s = .next { s.ok with twins := tw } := by
  refine next_joined hfirst ?_
  rw [if_neg (by simp [hopen]), if_pos hno]

end ResetCmd

theorem resetLane_alone (hup : s.isUp l = true) (hother : s.isUp (other l) = false) : @State.resetLane regIO s l = s :=
  if_pos (by simp [hup, hother])

theorem resetLane_active (hup : s.isUp l = true) (hother : s.isUp (other l) = true) (hact : s.isAct l = true) :
    @State.resetLane regIO s l = { s with red := { s.red with takeover := some .laneReset, resetReq := some l } } := by
  unfold State.resetLane
  rw [if_neg (by simp [hother]), if_pos (by simp [hup, hact])]

theorem resetLane_standby (hother : s.isUp (other l) = true) (hact : s.isAct l = false) :
    @State.resetLane regIO s l = @State.laneResetNow regIO s l 3 := by
  unfold State.resetLane
  rw [if_neg (by simp [hother]), if_neg (by simp [hact])]

theorem exec_autoResetAgeOut {d : Nat} (hd : s.red.autoResets.min? = some d) {u : State} (hu : u = s.advRun (d + sU 86400)) :
    exec .autoResetAgeOut s =
      .next { u with red := { u.red with autoResets := u.red.autoResets.filter fun x => u.tb.run < x + sU 86400 } } := by
  subst hu
  show execAutoResetAgeOut s = _
  unfold execAutoResetAgeOut
  rw [hd]

/-- Settles O35: the watchdog's expiry and its three outcomes, the command, the three answers for a lane it names, and the
oldest automatic reset. -/
theorem laneResetCommands : Obligations.LaneResetCommands := by
  refine ⟨fun s u l hdue hu => exec_bootWatchdogExpiry_due hdue hu, fun u v l n hv => ⟨wdgReset_third u l, fun hn hboot => ?_,
    fun j hn hboot => ?_⟩, fun s src key a b ls hfirst hopen hls => ⟨fun hkey hretain hreset => ?_, fun hno => ?_⟩,
    fun s l hup => ⟨resetLane_alone hup, resetLane_active hup, fun hother => resetLane_standby hother⟩, fun s d hd => ?_⟩
  · exact wdgReset_inBoot hn hv hboot
  · exact wdgReset_joining hn hv hboot j
  · exact exec_resetCmdLane_named hfirst hopen hkey hretain hreset hls
  · exact exec_resetCmdLane_ignored hfirst hopen hno
  · exact ⟨_, exec_autoResetAgeOut hd rfl, rfl, rfl⟩

end Sys2Proof.Machine
end

section
/-! Mode commands (chapter 02): what a refusal shows, the commands that become the pending change, and SYS_BOOT_CFG. -/
namespace Sys2Proof.Machine

variable {s t : State} {L : Lane} {l : LaneId} {src : Src}

/-! What a refusal leaves (R51). -/

/-- A lane that shows REFUSED with a code in SYS_MODE. -/
def Lane.showRefused (L : Lane) (code : Nat) : Lane := (L.setFlag aModeReg 8 true).setFld aModeReg 12 4 code
/-- Every lane that runs shows it. -/
def State.showRefused (s : State) (code : Nat) : State := s.each s.ups fun l u => u.upd l (·.showRefused code)

theorem modeRefused_eq (s : State) (code : Nat) : s.modeRefused code = (s.showRefused code).raiseUp 0x01 0 code := rfl

@[simp] theorem showRefused_mem (code : Nat) : (L.showRefused code).mem = L.mem := rfl

theorem showRefused_wf (h : rfWf L.rf = true) (code : Nat) : rfWf (L.showRefused code).rf = true :=
  setFld_wf (setFld_wf h ..) ..

theorem showRefused_get_ne (h : rfWf L.rf = true) (code : Nat) {a : Nat} (ha : a ≠ 0x40000004) :
    (L.showRefused code).get a = L.get a := by
  unfold Lane.showRefused Lane.setFlag
  exact (get_setFld_ne (setFld_wf h ..) ha).trans (get_setFld_ne h ha)

/-- SYS_MODE of such a lane: REFUSED set, then the code beside it. -/
theorem showRefused_get (h : rfWf L.rf = true) (code : Nat) :
    (L.showRefused code).get 0x40000004 = withField (withField (L.get 0x40000004) 8 1 (bit true)) 12 4 code := by
  unfold Lane.showRefused Lane.setFlag
  calc ((L.setFld aModeReg 8 1 (bit true)).setFld aModeReg 12 4 code).get 0x40000004
      _ = withField ((L.setFld aModeReg 8 1 (bit true)).get aModeReg) 12 4 code := get_put_same (setFld_wf h ..) ..
      _ = withField (withField (L.get 0x40000004) 8 1 (bit true)) 12 4 code :=
        congrArg (withField · 12 4 code) (get_put_same h ..)

/-- A change made in each lane that runs is that change there, and the other lane stands. -/
theorem each_ups_upd_lane (s : State) (f : Lane → Lane) (l : LaneId) :
    (s.each s.ups fun l u => u.upd l f).lane l = if s.isUp l then f (s.lane l) else s.lane l := by
  unfold State.each State.ups
  cases ha : s.isUp .a <;> cases hb : s.isUp .b <;> cases l <;> simp [ha, hb] <;> rfl

theorem each_upd_mode (s : State) (ls : List LaneId) (f : Lane → Lane) : (s.each ls fun l u => u.upd l f).mode = s.mode := by
  unfold State.each
  induction ls generalizing s with
  | nil => rfl
  | cons l ls ih => exact (ih _).trans (upd_mode l f)

theorem State.showRefused_lane (s : State) (code : Nat) (l : LaneId) :
    (s.showRefused code).lane l = if s.isUp l then (s.lane l).showRefused code else s.lane l := each_ups_upd_lane ..

theorem State.evtFrame_mode (h : s.evtFrame t) : t.mode = s.mode := by rw [h.1]

theorem State.evtFrame_lane (h : s.evtFrame t) (l : LaneId) : (s.lane l).evtFrame (t.lane l) := by
  obtain ⟨-, ha, hb⟩ := h
  cases l
  · exact ha
  · exact hb

/-- The refusal's event leaves all but event state. -/
theorem modeRefused_frame (s : State) (code : Nat) : (s.showRefused code).evtFrame (s.modeRefused code) :=
  raiseUp_frame (by decide) 0 code

theorem modeRefused_mode (s : State) (code : Nat) : (s.modeRefused code).mode = s.mode :=
  (State.evtFrame_mode (modeRefused_frame s code)).trans (each_upd_mode ..)

theorem modeRefused_mem (s : State) (code : Nat) (l : LaneId) : ((s.modeRefused code).lane l).mem = (s.lane l).mem := by
  rw [Lane.evtFrame_mem (State.evtFrame_lane (modeRefused_frame s code) l), State.showRefused_lane]
  split <;> rfl

/-- A register outside event state reads after a refusal what the lane that shows it holds. -/
theorem modeRefused_get (h : rfWf (s.lane l).rf = true) (code : Nat) {a : Nat} (ha : evtReg a = false) :
    ((s.modeRefused code).lane l).get a = if s.isUp l then ((s.lane l).showRefused code).get a else (s.lane l).get a := by
  have hframe := State.evtFrame_lane (modeRefused_frame s code) l
  rw [State.showRefused_lane] at hframe
  split at hframe
  next hup => rw [if_pos hup, (hframe.2 (showRefused_wf h code)).2 a ha]
  next hup => rw [if_neg hup, (hframe.2 h).2 a ha]

theorem modeRefused_get_ne (h : rfWf (s.lane l).rf = true) (code : Nat) {a : Nat} (ha : evtReg a = false) (hne : a ≠ 0x40000004) :
    ((s.modeRefused code).lane l).get a = (s.lane l).get a := by
  rw [modeRefused_get h code ha, showRefused_get_ne h code hne, ite_self]

theorem modeRefused_sysMode (h : rfWf (s.lane l).rf = true) (code : Nat) (hup : s.isUp l = true) :
    ((s.modeRefused code).lane l).get 0x40000004 =
      withField (withField ((s.lane l).get 0x40000004) 8 1 (bit true)) 12 4 code := by
  rw [modeRefused_get h code (by decide), if_pos hup, showRefused_get h]

theorem modeRefused_flag (h : rfWf (s.lane l).rf = true) (code : Nat) (hup : s.isUp l = true) :
    ((s.modeRefused code).lane l).flag 0x40000004 8 = true := by
  unfold Lane.flag
  rw [modeRefused_sysMode h code hup, bitOf_withField_ne _ (by decide) (by decide) (by decide), bitOf_withField _ _ (by decide)]

theorem modeRefused_code (h : rfWf (s.lane l).rf = true) {code : Nat} (hcode : code < 16) (hup : s.isUp l = true) :
    ((s.modeRefused code).lane l).fld 0x40000004 12 4 = code := by
  unfold Lane.fld
  rw [modeRefused_sysMode h code hup, fieldOf_withField _ (by decide)]
  exact Nat.mod_eq_of_lt hcode

/-! A mode command that is a command of its own (R51, R531). -/

section ModeCmd

variable {key : Half} {low : Nat} {f : State → State}
  (hfirst : s.first src 0x40000008 (BitVec.ofNat 32 (key.toNat * 2 ^ 16 + low)) = true) (hl : s.lanesOf src ≠ [])
include hfirst hl

theorem next_modeCmd_badKey (hkey : key ≠ 0x4D4F) :
    ∃ tw, (.next (s.modeCmd src key low f) : Out) = .next { (s.modeRefused 5).ok with twins := tw } := by
  refine next_joined hfirst ?_
  rw [if_neg (by simpa using hl), if_pos hkey]

theorem next_modeCmd (hkey : key = 0x4D4F) (e : f s = t) :
    ∃ tw, (.next (s.modeCmd src key low f) : Out) = .next { t.ok with twins := tw } := by
  refine next_joined hfirst ?_
  rw [if_neg (by simpa using hl), if_neg (by simpa using hkey), e]

end ModeCmd

/-- Settles O15: the command by its key; the refusal by what the lanes show and by the frame of the event behind it. -/
theorem modeRefusalShown : Obligations.ModeRefusalShown := by
  refine ⟨fun s src key hl hfirst hkey => next_modeCmd_badKey hfirst hl hkey, fun s code hA hB hcode =>
    ⟨modeRefused_mode s code, ⟨_, modeRefused_eq s code⟩, fun l => ?_⟩⟩
  have hwf : rfWf (s.lane l).rf = true := by
    cases l
    · exact hA
    · exact hB
  exact ⟨modeRefused_mem s code l, fun a ha hne => modeRefused_get_ne hwf code ha hne,
    fun hup => ⟨modeRefused_flag hwf code hup, modeRefused_code hwf hcode hup⟩⟩

/-! What each command asks for while no change is pending (R45, R50). -/

section Idle

variable (hidle : s.mode.pend = none)
include hidle

theorem whenIdle_idle (f : State → State) : s.whenIdle f = f s := by simp [State.whenIdle, hidle]

theorem cmdStop_configure (hmode : s.mode.mode = .configure) (himg : s.ups.any s.verified = true) :
    s.cmdStop = s.accept .stop 0 s.tb.count := by
  unfold State.cmdStop
  rw [whenIdle_idle hidle, if_pos (by simp [hmode]), if_pos himg]

theorem cmdStop_roleMode (hmode : s.roleMode = true) : s.cmdStop = s.accept .stop 0 s.next250 := by
  have hne : ¬ (s.mode.mode == .configure) = true := by
    intro h
    simp [State.roleMode, State.running, eq_of_beq h] at hmode
  unfold State.cmdStop
  rw [whenIdle_idle hidle, if_neg hne, if_pos hmode]

theorem cmdConfigure_stop (hmode : s.mode.mode = .stop) : s.cmdConfigure = s.accept .configure 0 s.next250 := by
  unfold State.cmdConfigure
  rw [whenIdle_idle hidle, if_pos (by simp [hmode])]

theorem cmdRun_stop (hmode : s.mode.mode = .stop) (hhealthy : s.ups.any s.healthy = true) :
    s.cmdRun = s.accept .run 0 s.runAt := by
  have himg : s.ups.any s.verified = true := by
    obtain ⟨l, hl, h⟩ := List.any_eq_true.1 hhealthy
    simp only [State.healthy, Bool.and_eq_true] at h
    exact List.any_eq_true.2 ⟨l, hl, h.1.1⟩
  unfold State.cmdRun
  rw [whenIdle_idle hidle, if_pos (by simp [hmode]), if_neg (by simp [himg]), if_neg (by simp [hhealthy])]

theorem cmdRun_hold {k : Fin 8} (hmode : s.mode.mode = .hold) (hheld : s.mode.held = some k) :
    s.cmdRun = s.accept .run k (s.boundary k) := by
  unfold State.cmdRun
  rw [whenIdle_idle hidle, if_neg (by simp [hmode]), hmode, hheld]

theorem cmdHold_running {k : Fin 8} (hmode : s.mode.mode = .run ∨ s.mode.mode = .single)
    (htask : (s.lane s.act).taskDef k = true) : s.cmdHold k = s.accept .hold k (s.boundary k) := by
  unfold State.cmdHold
  rw [whenIdle_idle hidle, if_neg (by rcases hmode with h | h <;> simp [h]), if_neg (by simp [htask])]

theorem cmdSafe_idle (hmode : s.running = true ∨ s.mode.mode = .stop) : s.cmdSafe = s.accept .safe 0 s.next250 := by
  have hdrop : s.dropPend = s := by simp [State.dropPend, hidle]
  unfold State.cmdSafe State.askSafe
  rw [if_pos (by simpa using hmode), if_neg (by simp [hidle]), hdrop]
  rfl

end Idle

/-- Settles O13: each command's transition, by what it asks for in that mode. -/
theorem modeCommandsAccepted : Obligations.ModeCommandsAccepted := by
  refine ⟨fun s src hfirst hl hidle hmode himg => ?_, fun s src hfirst hl hidle hmode => ?_, fun s src hfirst hl hidle hmode => ?_,
    fun s src hfirst hl hidle hmode hhealthy => ?_, fun s src k hfirst hl hidle hmode hheld => ?_,
    fun s src k hfirst hl hidle hmode htask => ?_, fun s src hfirst hl hidle hmode => ?_⟩
  · exact next_modeCmd hfirst hl rfl (cmdStop_configure hidle hmode himg)
  · exact next_modeCmd hfirst hl rfl (cmdStop_roleMode hidle hmode)
  · exact next_modeCmd hfirst hl rfl (cmdConfigure_stop hidle hmode)
  · exact next_modeCmd hfirst hl rfl (cmdRun_stop hidle hmode hhealthy)
  · exact next_modeCmd hfirst hl rfl (cmdRun_hold hidle hmode hheld)
  · exact next_modeCmd hfirst hl rfl (cmdHold_running hidle hmode htask)
  · exact next_modeCmd hfirst hl rfl (cmdSafe_idle hidle hmode)

/-! SYS_BOOT_CFG (R64). -/

section BootCfg

variable {data : Word} (hfirst : s.first src 0x40000014 data = true) (hl : s.lanesOf src ≠ [])
include hfirst hl

theorem exec_bootCfgWrite_stored (hmode : s.mode.mode = .configure ∨ s.mode.mode = .stop) :
    ∃ tw, exec (.bootCfgWrite src data) s = .next
      { ({ s with keeper := { s.keeper with bootCfg := data &&& 7 } }.updBoth (·.tvClear 0x40000014)).ok with twins := tw } := by
  refine next_joined hfirst ?_
  rw [if_neg (by simpa using hl), if_pos (by simpa using hmode)]

theorem exec_bootCfgWrite_refused (hcfg : s.mode.mode ≠ .configure) (hstop : s.mode.mode ≠ .stop) :
    ∃ tw, exec (.bootCfgWrite src data) s = .next { (s.modeRefused 1).ok with twins := tw } := by
  refine next_joined hfirst ?_
  rw [if_neg (by simpa using hl), if_neg (by simp [hcfg, hstop])]

end BootCfg

/-- Settles O12: the write's two answers, by the mode it meets. -/
theorem bootConfigurationWrite : Obligations.BootConfigurationWrite :=
  ⟨fun _ _ _ hfirst hl hmode => exec_bootCfgWrite_stored hfirst hl hmode,
    fun _ _ _ hfirst hl hcfg hstop => exec_bootCfgWrite_refused hfirst hl hcfg hstop⟩

end Sys2Proof.Machine
end

section
/-! Cabinet images and transactions (chapter 03): every step keeps the state sound, transactions and pairs, the image loader. -/
namespace Sys2Proof.Machine

variable {s t u : State} {L : Lane} {l : LaneId} {src : Src}

/-! Soundness, step by step (R85, R425, R426, R483, R497). -/

/-- What is kept from a sound state makes the state reached a sound one. -/
theorem Keeps.wf (h : Keeps s t) (hs : s.wf) : t.wf := by
  obtain ⟨rfA, memA, mirrorA, evtA⟩ := h.laneA
  obtain ⟨rfB, memB, mirrorB, evtB⟩ := h.laneB
  obtain ⟨array, banks⟩ := h.chest
  obtain ⟨slow, -⟩ := h.keeper
  exact ⟨⟨rfA hs, memA hs, mirrorA hs, evtA hs⟩, ⟨rfB hs, memB hs, mirrorB hs, evtB hs⟩,
    ⟨array hs, fun b => ⟨(banks b).1 hs, (banks b).2 hs⟩⟩, h.flash hs, slow hs⟩

/-- The queue is no part of what is sound. -/
theorem State.wf_pending (hs : s.wf) (q : List Instr) : ({ s with pending := q } : State).wf := hs

/-- Settles O4: a tick and a command both keep what soundness speaks of. -/
theorem soundnessKept : Obligations.SoundnessKept := by
  intro s t hs h
  cases hq : s.pending with
  | nil =>
    rw [step_of_pending_nil hq] at h
    cases h
    exact (State.ticks_on (keeps_refl s)).wf hs
  | cons c rest =>
    rw [step_of_pending_cons hq] at h
    exact (exec_keeps h).wf (State.wf_pending hs rest)

/-! What a transaction command makes of its lane (R84, R91, R92). -/

theorem txnTouch_mine {req : Requester} {run : Nat} (hopen : L.txnState ≠ 0) (hown : L.txnOwner = reqCode req) :
    L.txnTouch req run = { L with txn := { L.txn with lastAct := run } } := if_pos ⟨hopen, hown⟩

theorem txnTouch_other {req : Requester} {run : Nat} (h : L.txnState = 0 ∨ L.txnOwner ≠ reqCode req) : L.txnTouch req run = L :=
  if_neg fun ⟨hopen, hown⟩ => h.elim hopen (· hown)

/-- The lane with a transaction of `req` open under the token, its journal empty. -/
def Lane.txnOpened (L : Lane) (req : Requester) (tok : Half) (run : Nat) : Lane :=
  { ((L.setFld 0x40060008 13 2 1).setFld 0x40060008 24 8 (reqCode req)).setFld 0x40060008 0 13 0 with
    txn := { L.txn with token := tok, journal := [], lastAct := run, sealedAt := none, sent := none } }

/-- The count of grants, 0 skipped. -/
def tokenAfter (tok : Half) : Half := if tok = 0xFFFF then 1 else tok + 1

/-- The lane with its owner's OPEN transaction sealed. -/
def Lane.txnSealed (L : Lane) (req : Requester) (run : Nat) : Lane :=
  { (L.txnTouch req run).setFld 0x40060008 13 2 2 with txn := { L.txn with lastAct := run, sealedAt := some run } }

section OneLane

variable {req : Requester} {tok : Half}

theorem txnBegin_closed (hreq : req = .hc ∨ ∃ e, req = .engine e) (hstate : (u.lane l).txnState = 0) :
    u.txnBegin l req = (u.upd l fun L => L.txnOpened req (tokenAfter (u.lane l).txn.token) u.tb.run).ok
      (BitVec.ofNat 32 (0x10000 + (tokenAfter (u.lane l).txn.token).toNat)) := by
  rw [txnBegin_may u l req hreq, if_neg (by simp [hstate])]
  rfl

theorem txnBegin_busy (hreq : req = .hc ∨ ∃ e, req = .engine e) (hstate : (u.lane l).txnState ≠ 0) :
    u.txnBegin l req = (u.upd l (·.txnLast 8)).ok := by
  rw [txnBegin_may u l req hreq, if_pos hstate]

theorem touched_mine (k : Half) (run : Nat) :
    ((u.upd l fun L => L.txnTouch req run).lane l).txnMine req k = (u.lane l).txnMine req k := by
  rw [upd_lane, touch_mine]

theorem touched_state (run : Nat) : ((u.upd l fun L => L.txnTouch req run).lane l).txnState = (u.lane l).txnState := by
  rw [upd_lane, touch_state]

/-- A touch by the owner moves its instant alone, so sealing after it leaves both instants. -/
theorem txnSealed_touched {run : Nat} (hmine : L.txnMine req tok = true) :
    { (L.txnTouch req run).setFld aTxnStat 13 2 2 with txn := { (L.txnTouch req run).txn with sealedAt := some run } } =
      L.txnSealed req run := by
  unfold Lane.txnSealed
  rw [touch_owner L req run tok hmine]
  rfl

/-- COMMIT by the owner of an OPEN transaction outside the modes of dual running. -/
theorem txnCommit_open (hrun : u.mode.mode ≠ .run) (hhold : u.mode.mode ≠ .hold)
    (hmine : (u.lane l).txnMine req tok = true) (hstate : (u.lane l).txnState = 1) :
    u.txnCommit l req tok = (u.upd l fun L => L.txnSealed req u.tb.run).ok := by
  have hdual : (u.upd l fun L => L.txnTouch req u.tb.run).dualRun = false :=
    dualRun_of u _ (upd_mode l _) hrun hhold
  unfold State.txnCommit
  rw [if_neg (by rw [touched_mine, hmine]; decide), if_neg (by rw [touched_state]; simp [hstate]), if_pos (by rw [hdual]; rfl),
    upd_upd, upd_tb]
  exact congrArg (fun M => (u.setLane l M).ok) (txnSealed_touched hmine)

theorem txnCommit_notMine (hmine : (u.lane l).txnMine req tok = false) :
    u.txnCommit l req tok = (u.upd l fun L => (L.txnTouch req u.tb.run).txnLast 6).ok := by
  unfold State.txnCommit
  rw [if_pos (by rw [touched_mine, hmine]; rfl), upd_upd]

theorem txnRollback_mine (hmine : (u.lane l).txnMine req tok = true) (hstate : (u.lane l).txnState ≠ 2) :
    u.txnRollback l req tok = (u.upd l fun L => (L.txnTouch req u.tb.run).txnClose 2).ok := by
  unfold State.txnRollback
  rw [if_neg (by rw [touched_mine, hmine]; decide), if_neg (by rw [touched_state]; exact hstate), upd_upd]

theorem txnClrCnt_eq : u.txnClrCnt l req = (u.upd l fun L => (L.txnTouch req u.tb.run).put 0x40060018 0).ok := rfl

end OneLane

/-! The same in every lane its source acts in (R481). -/

theorem offLanes_tb (h : s.offLanes u) : u.tb = s.tb := by rw [h]
theorem offLanes_mode (h : s.offLanes u) : u.mode = s.mode := by rw [h]

/-- A command that in each lane `l` its source acts in makes `E` of it and completes with `w`. -/
theorem perLane_upd {f : LaneId → State → State} {E : Lane → Lane} {w : Word} (hne : s.lanesOf src ≠ [])
    (hf : ∀ l ∈ s.lanesOf src, ∀ u, s.offLanes u → u.lane l = s.lane l → f l u = (u.upd l E).ok w) :
    (s.perLane src f).reply = .ok w ∧ s.inLanes src (fun _ => E) (s.perLane src f) := by
  refine (perLane_inLanes hne fun l hl u hu hlane => ?_).symm
  rw [hf l hl u hu hlane, ← hlane]
  exact ⟨(LaneStep.upd l u E).ok, rfl⟩

section Command

variable {tok : Half} (hne : s.lanesOf src ≠ [])
include hne

theorem exec_txnBegin_closed (hreq : src.req = .hc ∨ ∃ e, src.req = .engine e)
    (hclosed : ∀ l ∈ s.lanesOf src, (s.lane l).txnState = 0 ∧ (s.lane l).txn.token = tok) :
    ∃ t, exec (.txnBegin src) s = .next t ∧ t.reply = .ok (BitVec.ofNat 32 (0x10000 + (tokenAfter tok).toNat)) ∧
      s.inLanes src (fun _ L => L.txnOpened src.req (tokenAfter tok) s.tb.run) t := by
  refine ⟨_, rfl, perLane_upd hne fun l hl u hu hlane => ?_⟩
  obtain ⟨hstate, htok⟩ := hclosed l hl
  rw [← hlane] at hstate htok
  rw [txnBegin_closed hreq hstate, htok, offLanes_tb hu]

theorem exec_txnBegin_busy (hreq : src.req = .hc ∨ ∃ e, src.req = .engine e)
    (hopen : ∀ l ∈ s.lanesOf src, (s.lane l).txnState ≠ 0) :
    ∃ t, exec (.txnBegin src) s = .next t ∧ t.reply = .ok 0 ∧ s.inLanes src (fun _ L => L.txnLast 8) t :=
  ⟨_, rfl, perLane_upd hne fun l hl _ _ hlane => txnBegin_busy hreq (hlane ▸ hopen l hl)⟩

theorem exec_txnCommit_open (hrun : s.mode.mode ≠ .run) (hhold : s.mode.mode ≠ .hold)
    (hmine : ∀ l ∈ s.lanesOf src, (s.lane l).txnMine src.req tok = true ∧ (s.lane l).txnState = 1) :
    ∃ t, exec (.txnCommit src tok) s = .next t ∧ t.reply = .ok 0 ∧
      s.inLanes src (fun _ L => L.txnSealed src.req s.tb.run) t := by
  refine ⟨_, rfl, perLane_upd hne fun l hl u hu hlane => ?_⟩
  obtain ⟨hown, hstate⟩ := hmine l hl
  rw [← hlane] at hown hstate
  rw [← offLanes_mode hu] at hrun hhold
  rw [txnCommit_open hrun hhold hown hstate, offLanes_tb hu]

theorem exec_txnCommit_notMine (hmine : ∀ l ∈ s.lanesOf src, (s.lane l).txnMine src.req tok = false) :
    ∃ t, exec (.txnCommit src tok) s = .next t ∧ t.reply = .ok 0 ∧
      s.inLanes src (fun _ L => (L.txnTouch src.req s.tb.run).txnLast 6) t := by
  refine ⟨_, rfl, perLane_upd hne fun l hl u hu hlane => ?_⟩
  rw [txnCommit_notMine (hlane ▸ hmine l hl), offLanes_tb hu]

theorem exec_txnRollback_mine (hmine : ∀ l ∈ s.lanesOf src, (s.lane l).txnMine src.req tok = true ∧ (s.lane l).txnState ≠ 2) :
    ∃ t, exec (.txnRollback src tok) s = .next t ∧ t.reply = .ok 0 ∧
      s.inLanes src (fun _ L => (L.txnTouch src.req s.tb.run).txnClose 2) t := by
  refine ⟨_, rfl, perLane_upd hne fun l hl u hu hlane => ?_⟩
  obtain ⟨hown, hstate⟩ := hmine l hl
  rw [← hlane] at hown hstate
  rw [txnRollback_mine hown hstate, offLanes_tb hu]

theorem exec_txnClrCnt : ∃ t, exec (.txnClrCnt src) s = .next t ∧ t.reply = .ok 0 ∧
    s.inLanes src (fun _ L => (L.txnTouch src.req s.tb.run).put 0x40060018 0) t :=
  ⟨_, rfl, perLane_upd hne fun _ _ _ hu _ => by rw [txnClrCnt_eq, offLanes_tb hu]⟩

end Command

/-! Instants and limits of transactions and pairs (R88, R92, R94). -/

theorem exec_commitInstant {d : Nat} (hd : (s.commits.map (·.1)).min? = some d) :
    exec .commitInstant s = .next (@State.settle regIO (s.advTo d).commitDue) := by
  show execCommitInstant s = _
  unfold execCommitInstant rowCommitInstant
  rw [hd]
  rfl

theorem exec_txnIdleTimeout (hstate : (s.lane l).txnState = 1 ∨ (s.lane l).txnState = 3)
    (hidle : (s.lane l).fld 0x4006000C 0 10 ≠ 0) :
    exec (.txnIdleTimeout l) s =
      .next (((s.advRun ((s.lane l).txn.lastAct + sU ((s.lane l).fld 0x4006000C 0 10))).upd l (·.txnClose 5)).txnEvent l 2) :=
  if_pos ⟨hstate, hidle⟩

theorem exec_pairTimeout {a : Word} {p : PairStage} (hp : ((s.lane l).txn.pairs.find? fun p => p.addr == a.toNat) = some p) :
    exec (.pairTimeout l a) s = .next (((s.advRun (p.at_ + msU 10)).upd l fun L =>
      { L.incFld 0x40060018 0 16 with txn := { L.txn with pairs := L.txn.pairs.filter fun q => q.addr != p.addr } }).txnEvent l 5) := by
  show execPairTimeout l a s = _
  unfold execPairTimeout
  rw [hp]
  rfl

/-- Settles O26: the commands by what each makes of one lane, the two cases of a touch, the instants by their guards. -/
theorem transactionCommands : Obligations.TransactionCommands :=
  ⟨fun _ _ _ hne hreq hclosed => exec_txnBegin_closed hne hreq hclosed,
    fun _ _ hne hreq hopen => exec_txnBegin_busy hne hreq hopen,
    fun _ _ _ hne hrun hhold hmine => exec_txnCommit_open hne hrun hhold hmine,
    fun _ _ _ hne hmine => exec_txnCommit_notMine hne hmine,
    fun _ _ _ hne hmine => exec_txnRollback_mine hne hmine,
    fun _ _ hne => exec_txnClrCnt hne,
    fun _ _ _ hopen hown => txnTouch_mine hopen hown,
    fun _ _ _ h => txnTouch_other h,
    fun _ _ hd => exec_commitInstant hd,
    fun _ _ hstate hidle => exec_txnIdleTimeout hstate hidle,
    fun _ _ _ _ hp => exec_pairTimeout hp⟩

/-! The image loader (R79-R82). -/

section ImgCmd

variable {slot : Fin 2} {op : Nat}
  (hfirst : s.first src 0x40060100 (BitVec.ofNat 32 ((0x494D : Half).toNat * 2 ^ 16 + slot.val * 2 ^ 8 + op)) = true)
  (hidle : s.loader.busy = false) (hop : 1 ≤ op ∧ op ≤ 4)
include hfirst hidle hop

/-- With its key and an operation right and the loader idle, what the command comes to goes by the mode alone. -/
theorem next_imgCmd_idle {ls : List LaneId} (hlanes : s.lanesOf src = l :: ls)
    (e : (if s.mode.mode ≠ .configure then s.imgRefuse 0xA
      else (({ s with loader := { busy := true, op := op, slot := slot, lane := l } } : State).imgShow
        fun L => (L.setFlag aImgStat 31 true).setFld aImgStat 8 4 op).ok) = t) :
    ∃ tw, (.next (s.imgCmd src 0x494D op slot) : Out) = .next { t with twins := tw } := by
  refine next_joined hfirst ?_
  rw [hlanes]
  dsimp only
  rw [if_neg (by simp [hidle]), if_neg (by decide), if_neg (by omega), e]

/-- An operation taken in CONFIGURE: the loader is busy with it in the first lane the source acts in. -/
theorem next_imgCmd_configure {ls : List LaneId} (hlanes : s.lanesOf src = l :: ls) (hmode : s.mode.mode = .configure) :
    ∃ tw, (.next (s.imgCmd src 0x494D op slot) : Out) = .next
      { (({ s with loader := { busy := true, op := op, slot := slot, lane := l } } : State).updBoth
        fun L => (L.setFlag 0x40060108 31 true).setFld 0x40060108 8 4 op).ok with twins := tw } :=
  next_imgCmd_idle hfirst hidle hop hlanes (if_neg (by simp [hmode]))

theorem next_imgCmd_otherMode (hne : s.lanesOf src ≠ []) (hmode : s.mode.mode ≠ .configure) :
    ∃ tw, (.next (s.imgCmd src 0x494D op slot) : Out) = .next
      { (s.updBoth fun L => L.setFld 0x40060108 0 4 0xA).busErr with twins := tw } := by
  obtain ⟨l, ls, hlanes⟩ := List.exists_cons_of_ne_nil hne
  exact next_imgCmd_idle hfirst hidle hop hlanes (if_pos hmode)

end ImgCmd

theorem loaderRun_erase (hop : s.loader.op = 2) : s.loaderRun false = (s.slotErase s.loader.slot, 2) := by
  unfold State.loaderRun
  rw [hop, if_neg (by decide), if_pos rfl, if_neg (by decide)]

theorem loaderRun_write (hop : s.loader.op = 1) (hsrc : s.writeCheck = 1) :
    s.loaderRun false = ((s.slotErase s.loader.slot).slotProgram s.loader.slot s.srcRd 0 (imgLen s.srcRd), 1) := by
  unfold State.loaderRun State.loaderWrite
  rw [hop, if_pos rfl, hsrc]
  rfl

theorem loaderRun_load (hop : s.loader.op = 4) (himg : (s.imgCheck (s.slotRd s.loader.slot)).1 = 1) :
    s.loaderRun false =
      s.loadAll s.ups s.loader.slot (s.slotRd s.loader.slot) (s.imgCheck (s.slotRd s.loader.slot)).2 false true := by
  unfold State.loaderRun State.loaderLoad
  rw [hop, if_neg (by decide), if_neg (by decide), if_neg (by decide), if_neg (by simp [himg])]

theorem exec_loaderDone {r : State × Nat} (hbusy : s.loader.busy = true) (hr : s.loaderRun false = r) :
    exec (.loaderDone false) s = .next (r.1.loaderEnd r.2) := by
  subst hr
  exact if_neg (by simp [hbusy])

/-- Settles O28: the four operations by the one command they share, its refusal, and the end of each by what it ran to. -/
theorem imageLoaderCommands : Obligations.ImageLoaderCommands := by
  refine ⟨fun s src slot l ls hlanes hidle hmode => ?_,
    fun _ _ _ hne hidle hmode hfirst => next_imgCmd_otherMode hfirst hidle (by decide) hne hmode,
    fun _ hbusy hop => exec_loaderDone hbusy (loaderRun_erase hop),
    fun s hbusy hop => loaderDone_check s hbusy hop,
    fun _ hbusy hop hsrc => exec_loaderDone hbusy (loaderRun_write hop hsrc),
    fun _ _ hbusy hop himg hr => exec_loaderDone hbusy ((loaderRun_load hop himg).trans hr.symm)⟩
  have taken (op : Nat) (hop : 1 ≤ op ∧ op ≤ 4) := fun hfirst =>
    next_imgCmd_configure (src := src) (slot := slot) (op := op) hfirst hidle hop hlanes hmode
  exact ⟨taken 1 (by decide), taken 2 (by decide), taken 3 (by decide), taken 4 (by decide)⟩

end Sys2Proof.Machine
end

section
/-! Bench jobs (chapter 05): how a job starts, how it ends, and how the lanes agree on its status. -/
namespace Sys2Proof.Machine

variable {s : State} {l : LaneId}

/-! The start of a job (R134, R139). -/

section JobStart

variable {r : Fin 2}

/-- The state in which the lane has taken the head of ring `r`, the ring it started last from now on. -/
def State.benHeadTaken (s : State) (l : LaneId) (r : Fin 2) : State :=
  s.upd l fun L => { L.headGone r s.tb.run with ben := { (L.headGone r s.tb.run).ben with lastRing := r } }

/-- The read of the descriptor the head of ring `r` stood for, once that head is taken. -/
def State.benHeadRead (s : State) (l : LaneId) (r : Fin 2) : State × Sum (Nat × Nat) Bytes :=
  @State.winRead regIO (s.benHeadTaken l r) l qBench
    ((s.lane l).getN (aRing r 0) + 64 * ((s.lane l).runSeq r % (s.lane l).ringLen r)) 64

/-- What becomes of the taken head of ring `r`, by the read of its descriptor. -/
def State.benHeadStart (s : State) (l : LaneId) (r : Fin 2) : State × Sum (Nat × Nat) Bytes → Out
  | (v, .inl f) => .next (@State.benPlain regIO (v.winHit l qBench f) l r.val ((s.lane l).runSeq r) 0 0 stMemFault none)
  | (v, .inr d) => match v.jobGate l d with
    | some st => .next (@State.benPlain regIO v l r.val ((s.lane l).runSeq r) (u8At d 0) (u16At d 2) st (some (u32At d 4)))
    | none => .next (v.upd l fun L =>
        { L with ben := { L.ben with run := some { ring := r, seq := (s.lane l).runSeq r, desc := d, tbStart := s.tb32, tune := L.benTune, wins := none } } }.benShow)

/-- In a mode that runs jobs, a lane that runs none starts the head of the ring picked. -/
theorem exec_benchJobStart_picked {x : State × Sum (Nat × Nat) Bytes} (hpick : (s.lane l).benPick = some r)
    (hidle : (s.lane l).ben.run = none) (hup : s.isUp l = true) (hreset : s.mode.mode ≠ .reset)
    (hconfigure : s.mode.mode ≠ .configure) (hretain : s.mode.mode ≠ .retain) (hread : s.benHeadRead l r = x) :
    exec (.benchJobStart l) s = s.benHeadStart l r x := by
  subst hread
  show @rowBenchJobStart regIO l s = _
  simp only [rowBenchJobStart, hpick]
  rw [if_neg (by simp [hidle, hup, hreset, hconfigure, hretain])]
  rfl

end JobStart

/-! The end of the running job (R121, R151, R152; log 76). -/

section JobEnd

variable {r : BenRun} (hrun : (s.lane l).ben.run = some r)
include hrun

theorem exec_benchDeadlineMiss_running (n : Nat) :
    exec (.benchDeadlineMiss l n) s = .next (@State.settle regIO (@State.benEnd regIO
      (if 0 < diff32 (u32At r.desc 4) s.tb32 then s.advTo (s.tb.count + nsU (diff32 (u32At r.desc 4) s.tb32).toNat) else s)
      l r (some n) false)) := by
  show @Out.settle regIO (@rowBenchDeadlineMiss regIO l n s) = _
  unfold rowBenchDeadlineMiss
  rw [hrun]
  rfl

theorem exec_benchJobEnd_inTime (hfound : s.foundMissed (u32At r.desc 4) = false) :
    exec (.benchJobEnd l) s = .next (@State.settle regIO (@State.benEnd regIO s l r none false)) := by
  show @Out.settle regIO (@rowBenchJobEnd regIO l s) = _
  simp only [rowBenchJobEnd, hrun]
  rw [if_neg (by simp [hfound])]
  rfl

/-- After the miss can have been found, the iterations completed by then are free. -/
theorem exec_benchJobEnd_late (hfound : s.foundMissed (u32At r.desc 4) = true) :
    exec (.benchJobEnd l) s =
      .next (@State.settle regIO (@State.benEnd regIO s.fresh.2 l r (some s.fresh.1.toNat) true)) := by
  show @Out.settle regIO (@rowBenchJobEnd regIO l s) = _
  simp only [rowBenchJobEnd, hrun]
  rw [if_pos hfound]
  rfl

end JobEnd

/-! Agreement between the lanes (R157, R158; log 77). -/

section PeerStatus

variable {p : BenPeer} {rest : List BenPeer} (hinbox : (s.lane l).ben.inbox = p :: rest)
include hinbox

theorem exec_benchPeerStatus_waiting {w : BenWait}
    (hwait : (s.lane l).ben.wait.find? (fun w => w.ring == p.ring && w.seq == p.seq) = some w) (hfinal : w.final = none) :
    exec (.benchPeerStatus l) s = .next (@State.settle regIO (@State.benAgree regIO
      (s.upd l fun L => { L with ben := { L.ben with inbox := rest } }) l w (if s.agrees then some p else none) false)) := by
  show @Out.settle regIO (@rowBenchPeerStatus regIO l s) = _
  simp only [rowBenchPeerStatus, hinbox, hwait]
  rw [if_neg (by simp [hfinal])]
  rfl

/-- A status that comes before the lane's own decision is kept for it. -/
theorem exec_benchPeerStatus_early
    (hwait : (s.lane l).ben.wait.find? (fun w => w.ring == p.ring && w.seq == p.seq) = none)
    (hagrees : s.agrees = true) (hpassed : (s.lane l).seqPassed p.ring p.seq = false) :
    exec (.benchPeerStatus l) s = .next (@State.settle regIO
      (s.upd l fun L => { L with ben := { L.ben with inbox := rest, got := L.ben.got ++ [p] } })) := by
  show @Out.settle regIO (@rowBenchPeerStatus regIO l s) = _
  simp only [rowBenchPeerStatus, hinbox, hwait]
  rw [if_neg (by simp [hagrees, hpassed]), upd_upd]
  rfl

end PeerStatus

section AgreeTimeout

variable {w : BenWait} (hfirst : (s.lane l).firstWait = some w)
include hfirst

theorem exec_benchAgreeTimeout_alone (halone : s.agrees = false) :
    exec (.benchAgreeTimeout l) s = .next (@State.settle regIO (@State.benAgree regIO s l w none false)) := by
  show @Out.settle regIO (@rowBenchAgreeTimeout regIO l s) = _
  simp only [rowBenchAgreeTimeout, hfirst]
  rw [if_pos (by simp [halone])]
  rfl

theorem exec_benchAgreeTimeout_paired (hagrees : s.agrees = true) :
    exec (.benchAgreeTimeout l) s = .next (@State.settle regIO
      ((@State.benAgree regIO (s.advRun w.limit) l w none true).redTrigger 6 w.ring true false false)) := by
  show @Out.settle regIO (@rowBenchAgreeTimeout regIO l s) = _
  simp only [rowBenchAgreeTimeout, hfirst]
  rw [if_neg (by simp [hagrees])]
  rfl

end AgreeTimeout

/-- Settles O37: the start by what the read of the head's descriptor gives, the ends and the agreement by their guards. -/
theorem benchJobCommands : Obligations.BenchJobCommands := by
  refine ⟨fun s u l r hpick hidle hup hreset hconfigure hretain hu => ?_,
    fun _ _ _ n hrun => exec_benchDeadlineMiss_running hrun n,
    fun _ _ _ hrun hfound => exec_benchJobEnd_inTime hrun hfound,
    fun _ _ _ hrun hfound => exec_benchJobEnd_late hrun hfound,
    fun _ _ _ _ _ hinbox hwait hfinal => exec_benchPeerStatus_waiting hinbox hwait hfinal,
    fun _ _ _ _ hinbox hwait hagrees hpassed => exec_benchPeerStatus_early hinbox hwait hagrees hpassed,
    fun _ _ _ hfirst => ⟨exec_benchAgreeTimeout_alone hfirst, exec_benchAgreeTimeout_paired hfirst⟩⟩
  subst hu
  have start {x} := exec_benchJobStart_picked (x := x) hpick hidle hup hreset hconfigure hretain
  exact ⟨fun _ _ hread => start hread,
    fun _ _ _ hread hgate => (start hread).trans (by simp only [State.benHeadStart, hgate]),
    fun _ _ hread hgate => (start hread).trans (by simp only [State.benHeadStart, hgate])⟩

end Sys2Proof.Machine
end

section
/-! The parcel tracker (chapter 06): how its regular steps and its predictions start and end. -/
namespace Sys2Proof.Machine

variable {s : State} {l : LaneId} {src : Src}

/-! A regular step starts (R167, R171, R172). -/

theorem exec_pclStepStart_due {u v : State} {ls : List LaneId} (hls : ls = s.ups.filter fun l => (s.lane l).pcl.live.isSome)
    (hne : ls ≠ []) (hu : u = (s.advTo (s.lane (ls.headD .a)).pcl.nextAt).gridDue)
    (hv : v = u.each ls fun l x => x.pclStart l (u.pclTake l)) :
    exec .pclStepStart s = .next (@State.settle regIO (v.each ls fun l x => x.upd l fun L =>
      { L with pcl := { L.pcl with nextAt := L.pcl.nextAt + usU (250000 * L.pcl.dtQ), dtQ := L.fld aPclCfg 0 6 } })) := by
  show @Out.settle regIO (rowPclStepStart s) = _
  unfold rowPclStepStart
  dsimp only
  rw [← hls, if_neg (by simpa using hne), ← hu, ← hv]
  rfl

/-- A step that arrives while the former still runs is skipped. -/
theorem pclStart_skipped (x : Option PclSet) (hlive : (s.lane l).pcl.live.isSome = true)
    (hdesc : (s.lane l).pclDesc.isSome = true) (hrun : (s.lane l).pcl.run.isSome = true) :
    s.pclStart l x = (s.upd l (·.incFld 0x400B001C 16 16)).raise l 0x51 := by
  obtain ⟨live, hlive⟩ := Option.isSome_iff_exists.mp hlive
  obtain ⟨⟨n, d⟩, hdesc⟩ := Option.isSome_iff_exists.mp hdesc
  unfold State.pclStart
  rw [hlive, hdesc]
  exact if_pos hrun

/-! A regular step ends (R173, R177, R179). -/

theorem pclEnd_running {r : PclRun} {n : Net} {d : PclDesc} (hrun : (s.lane l).pcl.run = some r)
    (hdesc : (s.lane l).pclDesc = some (n, d)) {t : State} (ht : t = (s.upd l fun L => L.pclDone n r).raise l 0x50) :
    s.pclEnd l = if r.imbal then (if r.courant ≠ 0 then t.raise l 0x53 else t).raise l 0x55
      else if r.courant ≠ 0 then t.raise l 0x53 else t := by
  subst ht
  unfold State.pclEnd
  rw [hrun, hdesc]

/-! A store of bytes reaches the memory alone: the tracker stands. -/

@[simp] theorem eccHeal_pcl (L : Lane) (k n : Nat) : (L.eccHeal k n).pcl = L.pcl := by
  unfold Lane.eccHeal
  split <;> rfl

@[simp] theorem wrMem_pcl (L : Lane) (e a : Nat) (bs : Bytes) : (L.wrMem e a bs).pcl = L.pcl := by
  unfold Lane.wrMem
  split <;> simp only [eccHeal_pcl]

/-- The lane with the ended step's state taken up and the next output buffer written (R179). -/
def Lane.pclStored (L : Lane) (n : Net) (r : PclRun) : Lane :=
  ({ L with pcl := { L.pcl with live := some r.after, run := none } } : Lane).wrMem 0 (L.pclBuf ((L.getN 0x400B0018 + 1) % 2 ^ 32))
    (pclOutB n r.after r.ret r.imbal ((L.getN 0x400B0018 + 1) % 2 ^ 32) r.tb (L.getN 0x400B000C) r.nsub)

/-- Beyond its output buffer an ended step writes registers alone. -/
theorem pclDone_stored (L : Lane) (n : Net) (r : PclRun) : ∃ rf, L.pclDone n r = { L.pclStored n r with rf := rf } := by
  simp only [Lane.pclDone, Lane.setFlag, Lane.setFld, Lane.wrapFld, Lane.putN, Lane.put]
  exact ⟨_, rfl⟩

theorem pclStored_pcl (L : Lane) (n : Net) (r : PclRun) :
    (L.pclStored n r).pcl = { L.pcl with live := some r.after, run := none } := wrMem_pcl _ _ _ _

/-- What an ended step leaves of the tracker and of the memory. -/
theorem pclDone_leaves (L : Lane) (n : Net) (r : PclRun) : (L.pclDone n r).pcl.live = some r.after ∧
    (L.pclDone n r).pcl.run = none ∧ (L.pclDone n r).mem = (L.pclStored n r).mem := by
  obtain ⟨rf, h⟩ := pclDone_stored L n r
  have hpcl : (L.pclDone n r).pcl = { L.pcl with live := some r.after, run := none } := by rw [h, pclStored_pcl]
  exact ⟨by rw [hpcl], by rw [hpcl], by rw [h]⟩

/-! A return value grows old (R170). -/

theorem exec_retStale_due {k : Fin 4096} {n : Net} {d : PclDesc} (hage : (s.lane s.act).fld aPclCfg 16 8 ≠ 0)
    (hdesc : (s.lane s.act).pclDesc = some (n, d)) (hk : k.val < n.subs.size) (hlive : (s.lane s.act).pcl.live.isSome = true)
    {v : SubVals} (hv : v = (s.lane s.act).mst.subs[k].vis) (hstamp : (v.stamps.getD 4 none).isSome = true) {u : State}
    (hu : u = (s.each s.ups fun l x => x.retFresh l k).advRun (v.retAt + sU ((s.lane s.act).fld aPclCfg 16 8) + 1)) :
    exec (.retStale k) s = .next (u.each u.ups fun l x => x.retStale l k) := by
  subst hu hv
  show execRetStale k s = _
  unfold execRetStale
  dsimp only
  rw [hdesc]
  refine if_neg ?_
  rw [Option.isNone_eq_false_iff.mpr hlive, Option.isNone_eq_false_iff.mpr hstamp]
  simp [hage, hk]

theorem retStale_old {k : Nat} (hold : s.retOld l k = true) (hfresh : (s.lane l).pcl.stale.contains k = false) :
    s.retStale l k = (s.upd l fun L => { L with pcl := { L.pcl with stale := L.pcl.stale ++ [k] } }).raise l 0x54 k :=
  if_neg (by simp only [hold, hfresh]; decide)

/-! Predictions (R180, R184). -/

/-- A START taken in a lane: the prediction shows, the next number is counted, the descriptor is opened (R180, R181). -/
def State.predBegun (s : State) (l : LaneId) : State :=
  @State.predTake regIO (s.upd l fun L =>
    { L.predShow true with pcl := { L.pcl with predSeq := ((s.lane l).pcl.predSeq + 1) % 65536 } }).ok l (s.lane l).pcl.predSeq

/-- A START with its key is refused while a prediction runs, else taken. -/
theorem predStart_keyed (s : State) (l : LaneId) :
    @State.predStart regIO s l 0x5044 = if (s.lane l).flag aPclStat 3 then s.refuse l 0x57 else s.predBegun l := by
  unfold State.predStart State.predBusy
  simp only [ne_eq, not_true_eq_false, decide_false, Bool.false_or]
  rfl

theorem exec_predStart_keyed (s : State) (src : Src) :
    exec (.predStart src 0x5044) s =
      .next (s.perLane src fun l x => if (x.lane l).flag aPclStat 3 then x.refuse l 0x57 else x.predBegun l) :=
  congrArg (fun f => (.next (s.perLane src f) : Out)) (funext fun l => funext fun x => predStart_keyed x l)

theorem exec_predStart_idle (hlanes : s.lanesOf src = [l]) (hidle : (s.lane l).flag aPclStat 3 = false) :
    exec (.predStart src 0x5044) s = .next (s.predBegun l) := by
  rw [exec_predStart_keyed, perLane_one hlanes, if_neg (by simp [hidle])]

theorem predAbort_keyed (s : State) (l : LaneId) : @State.predAbort regIO s l 0x5044 = (@State.predStop regIO s l).ok :=
  if_neg (by decide)

theorem exec_predAbort_keyed (s : State) (src : Src) :
    exec (.predAbort src 0x5044) s = .next (s.perLane src fun l x => (@State.predStop regIO x l).ok) :=
  congrArg (fun f => (.next (s.perLane src f) : Out)) (funext fun l => funext fun x => predAbort_keyed x l)

section PredRunning

variable {r : PredRun} (hpred : (s.lane l).pcl.pred = some r)
include hpred

theorem exec_predDeadlineMiss_running (n : Nat) :
    exec (.predDeadlineMiss l n) s = .next (@State.settle regIO (@State.predEnd regIO
      (if 0 < diff32 (u32At r.desc 4) s.tb32 then s.advTo (s.tb.count + nsU (diff32 (u32At r.desc 4) s.tb32).toNat) else s)
      l r (some n))) := by
  show @Out.settle regIO (@rowPredDeadlineMiss regIO l n s) = _
  unfold rowPredDeadlineMiss
  rw [hpred]
  rfl

theorem exec_predEnd_running : exec (.predEnd l) s = .next (@State.settle regIO (@State.predEnd regIO s l r none)) := by
  show @Out.settle regIO (@rowPredEnd regIO l s) = _
  unfold rowPredEnd
  rw [hpred]
  rfl

end PredRunning

/-- Settles O38: the steps' start and end by what runs, what an ended step leaves by what a store of bytes leaves, the commands
by what each does in one lane. -/
theorem trackerCommands : Obligations.TrackerCommands :=
  ⟨fun _ _ _ _ hls hne hu hv => exec_pclStepStart_due hls hne hu hv,
    fun _ _ x hlive hdesc hrun => pclStart_skipped x hlive hdesc hrun,
    fun _ => rfl,
    fun _ _ _ _ _ hrun hdesc => pclEnd_running hrun hdesc rfl,
    pclDone_leaves,
    fun _ _ _ _ _ _ hv hage hdesc hk hlive hstamp hu => exec_retStale_due hage hdesc hk hlive hv hstamp hu,
    fun _ _ _ hold hfresh => retStale_old hold hfresh,
    fun _ _ _ hlanes hidle => exec_predStart_idle hlanes hidle,
    exec_predStart_keyed, exec_predAbort_keyed,
    fun _ _ _ n hpred => ⟨exec_predDeadlineMiss_running hpred n, exec_predEnd_running hpred⟩⟩

end Sys2Proof.Machine
end

section
/-! The valve axes in the field die (chapter 08): profile periods, late setpoints, the hold current, stall windows and bridges. -/
namespace Sys2Proof.Machine

variable {s u v : State} {a : Fin 16}

/-! The profile period (R228, R314; log 58). -/

/-- The axes that the drawer of the active lane enables. -/
def State.axesEnabled (s : State) : List (Fin 16) := (List.finRange 16).filter fun (a : Fin 16) => (s.lane s.act).axEn a

/-- One profile period of an axis in every lane that runs; a declared stall has reached them by its end. -/
def State.axAdvance (s : State) (a : Fin 16) : State :=
  (s.each s.ups fun l s => ((s.axPeriod l a).axShow l a).axPeriodEnd l a).axDie a fun d => { d with stalled := false }

/-- Once every enabled axis has advanced, FAILSAFE alone decides whether the die holds or takes the period's setpoints. -/
theorem exec_profilePeriod_grid {axes : List (Fin 16)} (hu : u = s.advTo ((s.tb.count / nsU 100000 + 1) * nsU 100000))
    (haxes : axes = u.axesEnabled) (hv : v = axes.foldl State.axAdvance u) :
    exec .profilePeriod s = .next (@State.settle regIO
      (if v.red.failsafe then axes.foldl (fun s a => s.axHold a) v else v.axesApply axes)) := by
  subst hu haxes hv
  rfl

/-! Late setpoints and the hold current (R223, R229). -/

theorem exec_setpointLate_enabled (hen : (s.lane s.act).axEn a = true) (hu : u = s.advTo (s.field.ax[a].setAt + nsU 150000))
    (hv : v = u.each u.ups fun l x => x.upd l (·.setFlag (aAx a 4) 9 true)) :
    exec (.setpointLate a) s = .next (if v.red.failsafe then v.axHold a else v.axFreeze a) := by
  subst hu hv
  exact if_pos hen

theorem exec_holdCurrentDelay_resting {t : Nat} (hrest : s.field.ax[a].restAt = some t)
    (hbridge : s.field.ax[a].enableAt.isSome = true) :
    exec (.holdCurrentDelay a) s =
      .next ((s.advRun (t + msU (u16At ((s.lane s.act).axE a) 0x1C))).axDie a fun d => { d with holdI := true }) := by
  show execHoldCurrentDelay a s = _
  unfold execHoldCurrentDelay
  dsimp only
  rw [hrest]
  exact if_pos hbridge

/-! Load-angle windows (R231, R232; log 59). -/

/-- The consecutive valid windows with the load angle above STALL_THR, a window of mean `delta` included. -/
def State.axAngleCount (s : State) (a : Fin 16) (delta : Half) : Nat :=
  if (s.lane s.act).fld (aAx a 0x34) 0 8 * 100 < delta.toNat then s.field.ax[a].angleN + 1 else 0

/-- The EMF in V below which a window counts as collapsed (COLLAPSE × KE × f_el). -/
def State.axEmfFloor (s : State) (a : Fin 16) : F64 :=
  fmul (fmul (fRat ((s.lane s.act).fld (aAx a 0x34) 8 8) 100) (f32to64 (f32At ((s.lane s.act).axE a) 0x10)))
    (fdiv (fabs (s.lane s.act).axes[a].v) (fOfNat 1024))

/-- The consecutive valid windows with a collapsed EMF, a window of mean `emf` included. -/
def State.axCollapseCount (s : State) (a : Fin 16) (emf : Half) : Nat :=
  if flt (fRat emf.toNat 1000) (s.axEmfFloor a) then s.field.ax[a].collapseN + 1 else 0

section StallWindow

variable {delta emf : Half} (hen : (s.lane s.act).axEn a = true)
include hen

/-- A window of an axis slower than V_MIN, at some period of it or at its end, is not valid. -/
theorem exec_stallWindowEnd_slow
    (hslow : s.field.ax[a].slow = true ∨ flt (fabs (s.lane s.act).axes[a].v) ((s.lane s.act).axVal a 0x24) = true) :
    exec (.stallWindowEnd a delta emf) s = .next ((s.each s.ups fun l x => x.upd l fun L =>
      (L.setFlag (aAx a 4) 5 true).putN (aAx a 0x38) (emf.toNat * 0x10000)).axDie a
        fun d => { d with angleN := 0, collapseN := 0, slow := false }) := by
  show execStallWindowEnd a delta emf s = _
  unfold execStallWindowEnd
  dsimp only
  rw [if_neg (by simp [hen]), if_pos (by simpa using hslow)]

/-- A valid window declares the stall once a count is full, and else keeps the two counts. -/
theorem exec_stallWindowEnd_valid {x y : Nat} (hperiods : s.field.ax[a].slow = false)
    (hend : flt (fabs (s.lane s.act).axes[a].v) ((s.lane s.act).axVal a 0x24) = false)
    (hv : v = s.each s.ups fun l x => x.upd l fun L =>
      (L.setFlag (aAx a 4) 5 false).putN (aAx a 0x38) (emf.toNat * 0x10000 + delta.toNat))
    (hx : x = s.axAngleCount a delta) (hy : y = s.axCollapseCount a emf) :
    exec (.stallWindowEnd a delta emf) s = .next (if 8 ≤ x ∨ 2 ≤ y
      then (v.axFreeze a).axDie a fun d => { d with angleN := 0, collapseN := 0, stalled := true, holdI := true }
      else v.axDie a fun d => { d with angleN := x, collapseN := y }) := by
  subst hv hx hy
  show execStallWindowEnd a delta emf s = _
  unfold execStallWindowEnd
  dsimp only
  rw [if_neg (by simp [hen]), if_neg (by rw [hperiods, hend]; decide), apply_ite Host.Outcome.next]
  rfl

end StallWindow

/-! Bridge faults (R225). -/

/-- The die takes the bridge of any axis off; only an enabled one has it shown and reported in the lanes. -/
theorem exec_bridgeFault
    (hu : u = (s.axDisable a).axDie a fun d => { d with faulted := true, uncertain := true, fltLow := true }) :
    exec (.bridgeFault a) s = .next (if (s.lane s.act).axEn a
      then u.each u.ups fun l x => (x.upd l (·.setFlag (aAx a 4) 6 true)).raise l 0x73 a
      else u) := by
  subst hu
  exact (apply_ite Host.Outcome.next _ _ _).symm

/-- Settles O40: each row's equation, with FAILSAFE, the stall counts and the axis's enable bit deciding between its two ends. -/
theorem axisDieCommands : Obligations.AxisDieCommands := by
  refine ⟨fun s u v axes hu haxes hv => ?_, fun _ _ _ _ hen hu hv => exec_setpointLate_enabled hen hu hv,
    fun _ _ _ hrest hbridge => exec_holdCurrentDelay_resting hrest hbridge,
    fun _ _ _ _ hen hslow => exec_stallWindowEnd_slow hen hslow,
    fun s v a delta emf x y hen hperiods hend hv hx hy => ?_, fun s u a hu => ?_, fun _ _ => rfl⟩
  · have h := exec_profilePeriod_grid hu haxes hv
    exact ⟨fun hrun => by rw [h, if_neg (by simp [hrun])], fun hfail => by rw [h, if_pos hfail]⟩
  · have h := exec_stallWindowEnd_valid hen hperiods hend hv hx hy
    exact ⟨fun hfull => by rw [h, if_pos hfull], fun hx8 hy2 => by rw [h, if_neg (by omega)]⟩
  · have h := exec_bridgeFault hu
    exact ⟨fun hen => by rw [h, if_pos hen], fun hdis => by rw [h, if_neg (by simp [hdis])]⟩

end Sys2Proof.Machine
end

section
/-! Cyclic programs (chapter 09): the instants of a task's cycle, from its grid instant to its publication or overrun. -/
namespace Sys2Proof.Machine

variable {s u v : State} {l : LaneId} {k : Fin 8}

/-! The grid instant (R246, R251). -/

/-- The state at a task's next grid instant, after what is due there first (R88, R271). -/
def State.atGrid (s : State) (k : Fin 8) : State := (s.advTo (nsU (s.gridNs s.act k (s.lane s.act).tasks[k].gridK))).gridDue

/-- A grid instant `n` of a task has come: notes of twin writes by its engines end, and the grid moves on. -/
def State.gridTaken (u : State) (act : LaneId) (k : Fin 8) (n : Nat) : State :=
  ({ u with twins := u.twins.filter fun w => !((u.lane act).tEngines k).testBit w.2.1.val } : State).each u.ups
    (fun l x => x.upd l fun L => L.taskUpd k fun T => { T with gridK := n + 1 })

theorem tBusy_of_waiting {L : Lane} (h : L.tState k = 1) : L.tBusy k = false := by simp [Lane.tBusy, h]
theorem tBusy_of_running {L : Lane} (h : L.tState k = 2) : L.tBusy k = true := by simp [Lane.tBusy, h]

section GridInstant

variable (hrun : s.running = true) (hdef : (s.lane s.act).taskDef k = true) (hu : u = s.atGrid k)
  (hv : v = u.gridTaken s.act k (s.lane s.act).tasks[k].gridK)
include hrun hdef hu hv

/-- The grid instant of a task that is neither held nor stopped: a cycle or a window in progress makes it slip, else its cycle
starts. -/
theorem exec_cycleStart_free (hheld : (u.lane s.act).tState k ≠ 4) (hstopped : (u.lane s.act).tState k ≠ 5)
    (f : Option (LaneId × Fin 16)) :
    exec (.cycleStart k f) s = .next (@State.settle regIO
      (if (u.lane s.act).tBusy k || (u.lane s.act).tasks[k].windowEnd.isSome then v.each v.ups fun l x => x.cycleSlip l k
        else v.each v.ups fun l x => x.cycleBegin l k (s.lane s.act).tasks[k].gridK f)) := by
  show @Out.settle regIO (rowCycleStart k f s) = _
  unfold State.atGrid at hu
  unfold rowCycleStart
  dsimp only
  rw [if_neg (by simp [hrun, hdef]), ← hu, if_neg hstopped, if_neg hheld, ← apply_ite Host.Outcome.next, hv]
  rfl

theorem exec_cycleStart_waiting (hwaits : (u.lane s.act).tState k = 1) (hwindow : (u.lane s.act).tasks[k].windowEnd = none)
    (f : Option (LaneId × Fin 16)) :
    exec (.cycleStart k f) s =
      .next (@State.settle regIO (v.each v.ups fun l x => x.cycleBegin l k (s.lane s.act).tasks[k].gridK f)) := by
  rw [exec_cycleStart_free hrun hdef hu hv (by simp [hwaits]) (by simp [hwaits]), tBusy_of_waiting hwaits, hwindow]
  rfl

theorem exec_cycleStart_slips (hruns : (u.lane s.act).tState k = 2) (f : Option (LaneId × Fin 16)) :
    exec (.cycleStart k f) s = .next (@State.settle regIO (v.each v.ups fun l x => x.cycleSlip l k)) := by
  rw [exec_cycleStart_free hrun hdef hu hv (by simp [hruns]) (by simp [hruns]), if_pos (by simp [tBusy_of_running hruns])]

end GridInstant

/-! The return of every engine (R249 steps 3 and 4). -/

/-- The lane after a program's stores: those of the task's engines that take effect (log 9). -/
def Lane.stored (L : Lane) (k : Fin 8) (ws : List MemWrite) : Lane :=
  (ws.filter fun w => (L.tEngines k).testBit w.engine.val && L.storeOk k w.addr.toNat w.data.length).foldl
    (fun L w => L.wrMem w.engine.val w.addr.toNat w.data) L

/-- The lane whose task has finished its cycle at `ns` after `us` of execution, with its pending image. -/
def Lane.cycleDone (L : Lane) (k : Fin 8) (ns us : Nat) (image : List OutVal) : Lane :=
  let M := (((L.engDropAll k).taskUpd k fun T => { T with finished := some ns, running := 0, image := image }).setTState k 3).putN
    (aT k 0x1C) us
  if M.getN (aT k 0x20) < us then M.putN (aT k 0x20) us else M

theorem exec_cycleFinish {ws : List MemWrite} (hup : s.isUp l = true) (hfinish : (s.lane l).canFinish k = true)
    (hu : u = (s.upd l (·.stored k ws)).forceOthers l k) :
    exec (.cycleFinish l k ws) s = .next (((u.canTaken l k).upd l fun L =>
      L.cycleDone k u.ns ((u.ns - (s.lane l).tasks[k].t0) / 1000) (u.buildImage l k)).ctxCheck) := by
  subst hu
  exact if_neg (by simp [hup, hfinish])

/-! Publication (R250, R253, R305). -/

/-- The tasks of the active lane with a finished cycle, each with the instant at which it goes out. -/
def State.pubDues (s : State) : List (Fin 8 × Nat) :=
  (List.finRange 8).filterMap fun t => ((s.lane s.act).pubDue t).map fun d => (t, d)

/-- The DQ image of the active lane. -/
def State.dqActive (u : State) (act : LaneId) (ts : List (Fin 8)) : Word := u.dqImage (ts.map fun t => (t, act))
/-- The same with the standby's values where its cycle of a task is compared. -/
def State.dqStandby (u : State) (act : LaneId) (ts : List (Fin 8)) : Word :=
  u.dqImage (ts.map fun t => (t, if (if u.compares then ts.filter u.stbyDone else []).contains t then other act else act))

/-- Where nothing is compared, or what is compared is alike, there is one image. -/
theorem dqStandby_alike {act : LaneId} {ts : List (Fin 8)}
    (h : u.compares = false ∨ u.dqActive act ts =
      u.dqImage (ts.map fun t => (t, if (ts.filter u.stbyDone).contains t then other act else act))) :
    u.dqStandby act ts = u.dqActive act ts := by
  unfold State.dqStandby
  cases hcomp : u.compares with
  | false => rfl
  | true =>
    rcases h with hnone | halike
    · simp [hcomp] at hnone
    · exact halike.symm

/-- The tasks that go out with the publish instant that `u` has reached, in the order of their mirror windows (R302). -/
def State.pubOut (s u : State) : List (Fin 8) :=
  ((s.pubDues.filter fun p => nsU p.2 ≤ u.tb.count).foldl (fun r p => (s.lane s.act).pubOrder p r) []).map (·.1)

/-- The tasks go out with two DQ images: they are compared, the one that counts is applied, and a difference is judged (R305,
R312, R314). -/
def State.publishImages (u : State) (ts : List (Fin 8)) (active standby : Word) : State :=
  let diff := (List.range 32).filter fun j => bitOf active j != bitOf standby j
  let outA := diff.any fun j => u.dqOutside j (bitOf active j)
  let outS := diff.any fun j => u.dqOutside j (bitOf standby j)
  let image := if !diff.isEmpty && u.tableRow false true outA outS == 4 then standby else active
  let t := (ts.foldl (fun s t => s.publishTask t) (if u.red.failsafe then u else u.dqApply image)).ctxCheck
  if !diff.isEmpty then t.redTrigger 1 (diff.headD 0) true outA outS else t

theorem exec_publishInstant_due {d : Nat} {ts : List (Fin 8)} (hd : (s.pubDues.map (·.2)).min? = some d)
    (hu : u = s.advTo (nsU d)) (hts : ts = s.pubOut u) :
    exec .publishInstant s =
      .next (@State.settle regIO (u.publishImages ts (u.dqActive s.act ts) (u.dqStandby s.act ts))) := by
  subst hts hu
  unfold State.pubDues at hd
  show @Out.settle regIO (rowPublishInstant s) = _
  simp only [rowPublishInstant, hd]
  rfl

/-- One image alone: no bit differs, and it goes out as it is. -/
theorem publishImages_alike (hfs : u.red.failsafe = false) (ts : List (Fin 8)) (w : Word) :
    u.publishImages ts w w = (ts.foldl (fun s t => s.publishTask t) (u.dqApply w)).ctxCheck := by
  have hdiff : ((List.range 32).filter fun j => bitOf w j != bitOf w j) = [] := by simp
  unfold State.publishImages
  rw [hdiff, hfs]
  rfl

/-! The mirror window's end and the overrun instant (R251, R252, R302). -/

theorem exec_mirrorWindowEnd_dual {w : Nat} (hwindow : (s.lane s.act).tasks[k].windowEnd = some w) (hu : u = s.advTo w)
    (hdual : u.dualRun = true)
    (hv : v = u.upd (other s.act) fun L => (L.mirrorPut k ((u.lane s.act).slotGet k)).slotPut k ((u.lane s.act).slotGet k)) :
    exec (.mirrorWindowEnd k) s = .next (v.each v.ups fun l x => x.upd l fun L => L.taskUpd k fun T =>
      { T with windowEnd := none, slotOld := false }) := by
  subst hu hv
  show execMirrorWindowEnd k s = _
  unfold execMirrorWindowEnd
  dsimp only
  rw [hwindow]
  dsimp only
  rw [if_pos hdual]

/-- A task's cycle is stopped in a lane that runs: no engine, DMA channel or image of it goes on, and where its action is STOP_TASK (1)
the task is STOPPED. -/
def State.cycleStopped (x : State) (l : LaneId) (k : Fin 8) (action : Nat) : State :=
  let y := (@State.dmaAbortTask regIO (x.upd l fun L => ((L.engDropAll k).incFld (aT k 0x10) 16 16).setFlag (aT k 0) 10 true) l k).upd l
    fun L => (L.mirrorPut k (L.slotGet k)).taskUpd k fun T =>
      { T with finished := none, faulted := false, image := [], running := 0, axisWr := [] }
  ((if action = 1 then y.upd l (·.setTState k 5) else y.cycleOver l k).chestStopped l k).raise l 0x22 k

theorem exec_overrunInstant_running {action : Nat} (hrun : s.running = true) (hruns : (s.lane s.act).tState k = 2)
    (hsusp : (s.lane s.act).tasks[k].suspended = false) (haction : action = (s.lane s.act).fld (aT k 4) 24 2)
    (hu : u = s.advTo (nsU (s.lane s.act).tasks[k].ovrAt))
    (hv : v = ((u.each u.ups fun l x => x.cycleStopped l k action).grpDiscardTask k).ctxCheck) :
    exec (.overrunInstant k) s =
      .next (if action = 1 then v.raiseUp 0x27 k else if action = 2 then v.askSafe false else v) := by
  show @rowOverrunInstant regIO k s = _
  unfold rowOverrunInstant
  dsimp only
  rw [if_neg (by rw [hrun, hruns, hsusp]; decide), ← hu, ← haction, apply_ite Host.Outcome.next, apply_ite Host.Outcome.next, hv]
  rfl

/-- Settles O31: the grid instant by what the task does there, the publication by its one image, the other instants by their guards. -/
theorem cycleCommands : Obligations.CycleCommands :=
  ⟨fun _ _ _ _ f hrun hdef hu hwaits hwindow hv => exec_cycleStart_waiting hrun hdef hu hv hwaits hwindow f,
    fun _ _ _ _ f hrun hdef hu hruns hv => exec_cycleStart_slips hrun hdef hu hv hruns f,
    fun _ _ _ _ _ hup hfinish hu => exec_cycleFinish hup hfinish hu,
    fun _ _ _ _ _ hdues hd hu hts hfs halike => by
      subst hdues
      rw [exec_publishInstant_due hd hu hts, dqStandby_alike halike, publishImages_alike hfs]
      rfl,
    fun _ _ _ _ hwindow hu hdual => ⟨_, rfl, exec_mirrorWindowEnd_dual hwindow hu hdual rfl⟩,
    fun _ _ _ _ _ hrun hruns hsusp haction hu hv => exec_overrunInstant_running hrun hruns hsusp haction hu hv⟩

end Sys2Proof.Machine
end

section
/-! Cyclic programs (chapter 09): the runtime's calls, an engine's traps, and the hardware timers. -/
namespace Sys2Proof.Machine

variable {s u : State} {l : LaneId} {e : Fin 16} {k : Fin 8}

/-! The calls (R254-R260). -/

/-- A hardware timer started by a task (R257): RUNNING, with its task, its event flag and its expiry. -/
def Lane.hwtSet (L : Lane) (n : Nat) (k : Fin 8) (evt : Bool) (expiry : Nat) : Lane :=
  ((L.putN (aHwt n) (k.val * 2 ^ 16 + bit evt * 2 ^ 8 + 1)).putN (aHwt n + 4) expiry).putN (aHwt n + 8) (expiry / 2 ^ 32)

section Call

variable (htask : s.rtTask l e = some k)
include htask

/-- A call of an engine that runs a task: the runtime's function, once the ECALL's registers stand. -/
theorem rtCall_running {code : Word} {args : List Word} (hu : u = s.rtEcall l e k code args) (f : Fin 8 → State → State) :
    s.rtCall l e code args f = f k u := by
  subst hu
  unfold State.rtCall
  rw [htask]

theorem exec_rtInfo_running (hu : u = s.rtEcall l e k 0 []) :
    exec (.rtInfo l e) s = .next (u.rtRet l e (BitVec.ofNat 32 (u.lane l).tasks[k].t0)
      (BitVec.ofNat 32 ((u.lane l).tasks[k].t0 / 2 ^ 32)) (BitVec.ofNat 32 ((u.lane l).tPeriod k * 250000))) :=
  congrArg Host.Outcome.next (rtCall_running htask hu _)

theorem exec_rtNow_running (hu : u = s.rtEcall l e k 1 []) : exec (.rtNow l e) s = .next (u.rtRet1 l e u.tbW) :=
  congrArg Host.Outcome.next (rtCall_running htask hu _)

theorem exec_rtHwtStart_running {n : Word} {d : DWord} {evt : Bool}
    (hu : u = s.rtEcall l e k 0x12 [n, d.truncate 32, (d >>> 32).truncate 32, BitVec.ofNat 32 (bit evt)]) :
    exec (.rtHwtStart l e n d evt) s = .next (if 255 < n.toNat ∨ d = 0 ∨ 2 ^ 48 < d.toNat then u.rtRet1 l e 0xFFFFFFFF
      else (u.upd l (·.hwtSet n.toNat k evt ((u.lane l).tasks[k].t0 + d.toNat))).rtRet1 l e 0) := by
  refine congrArg Host.Outcome.next ((rtCall_running htask hu _).trans ?_)
  simp only [Bool.or_eq_true, decide_eq_true_eq, or_assoc]
  rfl

theorem exec_rtHwtStop_running {n : Word} (hn : n.toNat ≤ 255) (hu : u = s.rtEcall l e k 0x13 [n]) :
    exec (.rtHwtStop l e n) s = .next ((u.upd l (·.setFld (aHwt n.toNat) 0 2 0)).rtRet1 l e 0) := by
  refine congrArg Host.Outcome.next ((rtCall_running htask hu _).trans ?_)
  dsimp only
  rw [if_neg (by omega)]

theorem exec_rtHwtQuery_running {n : Word} (hn : n.toNat ≤ 255) (hu : u = s.rtEcall l e k 0x14 [n]) :
    exec (.rtHwtQuery l e n) s = .next (u.rtRet l e
      (BitVec.ofNat 32 (if (u.lane l).fld (aHwt n.toNat) 0 2 = 0 then 0
        else if (u.lane l).hwtE n.toNat ≤ (u.lane l).tasks[k].t0 then 2 else 1))
      (BitVec.ofNat 32 ((u.lane l).hwtE n.toNat)) (BitVec.ofNat 32 ((u.lane l).hwtE n.toNat / 2 ^ 32))) := by
  have hnot : ¬ 255 < n.toNat := by omega
  refine congrArg Host.Outcome.next ((rtCall_running htask hu _).trans ?_)
  simp only [hnot, decide_false, Bool.false_or, decide_eq_true_eq, if_false]

end Call

/-! Calls that name a symbol: in the task's MAP with the type, or a trap (R254). -/

/-- The scan of a timer's object `o` in the cycle that began at `t0` (R256): the new (ET, Q). -/
def timerScan (y : Sym) (o : Bytes) (i : Bool) (t0 : Nat) : Nat × Bool :=
  timerRule y.typ (u64At o 0) (u64At o 8) (u8At o 24 != 0) (u8At o 25 != 0) i (if u64At o 16 = 0 then 0 else t0 - u64At o 16)

section SymCall

variable {x : Word} {y : Sym} (htask : s.rtTask l e = some k)
include htask

theorem exec_rtForced_symbol (hu : u = s.rtEcall l e k 0x20 [x]) (hsym : (u.lane l).sym? k x.toNat = some y) :
    exec (.rtForced l e x) s = .next (u.rtRet1 l e (BitVec.ofNat 32 (bit (u.force l 0 y.id).isSome))) := by
  refine congrArg Host.Outcome.next ((rtCall_running htask hu _).trans ?_)
  rw [hsym]

theorem exec_rtForced_unknown (hu : u = s.rtEcall l e k 0x20 [x]) (hsym : (u.lane l).sym? k x.toNat = none) :
    exec (.rtForced l e x) s = .next (u.rtTrap l e) := by
  refine congrArg Host.Outcome.next ((rtCall_running htask hu _).trans ?_)
  rw [hsym]

theorem exec_rtTmr_timer {i : Bool} {o : Bytes} {r : Nat × Bool} (hu : u = s.rtEcall l e k 0x10 [x, BitVec.ofNat 32 (bit i)])
    (hsym : (u.lane l).sym? k x.toNat = some y) (hlo : 0x10 ≤ y.typ) (hhi : y.typ ≤ 0x12) (ho : o = u.objRead l e y 32)
    (hr : r = timerScan y o i (u.lane l).tasks[k].t0) :
    exec (.rtTmr l e x i) s = .next ((u.objWrite l e y (leBytes 8 (u64At o 0) ++ leBytes 8 r.1 ++
      leBytes 8 (u.lane l).tasks[k].t0 ++ leBytes 1 (bit i) ++ leBytes 1 (bit r.2) ++ o.drop 26)).rtRet1 l e
        (BitVec.ofNat 32 (bit r.2))) := by
  subst ho hr
  refine congrArg Host.Outcome.next ((rtCall_running htask hu _).trans ?_)
  dsimp only
  rw [hsym]
  exact if_neg (by simp only [Bool.or_eq_true, decide_eq_true_eq]; omega)

theorem exec_rtEdge_object {i : Bool} {o : Bytes} (hu : u = s.rtEcall l e k 0x11 [x, BitVec.ofNat 32 (bit i)])
    (hsym : (u.lane l).sym? k x.toNat = some y) (htyp : y.typ = 0x13) (ho : o = u.objRead l e y 2) :
    exec (.rtEdge l e x i) s = .next ((u.objWrite l e y [BitVec.ofNat 8 (bit i), BitVec.ofNat 8 (u8At o 1 / 2 * 2)]).rtRet1 l e
      (BitVec.ofNat 32 (if (u8At o 1).testBit 0 then 0
        else bit (i && !(u8At o 0 != 0)) + 2 * bit (!i && (u8At o 0 != 0))))) := by
  subst ho
  refine congrArg Host.Outcome.next ((rtCall_running htask hu _).trans ?_)
  dsimp only
  rw [hsym]
  exact if_neg (by simp [htyp])

end SymCall

/-! Traps and expiries (R238, R257). -/

/-- The lane of a task whose engine has trapped (R238): the trap's registers, the task's cycle FAULTED, the engine free of it. -/
def Lane.cycleFaulted (L : Lane) (e : Fin 16) (k : Fin 8) (cause epc tval : Word) : Lane :=
  let L1 := ((L.put (aEng e 4) cause).put (aEng e 8) epc).put (aEng e 0xC) tval
  let L2 := (L1.setFlag (aT k 0) 11 true).setFld (aT k 0) 16 4 e.val
  (L2.engDrop e k).taskUpd k fun T => { T with faulted := true, running := T.running &&& ~~~ BitVec.ofNat 16 (2 ^ e.val) }

theorem trap_running {cause epc tval : Word} (hcur : (s.lane l).engines[e].cur = some k) :
    s.trap l e cause epc tval =
      (((s.engRan l e).engTrapCsr l e cause epc tval).upd l (·.cycleFaulted e k cause epc tval)).raise l 0x24 k := by
  unfold State.trap
  rw [hcur]
  rfl

/-- A trap whose cause is no access fault reports no memory error. -/
theorem exec_engineTrap_noAccess {cause : Word} (epc tval : Word) (h1 : cause ≠ 1) (h5 : cause ≠ 5) (h7 : cause ≠ 7) :
    exec (.engineTrap l e cause epc tval) s = .next (s.trap l e cause epc tval).ctxCheck := by
  have hcause : (cause == 1 || cause == 5 || cause == 7) = false := by
    rw [beq_false_of_ne h1, beq_false_of_ne h5, beq_false_of_ne h7]
    rfl
  show execEngineTrap l e cause epc tval s = _
  unfold execEngineTrap
  rw [hcause]
  rfl

theorem exec_hwtExpiry_event {n : Fin 256} (hruns : (s.lane l).fld (aHwt n) 0 2 = 1) (hevt : (s.lane l).flag (aHwt n) 8 = true) :
    exec (.hwtExpiry l n) s =
      .next (((s.advTo (nsU ((s.lane l).hwtE n))).upd l (·.setFld (aHwt n) 0 2 2)).raise l 0x25 n) := by
  refine (if_neg (by simp [hruns])).trans ?_
  rw [if_pos hevt]

/-- Settles O32: each call by its function on the state of the ECALL, the trap and the expiry by their guards. -/
theorem runtimeCalls : Obligations.RuntimeCalls := by
  refine ⟨fun s l e k htask => ⟨fun _ hu => exec_rtInfo_running htask hu, exec_rtNow_running htask rfl,
      fun u n d v hu => ⟨fun hn hd hmax => ?_, fun hbad => ?_⟩,
      fun _ hn => exec_rtHwtStop_running htask hn rfl,
      fun _ _ hu hn => exec_rtHwtQuery_running htask hn hu,
      fun _ _ _ hu hsym => exec_rtForced_symbol htask hu hsym,
      fun _ _ _ _ _ _ hu hsym hlo hhi ho hr => exec_rtTmr_timer htask hu hsym hlo hhi ho hr,
      fun _ _ _ _ _ hu hsym htyp ho => exec_rtEdge_object htask hu hsym htyp ho,
      fun _ _ hu hsym => exec_rtForced_unknown htask hu hsym⟩,
    fun _ _ _ _ cause epc tval hcur h1 h5 h7 => ?_,
    fun _ _ _ hruns hevt => exec_hwtExpiry_event hruns hevt⟩
  · rw [exec_rtHwtStart_running htask hu, if_neg (not_or.2 ⟨Nat.not_lt.2 hn, not_or.2 ⟨hd, Nat.not_lt.2 hmax⟩⟩)]
    rfl
  · rw [exec_rtHwtStart_running htask hu, if_pos hbad]
  · rw [exec_engineTrap_noAccess epc tval h1 h5 h7, trap_running hcur]
    rfl

end Sys2Proof.Machine
end

section
/-! Cyclic programs (chapter 09): the commands of a task, and a debugger's halt and resume of an engine. -/
namespace Sys2Proof.Machine

variable {s u : State} {l : LaneId} {e : Fin 16} {k : Fin 8} {src : Src}

/-! The commands of a task (R252, R261). -/

/-- With its key, for a task the image defines and in a state that takes it, a command does what it is for and completes. -/
theorem taskCmd_taken {ok : Bool} (hdef : (u.lane l).taskDef k = true) (hok : ok = true) (f : State → State) :
    u.taskCmd l 0x5443 k ok f = (f u).ok := by
  unfold State.taskCmd
  rw [if_neg (by decide), if_neg (by simp [hdef, hok])]

theorem offLanes_running (h : s.offLanes u) : u.running = s.running := by
  unfold State.running
  rw [offLanes_mode h]

section TaskCommand

variable (hne : s.lanesOf src ≠ [])
include hne

theorem exec_taskRestart_stopped (hrun : s.running = true)
    (htask : ∀ l ∈ s.lanesOf src, (s.lane l).taskDef k = true ∧ (s.lane l).tState k = 5) :
    ∃ t, exec (.taskRestart src 0x5443 k) s = .next t ∧ t.reply = .ok 0 ∧
      s.inLanes src (fun _ L => L.taskUpd k fun T => { T with restartAt := some (s.tb.count + msU 1) }) t := by
  refine ⟨_, rfl, perLane_upd hne fun l hl u hu hlane => ?_⟩
  obtain ⟨hdef, hstopped⟩ := htask l hl
  rw [← hlane] at hdef hstopped
  rw [State.taskRestart, taskCmd_taken hdef (by simp [offLanes_running hu, hrun, hstopped]), offLanes_tb hu]

theorem exec_taskStep_held (htask : ∀ l ∈ s.lanesOf src, (s.lane l).taskDef k = true ∧ (s.lane l).tState k = 4) :
    ∃ t, exec (.taskStep src 0x5443 k) s = .next t ∧ t.reply = .ok 0 ∧
      s.inLanes src (fun _ L => L.taskUpd k fun T => { T with stepReq := true }) t := by
  refine ⟨_, rfl, perLane_upd hne fun l hl u _ hlane => ?_⟩
  obtain ⟨hdef, hheld⟩ := htask l hl
  rw [← hlane] at hdef hheld
  exact taskCmd_taken hdef (by simp [hheld]) _

theorem exec_taskClrCnt_defined (htask : ∀ l ∈ s.lanesOf src, (s.lane l).taskDef k = true) :
    ∃ t, exec (.taskClrCnt src 0x5443 k) s = .next t ∧ t.reply = .ok 0 ∧
      s.inLanes src (fun _ L => ((L.put (aT k 0xC) 0).put (aT k 0x10) 0).put (aT k 0x20) 0) t :=
  ⟨_, rfl, perLane_upd hne fun l hl _ _ hlane => taskCmd_taken (hlane ▸ htask l hl) rfl _⟩

end TaskCommand

/-! A debugger's halt and resume (R262; log 61). -/

/-- The lane whose engine a debugger has halted: the tasks whose set contains it are suspended in DEBUG. -/
def Lane.debugHalted (L : Lane) (e : Fin 16) : Lane :=
  (List.finRange 8).foldl (fun (L : Lane) (t : Fin 8) =>
    if (L.tEngines t).testBit e.val && L.taskDef t && !L.tasks[t].suspended then
      (L.taskUpd t fun T => { T with suspended := true, debugFrom := L.tState t }).setTState t 6 else L)
    (L.engUpd e fun g => { g with halted := true, dpc := g.regs.pc })

theorem exec_debugHalt_permitted (hen : (s.lane l).flag 0x40020008 0 = true) (hrun : s.running = true)
    (hdual : s.dualRun = false) (hup : s.isUp l = true) (hhalted : (s.lane l).engines[e].halted = false) :
    exec (.debugHalt l e) s = .next (((s.engRan l e).upd l (·.debugHalted e)).raise l 0x31 e) :=
  if_neg (by rw [hen, hrun, hdual, hup, hhalted]; decide)

/-- The lane whose halted engine goes on with what the debugger left in its registers: an idle engine takes its next task, and the
suspended tasks with no halted engine go on, each in the state `back` gives it. -/
def Lane.debugResumed (L : Lane) (e : Fin 16) (back : Fin 8 → Task → Nat) (r : EngRegs) (d : Word)
    (triggers : Vector (Word × Word) 4) : Lane :=
  let L1 := L.engUpd e fun g => { g with halted := false, regs := r, dpc := d, triggers := triggers }
  let L2 := if L1.engines[e].cur.isNone then L1.engNext e else L1
  (List.finRange 8).foldl (fun (L : Lane) (t : Fin 8) =>
    if L.tasks[t].suspended && !((bitsOf 16 (L.tEngines t)).any fun e => (L.engines.getD e Engine.init).halted) then
      (L.setTState t (back t L.tasks[t])).taskUpd t fun T => { T with suspended := false }
    else L) L2

/-- A word a debugger leaves in a halted engine: free (log 4, log 61). -/
def State.debugWord (s : State) (e : Fin 16) (i : Nat) : Word := (Config.engValue s.free (e.val * 128 + i)).truncate 32

/-- The triggers a debugger leaves. -/
def State.debugTriggers (s : State) (e : Fin 16) : Vector (Word × Word) 4 :=
  Vector.ofFn fun (i : Fin 4) => (s.debugWord e (112 + 2 * i.val), s.debugWord e (113 + 2 * i.val))

theorem exec_debugResume_halted (hen : (s.lane l).flag 0x40020008 0 = true) (hhalted : (s.lane l).engines[e].halted = true) :
    exec (.debugResume l e) s = .next (({ s with free := s.free + 1 } : State).upd l fun L =>
      L.debugResumed e (fun t T => s.debugBack t T) (EngRegs.any s.free e) (s.debugWord e 68) (s.debugTriggers e)).ctxCheck :=
  if_neg (by rw [hen, hhalted]; decide)

/-- Settles O34: the three commands by the one form they share, in every lane; halt and resume by their guards. -/
theorem taskAndDebugCommands : Obligations.TaskAndDebugCommands :=
  ⟨fun _ _ _ hne hrun htask => exec_taskRestart_stopped hne hrun htask,
    fun _ _ _ hne htask => exec_taskStep_held hne htask,
    fun _ _ _ hne htask => exec_taskClrCnt_defined hne htask,
    fun _ _ _ hen hrun hdual hup hhalted => exec_debugHalt_permitted hen hrun hdual hup hhalted,
    fun s _ e hen hhalted =>
      ⟨EngRegs.any s.free e, s.debugWord e 68, s.debugTriggers e, exec_debugResume_halted hen hhalted⟩⟩

end Sys2Proof.Machine
end

section
/-! Memory errors and event queues (chapters 11, 22): what a scrub read meets, and where a record stands in a queue. -/
namespace Sys2Proof.Machine

variable {s : State} {l : LaneId} {L : Lane} {r : EvtRec} {q : List EvtRec}

/-! Correctable errors: each is counted, and reported at most once per second (R295). -/

theorem eccCe_reported (h : (s.lane l).eccCeAt = none) :
    s.eccCe l = ((s.upd l (·.incFld 0x40050010 16 16)).upd l fun L => { L with eccCeAt := some s.tb.run }).raise l 0x38 := by
  unfold State.eccCe
  rw [h]
  rfl

theorem eccCe_within_second {n : Nat} (h : (s.lane l).eccCeAt = some n) (hn : s.tb.run < n + sU 1) :
    s.eccCe l = s.upd l (·.incFld 0x40050010 16 16) := by
  have hdue : decide (n + sU 1 ≤ s.tb.run) = false := decide_eq_false (Nat.not_le.2 hn)
  unfold State.eccCe
  rw [h]
  dsimp only
  rw [hdue]
  rfl

/-- Settles O30: the read passes its guard and acts by what it meets; a correctable error by the time of the last report. -/
theorem scrubbedWords : Obligations.ScrubbedWords := by
  refine ⟨fun s l e a hup hwalked => ?_, fun _ _ h => eccCe_reported h, fun _ _ _ h hn => eccCe_within_second h hn⟩
  have hreads : ¬ (!s.isUp l || !scrubbed (regionOf a.toNat)) = true := by simp [hup, hwalked]
  exact ⟨if_neg hreads, if_neg hreads, if_neg hreads⟩

/-! Where a record enters a queue (R297 promise 3, R497). -/

/-- The queue's order: a record of higher PRIO stands before one of lower PRIO. -/
def byPrio (q : List EvtRec) : Prop := q.Pairwise fun x y => y.prio ≤ x.prio

/-- The source of `r` has the one PRIO of `r` in the whole queue. -/
def onePrio (r : EvtRec) (q : List EvtRec) : Prop := ∀ x ∈ q, x.id = r.id → x.prio = r.prio

theorem byPrio_le_head {h : EvtRec} (hq : byPrio (h :: q)) : ∀ x ∈ h :: q, x.prio ≤ h.prio :=
  List.forall_mem_cons.2 ⟨Nat.le_refl _, (List.pairwise_cons.1 hq).1⟩

theorem evtInsert_filter_id (r : EvtRec) (q : List EvtRec) :
    (evtInsert r q).filter (fun x => x.id == r.id) = q.filter (fun x => x.id == r.id) ++ [r] := by
  rw [evtInsert_filter r _ q fun _ _ _ _ _ hb _ x hx => beq_false_of_ne (hb.2 x hx), if_pos (beq_self_eq_true r.id)]

theorem evtInsert_filter_other_id (r : EvtRec) (q : List EvtRec) :
    (evtInsert r q).filter (fun x => x.id != r.id) = q.filter (fun x => x.id != r.id) := by
  rw [evtInsert_filter r _ q fun _ _ _ _ _ _ hr => absurd hr (by simp), if_neg (by simp), List.append_nil]

/-- In an ordered queue nothing of lower PRIO than `r` is followed by a record of `r`'s source, so PRIO alone decides the place. -/
theorem evtInsert_cons_byPrio {h : EvtRec} (hq : byPrio (h :: q)) (hr : onePrio r (h :: q)) :
    evtInsert r (h :: q) = if h.prio < r.prio then r :: h :: q else h :: evtInsert r q := by
  have hall (hlt : h.prio < r.prio) : (h :: q).all (fun x => x.id != r.id) = true := by
    refine List.all_eq_true.2 fun x hx => bne_iff_ne.2 fun hid => ?_
    have hle := byPrio_le_head hq x hx
    have hone := hr x hx hid
    omega
  rw [evtInsert]
  by_cases hlt : h.prio < r.prio <;> simp [hlt, hall]

theorem evtInsert_byPrio (hq : byPrio q) (hr : onePrio r q) : byPrio (evtInsert r q) := by
  induction q with
  | nil => exact List.pairwise_singleton _ r
  | cons h t ih =>
    have hhead := byPrio_le_head hq
    rw [evtInsert_cons_byPrio hq hr]
    split
    · rename_i hlt
      exact List.pairwise_cons.2 ⟨fun x hx => Nat.le_trans (hhead x hx) (Nat.le_of_lt hlt), hq⟩
    · rename_i hge
      refine List.pairwise_cons.2 ⟨fun x hx => ?_, ih (List.Pairwise.of_cons hq) fun x hx => hr x (List.mem_cons_of_mem h hx)⟩
      rcases mem_evtInsert hx with rfl | hx
      · exact Nat.not_lt.1 hge
      · exact hhead x (List.mem_cons_of_mem h hx)

/-- In an ordered queue the record is the last of its PRIO; the records of another PRIO stand as they did. -/
theorem evtInsert_filter_prio (hq : byPrio q) (r : EvtRec) (p : Nat) :
    (evtInsert r q).filter (fun x => x.prio == p) = q.filter (fun x => x.prio == p) ++ (if r.prio = p then [r] else []) := by
  rw [evtInsert_filter r _ q ?_]
  · simp only [beq_iff_eq]
  · rintro a (_ | ⟨h, b⟩) rfl h' hh' ⟨hlt, _⟩ hp x hx
    · cases hx
    · cases hh'
      obtain ⟨_, hb, _⟩ := List.pairwise_append.1 hq
      have hle := byPrio_le_head hb x hx
      refine beq_false_of_ne fun hxp => ?_
      have hrp : r.prio = p := beq_iff_eq.1 hp
      omega

/-! A queue with room takes a record, a full one counts it (R483, R497). -/

theorem evtEngine_room {e : Fin 16} (h : L.evt.q[e].length < 64) :
    L.evtEngine r e = ({ L with evt := { L.evt with q := L.evt.q.set e (evtInsert r L.evt.q[e]) } }, []) := if_pos h

/-- While the queue stays full, its overflow has been reported. -/
theorem evtEngine_full_reported {e : Fin 16} (h : 64 ≤ L.evt.q[e].length) (hovf : L.evt.ovf.getLsbD e = true) :
    L.evtEngine r e = (L.incFld (aEvtQ e + 0x10) 16 16, []) := (if_neg (Nat.not_lt.2 h)).trans (if_pos hovf)

theorem evtEngine_full_first {e : Fin 16} (h : 64 ≤ L.evt.q[e].length) (hovf : L.evt.ovf.getLsbD e = false) :
    L.evtEngine r e = ({ L.incFld (aEvtQ e + 0x10) 16 16 with
      evt := { L.evt with ovf := L.evt.ovf ||| BitVec.ofNat 16 (2 ^ e.val) } }, [e.val]) :=
  (if_neg (Nat.not_lt.2 h)).trans (if_neg (Bool.eq_false_iff.1 hovf))

theorem getLsbD_or_twoPow (w : BitVec 16) (e : Fin 16) : (w ||| BitVec.ofNat 16 (2 ^ e.val)).getLsbD e = true := by
  rw [BitVec.getLsbD_or, BitVec.getLsbD_ofNat, decide_eq_true e.isLt, Nat.testBit_two_pow_self, Bool.and_self, Bool.or_true]

theorem evtHc_room (h : L.evt.hcq.length < 1024) :
    L.evtHc r = ({ L with evt := { L.evt with hcq := evtInsert r L.evt.hcq } }, false) := if_pos h

theorem evtHc_full (h : 1024 ≤ L.evt.hcq.length) :
    L.evtHc r = ({ L with hc := { L.hc with dropped := satInc 32 L.hc.dropped } }, true) := if_neg (Nat.not_lt.2 h)

/-- Settles O59: what the insertion does to the order of a source and of a PRIO, and the room each queue has. -/
theorem eventQueueOrder : Obligations.EventQueueOrder := by
  refine ⟨fun r q => ⟨evtInsert_filter_id r q, evtInsert_filter_other_id r q⟩,
    fun r _ hq hr => ⟨evtInsert_byPrio hq hr, evtInsert_filter_prio hq r⟩,
    fun L r e => ⟨evtEngine_room, evtEngine_full_reported, fun hfull hovf => ?_⟩,
    fun _ _ => ⟨evtHc_room, evtHc_full⟩⟩
  rw [evtEngine_full_first hfull hovf]
  exact ⟨rfl, getLsbD_or_twoPow L.evt.ovf e⟩

end Sys2Proof.Machine
end

section
/-! Lane redundancy (chapter 12): the decision table and its outcomes, heartbeats and their loss, hitless takeovers, resets of a
condemned lane, and the RED commands. -/
namespace Sys2Proof.Machine

variable {s t u : State} {l : LaneId} {src : Src}

/-! The decision table (R311). -/

/-- The active lane's case against the standby: the standby's health word, or HB_LOSS of it while the active lane's own heartbeat
lives. -/
def State.sickStandby (s : State) (lost : Bool) : Bool :=
  s.sick (other s.act) || (!lost && (s.lane s.act).flag aHealth 13)

/-- The row of a mismatch between two healthy lanes, by what lies outside its envelope: the active lane's value, the standby's. -/
def envelopeRow (eA eS : Bool) : Nat := if eA then (if eS then 5 else 4) else (if eS then 3 else 2)

section TableRow

variable {lost mis eA eS : Bool}

theorem tableRow_dual (hdual : s.tableDual = true) : s.tableRow lost mis eA eS =
    if lost then (if s.sickStandby lost then 10 else 8)
    else if s.sick s.act && s.sickStandby lost then 9
    else if s.sick s.act then 7
    else if s.sickStandby lost then 6
    else if mis then envelopeRow eA eS else 1 := by
  unfold State.tableRow
  dsimp only
  rw [if_pos hdual]
  cases eA <;> cases eS <;> rfl

theorem tableRow_single (hdual : s.tableDual = false) (hrun : s.running = true) :
    s.tableRow lost mis eA eS = if lost then 13 else if s.sick s.act then 12 else 11 := by
  unfold State.tableRow
  dsimp only
  rw [if_neg (by simp [hdual]), if_pos (by simp [State.tableSingle, hrun, hdual])]

theorem tableRow_idle (hdual : s.tableDual = false) (hrun : s.running = false) : s.tableRow lost mis eA eS = 0 := by
  unfold State.tableRow
  dsimp only
  rw [if_neg (by simp [hdual]), if_neg (by simp [State.tableSingle, hrun])]

end TableRow

/-! A trigger and its outcome (R311-R314, R324). -/

section Trigger

variable {item idx row : Nat} {mis eA eS : Bool} (hrow : row = s.tableRow false mis eA eS)
include hrow

theorem redTrigger_none (hnone : row = 0 ∨ row = 1 ∨ row = 11) : s.redTrigger item idx mis eA eS = s := by
  subst hrow
  exact if_pos hnone

theorem redTrigger_row (h0 : row ≠ 0) (h1 : row ≠ 1) (h11 : row ≠ 11) : s.redTrigger item idx mis eA eS =
    (if mis then (s.redRecord item row idx).redMismatch idx else s.redRecord item row idx).redApply row
      (item = 1 ∨ item = 2 ∨ item = 9) := by
  subst hrow
  exact if_neg (by simp [h0, h1, h11])

end Trigger

/-- Settles O43: the rows by the table for two lanes, for one and for none; a trigger by its row; the outcomes row by row. -/
theorem redundancyTable : Obligations.RedundancyTable := by
  refine ⟨fun s lost mis eA eS hA hS heA heS =>
      ⟨fun hdual => ?_, fun hdual hrun => ?_, fun hdual hrun => tableRow_idle hdual hrun⟩,
    fun s item idx row mis eA eS hrow => ⟨redTrigger_none hrow, redTrigger_row hrow⟩,
    fun s b => ⟨rfl, rfl, rfl, rfl, rfl, rfl, rfl, rfl, rfl, rfl⟩⟩
  · have hstandby : hS = s.sickStandby lost := heS
    rw [tableRow_dual hdual, ← heA, ← hstandby]
    refine ⟨fun hlost => ?_, fun hlost hsA hsS => ?_, fun hlost hsA hsS => ?_, fun hlost hsA hsS => ?_,
      fun hlost hsA hsS hmis => ?_, fun hlost hsA hsS hmis => ?_⟩
    · rw [if_pos hlost]
    · simp [hlost, hsA, hsS]
    · simp [hlost, hsA, hsS]
    · simp [hlost, hsA, hsS]
    · simp [hlost, hsA, hsS, hmis]
    · simp [hlost, hsA, hsS, hmis, envelopeRow]
  · rw [tableRow_single hdual hrun, heA]

/-! Heartbeats (R309, R310). -/

theorem exec_heartbeatSend_up (hup : s.isUp l = true) (hu : u = s.advRun ((s.lane l).red.lastSent + usU 1))
    (ht : t = u.upd l fun L => { L with red := { L.red with lastSent := u.tb.run } }) :
    exec (.heartbeatSend l) s = .next { t with red := { t.red with dies := t.red.dies.map (portSeen l u.tb.run) } } := by
  subst hu ht
  exact if_neg (by simp [hup])

/-- A lane that has had its peer's heartbeat at `now`, over the lane link or through the field die. -/
def Lane.hbSeen (L : Lane) (via : Bool) (now : Nat) : Lane :=
  { L with red := if via then { L.red with hbLink := now } else { L.red with hbField := now } }

/-- The peer half of RED_HEALTH takes the word that a heartbeat carries. -/
def Lane.peerHealth (L : Lane) (word : Nat) : Lane := (L.setFld aHealth 8 5 word).tvClear aHealth

/-- The bits of a health word that the lane has not seen before. -/
def newHealth (word was : Nat) : List Nat := (List.range 5).filter fun i => word.testBit i && !was.testBit i

theorem newHealth_same (was : Nat) : newHealth (was % 32) was = [] := by
  refine List.filter_eq_nil_iff.2 fun i hi => ?_
  have hbit : (was % 32).testBit i = was.testBit i :=
    (Nat.testBit_mod_two_pow was 5 i).trans (by simp [List.mem_range.1 hi])
  simp [hbit]

section HeartbeatReceived

variable {via : Bool} {word was : Nat} (hup : s.isUp l = true) (hpeer : s.isUp (other l) = true)
  (hword : word = s.health (other l)) (hwas : was = (s.lane l).fld aHealth 8 6)
include hup hpeer hword hwas

/-- A new bit raises EV_RED_HEALTH; one other than LINK triggers the table, where it works for two lanes. -/
theorem exec_heartbeatReceived_up {v : State}
    (hv : v = s.upd l fun L => (if was % 32 = word then L else L.peerHealth word).hbSeen via s.tb.run) (hu : u = v.raise l 0x14) :
    exec (.heartbeatReceived l via) s = .next (if (newHealth word was).isEmpty then v
      else if u.tableDual && (newHealth word was).any (· != 4) then @State.settle regIO (u.redTrigger 9 0 false false false)
      else u) := by
  subst hu hv
  show @rowHeartbeatReceived regIO l via s = _
  unfold rowHeartbeatReceived
  dsimp only
  rw [if_neg (by simp [hup, hpeer]), ← hword, ← hwas]
  exact (apply_ite Host.Outcome.next _ _ _).symm

theorem exec_heartbeatReceived_same (hsame : word = was % 32) :
    exec (.heartbeatReceived l via) s = .next (s.upd l (·.hbSeen via s.tb.run)) := by
  have hnone : (newHealth word was).isEmpty = true := by rw [hsame, newHealth_same, List.isEmpty_nil]
  rw [exec_heartbeatReceived_up hup hpeer hword hwas rfl rfl, if_pos hnone]
  simp only [if_pos hsame.symm]

theorem exec_heartbeatReceived_new (hdiffer : word ≠ was % 32) (hnew : newHealth word was ≠ [])
    (hu : u = (s.upd l fun L => (L.peerHealth word).hbSeen via s.tb.run).raise l 0x14) :
    exec (.heartbeatReceived l via) s = .next (if u.tableDual && (newHealth word was).any (· != 4) then
      @State.settle regIO (u.redTrigger 9 0 false false false) else u) := by
  rw [exec_heartbeatReceived_up hup hpeer hword hwas rfl rfl, if_neg (by simpa using hnew), hu]
  simp only [if_neg hdiffer.symm]

end HeartbeatReceived

/-! A lost heartbeat, a silent lane link, a late hash (R305, R309-R311; log 91). -/

theorem hbNote_up (hup : s.isUp l = true) : s.hbNote l =
    ((s.advRun (max (s.lane l).red.hbLink (s.lane l).red.hbField + usU 5)).upd l
      fun L => (L.setFlag aHealth 13 true).tvClear aHealth).raise l 0x14 := if_pos hup

section HbLoss

variable (hpeer : s.isUp (other l) = true)
include hpeer

theorem exec_hbLoss : exec (.hbLoss l) s =
    if (s.hbNote l).running then .next (@State.hbTable regIO (s.hbNote l) l)
    else if (s.hbNote l).isUp l then .next (@State.alone regIO ((s.hbNote l).peerOut l) l)
    else .next (s.hbNote l) := if_neg (by simp [hpeer])

theorem exec_hbLoss_running (hrun : (s.hbNote l).running = true) :
    exec (.hbLoss l) s = .next (@State.hbTable regIO (s.hbNote l) l) := by
  rw [exec_hbLoss hpeer, if_pos hrun]

theorem exec_hbLoss_stopped (hrun : (s.hbNote l).running = false) (hup : (s.hbNote l).isUp l = true) :
    exec (.hbLoss l) s = .next (@State.alone regIO ((s.hbNote l).peerOut l) l) := by
  rw [exec_hbLoss hpeer, if_neg (by simp [hrun]), if_pos hup]

end HbLoss

theorem exec_laneLinkFault_dual (hup : s.bothUp = true) (hu : u = (s.setHealth .a 4).setHealth .b 4)
    (hdual : u.tableDual = true) :
    exec .laneLinkFault s = .next (@State.settle regIO (u.redTrigger 8 0 true false true)) := by
  subst hu
  show @rowLaneLinkFault regIO s = _
  unfold rowLaneLinkFault
  dsimp only
  rw [if_neg (by simp [hup]), if_pos hdual]

theorem mstHashLate_awaited {p : Nat} {f : Nat × Nat × Bytes}
    (hf : (s.lane s.act).mst.frames.find? (fun f => f.1 == p) = some f) :
    s.mstHashLate p = ((s.advRun (f.2.1 + usU 50)).upd s.act fun L =>
      { L with mst := { L.mst with frames := L.mst.frames.erase f } }).redTrigger 4 p true false false := by
  unfold State.mstHashLate
  dsimp only
  rw [hf]

/-! The suspect window (R313). -/

theorem exec_suspectWindowExpiry_oldest {d w : Nat} (hd : s.red.suspects.min? = some d)
    (hw : w = suspectWindow (s.lane s.act) (shortestPeriod ((s.lane s.act).dr 3))) (hu : u = s.advRun (d + w)) :
    exec .suspectWindowExpiry s =
      .next { u with red := { u.red with suspects := u.red.suspects.filter fun x => u.tb.run < x + w } } := by
  subst hw hu
  show execSuspectWindowExpiry s = _
  unfold execSuspectWindowExpiry
  rw [hd]

/-! Hitless takeovers and the reset of a condemned lane (R315, R318; log 105). -/

/-- What becomes of the lane `old` that has handed the role over. -/
def State.afterTakeover (u : State) (old : LaneId) : TakeReason → State
  | .switch => u.raiseUp 0x19
  | .laneReset => @State.laneResetNow regIO u old 3
  | .condemned _ => @State.alone regIO (u.dropLane old) (other old)

theorem exec_hitlessTakeover_pending {why : TakeReason} (hwhy : s.red.takeover = some why)
    (hpeer : s.isUp (other s.act) = true) :
    exec .hitlessTakeover s = .next ((s.handOver (other s.act)).afterTakeover s.act why) := by
  show @rowHitlessTakeover regIO s = _
  unfold rowHitlessTakeover
  rw [hwhy]
  dsimp only
  rw [if_neg (by simp [hpeer])]
  cases why <;> rfl

/-- The automatic resets of the last 24 h. -/
def State.resetsOfDay (u : State) : List Nat := u.red.autoResets.filter fun t => u.tb.run < t + sU 86400

theorem resetsKept_none (u : State) : (u.resetsKept []).red.autoResets = u.resetsOfDay := List.append_nil _

/-- At MAX_AUTO resets in 24 h the lane is given up, else it is reset. -/
theorem exec_redLaneReset_condemned {inForce : Bool} (hl : s.red.condemned = some (l, inForce))
    (hu : u = @State.condemnedDue regIO s l inForce) :
    exec .redLaneReset s = if (u.lane (other l)).fld 0x4009000C 8 2 ≤ u.resetsOfDay.length then .next ((u.resetsKept []).giveUp l)
      else .next (@State.laneReset regIO ((u.resetsKept [u.tb.run]).raise (other l) 0x15) l 6) := by
  subst hu
  show @rowRedLaneReset regIO s = _
  unfold rowRedLaneReset
  rw [hl]
  dsimp only
  rw [resetsKept_none]

/-! RED_CMD (R322, R531). -/

/-- A RED command with its key that is a command of its own is its operation. -/
theorem next_redCmd {op : Nat} {f : State → State} (hl : s.lanesOf src ≠ [])
    (hfirst : s.first src 0x40090008 (BitVec.ofNat 32 ((0x5244 : Half).toNat * 2 ^ 16 + op)) = true) (e : f s = t) :
    ∃ tw, (.next (s.redCmd src 0x5244 op f) : Out) = .next { t with twins := tw } := by
  refine next_joined hfirst ?_
  rw [if_neg (by simpa using hl), if_neg (by simp), e]

theorem redSwitch_clean (hmode : s.mode.mode = .run) (hup : s.bothUp = true) (hA : (s.lane .a).fld aHealth 0 14 = 0)
    (hB : (s.lane .b).fld aHealth 0 14 = 0) (hsuspects : s.red.suspects = []) (htake : s.red.takeover = none) :
    s.redSwitch = ({ s with red := { s.red with takeover := some .switch } } : State).ok :=
  if_pos (by simp [hmode, hup, hA, hB, hsuspects, htake])

theorem redSwitch_refused (hmode : s.mode.mode ≠ .run) : s.redSwitch = s.redRefuse := if_neg (by simp [hmode])

theorem redDrop_run (hmode : s.mode.mode = .run) (hup : s.bothUp = true) :
    @State.redDrop regIO s = (@State.settle regIO (s.condemnStandby true)).ok := if_pos (by simp [hmode, hup])

/-- Settles O44: each row's equation under its guards; a RED command by its operation's equation. -/
theorem redundancyCommands : Obligations.RedundancyCommands := by
  refine ⟨fun s u l hup hu => ⟨_, _, exec_heartbeatSend_up hup hu rfl, rfl, rfl⟩,
    fun s l via hup hpeer hsame => exec_heartbeatReceived_same hup hpeer rfl rfl hsame,
    fun s u l via word was hup hpeer hword hwas hdiffer hnew hu => ?_,
    fun s l hpeer => ⟨hbNote_up, exec_hbLoss_running hpeer, exec_hbLoss_stopped hpeer⟩,
    fun s hup hdual => exec_laneLinkFault_dual hup rfl hdual, fun s can i => rfl, fun s p f hf => mstHashLate_awaited hf,
    fun s u d w hd hw hu => ⟨_, exec_suspectWindowExpiry_oldest hd hw hu, rfl, rfl⟩, fun s u why hwhy hpeer hu => ?_,
    fun s u l inForce n hl hu hn => ?_, fun s src hl => ⟨fun hfirst hmode hup hA hB hsuspects htake => ?_,
      fun hfirst hmode => ?_, fun hfirst hmode hup => ?_, fun hfirst => ?_⟩⟩
  · have h := exec_heartbeatReceived_new hup hpeer hword hwas hdiffer hnew hu
    refine ⟨fun hdual hany => ?_, fun hdual => ?_⟩
    · rw [h, if_pos (by rw [hdual]; exact hany)]
    · rw [h, if_neg (by simp [hdual])]
  · have h := exec_hitlessTakeover_pending hwhy hpeer
    rw [← hu] at h
    exact ⟨fun e => by rw [h, e]; rfl, fun e => by rw [h, e]; rfl, fun _ e => by rw [h, e]; rfl⟩
  · have h := exec_redLaneReset_condemned hl hu
    have hday : n = u.resetsOfDay.length := hn
    exact ⟨fun hmax => by rw [h, if_pos (by omega)], fun hless => by rw [h, if_neg (by omega)]⟩
  · exact next_redCmd hl hfirst (redSwitch_clean hmode hup hA hB hsuspects htake)
  · exact next_redCmd hl hfirst (redSwitch_refused hmode)
  · exact next_redCmd hl hfirst (redDrop_run hmode hup)
  · exact next_redCmd hl hfirst rfl

end Sys2Proof.Machine
end

section
/-! Lane redundancy (chapter 12): the phases of a lane's resynchronisation, their bounds and failures. -/
namespace Sys2Proof.Machine

variable {s u : State} {r : Resync}

/-- TXN_OLC_DIGEST of a lane (R264). -/
def Lane.olcDigestReg (L : Lane) : BitVec 256 :=
  BitVec.ofNat 256 (leVal ((L.getWords 0x40060240 8).map fun w => leBytes 4 w.toNat).flatten)

/-- The joining lane `L` has applied the chain of the running lane `R`, with the running digest `d`. -/
def Lane.chainFrom (L R : Lane) (d : BitVec 256) : Lane :=
  { L.olcDigest d with
    img := L.img.map fun g => { g with drawers := R.olc.chain.foldl (fun ds x => putDrawers ds x.drawers) g.drawers },
    olc := { R.olc with runDigest := d } }

section Resync

variable (hr : s.red.resync = some r)
include hr

/-! BOOT and CHAIN (R319). -/

section BootEnd

variable (hphase : r.phase = 1) (hu : u = { s with keeper := setWdg s.keeper r.lane 0 })
include hphase hu

theorem exec_resyncBootEnd_holds (hpeer : s.isUp (other r.lane) = false) :
    exec .resyncBootEnd s = .next { u with red := { u.red with resync := some { r with held := true } } } := by
  subst hu
  show execResyncBootEnd s = _
  unfold execResyncBootEnd
  rw [hr]
  dsimp only
  rw [if_neg (by simp [hphase]), if_pos (by simp [hpeer])]

/-- With a lane to join, its image is loaded; without one the lane goes on to CHAIN. -/
theorem exec_resyncBootEnd_joins (hpeer : s.isUp (other r.lane) = true) :
    exec .resyncBootEnd s = .next ((s.lane (other r.lane)).img.elim ((u.raise (other r.lane) 0x16).resyncPhase r 2 0)
      ((u.raise (other r.lane) 0x16).joinLoad r)) := by
  subst hu
  show execResyncBootEnd s = _
  unfold execResyncBootEnd
  rw [hr]
  dsimp only
  rw [if_neg (by simp [hphase]), if_neg (by simp [hpeer])]
  cases (s.lane (other r.lane)).img with
  | none => rw [Option.elim_none]
  | some g => rw [Option.elim_some]

end BootEnd

theorem exec_resyncChainEnd_phase {d : BitVec 256} (hphase : r.phase = 2)
    (hd : d = chainDigest (s.lane r.lane).img (s.lane (other r.lane)).olc.chain) :
    exec .resyncChainEnd s = if d ≠ (s.lane (other r.lane)).olcDigestReg then .next (s.resyncFail 2)
      else .next ((s.upd r.lane (·.chainFrom (s.lane (other r.lane)) d)).resyncPhase r 3 bulkKiB) := by
  subst hd
  show execResyncChainEnd s = _
  unfold execResyncChainEnd
  rw [hr]
  exact if_neg (by simp [hphase])

/-! BULK, DIRTY and WAIT (R319, R321). -/

theorem exec_resyncBulkEnd_phase (hphase : r.phase = 3) :
    exec .resyncBulkEnd s = .next ((s.fresh.2.copyMem r.lane).resyncPhase { r with passes := 0 } 4
      (s.fresh.1.toNat % (bulkKiB + 1))) := by
  show execResyncBulkEnd s = _
  unfold execResyncBulkEnd
  rw [hr]
  exact if_neg (by simp [hphase])

theorem exec_resyncDirtyPassEnd_wait (p : Nat) (hphase : r.phase = 8) :
    exec (.resyncDirtyPassEnd p) s = .next (s.copyMem r.lane) := by
  show execResyncDirtyPassEnd p s = _
  unfold execResyncDirtyPassEnd
  rw [hr]
  dsimp only
  rw [if_neg (by simp [hphase]), if_pos hphase]

/-- A dirty pass goes to WAIT with at most 1 MiB left, fails as the 8th, else shows what is left and goes on. -/
theorem exec_resyncDirtyPassEnd_dirty (p : Nat) (hphase : r.phase = 4) (hu : u = s.copyMem r.lane) :
    exec (.resyncDirtyPassEnd p) s =
      if min p bulkKiB ≤ 1024 then .next (u.resyncPhase { r with passes := r.passes + 1 } 8 0)
      else if 8 ≤ r.passes + 1 then .next (u.resyncFail 3)
      else .next { u.resyncShow 4 0 r.tries (min p bulkKiB) with
        red := { (u.resyncShow 4 0 r.tries (min p bulkKiB)).red with resync := some { r with passes := r.passes + 1 } } } := by
  subst hu
  show execResyncDirtyPassEnd p s = _
  unfold execResyncDirtyPassEnd
  rw [hr]
  dsimp only
  rw [if_neg (by simp [hphase]), if_neg (by simp [hphase])]

/-! FINAL (R319-R321; log 92). -/

theorem exec_resyncFinal_free (hphase : r.phase = 8) (hpeer : s.isUp (other r.lane) = true)
    (hfree : (s.lane (other r.lane)).finalWaits = false) :
    exec .resyncFinal s = .next ((((s.advTo (s.finalDue (s.lane (other r.lane)))).finalCopy r.lane (other r.lane)).finalMode
      r.tries).raiseUp 0x17) := by
  show execResyncFinal s = _
  unfold execResyncFinal
  rw [hr]
  exact if_neg (by simp [hphase, hpeer, hfree])

/-! Failure and the next attempt (R321). -/

theorem exec_resyncRetry_due {d : Nat} (hd : r.retryAt = some d) (hu : u = s.advRun d) :
    exec .resyncRetry s = .next ((u.upd r.lane fun L =>
      (L.wiped u.tb.run 6).put 0x4000000C ((u.lane r.lane).get 0x4000000C)).resyncBegin r.lane (r.tries + 1)) := by
  subst hu
  show execResyncRetry s = _
  unfold execResyncRetry
  rw [hr]
  dsimp only
  rw [hd]

theorem exec_resyncTimeout_bounded {ms : Nat}
    (hbound : (r.phase = 1 ∧ r.held = false ∧ ms = 3050) ∨ (r.phase = 2 ∧ ms = 200) ∨ (r.phase = 3 ∧ ms = 400) ∨
      (r.phase = 4 ∧ ms = 1500)) :
    exec .resyncTimeout s = .next ((s.advRun (r.phaseAt + msU ms)).resyncFail 4) := by
  show execResyncTimeout s = _
  unfold execResyncTimeout
  rw [hr]
  dsimp only
  rcases hbound with ⟨hphase, hheld, rfl⟩ | ⟨hphase, rfl⟩ | ⟨hphase, rfl⟩ | ⟨hphase, rfl⟩
  · rw [hphase, hheld]
    rfl
  all_goals
    rw [hphase]
    rfl

theorem resyncFail_repeats {code : Nat} (hidle : r.retryAt = none) (hcode : code ≠ 1) (htries : r.tries < 3)
    (hu : u = (s.resyncShow 7 code r.tries 0).raise (other r.lane) 0x18) :
    s.resyncFail code =
      { u with red := { u.red with resync := some { r with phase := 7, retryAt := some (u.tb.run + sU 1) } } } := by
  subst hu
  unfold State.resyncFail
  rw [hr]
  dsimp only
  rw [if_neg (by simp [hidle]), if_neg (by omega)]

end Resync

/-- Settles O45: each phase's end by what it meets, a bound by the phase it is of, a failure by its code and the attempts made. -/
theorem resyncCommands : Obligations.ResyncCommands := by
  refine ⟨fun s r u hr hphase hu => ⟨exec_resyncBootEnd_holds hr hphase hu, fun hpeer himg => ?_, fun g hpeer himg => ?_⟩,
    fun s r d hr hphase hd => ?_,
    fun s r hr hphase => exec_resyncBulkEnd_phase hr hphase,
    fun s r p hr => ⟨exec_resyncDirtyPassEnd_wait hr p, fun hphase hleft => ?_, fun hphase hleft hpasses => ?_,
      fun hphase hleft hpasses => ⟨_, rfl, ?_⟩⟩,
    fun s r hr hphase hpeer hfree => exec_resyncFinal_free hr hphase hpeer hfree,
    fun s u r d hr hd hu => exec_resyncRetry_due hr hd hu, fun s r ms hr hbound => exec_resyncTimeout_bounded hr hbound,
    fun s u r code hr hidle hcode htries hu => resyncFail_repeats hr hidle hcode htries hu⟩
  · rw [exec_resyncBootEnd_joins hr hphase hu hpeer, himg, Option.elim_none]
  · rw [exec_resyncBootEnd_joins hr hphase hu hpeer, himg, Option.elim_some]
  · have h := exec_resyncChainEnd_phase hr hphase hd
    exact ⟨fun hsame => h.trans (if_neg (not_not_intro hsame)), fun hdiffer => h.trans (if_pos hdiffer)⟩
  · rw [exec_resyncDirtyPassEnd_dirty hr p hphase rfl, if_pos hleft]
  · rw [exec_resyncDirtyPassEnd_dirty hr p hphase rfl, if_neg (by omega), if_pos (by omega)]
  · rw [exec_resyncDirtyPassEnd_dirty hr p hphase rfl, if_neg (by omega), if_neg (by omega)]

end Sys2Proof.Machine
end

section
/-! CAN channels (chapter 14): transmit requests, aborts, the attempts of the active controller and their ends, the FIFO's pop. -/
namespace Sys2Proof.Machine

variable {s u : State} {l : LaneId} {src : Src} {c : Fin 8} {b : Fin 64}

/-! What the commands of a channel make of one lane (R358, R363, R367). -/

/-- A refusal in one lane sets the channel's flag in CAN_STAT and answers with a bus error. -/
theorem LaneStep.canRefuse (l : LaneId) (u : State) (c : Fin 8) :
    LaneStep l u (u.canRefuse l c) ((u.lane l).setFlag (aCan c 0x10) 5 true) ∧ (u.canRefuse l c).reply = .busError :=
  ⟨((LaneStep.upd l u _).raise (by omega)).busErr, rfl⟩

/-- A buffer that reaches an end state shows it in TXS. -/
theorem LaneStep.canEnd (l : LaneId) (u : State) (c : Fin 8) (b : Fin 64) (txs : Nat) :
    LaneStep l u (u.canEnd l c b txs) ((u.lane l).setTxs c b txs) :=
  (LaneStep.upd l u _).raise (by omega)

/-- In STOP and SAFE a request is the host's alone. -/
theorem canReq_placed {req : Requester} (hen : (u.lane l).canEn c = true) (htx : (u.lane l).canIsTx c b = true)
    (hpending : (u.lane l).canTxs c b ≠ 1) (hactive : (u.lane l).canTxs c b ≠ 2)
    (hfrom : (u.mode.mode ≠ .stop ∧ u.mode.mode ≠ .safe) ∨ req = .hc) :
    u.canReq l req c b = (u.upd l (·.canRequest c b)).ok := by
  refine if_neg ?_
  rcases hfrom with ⟨hstop, hsafe⟩ | rfl
  · simp [hen, htx, hpending, hactive, hstop, hsafe]
  · simp [hen, htx, hpending, hactive]

theorem canReq_refused {req : Requester} (h : (u.lane l).canEn c = false ∨ (u.lane l).canIsTx c b = false ∨
    (u.lane l).canTxs c b = 1 ∨ (u.lane l).canTxs c b = 2) : u.canReq l req c b = u.canRefuse l c := by
  refine if_pos ?_
  rcases h with h | h | h | h <;> simp [h]

section Abort

variable (hen : (u.lane l).canEn c = true)
include hen

theorem canAbort_pending (ht : (u.lane l).canTxs c b = 1) : u.canAbort l c b = (u.canEnd l c b 7).ok := by
  unfold State.canAbort
  rw [if_neg (by simp [hen]), if_pos ht]

theorem canAbort_active (ht : (u.lane l).canTxs c b = 2) :
    u.canAbort l c b = (u.upd l fun L => L.bufUpd c b fun k => { k with abortAfter := true }).ok := by
  unfold State.canAbort
  rw [if_neg (by simp [hen]), if_neg (by simp [ht]), if_pos ht]

theorem canAbort_idle (hpending : (u.lane l).canTxs c b ≠ 1) (hactive : (u.lane l).canTxs c b ≠ 2) :
    u.canAbort l c b = u.ok := by
  unfold State.canAbort
  rw [if_neg (by simp [hen]), if_neg hpending, if_neg hactive]

theorem canFifoPop_oldest {data : Word} (hbit : bitOf data 0 = true) :
    u.canFifoPop l c data = (u.upd l fun L => L.canUpd c fun k => { k with fifo := k.fifo.drop 1 }).ok := by
  unfold State.canFifoPop
  rw [if_neg (by simp [hen]), if_pos hbit]

end Abort

/-! The same in every lane its source acts in (R481). -/

section Command

variable (hne : s.lanesOf src ≠ [])
include hne

theorem exec_canReq_placed (hfrom : (s.mode.mode ≠ .stop ∧ s.mode.mode ≠ .safe) ∨ src.req = .hc)
    (hfree : ∀ l ∈ s.lanesOf src, (s.lane l).canEn c = true ∧ (s.lane l).canIsTx c b = true ∧
      (s.lane l).canTxs c b ≠ 1 ∧ (s.lane l).canTxs c b ≠ 2) :
    ∃ t, exec (.canReq src c b) s = .next t ∧ t.reply = .ok 0 ∧ s.inLanes src (fun _ L => L.canRequest c b) t := by
  refine ⟨_, rfl, perLane_upd hne fun l hl u hu hlane => ?_⟩
  obtain ⟨hen, htx, hpending, hactive⟩ := hfree l hl
  rw [← hlane] at hen htx hpending hactive
  exact canReq_placed hen htx hpending hactive (offLanes_mode hu ▸ hfrom)

theorem exec_canReq_refused (hbad : ∀ l ∈ s.lanesOf src, (s.lane l).canEn c = false ∨ (s.lane l).canIsTx c b = false ∨
      (s.lane l).canTxs c b = 1 ∨ (s.lane l).canTxs c b = 2) :
    ∃ t, exec (.canReq src c b) s = .next t ∧ t.reply = .busError ∧
      s.inLanes src (fun _ L => L.setFlag (aCan c 0x10) 5 true) t := by
  refine ⟨_, rfl, (perLane_inLanes hne fun l hl u _ hlane => ?_).symm⟩
  rw [← hlane, canReq_refused (hlane ▸ hbad l hl)]
  exact LaneStep.canRefuse l u c

theorem exec_canAbort_pending (ht : ∀ l ∈ s.lanesOf src, (s.lane l).canEn c = true ∧ (s.lane l).canTxs c b = 1) :
    ∃ t, exec (.canAbort src c b) s = .next t ∧ t.reply = .ok 0 ∧ s.inLanes src (fun _ L => L.setTxs c b 7) t := by
  refine ⟨_, rfl, (perLane_inLanes hne fun l hl u _ hlane => ?_).symm⟩
  obtain ⟨hen, hpending⟩ := ht l hl
  rw [← hlane] at hen hpending ⊢
  rw [canAbort_pending hen hpending]
  exact ⟨(LaneStep.canEnd l u c b 7).ok, rfl⟩

theorem exec_canAbort_active (ht : ∀ l ∈ s.lanesOf src, (s.lane l).canEn c = true ∧ (s.lane l).canTxs c b = 2) :
    ∃ t, exec (.canAbort src c b) s = .next t ∧ t.reply = .ok 0 ∧
      s.inLanes src (fun _ L => L.bufUpd c b fun k => { k with abortAfter := true }) t := by
  refine ⟨_, rfl, perLane_upd hne fun l hl u _ hlane => ?_⟩
  obtain ⟨hen, hactive⟩ := ht l hl
  rw [← hlane] at hen hactive
  exact canAbort_active hen hactive

theorem exec_canAbort_idle (ht : ∀ l ∈ s.lanesOf src, (s.lane l).canEn c = true ∧ (s.lane l).canTxs c b ≠ 1 ∧
      (s.lane l).canTxs c b ≠ 2) :
    ∃ t, exec (.canAbort src c b) s = .next t ∧ t.reply = .ok 0 ∧ s.inLanes src (fun _ L => L) t := by
  refine ⟨_, rfl, (perLane_inLanes hne fun l hl u _ hlane => ?_).symm⟩
  obtain ⟨hen, hpending, hactive⟩ := ht l hl
  rw [← hlane] at hen hpending hactive ⊢
  rw [canAbort_idle hen hpending hactive]
  exact ⟨(LaneStep.refl l u).ok, rfl⟩

theorem exec_canFifoPop_oldest {data : Word} (hbit : bitOf data 0 = true)
    (hen : ∀ l ∈ s.lanesOf src, (s.lane l).canEn c = true) :
    ∃ t, exec (.canFifoPop src c data) s = .next t ∧ t.reply = .ok 0 ∧
      s.inLanes src (fun _ L => L.canUpd c fun k => { k with fifo := k.fifo.drop 1 }) t :=
  ⟨_, rfl, perLane_upd hne fun l hl _ _ hlane => canFifoPop_oldest (hlane ▸ hen l hl) hbit⟩

end Command

/-! An attempt (R361, R362, R368, R369; log 71). -/

/-- Both controllers have stamped the start of the frame of buffer `b`, which is ACTIVE in the active lane. -/
def State.canBegun (s : State) (c : Fin 8) (b : Fin 64) : State :=
  (s.canSof c).upd s.act fun L => (L.setTxs c b 2).bufUpd c b fun k => { k with compared := true }

/-- The comparison of a buffer's first attempt, begun in `s`, with what the standby selects. -/
def State.canCompared (s u : State) (c : Fin 8) (b : Fin 64) : State :=
  if s.compares && !(s.lane s.act).can[c].bufs[b].compared then
    ((s.lane (other s.act)).canOffer c).elim
      (u.upd s.act fun L => L.canUpd c fun k => { k with awaiting := some ((s.lane s.act).canHashed c b, s.tb.run) })
      fun b' => if sameHash ((s.lane s.act).canHashed c b) ((s.lane (other s.act)).canHashed c b') then u
        else u.redTrigger 5 c true false false
  else u

theorem canCompared_exempt (h : s.compares = false ∨ (s.lane s.act).can[c].bufs[b].compared = true) :
    s.canCompared u c b = u :=
  if_neg (by rcases h with h | h <;> rw [h] <;> simp)

section Compared

variable (hcompares : s.compares = true) (hfirst : (s.lane s.act).can[c].bufs[b].compared = false)
include hcompares hfirst

theorem canCompared_selected {b' : Fin 64} (hpeer : (s.lane (other s.act)).canOffer c = some b') :
    s.canCompared u c b =
      if sameHash ((s.lane s.act).canHashed c b) ((s.lane (other s.act)).canHashed c b') then u
      else u.redTrigger 5 c true false false := by
  unfold State.canCompared
  rw [if_pos (by rw [hcompares, hfirst]; rfl), hpeer, Option.elim_some]

theorem canCompared_awaited (hpeer : (s.lane (other s.act)).canOffer c = none) :
    s.canCompared u c b =
      u.upd s.act fun L => L.canUpd c fun k => { k with awaiting := some ((s.lane s.act).canHashed c b, s.tb.run) } := by
  unfold State.canCompared
  rw [if_pos (by rw [hcompares, hfirst]; rfl), hpeer, Option.elim_none]

end Compared

/-- An active controller on the bus, not in LISTEN and with no frame on the wire, begins with the buffer it offers. -/
theorem exec_canTxAttemptStart_offered (hon : s.canOn = true) (hfailsafe : s.red.failsafe = false)
    (hup : s.isUp s.act = true) (hen : (s.lane s.act).canEn c = true) (hstate : (s.lane s.act).canState c < 2)
    (hlisten : (s.lane s.act).fld (aCan c 0) 1 2 ≠ 1) (hwire : ∀ k, k < 64 → (s.lane s.act).canTxs c k ≠ 2)
    (hoffer : (s.lane s.act).canOffer c = some b) :
    exec (.canTxAttemptStart c) s =
      .next (@State.settle regIO ((s.canCompared (s.canBegun c b) c b).canForward c (.start b))) := by
  have hbusy : ((List.range 64).any fun b => (s.lane s.act).canTxs c b == 2) = false :=
    List.any_eq_false.2 fun k hk => by simpa using hwire k (List.mem_range.1 hk)
  show @Out.settle regIO (rowCanTxAttemptStart c s) = _
  unfold rowCanTxAttemptStart State.canCompared
  dsimp only
  rw [if_neg (by simp [hon, hfailsafe, hup, hen, hstate, hlisten, hbusy]), hoffer]
  cases (s.lane (other s.act)).canOffer c with
  | none => rfl
  | some b' => rfl

/-! The end of an attempt (R361, R363-R368). -/

section OnWire

variable (hwire : s.canOnWire c = some b)
include hwire

/-- A success lowers TEC; in LOOPBACK the frame then comes back into the lanes' own filters. -/
theorem exec_canTxSuccess_onWire {v : State}
    (hu : u = (s.canSuccessIn s.act c b (s.lane s.act).can[c].sof).canForward c (.success b (s.lane s.act).can[c].sof))
    (hv : v = if (s.lane s.act).canTec c = 0 then u
      else u.canCountersFwd c ((s.lane s.act).canTec c - 1) ((s.lane s.act).canRec c)) :
    exec (.canTxSuccess c) s = .next ((if fieldOf ((s.lane s.act).canCfg c) 1 2 = 2 then
      v.each v.ups fun l x => x.canReceive l c ((s.lane s.act).canFrameOf c b) (s.lane s.act).can[c].sof else v).canFrameEnd c) := by
  subst hu hv
  show execCanTxSuccess c s = _
  unfold execCanTxSuccess
  rw [hwire]

theorem exec_canArbLost_onWire :
    exec (.canArbLost c) s = .next (((s.canArbLostIn s.act c b).canForward c (.arbLost b)).canFrameEnd c) := by
  show execCanArbLost c s = _
  unfold execCanArbLost
  rw [hwire]

/-- An error adds 8 to TEC, but for an acknowledgement error of an error passive controller. -/
theorem exec_canTxError_onWire {lec : Fin 7} (hlec : lec ≠ 0)
    (hu : u = (s.canErrorIn s.act c b lec.val).canForward c (.error b lec.val)) :
    exec (.canTxError c lec) s = .next ((if lec.val = 3 ∧ (s.lane s.act).canState c = 1 then u
      else u.canCountersFwd c ((s.lane s.act).canTec c + 8) ((s.lane s.act).canRec c)).canFrameEnd c) := by
  subst hu
  show execCanTxError c lec s = _
  unfold execCanTxError
  rw [hwire]
  dsimp only
  rw [if_neg (by simpa using hlec)]
  simp only [Bool.and_eq_true, beq_iff_eq]

end OnWire

/-- A standby that runs applies the oldest forwarded event. -/
theorem exec_canPeerTxEvent_oldest {e : CanFwd} {rest : List CanFwd} (hfwd : (s.lane s.act).can[c].fwd = e :: rest)
    (hpeer : s.isUp (other s.act) = true) :
    exec (.canPeerTxEvent c) s =
      .next ((s.upd s.act fun L => L.canUpd c fun k => { k with fwd := rest }).canPeerApply (other s.act) c e) := by
  show execCanPeerTxEvent c s = _
  unfold execCanPeerTxEvent
  dsimp only
  rw [hfwd]
  dsimp only
  rw [if_pos hpeer]

/-- Settles O48: the commands by what each makes of one lane, the attempt by what the standby selects, its ends by the buffer on the
wire. -/
theorem canTransmitCommands : Obligations.CanTransmitCommands := by
  refine ⟨fun s src c b hne => ⟨fun hfrom hfree => exec_canReq_placed hne hfrom hfree,
      fun hbad => exec_canReq_refused hne hbad, fun ht => exec_canAbort_pending hne ht,
      fun ht => exec_canAbort_active hne ht, fun ht => exec_canAbort_idle hne ht,
      fun data hbit hen => exec_canFifoPop_oldest hne hbit hen⟩,
    fun s u c b hon hfailsafe hup hen hstate hlisten hwire hoffer hu => ?_,
    fun s u c b hwire hu hcfg => ?_, fun s u v c b hwire hu hcfg hv => ?_,
    fun s c b hwire => exec_canArbLost_onWire hwire,
    fun s u c b lec hwire hlec hu => ?_,
    fun s c e rest hfwd hpeer => exec_canPeerTxEvent_oldest hfwd hpeer⟩
  · have h := exec_canTxAttemptStart_offered hon hfailsafe hup hen hstate hlisten hwire hoffer
    have hbegun : s.canBegun c b = u := hu.symm
    rw [hbegun] at h
    refine ⟨fun hexempt => ?_, fun b' hcompares hfirst hpeer => ?_, fun hcompares hfirst hpeer => ?_⟩
    · rw [h, canCompared_exempt hexempt]
    · rw [h, canCompared_selected hcompares hfirst hpeer]
    · rw [h, canCompared_awaited hcompares hfirst hpeer]
  · rw [exec_canTxSuccess_onWire hwire hu rfl, if_neg hcfg]
  · rw [exec_canTxSuccess_onWire hwire hu hv, if_pos hcfg]
  · have h := exec_canTxError_onWire hwire hlec hu
    exact ⟨fun hhold => by rw [h, if_pos hhold], fun hraise => by rw [h, if_neg (by omega)]⟩

end Sys2Proof.Machine
end

section
/-! CAN channels (chapter 14): frames and errors from the bus, integration and bus-off recovery. -/
namespace Sys2Proof.Machine

variable {s u : State} {c : Fin 8} {f : CanFrame} {sof : Word}

/-! A frame from the bus (R350, R357, R361, R366). -/

section FrameReceived

variable (hon : s.canOn = true) (hhears : (s.lane s.act).canHears c sof = true) (hvalid : (s.lane s.act).canValid c f = true)
include hon hhears hvalid

theorem exec_canFrameReceived_resBit (hfdf : f.fdf = true) (hres : f.res = true) :
    exec (.canFrameReceived c f sof) s = .next (s.canResBit c sof) := by
  show execCanFrameReceived c f sof s = _
  unfold execCanFrameReceived
  dsimp only
  rw [if_neg (by simp [hon, hhears, hvalid]), if_pos (by simp [hfdf, hres])]

/-- Every running lane that hears the frame receives it; REC then goes by what it was. -/
theorem exec_canFrameReceived_stored (hplain : f.fdf = false ∨ f.res = false)
    (hu : u = s.each s.ups fun l x => if (x.lane l).canHears c sof then (x.canReceive l c f sof).upd l (·.canHeard c) else x) :
    exec (.canFrameReceived c f sof) s =
      if (s.lane s.act).canRec c = 0 then .next u
      else if (s.lane s.act).canRec c ≤ 127 then
        .next (u.canCountersFwd c ((s.lane s.act).canTec c) ((s.lane s.act).canRec c - 1))
      else .next (u.fresh.2.canCountersFwd c ((s.lane s.act).canTec c) (119 + u.fresh.1.toNat % 9)) := by
  subst hu
  show execCanFrameReceived c f sof s = _
  unfold execCanFrameReceived
  dsimp only
  rw [if_neg (by simp [hon, hhears, hvalid]), if_neg (by rcases hplain with h | h <;> simp [h])]

end FrameReceived

/-! The filter's action on a valid frame (R357, R358). -/

section Receive

variable {l : LaneId} {stamp : Word}

theorem canReceive_fifo {b : Nat} (hfilter : (s.lane l).canFilter c f = some (1, b)) :
    s.canReceive l c f stamp = s.canStoreFifo l c f stamp := by
  unfold State.canReceive
  rw [hfilter]
  rfl

theorem canReceive_buffer {b : Nat} (hfilter : (s.lane l).canFilter c f = some (2, b)) :
    s.canReceive l c f stamp = s.canStoreBuf l c (Fin.ofNat 64 b) f stamp := by
  unfold State.canReceive
  rw [hfilter]
  rfl

theorem canReceive_unmatched (hfilter : (s.lane l).canFilter c f = none) (hall : bitOf ((s.lane l).canCfg c) 5 = false) :
    s.canReceive l c f stamp = s.upd l (·.incFld (aCan c 0x14) 0 16) := by
  unfold State.canReceive
  rw [hfilter]
  exact if_neg (by simp [hall])

end Receive

/-! Errors, integration and bus-off recovery (R353, R366-R368; log 18). -/

theorem exec_canRxError_onBus {lec : Fin 7} {by8 : Bool} (hon : s.canOn = true) (hen : (s.lane s.act).canEn c = true)
    (hstate : (s.lane s.act).canState c < 2) (hlec : lec ≠ 0) :
    exec (.canRxError c lec by8) s = .next ((s.canLec c lec.val).canCountersFwd c ((s.lane s.act).canTec c)
      (min 255 ((s.lane s.act).canRec c + (if by8 then 8 else 1)))) :=
  if_neg (by simp [hon, hen, hstate, hlec])

theorem exec_canBusIntegrated_onBus (hon : s.canOn = true) :
    exec (.canBusIntegrated c) s = .next (s.each s.ups fun l x =>
      if (x.lane l).canEn c && (x.lane l).canState c == 3 then x.upd l fun L =>
        (L.canHeard c).setFld (aCan c 0x10) 0 2 (if 127 < (x.lane l).canTec c || 127 < (x.lane l).canRec c then 1 else 0)
      else x) :=
  if_neg (by simp [hon])

theorem exec_canBusoffRecovery_busOff (hon : s.canOn = true) (hstate : (s.lane s.act).canState c = 2) :
    exec (.canBusoffRecovery c) s = .next ((s.canCountersFwd c 0 0).raise s.act (0xA2 + 4 * c) c) :=
  if_neg (by simp [hon, hstate])

/-- Settles O49: a frame by its res bit and by REC, the filter's actions case by case, the other rows by their guards. -/
theorem canBusCommands : Obligations.CanBusCommands := by
  refine ⟨fun s u c f sof hon hhears hvalid => ⟨exec_canFrameReceived_resBit hon hhears hvalid, fun hplain hu => ?_⟩,
    fun s l c f stamp => ⟨fun b hfilter => canReceive_fifo hfilter, fun b hfilter => canReceive_buffer hfilter,
      fun hfilter hall => canReceive_unmatched hfilter hall⟩,
    fun s c lec by8 hon hen hstate hlec => exec_canRxError_onBus hon hen hstate hlec,
    fun s c hon => exec_canBusIntegrated_onBus hon,
    fun s c hon hstate => exec_canBusoffRecovery_busOff hon hstate,
    fun s c tec rcv => rfl⟩
  have h := exec_canFrameReceived_stored hon hhears hvalid hplain hu
  refine ⟨fun hzero => ?_, fun hlow hhigh => ?_, fun hpassive => ⟨119 + u.fresh.1.toNat % 9, by omega, by omega, ?_⟩⟩
  · rw [h, if_pos hzero]
  · rw [h, if_neg (by omega), if_pos hhigh]
  · rw [h, if_neg (by omega), if_neg (by omega)]

end Sys2Proof.Machine
end

section
/-! What every step keeps of time and of the anchors, and the tick of an empty queue (R372, R376, R378, R469). -/
namespace Sys2Proof.Machine

variable {s t : State}

/-- Whatever the queue holds, a step keeps what every command keeps, from the state with the queue's rest. -/
theorem step_keeps (h : step s = .next t) : Keeps { s with pending := s.pending.tail } t := by
  cases hq : s.pending with
  | nil =>
    rw [step_of_pending_nil hq] at h
    cases h
    rw [List.tail_nil, ← hq]
    exact State.ticks_on (keeps_refl s)
  | cons c rest =>
    rw [step_of_pending_cons hq] at h
    exact exec_keeps h

theorem step_run_le (h : step s = .next t) : s.tb.run ≤ t.tb.run := (step_keeps h).time

/-- The queue is no part of what a burn asks of the keeper, so what a step keeps of the anchors is kept from `s` itself. -/
theorem step_anchors (hs : s.keeper.burnWf) (h : step s = .next t) :
    t.keeper.burnWf ∧ ∀ a : Fin 4, s.keeper.anchors[a].onward t.keeper.anchors[a] :=
  (step_keeps h).keeper.2 hs

/-- Settles O5: an anchor is written only where every command's common law allows it. -/
theorem anchorsOneWay : Obligations.AnchorsOneWay := fun _ _ hs h => step_anchors hs h

/-- Settles O7: the elapsed count is part of what every command keeps. -/
theorem elapsedTimeForward : Obligations.ElapsedTimeForward := fun _ _ h => step_run_le h

/-- Settles O2: the tick an empty queue means, by its definition. -/
theorem idleTick : Obligations.IdleTick := fun s h => by
  rw [step_of_pending_nil h]
  unfold State.ticks
  rw [Nat.one_mul]

end Sys2Proof.Machine
end

section
/-! The time base (chapter 15): reads of the count, its wrap, rate and step, PPS and the 10 MHz count. -/
namespace Sys2Proof.Machine

variable {s u : State} {src : Src} {l : LaneId}

/-! Reads (R373). -/

/-- A lane that has captured the count for a requester, in place of what it had captured for it. -/
def Lane.tbCaptured (L : Lane) (req : Requester) (v : DWord) : Lane :=
  { L with tbCap := (L.tbCap.filter fun c => c.1 != req) ++ [(req, v)] }

theorem exec_tbNowLoRead_reached (hreads : s.reads src = true) :
    exec (.tbNowLoRead src) s =
      .next ((s.upd (s.readLane src) (·.tbCaptured src.req (BitVec.ofNat 64 s.ns))).ok ((BitVec.ofNat 64 s.ns).truncate 32)) :=
  congrArg Host.Outcome.next (if_pos hreads)

theorem exec_tbNowHiRead_reached (hreads : s.reads src = true) :
    exec (.tbNowHiRead src) s = .next (s.tbHiRead (s.readLane src) src.req) :=
  congrArg Host.Outcome.next (if_pos hreads)

theorem tbHiRead_captured {req : Requester} {c : Requester × DWord}
    (hcap : (s.lane l).tbCap.find? (fun c => c.1 == req) = some c) : s.tbHiRead l req = s.ok (c.2.extractLsb' 32 32) := by
  unfold State.tbHiRead
  rw [hcap]

theorem tbHiRead_uncaptured {req : Requester} (hcap : (s.lane l).tbCap.find? (fun c => c.1 == req) = none) :
    s.tbHiRead l req = s.ok ((BitVec.ofNat 64 s.ns).extractLsb' 32 32) := by
  unfold State.tbHiRead
  rw [hcap]

/-! STEP (R377, R378). -/

theorem stepDeny_used {v : Int} (h : s.tb.used = true ∨ s.tb.step.isSome = true) : s.stepDeny v = 1 :=
  if_pos (Bool.or_eq_true_iff.2 h)

/-- A step is accepted where none has been made or waits, in CONFIGURE or STOP, and the count stays above 0. -/
theorem stepDeny_eq_zero_iff (s : State) (v : Int) :
    s.stepDeny v = 0 ↔ s.tb.used = false ∧ s.tb.step = none ∧ (s.mode.mode = .configure ∨ s.mode.mode = .stop) ∧
      0 ≤ (s.tb.count : Int) + v * (2 ^ 40 : Int) := by
  unfold State.stepDeny
  split
  case isTrue hused =>
    refine iff_of_false (by decide) fun ⟨hu, hstep, _⟩ => ?_
    simp [hu, hstep] at hused
  case isFalse hfree =>
    have hfirst : s.tb.used = false ∧ s.tb.step = none := by simpa using hfree
    split
    case isTrue hmode =>
      refine iff_of_false (by decide) fun ⟨_, _, hin, _⟩ => ?_
      rcases hin with hin | hin <;> simp [hin] at hmode
    case isFalse hmode =>
      have hin : s.mode.mode = .configure ∨ s.mode.mode = .stop := by
        simp only [Bool.and_eq_true, bne_iff_ne, Classical.not_and_iff_not_or_not, Classical.not_not] at hmode
        exact hmode
      split
      case isTrue hneg => exact iff_of_false (by decide) fun ⟨_, _, _, hpos⟩ => absurd hneg (by omega)
      case isFalse hpos => exact iff_of_true rfl ⟨hfirst.1, hfirst.2, hin, by omega⟩

section Step

variable (hl : s.lanesOf src ≠ []) (hfirst : s.first src (aTb 0x20) ((0x5442 : Half) ++ (1 : Half)) = true)
  (hlane : l = if (s.lanesOf src).contains s.act then s.act else src.lane)
include hl hfirst hlane

theorem exec_tbStep_accepted (hok : s.stepDeny ((s.lane l).s64 (aTb 0x10)) = 0) :
    ∃ tw, exec (.tbStep src 0x5442) s =
      .next { ({ s with tb := { s.tb with step := some (s.next250, (s.lane l).s64 (aTb 0x10)) } } : State).ok with twins := tw } := by
  refine next_joined hfirst ?_
  unfold State.tbStepCmd
  rw [if_neg (by simpa using hl), if_neg (by decide), ← hlane]
  exact if_pos hok

theorem exec_tbStep_denied {d : Nat} (hd : s.stepDeny ((s.lane l).s64 (aTb 0x10)) = d) (hne : d ≠ 0) :
    ∃ tw, exec (.tbStep src 0x5442) s = .next
      { (s.each (s.lanesOf src) fun l x => (x.upd l (·.setFld (aTb 8) 4 3 d)).raise l 0xC5).busErr with twins := tw } := by
  subst hd
  refine next_joined hfirst ?_
  unfold State.tbStepCmd
  rw [if_neg (by simpa using hl), if_neg (by decide), ← hlane]
  exact if_neg hne

end Step

/-- The count, what waits on it and the mode change pending on it, moved by a step of `v`. -/
def State.tbStepped (u : State) (v : Int) : State :=
  { u with
    tb := { u.tb with count := ((u.tb.count : Int) + v * (2 ^ 40 : Int)).toNat, step := none, used := true,
                      wraps := ((u.tb.count : Int) + v * (2 ^ 40 : Int)).toNat / 2 ^ 40 / 2 ^ 32 },
    mode := { u.mode with pend := u.mode.pend.map fun p => { p with due := ((p.due : Int) + v * (2 ^ 40 : Int)).toNat } } }

/-- The instants of the axes' setpoints, moved by a step of `v`. -/
def State.setAtStepped (w : State) (v : Int) : State :=
  { w with field := { w.field with ax := w.field.ax.map fun d => { d with setAt := ((d.setAt : Int) + v * (2 ^ 40 : Int)).toNat } } }

theorem exec_tbStepApply_due {due : Nat} {v : Int} (hstep : s.tb.step = some (due, v)) (hu : u = s.advTo due) :
    exec .tbStepApply s = .next ((((u.tbStepped v).setAtStepped v).updBoth (·.stepShift v)).raiseUp 0xC4) := by
  subst hu
  show execTbStepApply s = _
  unfold execTbStepApply
  rw [hstep]
  rfl

/-! PPS and the 10 MHz count (R380, R381). -/

theorem exec_ppsOut_enabled {sec : Int} (hup : s.ups ≠ []) (hen : (s.lane s.act).flag (aTb 0x24) 0 = true)
    (hsec : sec = (((s.ns : Int) + (s.lane s.act).s64 (aTb 0x18)) / 1000000000 + 1) * 1000000000)
    (hu : u = s.advTo (nsU (sec - (s.lane s.act).s64 (aTb 0x18)).toNat)) :
    exec .ppsOut s =
      .next { u with tb := { u.tb with ppsEnd := u.tb.run + msU ((s.lane s.act).fld (aTb 0x24) 16 9) } } := by
  subst hsec hu
  exact if_neg (by simp [hup, hen])

section Ref10

variable {n : BitVec 24} (hu : u = s.advTo (nsU ((s.ns / 1000000000 + 1) * 1000000000)))
include hu

theorem exec_ref10CountEnd_inRange (hlo : 9990000 ≤ n.toNat) (hhi : n.toNat ≤ 10010000) :
    exec (.ref10CountEnd n) s = .next (u.each u.ups fun l x => x.upd l (·.putN (aTb 0x2C) (2 ^ 31 + n.toNat))) := by
  have hok : (decide (9990000 ≤ n.toNat) && decide (n.toNat ≤ 10010000)) = true := by simp [hlo, hhi]
  subst hu
  show execRef10CountEnd n s = _
  unfold execRef10CountEnd
  rw [hok]
  rfl

theorem exec_ref10CountEnd_outOfRange (hout : n.toNat < 9990000 ∨ 10010000 < n.toNat) :
    exec (.ref10CountEnd n) s = .next (u.each u.ups fun l x => (x.upd l (·.putN (aTb 0x2C) n.toNat)).raise l 0xC8) := by
  have hok : (decide (9990000 ≤ n.toNat) && decide (n.toNat ≤ 10010000)) = false := by
    rw [Bool.and_eq_false_iff, decide_eq_false_iff_not, decide_eq_false_iff_not]
    omega
  subst hu
  show execRef10CountEnd n s = _
  unfold execRef10CountEnd
  rw [hok]
  dsimp only
  rw [show bit false * 2 ^ 31 + n.toNat = n.toNat from Nat.zero_add _]
  rfl

end Ref10

/-- Settles O50: the reads by what the lane captured, the step by what R377 asks of it, the signals by their guards. -/
theorem timeBaseCommands : Obligations.TimeBaseCommands := by
  refine ⟨fun s src hreads => exec_tbNowLoRead_reached hreads, fun s src hreads => ⟨fun c hcap => ?_, fun hcap => ?_⟩,
    fun s u hu => ⟨_, by rw [hu]; rfl, rfl⟩, fun s src w hl => ?_,
    fun s src l hl hfirst hlane => ⟨exec_tbStep_accepted hl hfirst hlane, fun d => exec_tbStep_denied hl hfirst hlane⟩,
    fun s v => ⟨stepDeny_eq_zero_iff s v, stepDeny_used⟩,
    fun s u due v hstep hu => ⟨_, _, exec_tbStepApply_due hstep hu, rfl, rfl⟩,
    fun s u sec hup hen hsec hu => ⟨_, exec_ppsOut_enabled hup hen hsec hu, rfl⟩, fun s falling => rfl,
    fun s u n hu => ⟨fun h => exec_ref10CountEnd_inRange hu h.1 h.2, exec_ref10CountEnd_outOfRange hu⟩⟩
  · rw [exec_tbNowHiRead_reached hreads, tbHiRead_captured hcap]
  · rw [exec_tbNowHiRead_reached hreads, tbHiRead_uncaptured hcap]
  · obtain ⟨hlanes, hreply⟩ := perLane_upd_ok (f := (·.put (aTb 0xC) w)) hl
    exact ⟨_, rfl, hreply, hlanes⟩

end Sys2Proof.Machine
end

section
/-! PTP (chapter 15): messages received, queued, departed and late. -/
namespace Sys2Proof.Machine

variable {s u : State} {src : Src} {l : LaneId}

/-! Messages received (R382-R384). -/

/-- The source address of an entry in the receive queue, by its transport: none, IPv4 or IPv6. -/
def ptpAddr (transport : Fin 3) (ip : Bytes) : Bytes :=
  match transport.val with
  | 0 => zeros 16
  | 1 => zeros 10 ++ [0xFF, 0xFF] ++ slice ip 0 4
  | _ => slice ip 0 16

theorem ptpAddr_eq {transport : Fin 3} {ip addr : Bytes} (h0 : transport = 0 → addr = zeros 16)
    (h1 : transport = 1 → addr = zeros 10 ++ [0xFF, 0xFF] ++ slice ip 0 4) (h2 : transport = 2 → addr = slice ip 0 16) :
    ptpAddr transport ip = addr := by
  match transport with
  | 0 => exact (h0 rfl).symm
  | 1 => exact (h1 rfl).symm
  | 2 => exact (h2 rfl).symm

section Receive

variable {port transport : Fin 3} {vlan : Bool} {mac ip msg : Bytes} (hup : s.ups ≠ []) (hruns : s.ptpRuns = true)
  (hlive : (s.lane s.act).ethLive port = true) (hport : bitOf ((s.lane s.act).get (aTb 0x100)) port = true)
  (htransport : bitOf ((s.lane s.act).get (aTb 0x100)) (3 + transport) = true)
include hup hruns hlive hport htransport

/-- On a live port that is enabled for its transport a message goes by its length and version alone. -/
theorem exec_ptpRx_enabled : exec (.ptpRx port transport vlan mac ip msg) s =
    if msg.length < 34 || 128 < msg.length || u8At msg 1 % 16 ≠ 2 || 1 < u8At msg 1 / 16 then .next (s.each s.ups fun l s => s.ptpDrop l)
    else .next (s.each s.ups fun l x => x.ptpEnter l
      (leBytes 4 (msg.length * 2 ^ 16 + 16 * bit vlan + 4 * transport.val + port.val) ++
        leBytes 4 (unsignedOf 32 ((s.tb32 : Int) - signed 16 ((s.lane s.act).fld (aTb (0x110 + 4 * port)) 0 16))) ++
        slice mac 0 6 ++ zeros 2 ++ ptpAddr transport ip ++ slice msg 0 128)) := by
  show execPtpRx port transport vlan mac ip msg s = _
  unfold execPtpRx
  rw [if_neg (by simp [hup, hruns, hlive]), if_neg (by simp [hport, htransport])]
  rfl

theorem exec_ptpRx_sound {addr : Bytes} (hlen : 34 ≤ msg.length ∧ msg.length ≤ 128)
    (hversion : u8At msg 1 = 0x02 ∨ u8At msg 1 = 0x12) (haddr : ptpAddr transport ip = addr) :
    exec (.ptpRx port transport vlan mac ip msg) s = .next (s.each s.ups fun l x => x.ptpEnter l
      (leBytes 4 (msg.length * 2 ^ 16 + 16 * bit vlan + 4 * transport.val + port.val) ++
        leBytes 4 (unsignedOf 32 ((s.tb32 : Int) - signed 16 ((s.lane s.act).fld (aTb (0x110 + 4 * port)) 0 16))) ++
        slice mac 0 6 ++ zeros 2 ++ addr ++ slice msg 0 128)) := by
  rw [exec_ptpRx_enabled hup hruns hlive hport htransport, haddr, if_neg]
  simp only [Bool.or_eq_true, decide_eq_true_eq]
  omega

theorem exec_ptpRx_dropped
    (hbad : msg.length < 34 ∨ 128 < msg.length ∨ u8At msg 1 % 16 ≠ 2 ∨ 1 < u8At msg 1 / 16) :
    exec (.ptpRx port transport vlan mac ip msg) s =
      .next (s.each s.ups fun l x => x.upd l (·.incFld (aTb 0x124) 16 16)) := by
  rw [exec_ptpRx_enabled hup hruns hlive hport htransport, if_pos]
  · rfl
  · simp only [Bool.or_eq_true, decide_eq_true_eq]
    omega

end Receive

section Enter

variable {e : Bytes}

theorem ptpEnter_room (hroom : (s.lane l).ptp.rxq.length < 64)
    (hu : u = s.upd l fun L => { L with ptp := { L.ptp with rxq := (s.lane l).ptp.rxq ++ [e] } }) :
    s.ptpEnter l e = if (s.lane l).ptp.rxq.isEmpty then u.raise l 0xC9 else u := by
  subst hu
  exact if_neg (by omega)

section Full

variable (hfull : 64 ≤ (s.lane l).ptp.rxq.length) (hu : u = s.upd l (·.incFld (aTb 0x124) 16 16))
include hfull hu

/-- A full queue drops the message; the drop is reported where the last report is a second old. -/
theorem ptpEnter_full_reported (hdue : ∀ t, (s.lane l).ptp.lastDropEv = some t → t + sU 1 ≤ s.tb.run) :
    s.ptpEnter l e = (u.upd l fun L => { L with ptp := { L.ptp with lastDropEv := some s.tb.run } }).raise l 0xCC := by
  subst hu
  unfold State.ptpEnter
  rw [if_pos hfull]
  cases hlast : (s.lane l).ptp.lastDropEv with
  | none => rfl
  | some t => exact if_pos (decide_eq_true (hdue t hlast))

theorem ptpEnter_full_quiet {t : Nat} (hlast : (s.lane l).ptp.lastDropEv = some t) (hrecent : s.tb.run < t + sU 1) :
    s.ptpEnter l e = u := by
  subst hu
  unfold State.ptpEnter
  rw [if_pos hfull, hlast]
  exact if_neg (by simp; omega)

end Full

end Enter

/-! SEND (R385). -/

/-- The entry written to TB_PTP_TX_BUF. -/
def Lane.ptpWritten (L : Lane) : Bytes := ((L.getWords (aTb 0x300) 40).map fun w => leBytes 4 w.toNat).flatten

/-- What R385 refuses of a lane's SEND. -/
def State.ptpSendBad (s : State) (l : LaneId) (oneStep : Bool) (e : Bytes) : Prop :=
  s.ptpRuns = false ∨ 16 ≤ (s.lane l).ptp.txq.length ∨ u16At e 2 < 34 ∨ 128 < u16At e 2 ∨ u8At e 0 % 4 = 3 ∨
    bitOf ((s.lane l).get (aTb 0x100)) (u8At e 0 % 4) = false ∨ (s.lane l).flag (aEth (u8At e 0 % 4) 0) 0 = false ∨
    (oneStep = true ∧ (diff32 ((s.lane l).get (aTb 0x128)).toNat s.tb32 < 0 ∨ 100000000 < diff32 ((s.lane l).get (aTb 0x128)).toNat s.tb32))

section Send

variable {tag : Byte} {oneStep : Bool} {e : Bytes} (hlanes : s.lanesOf src = [l]) (he : e = (s.lane l).ptpWritten)
include hlanes he

theorem exec_ptpSend_refused (hbad : s.ptpSendBad l oneStep e) : exec (.ptpSend src 0x5054 tag oneStep) s = .next (s.refuse l 0xC6) := by
  subst he
  show Host.Outcome.next (s.perLane src _) = _
  rw [perLane_one hlanes]
  unfold State.ptpSend
  rw [if_neg (by decide), if_pos]
  unfold State.ptpSendBad Lane.ptpWritten at hbad
  simpa only [Bool.or_eq_true, Bool.and_eq_true, Bool.not_eq_true', decide_eq_true_eq, or_assoc] using hbad

theorem exec_ptpSend_queued (hgood : ¬ s.ptpSendBad l oneStep e) :
    exec (.ptpSend src 0x5054 tag oneStep) s = .next (s.upd l fun L => { L with ptp := { L.ptp with
      txq := L.ptp.txq ++ [{ entry := e, tag := tag, plan := (if oneStep then some ((s.lane l).get (aTb 0x128)) else none) }] } }).ok := by
  subst he
  show Host.Outcome.next (s.perLane src _) = _
  rw [perLane_one hlanes]
  unfold State.ptpSend
  rw [if_neg (by decide), if_neg]
  · rfl
  · unfold State.ptpSendBad Lane.ptpWritten at hgood
    simpa only [Bool.or_eq_true, Bool.and_eq_true, Bool.not_eq_true', decide_eq_true_eq, or_assoc] using hgood

end Send

/-! Frames that leave, and those that are late (R385, R386). -/

/-- How far ahead of a count a frame's plan is; a frame without one leaves now. -/
def PtpTx.ahead (f : PtpTx) (now : Nat) : Int :=
  match f.plan with
  | some p => diff32 p.toNat now
  | none => 0

/-- The message of a frame as it leaves at `dep`: a planned one is corrected by what it is late. -/
def PtpTx.message (f : PtpTx) (dep : Word) : Bytes :=
  match f.plan with
  | some p => ptpCorrect (slice f.entry 0x20 (u16At f.entry 2)) (diff32 dep.toNat p.toNat)
  | none => slice f.entry 0x20 (u16At f.entry 2)

theorem PtpTx.ahead_eq {f : PtpTx} {now : Nat} {x : Int} (hnone : f.plan = none → x = 0)
    (hsome : ∀ p, f.plan = some p → x = diff32 p.toNat now) : f.ahead now = x := by
  unfold PtpTx.ahead
  cases hplan : f.plan with
  | none => exact (hnone hplan).symm
  | some p => exact (hsome p hplan).symm

theorem PtpTx.message_eq {f : PtpTx} {dep : Word} {msg : Bytes}
    (hnone : f.plan = none → msg = slice f.entry 0x20 (u16At f.entry 2))
    (hsome : ∀ p, f.plan = some p → msg = ptpCorrect (slice f.entry 0x20 (u16At f.entry 2)) (diff32 dep.toNat p.toNat)) :
    f.message dep = msg := by
  unfold PtpTx.message
  cases hplan : f.plan with
  | none => exact (hnone hplan).symm
  | some p => exact (hsome p hplan).symm

section Depart

variable {f : PtpTx} {q : List PtpTx} (hq : (s.lane s.act).ptp.txq = f :: q)
include hq

theorem exec_ptpTxDepart_due (linkUp : Bool) {port : Nat} {dep : Word} (hruns : s.ptpRuns = true) (hahead : -1000000 ≤ f.ahead s.tb32)
    (hu : u = s.advTo (s.tb.count + nsU (f.ahead s.tb32).toNat)) (hport : port = u8At f.entry 0 % 4)
    (hdep : dep = BitVec.ofNat 32 (unsignedOf 32 ((u.tb32 : Int) + signed 16 ((s.lane s.act).fld (aTb (0x110 + 4 * port)) 16 16)))) :
    exec (.ptpTxDepart linkUp) s = if !linkUp then .next (u.ptpDone 2 0)
      else .next ((u.ethPut port ((s.lane s.act).ptpFrame f.entry (f.message dep))).ptpDone 0 dep) := by
  subst hdep hport hu
  show execPtpTxDepart linkUp s = _
  unfold execPtpTxDepart
  dsimp only
  rw [hq]
  refine if_neg ?_
  simp only [hruns, Bool.not_true, Bool.false_or, decide_eq_true_eq]
  exact Int.not_lt.2 hahead

theorem exec_ptpTxLate_planned {p : Word} (hplan : f.plan = some p)
    (hu : u = s.advTo (((s.tb.count : Int) + (diff32 p.toNat s.tb32 + 1000000) * (2 ^ 40 : Int)).toNat)) :
    exec .ptpTxLate s = .next ((u.each u.ups fun l x =>
      if (x.lane l).ptp.txq.isEmpty then x else (x.upd l (·.incFld (aTb 0x124) 0 16)).raise l 0xCB).ptpDone 1 0) := by
  subst hu
  show execPtpTxLate s = _
  unfold execPtpTxLate
  rw [hq]
  dsimp only
  rw [hplan]

end Depart

/-- A lone lane's frame that has ended: it leaves the queue, its status is held and reported. -/
theorem ptpDone_alone {status : Nat} {depart : Word} {f : PtpTx} {q : List PtpTx} (hups : s.ups = [l]) (hq : (s.lane l).ptp.txq = f :: q) :
    s.ptpDone status depart = (s.upd l fun L => { L with ptp := { L.ptp with
      txq := q, txs := (L.ptp.txs ++ [({ tag := f.tag, status := status, depart := depart } : PtpTxs)]).take 16 } }).raise l 0xCA := by
  unfold State.ptpDone State.each
  rw [hups, List.foldl_cons, List.foldl_nil]
  dsimp only
  rw [hq]

/-- Settles O51: a message by its length and version and the room in the queue, SEND by what refuses it, a departure by its plan. -/
theorem ptpCommands : Obligations.PtpCommands := by
  refine ⟨fun s port transport vlan mac ip msg addr hup hruns hlive hport htransport => ⟨fun ⟨hmin, hmax, hversion⟩ h0 h1 h2 =>
      exec_ptpRx_sound hup hruns hlive hport htransport ⟨hmin, hmax⟩ hversion (ptpAddr_eq h0 h1 h2),
      exec_ptpRx_dropped hup hruns hlive hport htransport⟩,
    fun s u l e hroom hu => ⟨fun hempty => ?_, fun hheld => ?_⟩,
    fun s u l e hfull hu => ⟨ptpEnter_full_reported hfull hu, fun t => ptpEnter_full_quiet hfull hu⟩,
    fun s src hne => ⟨?_, ?_⟩,
    fun s src l tag oneStep e hlanes he => ⟨fun hruns hroom hmin hmax hport hen heth hplan => exec_ptpSend_queued hlanes he ?_,
      fun hbad => exec_ptpSend_refused hlanes he ?_⟩,
    fun s u f q ahead msg port dep hq hruns hahead hu hnone hsome => ?_,
    fun s u f q p hq hplan hu => exec_ptpTxLate_planned hq hplan hu,
    fun s status depart l f q hups hq => ptpDone_alone hups hq⟩
  · rw [ptpEnter_room hroom hu, if_pos (by simp [hempty])]
  · rw [ptpEnter_room hroom hu, if_neg (by simp [hheld])]
  · obtain ⟨hlanes, hreply⟩ := perLane_upd_ok (f := fun L => { L with ptp := { L.ptp with rxq := L.ptp.rxq.drop 1 } }) hne
    exact ⟨_, rfl, hreply, hlanes⟩
  · obtain ⟨hlanes, hreply⟩ := perLane_upd_ok (f := fun L => { L with ptp := { L.ptp with txs := L.ptp.txs.drop 1 } }) hne
    exact ⟨_, rfl, hreply, hlanes⟩
  · simp only [State.ptpSendBad, hruns, hen, heth, Bool.true_eq_false, false_or]
    rcases hplan with hnow | hwithin
    · simp [hnow]; omega
    · omega
  · unfold State.ptpSendBad
    exact hbad.imp_right fun h => h.imp_right fun h => h.imp_right fun h => h.imp_right fun h => .inr (.inr h)
  · have ha := PtpTx.ahead_eq hnone hsome
    rw [← ha] at hahead hu
    refine ⟨exec_ptpTxDepart_due hq false hruns hahead hu rfl rfl, fun hport hdep hm0 hm1 => ?_⟩
    rw [← PtpTx.message_eq hm0 hm1]
    exact exec_ptpTxDepart_due hq true hruns hahead hu hport hdep

end Sys2Proof.Machine
end

section
/-! The calendar clock (chapter 15): reads, sets, the next second, oscillator stop and periodic wake. -/
namespace Sys2Proof.Machine

variable {s u v : State} {src : Src} {l : LaneId} {c : Cal}

/-! Reads through a lane's shadow (R388). -/

/-- A lane that has answered time register `r` from calendar time `c` frozen at `t`: the read of YEAR ends the freeze. -/
def Lane.rtcShown (L : Lane) (r : Nat) (c : Cal) (t : Nat) : Lane := { L with rtcFrozen := if r = 6 then none else some (c, t) }

theorem rtcRead_frozen {t : Nat} (hfrozen : (s.lane l).rtcFrozen = some (c, t)) (r : Nat) :
    s.rtcRead l r = (s.upd l (·.rtcShown r c t)).ok (c.reg r) := by
  unfold State.rtcRead
  rw [hfrozen]
  rfl

theorem rtcRead_first (hfrozen : (s.lane l).rtcFrozen = none) (r : Nat) :
    s.rtcRead l r = (s.upd l (·.rtcShown r s.calNow s.tb.run)).ok (s.calNow.reg r) := by
  unfold State.rtcRead
  rw [hfrozen]
  rfl

theorem exec_rtcTimeRead_reached {r : Fin 7} (hreads : s.reads src = true) :
    exec (.rtcTimeRead src r) s = .next (s.rtcRead (s.readLane src) r) := congrArg Host.Outcome.next (if_pos hreads)

theorem exec_rtcFreezeTimeout_frozen {t : Nat} (hfrozen : (s.lane l).rtcFrozen = some (c, t)) :
    exec (.rtcFreezeTimeout l) s = .next ((s.advRun (t + msU 2)).upd l fun L => { L with rtcFrozen := none }) := by
  show execRtcFreezeTimeout l s = _
  unfold execRtcFreezeTimeout
  rw [hfrozen]

/-! Sets (R389, R393). -/

theorem calOk_iff (c : Cal) : c.ok = true ↔ c.subsec ≤ 1023 ∧ c.sec ≤ 59 ∧ c.min ≤ 59 ∧ c.hour ≤ 23 ∧ 2000 ≤ c.year ∧ c.year ≤ 2199 ∧
    1 ≤ c.month ∧ c.month ≤ 12 ∧ 1 ≤ c.day ∧ c.day ≤ monthDays c.year c.month := by
  simp only [Cal.ok, Bool.and_eq_true, decide_eq_true_eq, and_assoc]

section Go

variable (hl : s.lanesOf src ≠ []) (hopen : s.dieOpen src = true)
include hl hopen

/-- A GO that reaches the keeper ends in IND error in the lanes it came from exactly where the keeper answers so. -/
theorem exec_rtcGo_open : exec (.rtcGo src 0x5254) s =
    .next (if (s.rtcGo 0x5254).reply == .indError then (s.rtcGo 0x5254).indFail src 2 else s.rtcGo 0x5254) := by
  show execRtcGo src 0x5254 s = _
  unfold execRtcGo
  rw [if_neg (by simpa using hl), if_neg (by simp [hopen])]

theorem exec_rtcGo_ok {t : State} (hgo : s.rtcGo 0x5254 = t.ok) : exec (.rtcGo src 0x5254) s = .next t.ok := by
  rw [exec_rtcGo_open hl hopen, hgo]
  rfl

theorem exec_rtcGo_taken (hidle : s.keeper.rtc.setPend = none) (hok : (stagedCal s.keeper).ok = true) :
    exec (.rtcGo src 0x5254) s = .next ((s.keep fun k => { k with rtc := { k.rtc with
      setPend := some (stagedCal s.keeper, s.keeper.rtc.secAt + (s.rtcPeriods + 1) * rtcPeriod) } }).ok) := by
  refine exec_rtcGo_ok hl hopen ?_
  unfold State.rtcGo
  rw [if_neg (by decide), if_neg (by simp [hidle])]
  exact if_neg (by simp [hok])

theorem exec_rtcGo_badSet (hidle : s.keeper.rtc.setPend = none) (hbad : (stagedCal s.keeper).ok = false) :
    exec (.rtcGo src 0x5254) s = .next ((s.keep (·.setBits 0x01002C 1 true)).raiseUp 0xE6).ok := by
  refine exec_rtcGo_ok hl hopen ?_
  unfold State.rtcGo
  rw [if_neg (by decide), if_neg (by simp [hidle])]
  exact if_pos (by simp [hbad])

theorem exec_rtcGo_waiting (hwaits : s.keeper.rtc.setPend ≠ none) :
    exec (.rtcGo src 0x5254) s = .next (({ s with reply := .indError } : State).indFail src 2) := by
  have hgo : s.rtcGo 0x5254 = { s with reply := .indError } := by
    unfold State.rtcGo
    rw [if_neg (by decide), if_pos (Option.isSome_iff_ne_none.2 hwaits)]
  rw [exec_rtcGo_open hl hopen, hgo]
  rfl

end Go

/-- The keeper with calendar `c` set at `run`: the divider stands at its SUBSEC and BUSY clears. -/
def Keeper.calSet (k : Keeper) (c : Cal) (run : Nat) : Keeper :=
  ({ k with rtc := { k.rtc with cal := { c with subsec := 0 }, cnt := 32 * c.subsec, secAt := run, setPend := none } } : Keeper).setBits 0x01002C 0 false

theorem exec_rtcSetApply_due {due : Nat} (hset : s.keeper.rtc.setPend = some (c, due)) (hu : u = s.advRun due)
    (hv : v = (u.almAdjust u.calNow.secs c.secs u.calNow.subsec c.subsec).recEndAll true) :
    exec .rtcSetApply s = .next (if c.subsec = 0 then (v.keep (·.calSet c u.tb.run)).recSet.almReached
      else (v.keep (·.calSet c u.tb.run)).recSet) := by
  subst hu hv
  show execRtcSetApply s = _
  unfold execRtcSetApply
  rw [hset]
  rfl

/-! The next second (R387, R391). -/

/-- The trim counts as a 14-bit signed number. -/
theorem trim_bounds (k : Keeper) : -8192 ≤ k.trim ∧ k.trim < 8192 := by
  unfold Keeper.trim signed
  have hlt := Nat.mod_lt (k.fld 0x010030 0 14) (Nat.two_pow_pos 14)
  split <;> omega

/-- The trimmed count of `n` periods is less than a second's exactly where `n` trimmed periods do not fill what is left. -/
theorem divider_lt_iff (k : Keeper) (n : Nat) : (k.divider n).1 < 32768 ↔
    (n : Int) * (16000000 + k.trim) < (32768 - (k.rtc.cnt : Int)) * 16000000 - k.rtc.trimAcc := by
  have hfloor : ((k.rtc.trimAcc : Int) + n * k.trim) / 16000000 < 32768 - k.rtc.cnt - n ↔
      (k.rtc.trimAcc : Int) + n * k.trim < (32768 - k.rtc.cnt - n) * 16000000 := Int.ediv_lt_iff_lt_mul (by decide)
  have hcount : (k.divider n).1 < 32768 ↔ ((k.rtc.trimAcc : Int) + n * k.trim) / 16000000 < 32768 - k.rtc.cnt - n := by
    show (((k.rtc.cnt + n : Nat) : Int) + ((k.rtc.trimAcc : Int) + n * k.trim) / 16000000).toNat < 32768 ↔ _
    omega
  rw [hcount, hfloor, Int.mul_add]
  omega

/-- The periods to the next second are the least number that fills what is left of this one. -/
theorem lt_toSecond_iff (k : Keeper) (n : Nat) (hcnt : k.rtc.cnt < 32768) : n < k.toSecond ↔
    (n : Int) * (16000000 + k.trim) < (32768 - (k.rtc.cnt : Int)) * 16000000 - k.rtc.trimAcc := by
  have hper : 0 < 16000000 + k.trim := by have := (trim_bounds k).1; omega
  unfold Keeper.toSecond
  rw [Int.lt_toNat, ← Int.add_one_le_iff, Int.le_ediv_iff_mul_le hper, Int.add_mul, Int.one_mul, Int.ofNat_sub (Nat.le_of_lt hcnt)]
  omega

theorem calNext_century (hsec : c.sec = 59) (hmin : c.min = 59) (hhour : c.hour = 23) (hday : c.day = 31) (hmonth : c.month = 12)
    (hyear : c.year = 2199) : c.next = { c with sec := 0, min := 0, hour := 0, day := 1, month := 1, year := 2000 } := by
  cases c
  cases hsec
  cases hmin
  cases hhour
  cases hday
  cases hmonth
  cases hyear
  rfl

theorem exec_rtcSecond_due {n : Nat} (hc : c = s.keeper.rtc.cal.next) (hn : n = s.keeper.toSecond)
    (hu : u = s.advRun (s.keeper.rtc.secAt + n * rtcPeriod))
    (hv : v = u.keep fun k => { k with rtc :=
      { k.rtc with cal := c, cnt := (k.divider n).1 - 32768, trimAcc := (k.divider n).2, secAt := s.keeper.rtc.secAt + n * rtcPeriod } }) :
    exec .rtcSecond s = .next (if c.year < s.keeper.rtc.cal.year then ((v.keep (·.setBits 0x01002C 2 true)).raiseUp 0xE7).almReached
      else v.almReached) := by
  subst hv hu hn hc
  rfl

/-! Periodic wake (R392). -/

theorem exec_rtcWake_due {due : Nat} (hdue : s.keeper.rtc.wakeAt = some due) :
    exec .rtcWake s = .next (((s.advRun due).keep fun k =>
      { k with rtc := { k.rtc with wakeAt := some (due + k.fld 0x010034 0 26 * 32 * rtcPeriod) } }).raiseUp 0xE4) := by
  show execRtcWake s = _
  unfold execRtcWake
  rw [hdue]

theorem exec_rtcWakeWrite_open {n : Word} (hl : s.lanesOf src ≠ []) (hopen : s.dieOpen src = true) :
    exec (.rtcWakeWrite src n) s = .next (s.rtcWakeSet n).ok := by
  show execRtcWakeWrite src n s = _
  unfold execRtcWakeWrite
  rw [if_neg (by simpa using hl), if_neg (by simp [hopen])]

theorem rtcWakeSet_wakeAt (n : Word) : (s.rtcWakeSet n).keeper.rtc.wakeAt =
    if fieldOf n 0 26 = 0 then none else some (s.tb.run + fieldOf n 0 26 * 32 * rtcPeriod) := rfl

/-- Settles O52: reads by the lane's freeze, GO by what the keeper holds, the second by the trimmed count's arithmetic. -/
theorem calendarCommands : Obligations.CalendarCommands := by
  refine ⟨fun s src r hreads => ⟨fun hfrozen => ?_, fun c t hfrozen => ?_⟩, fun s l c t => exec_rtcFreezeTimeout_frozen,
    fun s src hl hopen => ⟨exec_rtcGo_taken hl hopen, exec_rtcGo_badSet hl hopen, exec_rtcGo_waiting hl hopen⟩, calOk_iff,
    fun s u v w c due hset hu hv hw => ?_, fun s => rfl, fun s u v n c hc hn hu hv => ?_,
    fun k n hcnt => (lt_toSecond_iff k n hcnt).trans (divider_lt_iff k n).symm, fun c => calNext_century,
    fun s due => exec_rtcWake_due, fun s src n hl hopen => ⟨exec_rtcWakeWrite_open hl hopen, fun hzero => ?_, fun hpos => ?_⟩⟩
  · rw [exec_rtcTimeRead_reached hreads, rtcRead_first hfrozen]
    rfl
  · rw [exec_rtcTimeRead_reached hreads, rtcRead_frozen hfrozen]
    rfl
  · rw [hw, exec_rtcSetApply_due hset hu hv]
    exact ⟨fun hzero => congrArg Host.Outcome.next (if_pos hzero), fun hpos => congrArg Host.Outcome.next (if_neg hpos)⟩
  · rw [exec_rtcSecond_due hc hn hu hv]
    exact ⟨fun hstays => congrArg Host.Outcome.next (if_neg (by omega)), fun hwraps => congrArg Host.Outcome.next (if_pos hwraps)⟩
  · rw [rtcWakeSet_wakeAt, if_pos hzero]
  · rw [rtcWakeSet_wakeAt, if_neg hpos]

end Sys2Proof.Machine
end

section
/-! Meters and heat accumulators (chapter 16): intervals, modulator faults, crossings, integration instants, saves and counter
reads. -/
namespace Sys2Proof.Machine

variable {s u v : State} {src : Src} {l : LaneId}

/-! Metering points (R397, R400, R403, R404). -/

section Counting

variable (hcounts : s.counts = true)
include hcounts

theorem exec_mtrIntervalEnd_counting (p : Fin 8) (raw : List (List (BitVec 24))) :
    exec (.mtrIntervalEnd p raw) s = .next (s.each s.ups fun l x =>
      if (x.lane l).ptEn p then x.upd l (·.mtrInterval p (raw.map fun c => c.map (·.toInt)) x.tbW) else x) :=
  if_neg (by simp [hcounts])

theorem exec_mtrModFault_counting (ch : Fin 48) :
    exec (.mtrModFault ch) s = .next (s.each s.ups fun l x => if (x.lane l).ptEn (ch.val / 6) && !(x.lane l).modFault ch
      then (x.upd l (·.setFlag (aPt (ch.val / 6) 0) (ch.val % 6) true)).raise l 0x90 ch else x) :=
  if_neg (by simp [hcounts])

theorem exec_mtrZeroCrossing_counting (p : Fin 8) (c : Fin 3) (vals : List F64) :
    exec (.mtrZeroCrossing p c vals) s = .next (s.each s.ups fun l x => if (x.lane l).ptEn p then x.mtrZc l p c vals else x) :=
  if_neg (by simp [hcounts])

/-- A lane whose channel has gone ZC_TO without a crossing: its frequency is NaN and ZC_TIMEOUT stands. -/
def Lane.zcTimedOut (L : Lane) (p : Fin 8) (c : Fin 3) (ch : Fin 48) : Lane :=
  (((L.mtrChUpd ch fun k => { k with crossings := [], timedOut := true }).put (aFreq p c) fNaN32).setFlag (aPt p 0) (9 + c.val) false).setFlag
    (aPt p 0) (12 + c.val) true

theorem exec_mtrZcTimeout_counting {p : Fin 8} {c : Fin 3} {ch : Fin 48} (hen : (s.lane s.act).ptEn p = true)
    (hch : ch.val = 6 * p.val + c.val) (hrun : (s.lane s.act).mtr.ch[ch].timedOut = false)
    (hu : u = s.advRun ((s.lane s.act).mtr.ch[ch].zcAt + msU ((s.lane s.act).fld (aPt p 4) 0 9))) :
    exec (.mtrZcTimeout p c) s = .next (u.each u.ups fun l x => (x.upd l (·.zcTimedOut p c ch)).raise l 0x92 ch) := by
  obtain ⟨n, hn⟩ := ch
  dsimp only at hch
  subst hch hu
  exact if_neg (by simpa [hcounts, hen] using hrun)

/-! Integration instants (R406, R408). -/

theorem exec_thqInstant_counting (hu : u = s.advTo s.thqDue) : exec .thqInstant s = .next (u.each u.ups fun l x =>
    ((List.finRange 256).foldl (fun (y : State) (a : Fin 256) => if (y.lane l).accEn a then y.thqStep l a else y) x).upd l fun L =>
      { L with thq := { L.thq with lastAt := s.thqDue } }) := by
  subst hu
  exact if_neg (by simp [hcounts])

end Counting

section Step

variable {a : Fin 256}

theorem thqStep_noFlow (hflow : (s.lane l).thqSrc (slice ((s.lane l).accE a) 0x10 16) = none) : s.thqStep l a = s.thqStale l a := by
  unfold State.thqStep
  dsimp only [Nat.reduceMul, Nat.reduceAdd]
  rw [hflow]

/-- With MAX_AGE 0 no source is too old, and temperatures of 0 to 150 degrees give the interval its heat. -/
theorem thqStep_sound {q ts tr : F64 × Word} (hflow : (s.lane l).thqSrc (slice ((s.lane l).accE a) 0x10 16) = some q)
    (hsupply : (s.lane l).thqSrc (slice ((s.lane l).accE a) 0x20 16) = some ts)
    (hreturn : (s.lane l).thqSrc (slice ((s.lane l).accE a) 0x30 16) = some tr)
    (hage : (s.lane l).fld (0x40100500 + 4 * a.val) 0 16 = 0) (hs0 : flt ts.1 f0 = false) (hs1 : flt (fOfNat 150) ts.1 = false)
    (hr0 : flt tr.1 f0 = false) (hr1 : flt (fOfNat 150) tr.1 = false) :
    s.thqStep l a = (s.upd l fun L => (L.setFlag (aAcc a) 1 false).accUpd a fun A => { A with staleEp := false }).thqAdd l a q.1 ts.1 tr.1 := by
  unfold State.thqStep
  dsimp only [Nat.reduceMul, Nat.reduceAdd]
  rw [hflow, hsupply, hreturn]
  dsimp only
  rw [hage, if_neg (by simp), if_neg (by rw [hs0, hs1, hr0, hr1]; decide)]

end Step

/-! Saves (R412). -/

theorem exec_mtrSave_one (hlanes : s.lanesOf src = [l]) :
    exec (.mtrSave src 0x4D52) s = .next (if l = s.act then s.mtrSaveNow.ok else s.ok) := by
  show Host.Outcome.next (s.perLane src _) = _
  rw [perLane_one hlanes]
  exact congrArg Host.Outcome.next (ite_congr (propext (and_iff_right rfl)) (fun _ => rfl) fun _ => rfl)

theorem exec_thqSave_one (hlanes : s.lanesOf src = [l]) :
    exec (.thqSave src 0x5448) s = .next (if l = s.act then s.thqSaveNow.ok else s.ok) := by
  show Host.Outcome.next (s.perLane src _) = _
  rw [perLane_one hlanes]
  exact congrArg Host.Outcome.next (ite_congr (propext (and_iff_right rfl)) (fun _ => rfl) fun _ => rfl)

/-- Every SAVE_S seconds, at the 250 us tick that is due (log 116), for the meters or the accumulators. -/
theorem exec_counterSavePeriod_saving {thq : Bool} {d : Bytes} {last : Nat} (hsaves : s.saves = true) (hup : s.isUp s.act = true)
    (hdrawer : (s.lane s.act).dr (if thq then 0x0F else 0x0E) = d) (hne : d ≠ [])
    (hlast : (if thq then (s.lane s.act).thq.saveAt else (s.lane s.act).mtr.saveAt) = last)
    (hv : v = s.advRun (last + sU (u16At d 2))) (hu : u = v.advTo (tick250 v.tb.count)) :
    exec (.counterSavePeriod thq) s = .next (
      let w := u.each u.ups fun l x => x.upd l fun L =>
        if thq then { L with thq := { L.thq with saveAt := x.tb.run } } else { L with mtr := { L.mtr with saveAt := x.tb.run } }
      if thq then w.thqSaveNow else w.mtrSaveNow) := by
  subst hu hv hlast hdrawer
  exact if_neg (by simp [hne, hsaves, hup])

/-! Reads of live counters (R410). -/

theorem exec_counterLoRead_low {a : Word} {c : Nat} (hne : s.readersOf src ≠ [])
    (hlow : ∀ l ∈ s.readersOf src, (s.lane l).counterAt a.toNat = some (c, false)) :
    ∃ t, exec (.counterLoRead src a) s = .next t ∧ t.reply = .ok (BitVec.ofNat 32 c) ∧ s.inThe (s.readersOf src) (fun _ L => { L with
      hiCap := (L.hiCap.filter fun h => !(h.1 == src.req && h.2.1 == a.toNat + 4)) ++ [(src.req, a.toNat + 4, BitVec.ofNat 32 (c / 2 ^ 32))] }) t := by
  refine ⟨_, rfl, (perLaneRead_inThe hne fun l hl u _ hlane => ?_).symm⟩
  have hc := hlow l hl
  rw [← hlane] at hc
  unfold State.counterLo
  rw [hc, ← hlane]
  exact ⟨(LaneStep.upd l u _).ok, rfl⟩

/-- Settles O53: the points while counting runs, an accumulator's step by its sources, the saves by who asks for them. -/
theorem meterCommands : Obligations.MeterCommands := by
  refine ⟨fun s p raw hcounts => exec_mtrIntervalEnd_counting hcounts p raw,
    fun s ch => ⟨fun hcounts => exec_mtrModFault_counting hcounts ch, rfl⟩,
    fun s p c vals hcounts => exec_mtrZeroCrossing_counting hcounts p c vals,
    fun s u p c ch hcounts hen hch hrun hu => exec_mtrZcTimeout_counting hcounts hen hch hrun hu,
    fun s u hcounts hu => exec_thqInstant_counting hcounts hu, fun s l a => thqStep_noFlow,
    fun s l a q ts tr => thqStep_sound, fun s src l hlanes => ?_, fun s src k => ⟨rfl, rfl⟩,
    fun s v u hsaves hup hne hv hu => exec_counterSavePeriod_saving (thq := false) hsaves hup rfl hne rfl hv hu,
    fun s v u hsaves hup hne hv hu => exec_counterSavePeriod_saving (thq := true) hsaves hup rfl hne rfl hv hu,
    fun s src a c hne => exec_counterLoRead_low hne⟩
  rw [exec_mtrSave_one hlanes, exec_thqSave_one hlanes]
  exact ⟨fun hact => by rw [if_pos hact, if_pos hact]; exact ⟨rfl, rfl⟩, fun hother => by rw [if_neg hother, if_neg hother]; exact ⟨rfl, rfl⟩⟩

end Sys2Proof.Machine
end

section
/-! Digital I/O (chapter 17): filters, wire break and counts of inputs; queue slots, L+, overload, overtemperature and open wire
of outputs. -/
namespace Sys2Proof.Machine

variable {s u v : State} {src : Src} {l : LaneId}

/-! Inputs (R417-R420). -/

section Filter

variable {ch : Fin 64} {level : Bool} {lim : Nat} (hsampling : s.sampling = true) (hen : (s.lane s.act).diEn ch = true)
  (hfilt : s.field.di[ch].filt ≠ level) (hlim : lim = (s.lane s.act).fld (aDi ch + 4) 0 16)
  (hu : u = (s.advTo (ceilDiv s.tb.count (nsU 10000) * nsU 10000)).diSampleAt ch level)
  (hv : v = u.diUpd ch fun d => { d with c := if level then lim else 0, filt := level })
include hsampling hen hfilt hlim hu hv

/-- A filter that reaches an end of its range: F stands in a wire break that replaces it, and where it has that level. -/
theorem exec_diFilterChange_sampled : exec (.diFilterChange ch level) s =
    if s.field.di[ch].wb && (s.lane s.act).fld (aDi ch) 22 2 != 0 then .next v
    else if s.field.di[ch].f == level then .next v
    else .next (v.diEdge ch level ((u.ns + 2 ^ 32 - (lim - 1) * 10000) % 2 ^ 32)) := by
  subst hv hu hlim
  exact if_neg (by rw [hsampling, hen, beq_false_of_ne hfilt]; decide)

theorem exec_diFilterChange_replaced (hwb : s.field.di[ch].wb = true) (hact : (s.lane s.act).fld (aDi ch) 22 2 ≠ 0) :
    exec (.diFilterChange ch level) s = .next v := by
  rw [exec_diFilterChange_sampled hsampling hen hfilt hlim hu hv, if_pos (by rw [hwb]; simpa using hact)]

theorem exec_diFilterChange_edge (hwb : s.field.di[ch].wb = false) (hf : s.field.di[ch].f ≠ level) :
    exec (.diFilterChange ch level) s = .next (v.diEdge ch level ((u.ns + 2 ^ 32 - (lim - 1) * 10000) % 2 ^ 32)) := by
  rw [exec_diFilterChange_sampled hsampling hen hfilt hlim hu hv, if_neg (by rw [hwb, Bool.false_and]; decide),
    if_neg (by rw [beq_false_of_ne hf]; decide)]

end Filter

/-- An edge of an input that raises no event. -/
theorem diEdge_silent {i : Fin 64} {level : Bool} {stamp : Nat} (hevt : bitOf ((s.lane s.act).get (aDi i)) 19 = false)
    (hu : u = s.diUpd i fun d => { d with
      f := level, stamp := BitVec.ofNat 32 stamp,
      cnt := if bitOf ((s.lane s.act).get (aDi i)) 17 && (bitOf ((s.lane s.act).get (aDi i)) 18 != level) then d.cnt + 1 else d.cnt }) :
    s.diEdge i level stamp = if (u.force u.act 1 i).isSome then u else u.axDiEdge i level stamp := by
  subst hu
  unfold State.diEdge
  dsimp only
  rw [hevt]
  rfl

theorem exec_diWireBreak_begins {ch : Fin 64} (hsampling : s.sampling = true) (hen : (s.lane s.act).diEn ch = true)
    (hmon : (s.lane s.act).flag (aDi ch) 16 = true) (hwb : s.field.di[ch].wb = false) :
    exec (.diWireBreak ch) s = .next ((((s.diSampleWb ch false).getD s).diUpd ch fun d => { d with
      wb := true,
      f := if (s.lane s.act).fld (aDi ch) 22 2 = 1 then false else if (s.lane s.act).fld (aDi ch) 22 2 = 2 then true else d.f }).raiseUp 0x81 ch) :=
  if_neg (by rw [hsampling, hen, hmon, hwb]; decide)

theorem exec_diWireBreakEnd_sampled {ch : Fin 64} (hsampling : s.sampling = true) (hwb : s.field.di[ch].wb = true)
    (hu : (s.advTo (ceilDiv s.tb.count (nsU 10000) * nsU 10000)).diSampleWb ch true = some u)
    (hv : v = (u.diUpd ch fun d => { d with wb := false }).raiseUp 0x82 ch) :
    exec (.diWireBreakEnd ch) s =
      .next (if s.field.di[ch].f == s.field.di[ch].filt then v else v.diEdge ch s.field.di[ch].filt v.tb32) := by
  subst hv
  show execDiWireBreakEnd ch s = _
  unfold execDiWireBreakEnd
  dsimp only
  rw [hu]
  exact if_neg (by rw [hsampling, hwb, Option.isNone_some]; decide)

/-! The commands name their channel by a byte (R419, R422). -/

theorem toNat_ofNat_byte {n : Nat} (h : n < 256) : (BitVec.ofNat 8 n).toNat = n := by rw [BitVec.toNat_ofNat, Nat.mod_eq_of_lt h]

theorem diClrCnt_enabled {b : Byte} {ch : Fin 64} (hb : b.toNat = ch.val) (hen : (s.lane l).diEn ch = true) :
    s.diClrCnt l 0x4451 b = (if s.portOpen l then s.diUpd ch fun d => { d with cnt := 0 } else s).ok := by
  obtain ⟨n, hn⟩ := ch
  dsimp only at hb
  subst hb
  unfold State.diClrCnt
  rw [if_neg (by decide), dif_pos hn, if_pos hen]

theorem diClrCnt_refused {b : Byte} (hbad : 64 ≤ b.toNat ∨ (s.lane l).diEn b.toNat = false) :
    s.diClrCnt l 0x4451 b = s.refuse l 0x88 b.toNat := by
  unfold State.diClrCnt
  rw [if_neg (by decide)]
  split
  case isTrue h => exact if_neg (by simp [hbad.resolve_left (by omega)])
  case isFalse => rfl

theorem dqClear_enabled {b : Byte} {ch : Fin 32} (hb : b.toNat = ch.val) (hen : (s.lane l).dqEn ch = true) (hport : s.portOpen l = true) :
    s.dqClear l 0x4451 b = if s.field.dq[ch].latched then
      (if s.field.dq[ch].cooled then s.dqRelease ch else s.dqUpd ch fun d => { d with clearHeld := true }).ok else s.ok := by
  obtain ⟨n, hn⟩ := ch
  dsimp only at hb
  subst hb
  unfold State.dqClear
  rw [if_neg (by decide), dif_pos hn, if_neg (by simp [hen]), hport]
  cases s.field.dq[(⟨b.toNat, hn⟩ : Fin 32)].latched with
  | false => rfl
  | true => exact (apply_ite (State.ok · 0) _ _ _).symm

theorem exec_diClrCnt_one (hlanes : s.lanesOf src = [l]) (k : Half) (b : Byte) : exec (.diClrCnt src k b) s = .next (s.diClrCnt l k b) :=
  congrArg Host.Outcome.next (perLane_one hlanes _)

theorem exec_dqClear_one (hlanes : s.lanesOf src = [l]) (k : Half) (b : Byte) : exec (.dqClear src k b) s = .next (s.dqClear l k b) :=
  congrArg Host.Outcome.next (perLane_one hlanes _)

/-! Outputs (R421-R423). -/

theorem exec_dqSwitchOnSlot_due {t : Nat} (hslot : s.field.slotAt = some t) (hqueue : s.field.queue ≠ []) (hu : u = s.advRun t) :
    exec .dqSwitchOnSlot s = .next ((u.field.queue.take 8).foldl (fun (x : State) (j : Fin 32) => x.dqUpd j fun d => { d with on := true })
      { u with field := { u.field with queue := u.field.queue.drop 8, slotAt := some (u.tb.run + nsU 250000) } }) := by
  subst hu
  show execDqSwitchOnSlot s = _
  unfold execDqSwitchOnSlot
  rw [hslot]
  exact if_neg (by simpa using hqueue)

theorem exec_lplusLow_falls {g : Fin 4} (hsupplied : s.field.lplusLow.getLsbD g = false)
    (hu : u = (List.finRange 32).foldl (fun (x : State) (j : Fin 32) => if j.val / 8 == g.val then x.dqUpd j fun d => { d with on := false } else x) s)
    (hv : v = u.dqLeave fun j => j.val / 8 == g.val) :
    exec (.lplusLow g) s =
      .next (({ v with field := { v.field with lplusLow := s.field.lplusLow ||| BitVec.ofNat 4 (2 ^ g.val) } } : State).raiseUp 0x87 g) := by
  subst hv hu
  exact congrArg Host.Outcome.next (if_neg (ne_true_of_eq_false hsupplied))

theorem dqLeave_queue {p : Fin 32 → Bool} {j : Fin 32} (hj : j ∈ (u.dqLeave p).field.queue) : p j = false := by
  unfold State.dqLeave at hj
  simpa using (List.mem_filter.1 hj).2

theorem exec_lplusReturn_rises {g : Fin 4} (hlow : s.field.lplusLow.getLsbD g = true) : exec (.lplusReturn g) s =
    .next ((({ s with field := { s.field with lplusLow := s.field.lplusLow &&& ~~~ BitVec.ofNat 4 (2 ^ g.val) } } : State).raiseUp 0x87 g).dqRejoin
      ((List.finRange 32).filter fun (j : Fin 32) => j.val / 8 == g.val)) :=
  if_neg (by rw [hlow]; decide)

section Channel

variable {ch : Fin 32}

theorem exec_dqOverload_first (hon : s.field.dq[ch].on = true) (hfirst : s.field.dq[ch].overload = false) :
    exec (.dqOverload ch) s = .next ((s.dqUpd ch fun d => { d with overload := true }).raiseUp 0x83 ch) :=
  if_pos (by rw [hon, hfirst]; decide)

theorem exec_dqOvertemp_first (hfirst : s.field.dq[ch].overtemp = false) : exec (.dqOvertemp ch) s = .next (((s.dqUpd ch fun d =>
    { d with overtemp := true, on := false, latched := !(s.lane s.act).flag (aDq ch) 0, cooled := false, clearHeld := false }).dqLeave (· == ch)).raiseUp 0x84 ch) :=
  if_neg (by rw [hfirst]; decide)

theorem exec_dqCooled_hot (hhot : s.field.dq[ch].overtemp = true) (hu : u = s.dqUpd ch fun d => { d with cooled := true }) :
    exec (.dqCooled ch) s = if !s.field.dq[ch].latched then
        .next (((u.dqUpd ch fun d => { d with restarts := satInc 16 d.restarts }).raiseUp 0x85 ch).dqRelease ch)
      else if s.field.dq[ch].clearHeld then .next (u.dqRelease ch) else .next u := by
  subst hu
  exact if_neg (by rw [hhot]; decide)

section Supplied

variable (hsupplied : s.lplusIsLow ch = false)
include hsupplied

theorem exec_dqOpenWire_off (htarget : s.field.dq[ch].target = false) (hmon : bitOf ((s.lane s.act).get (aDq ch)) 1 = true)
    (hfirst : s.field.dq[ch].openOff = false) :
    exec (.dqOpenWire ch) s = .next ((s.dqUpd ch fun d => { d with openOff := true }).raiseUp 0x86 ch) := by
  show execDqOpenWire ch s = _
  unfold execDqOpenWire
  rw [if_neg (by rw [hsupplied]; decide), if_pos (by rw [htarget, hmon, hfirst]; decide)]

theorem exec_dqOpenWire_on (htarget : s.field.dq[ch].target = true) (hmon : bitOf ((s.lane s.act).get (aDq ch)) 2 = true)
    (hfirst : s.field.dq[ch].openOn = false) :
    exec (.dqOpenWire ch) s = .next ((s.dqUpd ch fun d => { d with openOn := true }).raiseUp 0x86 ch) := by
  show execDqOpenWire ch s = _
  unfold execDqOpenWire
  rw [if_neg (by rw [hsupplied]; decide), if_neg (by rw [htarget, Bool.not_true, Bool.false_and, Bool.false_and]; decide),
    if_pos (by rw [htarget, hmon, hfirst]; decide)]

theorem exec_dqOpenWireClear_supplied :
    exec (.dqOpenWireClear ch) s = .next (s.dqUpd ch fun d => { d with openOff := false, openOn := false }) :=
  if_neg (by rw [hsupplied]; decide)

end Supplied

end Channel

/-- Settles O54: inputs by what the die samples, outputs by the channel's flags, DIO_CMD by the channel its byte names. -/
theorem digitalIoCommands : Obligations.DigitalIoCommands := by
  refine ⟨fun s u v ch level lim hsampling hen hfilt hlim hu hv => ⟨exec_diFilterChange_replaced hsampling hen hfilt hlim hu hv,
      exec_diFilterChange_edge hsampling hen hfilt hlim hu hv⟩,
    fun s u i level stamp => diEdge_silent, fun s ch => exec_diWireBreak_begins,
    fun s u v ch hsampling hwb hu hv => ⟨fun hf => ?_, fun hf => ?_⟩,
    fun s src l ch hlanes hen => ?_, fun s src l b hlanes hbad => ?_,
    fun s u t => exec_dqSwitchOnSlot_due,
    fun s u v g hsupplied hu hv => ⟨exec_lplusLow_falls hsupplied hu hv, fun j hj => ne_of_beq_false (dqLeave_queue (hv ▸ hj))⟩,
    fun s g => exec_lplusReturn_rises, fun s ch => ⟨exec_dqOverload_first, exec_dqOvertemp_first⟩,
    fun s u ch hhot hu => ⟨fun hauto => ?_, fun hlatched hheld => ?_, fun hlatched hfree => ?_⟩,
    fun s ch hsupplied => ⟨exec_dqOpenWire_off hsupplied, exec_dqOpenWire_on hsupplied, exec_dqOpenWireClear_supplied hsupplied⟩,
    fun s src l ch hlanes hen hport => ?_, fun s src k b => ⟨rfl, rfl⟩⟩
  · rw [exec_diWireBreakEnd_sampled hsampling hwb hu hv, if_pos (beq_of_eq hf)]
  · rw [exec_diWireBreakEnd_sampled hsampling hwb hu hv, if_neg (ne_true_of_eq_false (beq_false_of_ne hf))]
  · rw [exec_diClrCnt_one hlanes, diClrCnt_enabled (toNat_ofNat_byte (by omega)) hen]
    exact ⟨fun hopen => by rw [if_pos hopen], fun hclosed => by rw [if_neg (ne_true_of_eq_false hclosed)]⟩
  · rw [exec_diClrCnt_one hlanes, diClrCnt_refused hbad]
  · rw [exec_dqCooled_hot hhot hu, if_pos (by rw [hauto]; decide)]
  · rw [exec_dqCooled_hot hhot hu, if_neg (by rw [hlatched]; decide), if_pos hheld]
  · rw [exec_dqCooled_hot hhot hu, if_neg (by rw [hlatched]; decide), if_neg (ne_true_of_eq_false hfree)]
  · rw [exec_dqClear_one hlanes, dqClear_enabled (toNat_ofNat_byte (by omega)) hen hport]
    exact ⟨fun hlatched hcooled => by rw [if_pos hlatched, if_pos hcooled],
      fun hlatched hhot => by rw [if_pos hlatched, if_neg (ne_true_of_eq_false hhot)], fun hfree => by rw [if_neg (ne_true_of_eq_false hfree)]⟩

end Sys2Proof.Machine
end

section
/-! Pair records (chapter 18): what a READ selects, what its end moves and shows. -/
namespace Sys2Proof.Machine

variable {s u : State} {src : Src} {l : LaneId} {L : Lane} {op : PairOp}

/-! The newest copy (R441). -/

section Newest

variable {x y : Option (Word × Bytes)} {qa qb : Word} {da db : Bytes}

theorem pairNewest_later (hlater : 0 < (qb - qa).toInt) : pairNewest (some (qa, da)) (some (qb, db)) = some (true, qb, db, false) := by
  rw [← serial_diff] at hlater
  exact if_pos hlater

theorem pairNewest_earlier (hearlier : (qb - qa).toInt < 0) : pairNewest (some (qa, da)) (some (qb, db)) = some (false, qa, da, false) := by
  rw [← serial_diff] at hearlier
  unfold pairNewest
  dsimp only
  rw [if_neg (by omega), if_neg (by omega)]

theorem pairNewest_equal (hequal : (qb - qa).toInt = 0) : pairNewest (some (qa, da)) (some (qb, db)) = some (false, qa, da, da != db) := by
  rw [← serial_diff] at hequal
  unfold pairNewest
  dsimp only
  rw [if_neg (by omega), if_pos hequal]

/-- A READ is planned from the newest of its record's two copies. -/
theorem pairPlan_read (hx : x = s.pairCopy (s.lane l).pairOff (s.lane l).pairLen)
    (hy : y = s.pairCopy ((s.lane l).pairOff + pairStep (s.lane l).pairLen) (s.lane l).pairLen) :
    s.pairPlan l false = pairReadOp (pairNewest x y) := by
  subst hx hy
  unfold State.pairPlan
  rw [if_neg Bool.false_ne_true, State.pairNewest]

end Newest

/-! A lane's pair unit, from its command to its end (R440-R442). -/

/-- An idle unit with sound arguments takes a READ or a WRITE as planned. -/
theorem pairCmd_sound (hidle : (s.lane l).pairBusy = false) (hargs : (s.lane l).pairArgsOk = true) (write : Bool) :
    s.pairCmd l 0x5052 write = (s.upd l fun L => { L.setFlag (aPair 0x10) 31 true with pairOp := some (s.pairPlan l write) }).ok := by
  unfold State.pairCmd
  rw [if_neg (by decide), if_neg (by simp [hidle]), if_neg (by simp [hargs])]

/-- An operation that need not wait ends as its bank's protection then lets it. -/
theorem exec_pairUnitDone_free {op' : PairOp} (hop : (s.lane l).pairOp = some op) (hfree : s.pairWaits l op = false) (hnow : s.pairNow l op = op') :
    exec (.pairUnitDone l) s = .next (if op'.tie then ((s.pairMove l op').upd l (·.pairShow op')).raise l 0xEB
      else (s.pairMove l op').upd l (·.pairShow op')) := by
  subst hnow
  show execPairUnitDone l s = _
  unfold execPairUnitDone
  rw [hop]
  exact if_neg (by simp [hfree])

theorem pairWaits_read (hread : op.write = false) : s.pairWaits l op = false := by simp [State.pairWaits, hread]

theorem pairNow_read (hread : op.write = false) : s.pairNow l op = op := if_neg (by simp [hread])

theorem pairMove_noValid (hresult : op.result = 2) : s.pairMove l op = s := by
  unfold State.pairMove
  rw [hresult, if_neg (by decide), if_pos (by decide)]

theorem pairMove_read (hresult : op.result = 1) (hread : op.write = false) :
    s.pairMove l op = s.upd l (·.wrMem 0 ((s.lane l).getN (aPair 4)) op.data) := by
  unfold State.pairMove
  rw [hresult, if_neg (by decide), if_neg (by decide), if_neg (by simp [hread])]

/-! What the unit's registers show at the end. -/

theorem pairShow_failed (hresult : op.result ≠ 1) : L.pairShow op = L.pairEnd op.result := if_pos hresult

theorem pairShow_done (hresult : op.result = 1) : L.pairShow op =
    if op.tie then (((L.pairEnd 1).setFlag (aPair 0x10) 0 op.copyB).put (aPair 0x14) op.seq).setFlag (aPair 0x10) 8 true
    else ((L.pairEnd 1).setFlag (aPair 0x10) 0 op.copyB).put (aPair 0x14) op.seq := by
  unfold Lane.pairShow
  rw [hresult]
  rfl

theorem pairShow_mem : (L.pairShow op).mem = L.mem := by
  by_cases hresult : op.result = 1
  · rw [pairShow_done hresult]
    split <;> rfl
  · rw [pairShow_failed hresult]
    rfl

section Registers

variable (h : rfWf L.rf = true)
include h

theorem pairEnd_wf (result : Nat) : rfWf (L.pairEnd result).rf = true := setFld_wf (setFld_wf h ..) ..

theorem pairEnd_result (result : Nat) : (L.pairEnd result).fld (aPair 0x10) 12 4 = result % 2 ^ 4 :=
  fld_setFld (setFld_wf h ..) _ _ (by decide)

/-- PAIR_STAT of a done operation: RESULT and COPY as they were set, and PAIR_TIE where the copies tied. -/
theorem pairShow_stat (hresult : op.result = 1) : (L.pairShow op).get (aPair 0x10) =
    if op.tie then withField (withField ((L.pairEnd 1).get (aPair 0x10)) 0 1 (bit op.copyB)) 8 1 (bit true)
    else withField ((L.pairEnd 1).get (aPair 0x10)) 0 1 (bit op.copyB) := by
  have h1 := pairEnd_wf h 1
  have h2 : rfWf ((L.pairEnd 1).setFlag (aPair 0x10) 0 op.copyB).rf = true := setFld_wf h1 ..
  have hcopy : (((L.pairEnd 1).setFlag (aPair 0x10) 0 op.copyB).put (aPair 0x14) op.seq).get (aPair 0x10) =
      withField ((L.pairEnd 1).get (aPair 0x10)) 0 1 (bit op.copyB) := by
    rw [get_put_ne h2 _ (by decide)]
    exact get_put_same h1 ..
  rw [pairShow_done hresult]
  split
  · rw [← hcopy]
    exact get_put_same (put_wf h2 ..) ..
  · exact hcopy

theorem pairShow_seq (hresult : op.result = 1) : (L.pairShow op).get (aPair 0x14) = op.seq := by
  have h2 := setFld_wf (pairEnd_wf h 1) (aPair 0x10) 0 1 (bit op.copyB)
  rw [pairShow_done hresult]
  split
  · exact (get_setFld_ne (put_wf h2 ..) (by decide)).trans (get_put_same h2 ..)
  · exact get_put_same h2 ..

theorem pairShow_result (hresult : op.result = 1) : (L.pairShow op).fld (aPair 0x10) 12 4 = 1 := by
  unfold Lane.fld
  rw [pairShow_stat h hresult]
  have hend := pairEnd_result h 1
  unfold Lane.fld at hend
  split
  · rw [fieldOf_withField_ne _ (by decide) (by decide) (by decide), fieldOf_withField_ne _ (by decide) (by decide) (by decide)]
    exact hend
  · rw [fieldOf_withField_ne _ (by decide) (by decide) (by decide)]
    exact hend

theorem pairShow_copy (hresult : op.result = 1) : (L.pairShow op).flag (aPair 0x10) 0 = op.copyB := by
  unfold Lane.flag
  rw [pairShow_stat h hresult]
  split
  · rw [bitOf_withField_ne _ (by decide) (by decide) (by decide), bitOf_withField _ _ (by decide)]
  · rw [bitOf_withField _ _ (by decide)]

theorem pairShow_tie (hresult : op.result = 1) (htie : op.tie = true) : (L.pairShow op).flag (aPair 0x10) 8 = true := by
  unfold Lane.flag
  rw [pairShow_stat h hresult, if_pos htie, bitOf_withField _ _ (by decide)]

end Registers

/-- Settles O60: the selection by the serial difference of the two SEQs, the end by what is moved and what is shown. -/
theorem pairRecordNewest : Obligations.PairRecordNewest := by
  refine ⟨fun s l x y hx hy => ?_, fun s src l hlanes hidle hargs => ?_,
    fun s u l op hop hread hu => ?_, fun s l op => ⟨pairMove_noValid, pairMove_read⟩,
    fun L op h => ⟨pairShow_mem, fun hresult => ?_, fun hresult => ⟨pairShow_result h hresult, pairShow_copy h hresult, pairShow_seq h hresult, pairShow_tie h hresult⟩⟩⟩
  · rw [pairPlan_read hx hy]
    refine ⟨?_, ?_, ?_, ?_⟩
    · rintro rfl rfl
      rfl
    · rintro q d rfl rfl
      rfl
    · rintro q d rfl rfl
      rfl
    · rintro qa da qb db rfl rfl
      exact ⟨fun hlater => by rw [pairNewest_later hlater]; rfl, fun hearlier => by rw [pairNewest_earlier hearlier]; rfl,
        fun hequal => by rw [pairNewest_equal hequal]; rfl⟩
  · exact congrArg Host.Outcome.next ((perLane_one hlanes _).trans (pairCmd_sound hidle hargs false))
  · rw [exec_pairUnitDone_free hop (pairWaits_read hread) (pairNow_read hread), ← hu]
    exact ⟨fun hclear => congrArg Host.Outcome.next (if_neg (ne_true_of_eq_false hclear)), fun htie => congrArg Host.Outcome.next (if_pos htie)⟩
  · rw [pairShow_failed (by omega), hresult]
    exact pairEnd_result h 2

end Sys2Proof.Machine
end

section
/-! The Chest (chapter 18): stores, margin reads, protection, atomic groups, engine writes and the ends of pair records. -/
namespace Sys2Proof.Machine

variable {s u v w : State} {src : Src} {l : LaneId} {op : PairOp}

/-! STORE and protection at a lane's port (R426, R434, R435). -/

theorem chestStore_open (hopen : s.portOpen l = true) (mask : Byte) :
    s.chestStore l 0x4353 mask = { s with chest := s.chest.addPend mask, reply := .ok 0 } :=
  if_neg (by simp [hopen])

theorem chestStore_closed (hclosed : s.portOpen l = false) (mask : Byte) : s.chestStore l 0x4353 mask = s.ok :=
  if_pos (.inr (by simp [hclosed]))

theorem chestSetProt_written {p : Fin 4} (hopen : s.portOpen l = true) (hmay : s.chest.lock = false ∨ s.chest.prot = p) :
    s.chestSetProt l p = { s.updBoth (·.tvClear 0x4016000C) with chest := { s.chest with prot := p }, reply := .ok 0 } := by
  unfold State.chestSetProt
  rw [if_neg, if_pos hopen]
  rcases hmay with hfree | hsame
  · simp [hfree]
  · simp [hsame]

theorem chestSetProt_locked {p : Fin 4} (hlock : s.chest.lock = true) (hchange : s.chest.prot ≠ p) :
    s.chestSetProt l p = s.refuse l 0xEC := if_pos (by simp [hlock, hchange])

theorem chestLockIt_open (hopen : s.portOpen l = true) :
    s.chestLockIt l = { s with chest := { s.chest with lock := true }, reply := .ok 0 } := if_pos hopen

/-! Atomic groups (R437, R438). -/

theorem grpOpen_sound {g : Fin 8} {n base : Nat} {o : Fin 16} (hbase : base = (s.lane l).getN (aGrp g 0)) (hfree : (s.lane l).grpState g = 0)
    (hmin : 1 ≤ n) (hmax : n ≤ 64) (howner : o.val < 8 ∨ o = 15) (hregion : regionOf base = .chest)
    (hbank : chestBankOf (chestOff base) = chestBankOf (chestOff base + 4 * n - 1)) (hprot : s.chestProt (chestOff base) = false)
    (htouch : (s.lane l).grpTouch (chestOff base) (4 * n) = false) :
    s.grpOpen l g n o = (s.upd l fun L =>
      { L.setFld (aGrp g 8) 0 2 1 with grps := L.grps.set g { base := base, words := n, owner := o, buf := [] } }).ok := by
  have howner' : ¬ (8 ≤ o.val ∧ o.val ≠ 15) := by
    rcases howner with hlt | rfl
    · omega
    · decide
  subst hbase
  refine if_neg ?_
  simp only [hfree, hregion, ← hbank, hprot, htouch, Bool.or_eq_true, Bool.and_eq_true, bne_iff_ne, beq_iff_eq, decide_eq_true_eq, ne_eq,
    not_true_eq_false, false_or, or_false, Bool.false_eq_true]
  omega

theorem grpOpen_refused {g : Fin 8} {n : Nat} {o : Fin 16}
    (hbad : (s.lane l).grpState g ≠ 0 ∨ n = 0 ∨ 64 < n ∨ s.chestProt (chestOff ((s.lane l).getN (aGrp g 0))) = true) :
    s.grpOpen l g n o = s.refuse l 0xEC g := by
  refine if_pos ?_
  simp only [Bool.or_eq_true, bne_iff_ne, beq_iff_eq, decide_eq_true_eq, or_assoc]
  exact hbad.imp_right fun h => h.imp_right fun h => h.imp_right fun h => .inr (.inr (.inr (.inl h)))

theorem grpClose_open {g : Fin 8} (hopen : (s.lane l).grpState g = 1) :
    s.grpClose l g = (s.upd l fun L => { L.setFld (aGrp g 8) 0 2 2 with commits := L.commits ++ [g] }).ok := if_neg (not_not_intro hopen)

theorem grpDiscard_open {g : Fin 8} (hopen : (s.lane l).grpState g = 1) : s.grpDiscard l g = (s.upd l (·.grpDrop g)).ok :=
  if_neg (not_not_intro hopen)

/-- With no store under way and nothing to wait for at the other port, a commit waits no longer. -/
theorem portBehind_alone (hport : s.dualRun = false ∨ s.chestPort = l) (p : Lane → Bool) : s.portBehind l p = false := by
  unfold State.portBehind
  rcases hport with hsingle | hown
  · simp [hsingle]
  · simp [hown]

theorem grpWaits_free (hidle : s.chest.storing = none) (hport : s.dualRun = false ∨ s.chestPort = l) (g : Fin 8) : s.grpWaits l g = false := by
  unfold State.grpWaits
  rw [hidle, portBehind_alone hport]
  rfl

/-- The lane with its oldest commit gone: its group is free, and `k` is added to its count. -/
def Lane.grpDone (L : Lane) (g : Fin 8) (rest : List (Fin 8)) (k : Nat) : Lane :=
  { (L.grpDrop g).setFld (aGrp g 8) 16 16 (L.fld (aGrp g 8) 16 16 + k) with commits := rest }

section Commit

variable {g : Fin 8} {rest : List (Fin 8)} (hcommits : (s.lane l).commits = g :: rest) (hfree : s.grpWaits l g = false)
include hcommits hfree

theorem exec_chestGroupCommitApplied_oldest : exec (.chestGroupCommitApplied l) s = .next
    (if s.chestProt (s.lane l).grps[g].off then (s.raise l 0xEC g).upd l (·.grpDone g rest 0)
    else (if s.chestPort = l then (s.lane l).grps[g].buf.foldl (fun (x : State) p => x.chestPut p.1 [p.2]) s else s).upd l (·.grpDone g rest 1)) := by
  show Host.Outcome.next (s.grpApply l) = _
  unfold State.grpApply
  rw [hcommits]
  exact congrArg Host.Outcome.next (if_neg (ne_true_of_eq_false hfree))

end Commit

/-! Stores and margin reads (R426, R429, R436). -/

theorem exec_chestBankStoreEnd_storing {b : Fin 8} (hstoring : s.chest.storing = some b)
    (hu : u = { s with chest := { s.chest.storeBank b with storing := none } })
    (hv : v = u.chest.held.foldl (fun (x : State) e => if x.chestProt e.addr then x else x.chestPut e.addr e.data) { u with chest := { u.chest with held := [] } })
    (hw : w = { v with chest := v.chest.startNext }) :
    exec .chestBankStoreEnd s = .next (if w.chest.storing.isNone then w.raiseUp 0xE8 else w) := by
  subst hw hv hu
  show execChestBankStoreEnd s = _
  unfold execChestBankStoreEnd
  rw [hstoring]

/-- The Chest with a page of bank `b` found weak: its store is deferred, or asked for at once. -/
theorem exec_chestMarginRead_weak {b : Fin 8} {p : Fin 512} {c : Chest}
    (hc : c = s.chest.bankUpd b fun k => { k with weak := true, stored := false, deferred := k.deferred || s.chest.deferRefresh }) :
    exec (.chestMarginRead b p true) s = .next
      (({ s with chest := if s.chest.deferRefresh then c else c.addPend (BitVec.ofNat 8 (2 ^ b.val)) } : State).raiseUp 0xEA b) := by
  subst hc
  rfl

theorem exec_chestMarginRead_passes {b : Fin 8} {p : Fin 512} (hweak : s.chest.banks[b].weak = true) (hstored : s.chest.banks[b].stored = true) :
    exec (.chestMarginRead b p false) s = .next { s with chest := s.chest.bankUpd b fun k => { k with weak := false } } :=
  if_pos (by rw [hweak, hstored]; rfl)

/-! An engine's writes (R425, R433, R437). -/

section Engine

variable {e : Fin 16} {bs : Bytes}

theorem exec_chestWrite_inChest {a : Word} (hup : s.isUp l = true) (hne : bs ≠ []) (hlen : bs.length ≤ 8) (hfirst : regionOf a.toNat = .chest)
    (hlast : regionOf (a.toNat + bs.length - 1) = .chest) :
    exec (.chestWrite l e a bs) s = .next (s.chestEng l e (chestOff a.toNat) bs) := by
  show execChestWrite l e a bs s = _
  unfold execChestWrite
  rw [if_neg (by simp [hup, hne]), if_neg (by simp [hfirst, hlast, hlen])]

variable {o : Nat}

theorem chestEng_narrow (hlen : bs.length ≤ 4) : s.chestEng l e o bs = s.chestWord l e o bs := if_pos hlen

theorem chestEng_wide (hlen : 4 < bs.length) : s.chestEng l e o bs = (s.chestWord l e o (bs.take 4)).chestWord l e (o + 4) (bs.drop 4) :=
  if_neg (by omega)

theorem chestWord_buffered {g : Fin 8} (hgroup : (s.lane l).grpAt o = some g) :
    s.chestWord l e o bs = (s.upd l fun L => { L with grps := L.grps.set g (L.grps[g].store o bs) }).ok := by
  unfold State.chestWord
  dsimp only
  rw [hgroup]

variable (hgroup : (s.lane l).grpAt o = none)
include hgroup

theorem chestWord_protected (hprot : s.chestProt o = true) : s.chestWord l e o bs = s.refuse l 0xEC (chestBankOf o) := by
  unfold State.chestWord
  dsimp only
  rw [hgroup]
  exact if_pos hprot

theorem chestWord_array (hprot : s.chestProt o = false) (hidle : s.chest.storing = none) (hopen : s.portOpen l = true) :
    s.chestWord l e o bs = (s.chestPut o bs).ok := by
  unfold State.chestWord
  dsimp only
  rw [hgroup, hidle]
  dsimp only
  rw [if_neg (ne_true_of_eq_false hprot), if_neg (by simp), if_pos hopen]

/-- The entry of the log for a word that engine `e` of a standby writes. -/
def Lane.chestEntry (L : Lane) (l : LaneId) (e : Fin 16) (o : Nat) (bs : Bytes) : ChestWr :=
  { lane := l, engine := e, task := (L.engines[e].cur.map (·.val)).getD 15,
    cycle := (L.engines[e].cur.map fun t => L.getN (0x40020114 + 0x40 * t)).getD 0, addr := o, data := bs }

theorem chestWord_logged (hprot : s.chestProt o = false) (hclosed : s.portOpen l = false) (hdual : s.dualRun = true)
    (hroom : s.chest.log.length < 65536) : s.chestWord l e o bs =
      { s with chest := { s.chest with log := s.chest.log ++ [(s.lane l).chestEntry l e o bs] }, reply := .ok 0 } := by
  unfold State.chestWord
  dsimp only
  rw [hgroup]
  dsimp only
  rw [if_neg (ne_true_of_eq_false hprot), if_neg (by simp [hclosed]), if_neg (ne_true_of_eq_false hclosed), if_pos hdual, if_pos hroom]
  rfl

end Engine

/-! Pair records (R434, R440-R442). -/

theorem pairCmd_unsound (hidle : (s.lane l).pairBusy = false) (hargs : (s.lane l).pairArgsOk = false) (write : Bool) :
    s.pairCmd l 0x5052 write = (s.upd l (·.pairEnd 4)).refuse l 0xEC := by
  unfold State.pairCmd
  rw [if_neg (by decide), if_neg (ne_true_of_eq_false hidle), if_pos (by simp [hargs])]

/-- READ and WRITE are the one command of a lane's pair unit. -/
theorem exec_pairRecord_one (hlanes : s.lanesOf src = [l]) (key : Half) (write : Bool) :
    exec (if write then .pairRecordWrite src key else .pairRecordRead src key) s = .next (s.pairCmd l key write) := by
  cases write <;> exact congrArg Host.Outcome.next (perLane_one hlanes _)

theorem pairPlan_write {b : Bool} {q : Word} (hprot : s.chestProt (s.lane l).pairOff = false)
    (htarget : s.pairTarget (s.lane l).pairOff (s.lane l).pairLen = (b, q)) : s.pairPlan l true =
      { write := true, result := 1, copyB := b, seq := q, tie := false, data := memRead (s.lane l).mem ((s.lane l).getN (aPair 4)) (s.lane l).pairLen } := by
  unfold State.pairPlan
  rw [if_pos rfl, if_neg (ne_true_of_eq_false hprot), htarget]

theorem pairPlan_newest {b tie : Bool} {q : Word} {d : Bytes} (hnewest : s.pairNewest (s.lane l).pairOff (s.lane l).pairLen = some (b, q, d, tie)) :
    s.pairPlan l false = { write := false, result := 1, copyB := b, seq := q, tie := tie, data := d } := by
  rw [pairPlan_read rfl rfl]
  exact congrArg pairReadOp hnewest

theorem pairWaits_free (hfree : op.write = false ∨ op.result ≠ 1 ∨ (s.chest.storing = none ∧ (s.dualRun = false ∨ s.chestPort = l))) :
    s.pairWaits l op = false := by
  rcases hfree with hread | hresult | ⟨hidle, hport⟩
  · exact pairWaits_read hread
  · simp [State.pairWaits, hresult]
  · unfold State.pairWaits
    rw [hidle, portBehind_alone hport]
    simp

theorem pairNow_eq (s : State) (l : LaneId) (op : PairOp) : s.pairNow l op =
    if op.write = true ∧ op.result = 1 ∧ s.chestProt (s.lane l).pairOff = true then { op with result := 3 } else op := by
  unfold State.pairNow
  simp only [Bool.and_eq_true, decide_eq_true_eq, and_assoc]

theorem pairMove_nothing (h1 : op.result ≠ 1) (h3 : op.result ≠ 3) : s.pairMove l op = s := by
  unfold State.pairMove
  rw [if_neg h3, if_pos h1]

theorem pairMove_protected (h3 : op.result = 3) : s.pairMove l op = s.raise l 0xEC (chestBankOf (s.lane l).pairOff) := if_pos h3

theorem pairMove_write (h1 : op.result = 1) (hwrite : op.write = true) :
    s.pairMove l op = if s.chestPort = l then s.pairPut (s.lane l).pairOff op.copyB op.seq op.data else s := by
  unfold State.pairMove
  rw [h1, if_neg (by decide), if_neg (by decide), if_pos hwrite]

/-- Settles O55: the commands at one lane's port, the bank's store and its commits by what they wait for, an engine's word by
where it belongs, a pair operation by its plan and its result. -/
theorem chestCommands : Obligations.ChestCommands := by
  refine ⟨fun s src l hlanes => ?_, fun s u v w b hstoring hu hv hw => ?_, fun s b p c hc => ⟨fun hdefer => ?_, fun hnow => ?_, exec_chestMarginRead_passes⟩,
    fun s u l g rest hcommits hfree => ⟨fun hprot hu => ?_, fun hprot => ?_⟩, fun s l g hidle hport => grpWaits_free hidle hport g,
    fun s l e a bs hup hne hlen hfirst hlast => ?_, fun s l e a bs hup hmin hlen hfirst hlast => ?_,
    fun s l e o bs => ⟨fun g => chestWord_buffered, chestWord_protected, chestWord_array, fun hgroup hprot hclosed hdual hroom =>
      ⟨(s.lane l).chestEntry l e o bs, rfl, rfl, rfl, rfl, chestWord_logged hgroup hprot hclosed hdual hroom⟩⟩,
    fun s u l op0 op hop hfree hnow hu => ?_,
    fun s l op => ⟨pairMove_nothing, pairMove_protected, fun h1 hwrite hport => ?_, fun h1 hwrite hport => ?_⟩,
    fun s src k g => ⟨rfl, rfl, rfl, rfl, rfl⟩⟩
  · have one (f : LaneId → State → State) := congrArg (Host.Outcome.next (φ := Fault) (ρ := Refusal)) (perLane_one hlanes f)
    refine ⟨fun mask => ⟨fun hopen => (one _).trans ?_, fun hclosed => (one _).trans ?_⟩,
      fun p => ⟨fun hopen hmay => (one _).trans ?_, fun hlock hchange => (one _).trans ?_⟩, fun hopen => (one _).trans ?_,
      fun g n base o hbase hfree hmin hmax howner hregion hbank hprot htouch => (one _).trans ?_, fun g n o hbad => (one _).trans ?_,
      fun g hopen => ⟨(one _).trans ?_, (one _).trans ?_⟩, fun hidle hargs write => ?_, fun hidle hargs write => ?_,
      fun b q => pairPlan_write, fun b tie q d => pairPlan_newest⟩
    · rw [chestStore_open hopen]
    · rw [chestStore_closed hclosed]
    · rw [chestSetProt_written hopen hmay]
    · rw [chestSetProt_locked hlock hchange]
    · rw [chestLockIt_open hopen]
    · exact congrArg Host.Outcome.next (grpOpen_sound hbase hfree hmin hmax howner hregion hbank hprot htouch)
    · exact congrArg Host.Outcome.next (grpOpen_refused hbad)
    · exact congrArg Host.Outcome.next (grpClose_open hopen)
    · exact congrArg Host.Outcome.next (grpDiscard_open hopen)
    · rw [exec_pairRecord_one hlanes, pairCmd_unsound hidle hargs]
    · rw [exec_pairRecord_one hlanes, pairCmd_sound hidle hargs]
  · rw [exec_chestBankStoreEnd_storing hstoring hu hv hw]
    exact ⟨fun hlast => by rw [hlast]; rfl, fun hnext => congrArg Host.Outcome.next (if_neg (by simpa using hnext))⟩
  · rw [exec_chestMarginRead_weak hc, if_pos hdefer]
  · rw [exec_chestMarginRead_weak hc, if_neg (ne_true_of_eq_false hnow)]
  · rw [exec_chestGroupCommitApplied_oldest hcommits hfree, if_neg (ne_true_of_eq_false hprot), ← hu]
    rfl
  · rw [exec_chestGroupCommitApplied_oldest hcommits hfree, if_pos hprot]
    rfl
  · rw [exec_chestWrite_inChest hup hne (by omega) hfirst hlast, chestEng_narrow hlen]
  · rw [exec_chestWrite_inChest hup (List.ne_nil_of_length_pos (by omega)) hlen hfirst hlast, chestEng_wide hmin]
  · rw [exec_pairUnitDone_free hop (pairWaits_free hfree) ((pairNow_eq s l op0).trans hnow.symm), ← hu]
    exact ⟨fun hclear => congrArg Host.Outcome.next (if_neg (ne_true_of_eq_false hclear)), fun htie => congrArg Host.Outcome.next (if_pos htie)⟩
  · rw [pairMove_write h1 hwrite, if_pos hport]
  · rw [pairMove_write h1 hwrite, if_neg hport]

end Sys2Proof.Machine
end

section
/-! The recorder (chapter 19): watch points and their periods, tallies, record writes, the scan and the commands. -/
namespace Sys2Proof.Machine

variable {s u : State} {src : Src} {l : LaneId}

/-! Watch points (R447, R448). -/

theorem exec_recWatchSample_on {w : Fin 1024} (havail : (s.lane s.act).recAvail = true) (hon : (s.lane s.act).watchOn w = true)
    (hu : u = s.advTo (s.watchAt w)) : exec (.recWatchSample w) s =
      .next (u.each u.ups fun l x => (x.watchSample l w).upd l (·.watchServed w (s.watchAt w))) := by
  subst hu
  exact if_neg (by simp [havail, hon])

theorem dvd_watchAt (s : State) (w : Nat) : msU (100 * u16At ((s.lane s.act).watchE w) 8) ∣ s.watchAt w := by
  unfold State.watchAt
  dsimp only
  split
  · exact Nat.dvd_add (Nat.dvd_mul_left ..) (Nat.dvd_refl _)
  · exact Nat.dvd_mul_left ..

/-- A source that has delivered nothing gives a missed sample. -/
theorem watchSample_undelivered {w : Nat} {x : Watch} {raw : F64} (hwatch : (s.lane l).watch? w = some x) (hruns : (s.lane l).recRuns = true)
    (hon : (s.lane l).watchOn w = true) (hsrc : s.srcVal l (u8At ((s.lane l).watchE w) 3) (u32At ((s.lane l).watchE w) 4) = (raw, none)) :
    s.watchSample l w = s.upd l (·.setWatch w { x with missed := x.missed + 1 }) := by
  unfold State.watchSample
  dsimp only
  rw [hwatch]
  dsimp only
  rw [if_neg (by simp [hruns, hon]), hsrc]
  rfl

theorem watchBin_below {v lo : F64} (hi : F64) (h : flt v lo = true) : watchBin v lo hi = 0 := if_pos h

theorem watchBin_above {v lo hi : F64} (hlo : flt v lo = false) (hhi : flt v hi = false) : watchBin v lo hi = 15 := by
  unfold watchBin
  rw [if_neg (ne_true_of_eq_false hlo), if_pos (by rw [hhi]; rfl)]

theorem watchBin_within {v lo hi : F64} (hlo : flt v lo = false) (hhi : flt v hi = true) : 1 ≤ watchBin v lo hi ∧ watchBin v lo hi ≤ 14 := by
  unfold watchBin
  rw [if_neg (ne_true_of_eq_false hlo), if_neg (by rw [hhi]; decide)]
  omega

/-- The state in which the end of a watch point's period is looked for: with OSF set, that at which its length has passed. -/
def State.periodAt (s : State) (w : Nat) : State :=
  match s.osf, (s.lane s.act).watch? w with
  | true, some x => s.advRun (x.startAt + sU (watchSecs ((s.lane s.act).watchE w)))
  | _, _ => s

theorem periodAt_eq {w : Nat} (hcal : s.osf = false → u = s)
    (hlen : ∀ x, s.osf = true → (s.lane s.act).watch? w = some x → u = s.advRun (x.startAt + sU (watchSecs ((s.lane s.act).watchE w))))
    (hnone : s.osf = true → (s.lane s.act).watch? w = none → u = s) : s.periodAt w = u := by
  unfold State.periodAt
  split
  case h_1 x hosf hwatch => exact (hlen x hosf hwatch).symm
  case h_2 hother =>
    cases hosf : s.osf with
    | false => exact (hcal hosf).symm
    | true =>
      cases hwatch : (s.lane s.act).watch? w with
      | none => exact (hnone hosf hwatch).symm
      | some x => exact absurd hwatch (hother x hosf)

theorem exec_recPeriodEnd (w : Fin 1024) : exec (.recPeriodEnd w) s = .next ((s.periodAt w).each (s.periodAt w).ups fun l x =>
    if (x.lane l).recRuns && x.watchDue l w then (x.watchEnd l w false).upd l (·.setWatch w (x.watchNew false)) else x) := rfl

/-! Tallies (R449, R450). -/

theorem recRaise_taken {req : Requester} {c : Nat} {r : Lane × Bool} (hon : (s.lane l).tallyOn c = true) (hevt : (s.lane l).tallyEvt c = false)
    (hruns : (s.lane l).recRuns = true) (hr : r = (s.lane l).recOccur s.tbW s.rtcW s.tb.run c ((s.lane l).recVal req)) :
    s.recRaise l req 0x5458 c = (if r.2 then (s.setLane l r.1).raise l 0xED else s.setLane l r.1).ok := by
  subst hr
  unfold State.recRaise
  rw [if_neg (by decide), if_neg (by simp [hon, hevt]), if_neg (by simp [hruns])]

theorem recRaise_refused {req : Requester} {c : Nat} (hbad : (s.lane l).tallyOn c = false ∨ (s.lane l).tallyEvt c = true) :
    s.recRaise l req 0x5458 c = s.refuse l 0xEF c := by
  unfold State.recRaise
  rw [if_neg (by decide), if_pos]
  rcases hbad with hoff | hevt
  · rw [hoff]
    rfl
  · rw [hevt, Bool.or_true]

theorem exec_recTallyRewriteDue_due {c : Fin 1024} {d : Nat} (hd : (s.ups.filterMap fun l => (s.lane l).tallyDueAt c).min? = some d)
    (hu : u = s.advRun d) : exec (.recTallyRewriteDue c) s = .next (u.each u.ups fun l x => x.recRewrite l c) := by
  subst hu
  show execRecTallyRewriteDue c s = _
  unfold execRecTallyRewriteDue
  rw [hd]

theorem recRewrite_due {c t : Nat} (ht : (s.lane l).tallyDueAt c = some t) (hnow : t ≤ s.tb.run) : s.recRewrite l c =
    (s.upd l fun L => L.setTally c { L.tally c with due := false, lastWrite := some s.tb.run }).recPush l (.tally c) := by
  unfold State.recRewrite
  rw [ht]
  exact if_pos hnow

/-! Record writes and the scan (R451, R452, R454, R455). -/

theorem recBehind_alone (hport : s.dualRun = false ∨ s.chestPort = l) : s.recBehind l = false := portBehind_alone hport _

section Write

variable {j : RecJob} {rest : List RecJob} (hruns : (s.lane l).recRuns = true) (hfree : s.recBehind l = false)
  (hqueue : (s.lane l).recU.queue = j :: rest) (hu : u = s.upd l fun L => { L with recU := { L.recU with queue := rest } })
include hruns hfree hqueue hu

theorem exec_recRecordWrite_lost (hslot : s.recSlotFor l j = none) : exec (.recRecordWrite l) s = .next (u.recLost l) := by
  subst hu
  show execRecRecordWrite l s = _
  unfold execRecRecordWrite
  dsimp only
  rw [if_neg (by simp [hruns, hfree]), hqueue]
  dsimp only
  rw [hslot]

theorem exec_recRecordWrite_put {i : Nat} (hslot : s.recSlotFor l j = some i) (hidle : s.chest.storing = none) :
    exec (.recRecordWrite l) s = .next (u.recPut l i j) := by
  subst hu
  show execRecRecordWrite l s = _
  unfold execRecRecordWrite
  dsimp only
  rw [if_neg (by simp [hruns, hfree]), hqueue]
  dsimp only
  rw [hslot, hidle]
  exact if_neg (by simp)

end Write

theorem recStore_taken {i kind sev id : Nat} {body : Bytes} {a : Nat} (ha : a = (s.lane l).recRegion + 128 * i) (hprot : s.chestProt a = false)
    (hopen : s.portOpen l = true) : s.recStore l i kind sev id body =
      (s.chestPut a (leBytes 4 (recSeqNext (u32At (memRead s.chest.array a 4) 0)) ++
        recBytes kind sev id ((s.lane l).get (aRec 0xC)) s.rtcW body)).upd l (·.recNote s.rtcW i kind sev id) := by
  subst ha
  unfold State.recStore
  dsimp only
  rw [if_neg (ne_true_of_eq_false hprot), if_pos hopen]

/-- SEQ of a slot goes on in steps of 2 from the even number below it, and skips 0. -/
theorem recSeqNext_spec (q : Nat) : recSeqNext q % 2 = 0 ∧ recSeqNext q ≠ 0 ∧ recSeqNext q < 2 ^ 32 := by
  unfold recSeqNext
  dsimp only
  split <;> omega

theorem exec_recScanEnd_scanning (hscan : (s.lane l).flag (aRec 0) 2 = true) : exec (.recScanEnd l) s = .next (s.recScan l) :=
  congrArg Host.Outcome.next (if_pos hscan)

/-! CLEAR and CLR_CNT (R454). -/

theorem recClear_otherMode (hmode : s.mode.mode ≠ .stop) : s.recClear l 0x5243 = s.refuse l 0xEF := by
  unfold State.recClear
  rw [if_neg (by decide), if_pos hmode]

/-- With nothing protected CLEAR frees every slot of the table. -/
theorem recClear_stop (hmode : s.mode.mode = .stop) (hprot : ∀ a, s.chestProt a = false) : s.recClear l 0x5243 =
    (((s.recTable l).foldl (fun (x : State) p => if x.portOpen l then x.chestPut ((s.lane l).recRegion + 128 * p.1) (zeros 4) else x) s).upd l fun L =>
      { L with recU := { L.recU with tallies := [], slots := L.recU.slots.map fun _ => [] } }).ok := by
  have hheld : ((s.recTable l).filter fun p => s.chestProt ((s.lane l).recRegion + 128 * p.1)) = [] :=
    List.filter_eq_nil_iff.2 fun p _ => ne_true_of_eq_false (hprot _)
  have hall : ((s.recTable l).filter fun p => !([] : List (Nat × RecSlot)).contains p) = s.recTable l := List.filter_eq_self.2 fun _ _ => rfl
  unfold State.recClear
  dsimp only
  rw [if_neg (by decide), if_neg (not_not_intro hmode), hheld, hall]
  rfl

/-- Settles O56: samples and periods by the watch point's state, tallies by what the drawer enables, a write by its slot. -/
theorem recorderCommands : Obligations.RecorderCommands := by
  refine ⟨fun s u w havail hon hu => exec_recWatchSample_on havail hon hu, dvd_watchAt,
    fun s l w x raw hwatch hruns hon hsrc => watchSample_undelivered hwatch hruns hon hsrc,
    fun v lo hi => ⟨watchBin_below hi, watchBin_above, watchBin_within⟩,
    fun s u w hcal hlen hnone => ?_, fun s src l c hlanes => ?_, fun s src hne => ⟨fun d => ?_, ?_⟩,
    fun s u c d hd hu => exec_recTallyRewriteDue_due hd hu, fun s l c t ht hnow => recRewrite_due ht hnow,
    fun s u l j rest hruns hfree hqueue hu => ⟨exec_recRecordWrite_lost hruns hfree hqueue hu, fun i => exec_recRecordWrite_put hruns hfree hqueue hu⟩,
    fun s l => recBehind_alone, fun s l i kind sev id body a => recStore_taken, fun q _ => recSeqNext_spec q, fun s l => exec_recScanEnd_scanning⟩
  · rw [exec_recPeriodEnd, periodAt_eq hcal hlen hnone]
  · have one (f : LaneId → State → State) := congrArg (Host.Outcome.next (φ := Fault) (ρ := Refusal)) (perLane_one hlanes f)
    refine ⟨fun hon hevt hruns r hr => ⟨fun hkept => (one _).trans ?_, fun hdrop => (one _).trans ?_⟩, fun hbad => (one _).trans ?_,
      fun hmode => (one _).trans ?_, fun hmode hprot => (one _).trans ?_⟩
    · rw [recRaise_taken hon hevt hruns hr, if_neg (ne_true_of_eq_false hkept)]
    · rw [recRaise_taken hon hevt hruns hr, if_pos hdrop]
    · rw [recRaise_refused hbad]
    · rw [recClear_otherMode hmode]
    · rw [recClear_stop hmode hprot]
  · obtain ⟨hlanes, hreply⟩ := perLane_upd_ok (s := s) (src := src)
      (f := fun L => { L with recU := { L.recU with latches := (L.recU.latches.filter fun p => p.1 != src.req) ++ [(src.req, d)] } }) hne
    exact ⟨_, rfl, hreply, hlanes⟩
  · obtain ⟨hlanes, hreply⟩ := perLane_upd_ok (f := (·.put (aRec 8) 0)) hne
    exact ⟨_, rfl, hreply, hlanes⟩

end Sys2Proof.Machine
end

section
/-! Keys (chapter 20): slot commands and their ends, the scrub, attestation, the root seed and the anchors. -/
namespace Sys2Proof.Machine

variable {s u v : State} {src : Src} {l : LaneId}

/-! Why a command on a slot is refused (R459, R465). -/

theorem slotRefusal_eq_zero_iff (s : State) (l : LaneId) (k : Fin 32) (a : Half) : s.slotRefusal l k a = 0 ↔ s.keeper.rootSeed ≠ none ∧
    ((s.lane l).keys.slots[k].attr.getLsbD 9 = false ∨ s.provLatch = true) ∧ attrLegal a = true := by
  unfold State.slotRefusal
  split
  case isTrue hnone => exact iff_of_false (by decide) fun ⟨hseed, _⟩ => hseed (Option.isNone_iff_eq_none.1 hnone)
  case isFalse hsome =>
    have hseed : s.keeper.rootSeed ≠ none := fun h => hsome (by rw [h]; rfl)
    split
    case isTrue hlocked =>
      rw [Bool.and_eq_true, Bool.not_eq_true'] at hlocked
      refine iff_of_false (by decide) fun ⟨_, hmay, _⟩ => ?_
      rcases hmay with hfree | hlatch
      · exact absurd (hfree.symm.trans hlocked.1) (by decide)
      · exact absurd (hlocked.2.symm.trans hlatch) (by decide)
    case isFalse hmay =>
      rw [Bool.and_eq_true, Bool.not_eq_true', Classical.not_and_iff_not_or_not, Bool.not_eq_true, Bool.not_eq_false] at hmay
      split
      case isTrue hbad => exact iff_of_false (by decide) fun ⟨_, _, hlegal⟩ => by simp [hlegal] at hbad
      case isFalse hlegal => exact iff_of_true rfl ⟨hseed, hmay, by simpa using hlegal⟩

section Derive

variable {k : Fin 32} {ks : KeySlot} (hks : ks = (s.lane l).keys.slots.getD ((s.lane l).fld (aKey 0x48) 0 5) KeySlot.init)
include hks

theorem deriveRefusal_notValid (hstate : ks.state ≠ 1) : s.deriveRefusal l k = 5 := by
  subst hks
  exact if_pos hstate

variable (hvalid : ks.state = 1)
include hvalid

theorem deriveRefusal_noKdf (hkdf : ks.attr.getLsbD 3 = false) : s.deriveRefusal l k = 2 := by
  subst hks
  unfold State.deriveRefusal Lane.deriveFrom
  dsimp only
  rw [if_neg (not_not_intro hvalid), hkdf, Bool.not_false, Bool.true_or, if_pos rfl]

/-- A derivation from a sound source with a label and no context is refused as a write of its slot is, and as output never. -/
theorem deriveRefusal_sound (hkdf : ks.attr.getLsbD 3 = true) (hinternal : ks.attr.getLsbD 8 = false)
    (hlabel : (s.lane l).fld (aKey 0x48) 16 6 < (s.lane l).keyLabels) (hcontext : (s.lane l).fld (aKey 0x48) 24 8 = 0) :
    s.deriveRefusal l k = if bitOf ((s.lane l).get (aKey 0x48)) 15 then 0 else s.slotRefusal l k (s.lane l).keyAttr := by
  subst hks
  unfold Lane.fld at hlabel hcontext
  unfold State.deriveRefusal Lane.deriveFrom
  dsimp only
  rw [if_neg (not_not_intro hvalid), if_neg (by rw [hkdf, hinternal]; simp), hcontext, if_neg]
  simp only [Nat.not_le.2 hlabel, ne_eq, not_true_eq_false, false_and, or_false, false_or]
  decide

end Derive

/-! WRITE, ERASE and DERIVE (R459, R465). -/

theorem keyCmd_idle {req : Requester} (hwho : s.keyWho l req = 0) (hidle : (s.lane l).keys.cmd = none) (f : State → State) :
    s.keyCmd l req 0x4B59 f = f s := by
  unfold State.keyCmd
  rw [hwho, hidle, if_neg (by decide), if_neg (by decide), if_neg (by decide)]

section SlotCommand

variable {k : Fin 32} (hlanes : s.lanesOf src = [l]) (hwho : s.keyWho l src.req = 0) (hidle : (s.lane l).keys.cmd = none)
include hlanes hwho hidle

theorem exec_keyWrite_idle : exec (.keyWrite src 0x4B59 k) s = .next
    (if s.slotRefusal l k (s.lane l).keyAttr ≠ 0 then (s.keyRefuse l (s.slotRefusal l k (s.lane l).keyAttr)).upd l (·.keyWipe)
    else s.keyAccept l src.req 1 k (s.lane l).keyStaged (s.lane l).keyAttr) :=
  congrArg Host.Outcome.next ((perLane_one hlanes _).trans (keyCmd_idle hwho hidle _))

theorem exec_keyErase_idle : exec (.keyErase src 0x4B59 k) s = .next
    (if (s.lane l).keys.slots[k].attr.getLsbD 9 && !s.provLatch then s.keyRefuse l 3 else s.keyAccept l src.req 2 k 0 0) :=
  congrArg Host.Outcome.next ((perLane_one hlanes _).trans (keyCmd_idle hwho hidle _))

theorem exec_keyDerive_idle : exec (.keyDerive src 0x4B59 k) s = .next (if s.deriveRefusal l k ≠ 0 then s.keyRefuse l (s.deriveRefusal l k)
    else s.keyAccept l src.req (if bitOf ((s.lane l).get (aKey 0x48)) 15 then 3 else 1) k (s.lane l).derived (s.lane l).keyAttr) :=
  congrArg Host.Outcome.next ((perLane_one hlanes _).trans (keyCmd_idle hwho hidle _))

end SlotCommand

/-! The end of a command, forwarding and the scrub (R460-R462). -/

/-- The lane with its key command done: RESULT shows 1, the staged words are wiped and no command runs. -/
def Lane.keyCmdEnded (L : Lane) : Lane :=
  ((L.setFlag (aKey 0x50) 31 false).setFld (aKey 0x50) 0 4 1).keyWipe.keyUpd fun q => { q with cmd := none }

theorem exec_keyCmdDone_running {c : KeyCmd} (hcmd : (s.lane l).keys.cmd = some c) (hu : u = s.upd l (·.keyCmdEnded)) (hv : v = u.keyApply l c) :
    exec (.keyCmdDone l) s =
      if c.op = 3 then .next (u.upd l fun L => L.putWords (aKey 0x60) ((List.range 8).map fun i => c.value.extractLsb' (32 * i) 32))
      else if !c.effective then .next u
      else .next (if c.forward && v.isUp (other l) then v.upd (other l) fun L => L.keyUpd fun q => { q with fwd := q.fwd ++ [c] } else v) := by
  subst hv hu
  show execKeyCmdDone l s = _
  unfold execKeyCmdDone
  rw [hcmd]
  rfl

theorem exec_keyForwardedOp_oldest {c : KeyCmd} {rest : List KeyCmd} (hfwd : (s.lane l).keys.fwd = c :: rest) :
    exec (.keyForwardedOp l) s = .next ((s.upd l fun L => L.keyUpd fun q => { q with fwd := rest }).keyApply l c) := by
  show execKeyForwardedOp l s = _
  unfold execKeyForwardedOp
  rw [hfwd]

theorem exec_keyScrub_sound (k : Fin 32) : exec (.keyScrub l k true) s = .next s := by
  show execKeyScrub l k true s = _
  unfold execKeyScrub
  rw [Bool.true_or, Bool.true_or, if_pos rfl]

theorem exec_keyScrub_failed {k : Fin 32} (hup : s.isUp l = true) (hvalid : (s.lane l).keys.slots[k].state = 1) :
    exec (.keyScrub l k false) s = .next (if s.mode.mode = .run then (s.keyBad l k).keyBad (other l) k else s.keyBad l k) := by
  show execKeyScrub l k false s = _
  unfold execKeyScrub
  rw [hvalid, hup, if_neg (by decide)]
  dsimp only
  rw [keyBad_mode]
  exact congrArg Host.Outcome.next (ite_congr (propext beq_iff_eq) (fun _ => rfl) fun _ => rfl)

/-! Attestation (R472, R473). -/

section Attest

variable (hlanes : s.lanesOf src = [l]) (hwho : s.keyWho l src.req = 0)
include hlanes hwho

theorem exec_attest_keyed : exec (.attest src 0x4154) s = .next
    (if src.req == .uart || (s.lane l).img.isNone || s.mode.mode == .reset || s.mode.mode == .retain || (s.lane l).keys.attBusy || (s.lane l).keys.keygen
    then s.attRefuse l 5 else if src.req == .hc && l != s.act then s.ok else s.attStart l (s.lane l).attNonce (src.req == .hc)) := by
  refine congrArg Host.Outcome.next ((perLane_one hlanes _).trans ?_)
  unfold State.attest
  dsimp only
  rw [hwho, if_neg (by decide), if_neg (by decide)]
  rfl

theorem exec_attest_starts (huart : src.req ≠ .uart) (himg : (s.lane l).img ≠ none) (hreset : s.mode.mode ≠ .reset)
    (hretain : s.mode.mode ≠ .retain) (hbusy : (s.lane l).keys.attBusy = false) (hgen : (s.lane l).keys.keygen = false)
    (hserves : src.req ≠ .hc ∨ l = s.act) :
    exec (.attest src 0x4154) s = .next (s.attStart l (s.lane l).attNonce (src.req == .hc)) := by
  rw [exec_attest_keyed hlanes hwho, if_neg (by simp [huart, himg, hreset, hretain, hbusy, hgen]), if_neg]
  rcases hserves with hother | hact
  · simp [hother]
  · simp [hact]

theorem exec_attest_refused (hbad : (s.lane l).img = none ∨ (s.lane l).keys.attBusy = true ∨ (s.lane l).keys.keygen = true) :
    exec (.attest src 0x4154) s = .next (s.attRefuse l 5) := by
  rw [exec_attest_keyed hlanes hwho, if_pos]
  rcases hbad with himg | hbusy | hgen
  · simp [himg]
  · simp [hbusy]
  · simp [hgen]

end Attest

theorem attStart_noIdentity {n : Big} {hc : Bool} (hseed : s.keeper.rootSeed = none) : s.attStart l n hc =
    ((s.upd l fun L => (L.put (aAtt 4) 0).keyUpd fun q => { q with att := [] }).upd l (·.setFld (aAtt 0) 0 4 2)).ok :=
  if_pos (by rw [hseed]; rfl)

/-- The lane with its statement ended with `result`. -/
def Lane.attEnded (L : Lane) (result : Nat) : Lane :=
  ((L.setFlag (aAtt 0) 31 false).setFld (aAtt 0) 0 4 result).keyUpd fun q => { q with attBusy := false }

theorem exec_attestDone_busy {n : Nat} {out : Bytes} (hbusy : (s.lane l).keys.attBusy = true)
    (hn : n = Config.mldsaAttempts (s.keeper.rootSeed.getD 0) (s.attMessage l))
    (hout : out = s.attMessage l ++ slice (Config.mldsaSign (s.keeper.rootSeed.getD 0) "EMKOLE-ATTEST" (s.attMessage l)) 0 3309) :
    exec (.attestDone l) s = if 32 < n then .next (s.upd l (·.attEnded 3)) else .next ((s.upd l fun L =>
      (((L.attEnded 1).setFld (aAtt 0) 16 8 n).putN (aAtt 4) out.length).keyUpd fun q => { q with att := out }).raise l 0xF4) := by
  subst hout hn
  exact if_neg (by simp [hbusy])

/-! The root seed (R468). -/

section Seed

variable (hne : s.lanesOf src ≠ []) (hl : l = s.readLane src) (hwho : s.keyWho l src.req = 0)
include hne hl hwho

theorem seedSet_refused (hbad : s.mode.mode ≠ .configure ∨ s.provLatch = false) :
    s.seedSet src 0x4154 = s.each (s.lanesOf src) fun l x => (x.attRefuse l 5).upd l (·.seedWipe) := by
  subst hl
  unfold State.seedSet
  dsimp only
  rw [if_neg (by simp [hne, hwho]), if_neg (by decide), if_pos]
  rcases hbad with hmode | hlatch
  · exact .inl hmode
  · exact .inr (.inl (by rw [hlatch]; rfl))

theorem seedSet_taken (hmode : s.mode.mode = .configure) (hlatch : s.provLatch = true) (hbusy : (s.lane l).keys.attBusy = false)
    (hgen : (s.lane l).keys.keygen = false)
    (hu : u = s.keep fun k => ({ k with rootSeed := some (s.lane l).seedStaged } : Keeper).setFld 0x010110 16 16 (satInc 16 (k.fld 0x010110 16 16)))
    (hv : v = u.updBoth fun L => (L.putN (aKey 4) (L.getN (aKey 4) + 1)).seedWipe.keyUpd fun q => { q with slots := Vector.replicate 32 KeySlot.init }) :
    s.seedSet src 0x4154 = (v.each v.ups fun l x => ((x.upd l fun L => ((L.setFlag (aAtt 0) 31 true).setFld (aAtt 0) 0 4 0).keyUpd fun q =>
      { q with keygen := true, pub := [] }).keyRefs l).hcEnd l).ok := by
  subst hv hu hl
  unfold State.seedSet
  dsimp only
  rw [if_neg (by simp [hne, hwho]), if_neg (by decide), if_neg (by simp [hmode, hlatch, hwho, hbusy, hgen])]

end Seed

theorem exec_keygenDone_running (hgen : (s.lane l).keys.keygen = true) : exec (.keygenDone l) s =
    .next (((s.identity l).upd l fun L => (L.setFlag (aAtt 0) 31 false).setFld (aAtt 0) 0 4 1).raise l 0xF6) :=
  if_neg (by rw [hgen]; decide)

theorem identity_seeded {seed : Big} (hseed : s.keeper.rootSeed = some seed) : s.identity l =
    s.upd l fun L => (L.setFlag (aAtt 0) 30 true).keyUpd fun q => { q with keygen := false, pub := Config.mldsaPublic seed } := by
  unfold State.identity
  rw [hseed]

/-! Anchors (R469). -/

section Otp

variable {k : Fin 4} {ok revoke : Bool} (hne : s.lanesOf src ≠ []) (hopen : s.dieOpen src = true)
include hne hopen

theorem otpCmd_begins (hburn : s.keeper.burn = none) (hok : ok = true) : s.otpCmd src 0x4F54 ok revoke k =
    (s.keep fun q => ({ q with burn := some (revoke, k) } : Keeper).setBits 0x01010C 31 true).ok := by
  unfold State.otpCmd
  rw [if_neg (by simpa using hne), if_neg (by simp [hopen]), if_neg (by simp [hok, hburn])]

theorem otpCmd_refused (hok : ok = false) : s.otpCmd src 0x4F54 ok revoke k = (s.keep (·.setFld 0x01010C 0 2 2)).indFail src 2 := by
  unfold State.otpCmd
  rw [if_neg (by simpa using hne), if_neg (by simp [hopen]), if_pos (by rw [hok]; rfl)]

end Otp

theorem exec_anchorBurnDone_burning {k : Fin 4} {r : Bool} (hburn : s.keeper.burn = some (r, k)) :
    exec .anchorBurnDone s = .next ((s.keep fun q => (({ q with
      anchors := q.anchors.set k (if r then { q.anchors[k] with revoked := true } else { q.anchors[k] with digest := q.staged, programmed := true }),
      burn := none } : Keeper).put 0x01010C 1).tvClear 0x010104).raiseUp 0xF7 k) := by
  show execAnchorBurnDone s = _
  unfold execAnchorBurnDone
  rw [hburn]

/-- Settles O57: the slot commands by their refusals, their ends by the command held, statements and the seed by who asks and
when, the anchors by the one OTP command. -/
theorem keyCommands : Obligations.KeyCommands := by
  refine ⟨fun s src l k hlanes hwho hidle => ?_,
    fun s l k ks hks => ⟨deriveRefusal_notValid hks, deriveRefusal_noKdf hks, fun hvalid hkdf hint hlabel hcontext => ?_⟩, slotRefusal_eq_zero_iff,
    fun s u v l c hcmd hu hv => ?_, fun s u l c _ hu => by subst hu; rfl, fun s l c rest => exec_keyForwardedOp_oldest,
    fun s l k hup hvalid => ?_,
    fun s src l hlanes hwho => ⟨exec_attest_starts hlanes hwho, exec_attest_refused hlanes hwho⟩,
    fun s l n hc => attStart_noIdentity, fun s l n hbusy hn => ⟨fun hmany => ?_, fun hfew out hout => ?_⟩,
    fun s u v src l hne hl hwho => ⟨fun hmode hlatch hbusy hgen hu hv => congrArg Host.Outcome.next (seedSet_taken hne hl hwho hmode hlatch hbusy hgen hu hv),
      fun hbad => congrArg Host.Outcome.next (seedSet_refused hne hl hwho hbad)⟩,
    fun s l => exec_keygenDone_running, fun s l seed => identity_seeded,
    fun s src k hne hopen hburn => ⟨fun hmode hlatch hblank => congrArg Host.Outcome.next (otpCmd_begins hne hopen hburn ?_),
      fun hmode hprog hvalid hothers => congrArg Host.Outcome.next (otpCmd_begins hne hopen hburn ?_),
      fun hbad => congrArg Host.Outcome.next (otpCmd_refused hne hopen ?_), fun hlast => congrArg Host.Outcome.next (otpCmd_refused hne hopen ?_)⟩,
    fun s k r => exec_anchorBurnDone_burning, fun s src key k => ⟨rfl, rfl, rfl, rfl⟩⟩
  · rw [exec_keyWrite_idle hlanes hwho hidle, exec_keyErase_idle hlanes hwho hidle, exec_keyDerive_idle hlanes hwho hidle]
    refine ⟨fun hno => congrArg Host.Outcome.next (if_neg (not_not_intro hno)), fun hrefused => congrArg Host.Outcome.next (if_pos hrefused),
      fun hmay => congrArg Host.Outcome.next (if_neg ?_), fun hlocked hlatch => congrArg Host.Outcome.next (if_pos (by rw [hlocked, hlatch]; rfl)),
      fun hrefused => congrArg Host.Outcome.next (if_pos hrefused), fun hno => congrArg Host.Outcome.next (if_neg (not_not_intro hno))⟩
    rcases hmay with hfree | hlatch
    · rw [hfree, Bool.false_and]
      decide
    · rw [hlatch, Bool.not_true, Bool.and_false]
      decide
  · rw [deriveRefusal_sound hks hvalid hkdf hint hlabel hcontext]
    exact ⟨fun hout => if_pos hout, fun hslot => if_neg (ne_true_of_eq_false hslot)⟩
  · rw [exec_keyCmdDone_running hcmd hu hv]
    refine ⟨fun hout => if_pos hout, fun hslot hnone => ?_, fun hslot heff hfwd hup => ?_, fun hslot heff hown => ?_⟩
    · rw [if_neg hslot, if_pos (by rw [hnone]; rfl)]
    · rw [if_neg hslot, if_neg (by rw [heff]; decide), if_pos (by rw [hfwd, hup]; rfl)]
    · rw [if_neg hslot, if_neg (by rw [heff]; decide), if_neg (by rw [hown, Bool.false_and]; decide)]
  · rw [exec_keyScrub_failed hup hvalid]
    exact ⟨exec_keyScrub_sound k, fun hmode => congrArg Host.Outcome.next (if_neg hmode), fun hmode => congrArg Host.Outcome.next (if_pos hmode)⟩
  · rw [exec_attestDone_busy hbusy hn rfl, if_pos hmany]
    rfl
  · rw [exec_attestDone_busy hbusy hn hout, if_neg (by omega)]
    rfl
  · show (decide (s.mode.mode = .configure) && s.provLatch && !s.keeper.anchors[k].programmed) = true
    rw [hmode, hlatch, hblank]
    rfl
  · show ((s.mode.mode == .configure || s.mode.mode == .stop) && s.keeper.anchors[k].programmed && !s.keeper.anchors[k].revoked && s.otherAnchors k) = true
    rw [hprog, hvalid, hothers]
    rcases hmode with hmode | hmode
    · rw [hmode]
      rfl
    · rw [hmode]
      rfl
  · show (decide (s.mode.mode = .configure) && s.provLatch && !s.keeper.anchors[k].programmed) = false
    rcases hbad with hmode | hlatch | hprog
    · rw [decide_eq_false hmode, Bool.false_and, Bool.false_and]
    · rw [hlatch, Bool.and_false, Bool.false_and]
    · rw [hprog, Bool.not_true, Bool.and_false]
  · show (_ && s.otherAnchors k) = false
    rw [hlast, Bool.and_false]

end Sys2Proof.Machine
end

section
/-! Feeds and the hold-up bank (R501, R502, R505), junction and back-plate limits (R508, R509). -/
namespace Sys2Proof.Machine

variable {s u v : State} {l : LaneId} {x : Half}

/-! Feeds. -/

/-- A feed that is present is lost: its OK bit, its count and its event. -/
theorem exec_feedLost_present {feed : Fin 2} (hok : (if feed = 0 then s.supply.paOk else s.supply.pbOk) = true) :
    exec (.feedLost feed) s = .next (({ s with supply := if feed = 0 then { s.supply with paOk := false }
      else { s.supply with pbOk := false } }.updBoth (·.incFld 0x401A0018 0 16)).raiseUp 0xF8 feed.val 1) := by
  show execFeedLost feed s = _
  unfold execFeedLost
  dsimp only
  rw [hok, if_neg (by decide)]

section FeedRestored

variable {feed : Fin 2} (hlost : (if feed = 0 then s.supply.paOk else s.supply.pbOk) = false)
include hlost

/-- Outside RETAIN a restored feed sets its OK bit and is reported. -/
theorem exec_feedRestored_powered (hmode : s.mode.mode ≠ .retain) : exec (.feedRestored feed) s =
    .next (({ s with supply := if feed = 0 then { s.supply with paOk := true } else { s.supply with pbOk := true } } : State).raiseUp
      0xF8 feed.val 2) := by
  show execFeedRestored feed s = _
  unfold execFeedRestored
  dsimp only
  rw [hlost, if_neg (by decide), if_neg fun h => hmode h.1]

/-- In RETAIN the first restored feed is power good (R505). -/
theorem exec_feedRestored_powerGood (hmode : s.mode.mode = .retain) (hfirst : s.supply.feedsBack = false) : exec (.feedRestored feed) s =
    .next (({ s with supply := { (if feed = 0 then { s.supply with paOk := true } else { s.supply with pbOk := true } : Supply) with
      feedsBack := true, good := true, holdupOk := false } } : State).raiseUp 0xF8 feed.val 2) := by
  show execFeedRestored feed s = _
  unfold execFeedRestored
  dsimp only
  rw [hlost, if_neg (by decide), if_pos ⟨hmode, by rw [hfirst]; rfl⟩]

end FeedRestored

/-- Settles O18: one lemma for either feed per case; the statement names the feed. -/
theorem feedCommands : Obligations.FeedCommands :=
  ⟨fun _ => exec_feedLost_present (feed := 0), fun _ => exec_feedLost_present (feed := 1), fun _ => exec_feedRestored_powered (feed := 0),
    fun _ => exec_feedRestored_powered (feed := 1), fun _ => exec_feedRestored_powerGood (feed := 1), fun _ => rfl⟩

/-! Junction and back plate. -/

theorem exec_junctionLimit_below (hu : u = s.upd l (·.setFld 0x401A0008 16 16 x.toNat)) (hno : x.toInt < 1050 ∨ (u.lane l).sprint.above = false) :
    exec (.junctionLimit l x) s = .next u := by
  subst hu
  refine congrArg Host.Outcome.next (if_neg fun ⟨hhot, habove⟩ => ?_)
  rcases hno with hcool | hlow
  · exact absurd hhot (Int.not_le.2 hcool)
  · exact absurd (hlow.symm.trans habove) (by decide)

theorem exec_junctionLimit_hot (hu : u = s.upd l (·.setFld 0x401A0008 16 16 x.toNat)) (hhot : 1050 ≤ x.toInt)
    (habove : (u.lane l).sprint.above = true) : exec (.junctionLimit l x) s = .next (u.sprintLeave l 3) := by
  subst hu
  exact congrArg Host.Outcome.next (if_pos ⟨hhot, habove⟩)

theorem backplate_cool (hu : u = s.updBoth (·.setFld 0x401A0008 0 16 x.toNat)) (hcool : x.toInt ≤ 600) :
    s.backplate x = u.each u.ups fun l s => s.tempHigh l := by
  subst hu
  unfold State.backplate
  dsimp only
  rw [if_neg (Int.not_lt.2 hcool)]
  rfl

theorem backplate_hot (hu : u = s.updBoth (·.setFld 0x401A0008 0 16 x.toNat)) (hhot : 600 < x.toInt)
    (hv : v = u.each u.ups fun l s => s.sprintLeave l 4) : s.backplate x = v.each v.ups fun l s => s.tempHigh l := by
  subst hv hu
  unfold State.backplate
  dsimp only
  rw [if_pos hhot]
  rfl

theorem tempHigh_rises (hlow : (s.lane l).flag 0x401A0000 2 = false)
    (hwarm : ((s.lane l).fld 0x401A0014 0 8 : Int) * 10 < signed 16 ((s.lane l).fld 0x401A0008 0 16)) :
    s.tempHigh l = (s.upd l (·.setFlag 0x401A0000 2 true)).raise l 0xF9 0 1 :=
  if_pos ⟨hwarm, (congrArg not hlow).trans rfl⟩

theorem tempHigh_falls (hhigh : (s.lane l).flag 0x401A0000 2 = true)
    (hcool : signed 16 ((s.lane l).fld 0x401A0008 0 16) < ((s.lane l).fld 0x401A0014 0 8 : Int) * 10 - 20) :
    s.tempHigh l = (s.upd l (·.setFlag 0x401A0000 2 false)).raise l 0xF9 0 2 :=
  (if_neg fun h => absurd ((congrArg not hhigh).symm.trans h.2) (by decide)).trans (if_pos ⟨hcool, hhigh⟩)

/-- Settles O22: both back-plate commands are `State.backplate`, split on 60 °C; TEMP_HIGH by its two edges. -/
theorem thermalCommands : Obligations.ThermalCommands := by
  refine ⟨fun _ _ _ _ => exec_junctionLimit_below, fun _ _ _ _ => exec_junctionLimit_hot, fun _ _ _ hu hcool => ?_,
    fun _ _ _ _ hu hhot hv => ?_, fun _ _ => tempHigh_rises, fun _ _ => tempHigh_falls⟩
  · have plate := congrArg (Host.Outcome.next (φ := Fault) (ρ := Refusal)) (backplate_cool hu hcool)
    exact ⟨plate, plate⟩
  · have plate := congrArg (Host.Outcome.next (φ := Fault) (ρ := Refusal)) (backplate_hot hu hhot hv)
    exact ⟨plate, plate⟩

end Sys2Proof.Machine
end

section
/-! Sprint (R506-R508): entry, the point reached, leaving and the steps down, the budget's bins. -/
namespace Sys2Proof.Machine

variable {s u : State} {src : Src} {l : LaneId}

/-! ENTER and LEAVE, each one command of the module. -/

theorem exec_sprintEnter_taken (hfirst : s.first src 0x401A0010 0x53500001 = true) (hmode : (s.roleMode || s.mode.mode == .stop) = true)
    (hplate : signed 16 ((s.lane s.act).fld 0x401A0008 0 16) ≤ 500)
    (hlanes : ∀ l ∈ s.ups, 1 ≤ (s.lane l).fld 0x401A0000 24 8 ∧ (s.lane l).sprintBusy = false) :
    ∃ tw, exec (.sprintEnter src 0x5350) s = .next { (s.each s.ups fun l u => u.upd l fun L => { L with sprint := { L.sprint with
      entry := some (if l == .b && s.ups.length == 2 then s.next250 + msU 1 else s.next250) } }).ok with twins := tw } := by
  refine next_joined hfirst ((if_neg (not_not_intro rfl)).trans (if_pos ?_))
  have hrested : (s.ups.all fun l => decide (1 ≤ (s.lane l).budget) && !(s.lane l).sprintBusy) = true :=
    List.all_eq_true.2 fun l hl => by
      obtain ⟨hbudget, hidle⟩ := hlanes l hl
      rw [hidle]
      exact Bool.and_eq_true_iff.2 ⟨decide_eq_true hbudget, rfl⟩
  rw [hmode, hrested, Bool.true_and, Bool.and_true]
  exact decide_eq_true hplate

theorem exec_sprintEnter_hotPlate (hfirst : s.first src 0x401A0010 0x53500001 = true)
    (hplate : 500 < signed 16 ((s.lane s.act).fld 0x401A0008 0 16)) :
    ∃ tw, exec (.sprintEnter src 0x5350) s = .next { (s.raiseUp 0xFA).busErr with twins := tw } := by
  refine next_joined hfirst ((if_neg (not_not_intro rfl)).trans (if_neg fun h => ?_))
  obtain ⟨hleft, _⟩ := Bool.and_eq_true_iff.1 h
  exact absurd (of_decide_eq_true (Bool.and_eq_true_iff.1 hleft).2) (Int.not_le.2 hplate)

theorem exec_sprintLeave_first (hfirst : s.first src 0x401A0010 0x53500002 = true) :
    ∃ tw, exec (.sprintLeave src 0x5350) s = .next { (s.each s.ups fun l s => s.sprintLeave l 1).ok with twins := tw } :=
  next_joined hfirst (if_neg (not_not_intro rfl))

/-! The point and the steps down. -/

theorem exec_sprintPointReached_entering {due : Nat} (hentry : (s.lane l).sprint.entry = some due) :
    exec (.sprintPointReached l) s = .next (((s.advTo due).upd l fun L =>
      let L1 := ((L.setFlag 0x40000048 1 true).setFlag 0x401A0000 4 true).incFld 0x401A0018 16 16
      { L1 with sprint := { L1.sprint with entry := none, above := true, touched := true } }).raise l 0x03) := by
  show execSprintPointReached l s = _
  unfold execSprintPointReached
  rw [hentry]
  rfl

section StepDown

variable {due left reason : Nat} (hstep : (s.lane l).sprint.step = some (due, left, reason))
include hstep

theorem exec_sprintStepDown_more (hleft : 1 < left) : exec (.sprintStepDown l) s =
    .next ((s.advTo due).upd l fun L => { L with sprint := { L.sprint with step := some (due + msU 1, left - 1, reason) } }) := by
  show execSprintStepDown l s = _
  unfold execSprintStepDown
  rw [hstep]
  exact if_pos hleft

theorem exec_sprintStepDown_last (hleft : left ≤ 1) : exec (.sprintStepDown l) s =
    .next (((s.advTo due).upd l fun L =>
      let L1 := ((L.setFlag 0x40000048 1 false).setFlag 0x401A0000 4 false).setFld 0x401A0000 8 3 reason
      { L1 with sprint := { L1.sprint with step := none, above := false } }).raise l 0x04 0 reason) := by
  show execSprintStepDown l s = _
  unfold execSprintStepDown
  rw [hstep]
  exact if_neg (Nat.not_lt.2 hleft)

end StepDown

/-! The budget. -/

theorem exec_sprintBudgetBin (hu : u = (s.advRun ((s.lane l).sprint.binAt + sU 1)).upd l (fun L =>
      let bins := (L.sprint.touched :: L.sprint.bins).take 600
      ({ L with sprint := { L.sprint with bins := bins, touched := L.sprint.above, binAt := L.sprint.binAt + sU 1 } } : Lane).setFld
        0x401A0000 24 8 (120 - bins.count true))) :
    exec (.sprintBudgetBin l) s =
      .next (if (u.lane l).fld 0x401A0000 24 8 = 0 ∧ (u.lane l).sprint.above then u.sprintLeave l 2 else u) := by
  subst hu
  rfl

/-- Settles O21: the two commands as the first of their twins, then one lemma per event of a lane's sprint. -/
theorem sprintCommands : Obligations.SprintCommands :=
  ⟨fun _ _ => exec_sprintEnter_taken, fun _ _ => exec_sprintEnter_hotPlate, fun _ _ => exec_sprintLeave_first,
    fun _ _ _ => exec_sprintPointReached_entering, fun _ _ _ _ _ => exec_sprintStepDown_more, fun _ _ _ _ _ => exec_sprintStepDown_last,
    fun _ _ _ => exec_sprintBudgetBin⟩

end Sys2Proof.Machine
end

section
/-! The forerunner window's commands (R491, R492), the snapshot (R490) and the scrub of a triple copy (R488). -/
namespace Sys2Proof.Machine

variable {s : State} {src : Src} {w : Word} {l : LaneId}

/-! Words written to the window. -/

theorem lanesOf_isEmpty (hlanes : s.lanesOf src ≠ []) : (s.lanesOf src).isEmpty = false :=
  Bool.eq_false_iff.2 fun h => hlanes (List.isEmpty_iff.1 h)

section Window

variable (hlanes : s.lanesOf src ≠ [])
include hlanes

/-- A word of even parity within the field is carried out. -/
theorem frWrite_even {mask : Word} (heven : popCount w % 2 = 0) (hfield : w &&& ~~~ (mask ||| 0x80000000) = 0) (f : State → State) :
    s.frWrite src w mask f = f s := by
  unfold State.frWrite
  rw [lanesOf_isEmpty hlanes, if_neg (by decide), if_neg fun h => h.elim (by omega) fun h => h hfield]

/-- A row of FR_CMD whose word carries its code is SYS_MODE_CMD with a valid key. -/
theorem frRow_code {code low : Nat} {f : State → State} (heven : popCount w % 2 = 0) (hfield : w &&& ~~~ 0x80000007 = 0)
    (hcode : fieldOf w 0 3 = code) : s.frRow src w code low f = s.modeCmd src 0x4D4F low f :=
  (if_pos hcode).trans (frWrite_even hlanes heven hfield _)

/-! The snapshot. -/

theorem snapCmd_keyed : s.snapCmd src 0x534E = s.snapAsk := by
  unfold State.snapCmd
  rw [lanesOf_isEmpty hlanes, if_neg (by decide), if_neg (by decide)]

theorem exec_frSnap_asks : exec (.frSnap src 0x80000001) s = exec (.snapTake src 0x534E) s := by
  have asks : s.frSnapCmd src 0x80000001 = s.snapAsk := frWrite_even hlanes (by decide) (by decide) _
  exact congrArg Host.Outcome.next (asks.trans (snapCmd_keyed hlanes).symm)

end Window

theorem exec_snapCapture_asked {due : Nat} (hdue : (s.ups.filterMap fun l => (s.lane l).snapAt).min? = some due) :
    exec .snapCapture s = .next ((s.advTo due).each (s.advTo due).ups fun l s => s.snapLane l) := by
  refine congrArg Host.Outcome.next ?_
  unfold State.snapNow
  rw [hdue]

/-! The scrub. -/

theorem tvShow_stored {tv : List (Nat × Nat × Nat × Nat)} {a lo n stored v : Nat} (h : v = stored) :
    tvShow tv a lo n stored v = tv.filter fun t => !(t.1 == a && t.2.1 == lo) := by
  unfold tvShow
  rw [if_pos h, List.append_nil]

/-- In a lane's register with one triple field, two copies that agree with the unit show the unit's value again, and a third
that differs is counted. -/
theorem tvScrub_two_agree {a lo n i j : Nat} {r : RegRow} {c d : Word} (hreg : regAt a = some (r, i, j)) (hruns : maskRuns r.tv = [(lo, n)])
    (hlane : 0x50000 ≤ a) (hunit : fieldOf c lo n = fieldOf (s.viewRaw l .hc a) lo n) :
    s.tvScrub l a c c d = (if fieldOf c lo n = fieldOf d lo n then s else s.upd l (·.incFld 0x4007000C 0 32)).upd l fun L =>
      { L with tv := L.tv.filter fun t => !(t.1 == a && t.2.1 == lo) } := by
  unfold State.tvScrub
  rw [hreg]
  dsimp only
  rw [hruns, decide_eq_false (Nat.not_lt.2 hlane)]
  simp only [List.foldl_cons, List.foldl_nil, true_and, true_or, if_true, if_false, Bool.false_eq_true, tvShow_stored hunit]
  split <;> rfl

/-- SYS_PACE_STAT holds one triple field, bit 0. -/
theorem paceStat_triple : ∃ r i j, regAt 0x40000048 = some (r, i, j) ∧ maskRuns r.tv = [(0, 1)] := by
  have runs : (regAt 0x40000048).map (fun r => maskRuns r.1.tv) = some [(0, 1)] := by decide +kernel
  obtain ⟨⟨r, i, j⟩, hreg, hruns⟩ := Option.map_eq_some_iff.1 runs
  exact ⟨r, i, j, hreg, hruns⟩

theorem exec_tvScrub_paceStat {c d : Word} (hup : s.isUp l = true) (hunit : fieldOf c 0 1 = fieldOf (s.viewRaw l .hc 0x40000048) 0 1) :
    exec (.tvScrub l 0x40000048 c c d) s = .next ((if fieldOf c 0 1 = fieldOf d 0 1 then s else s.upd l (·.incFld 0x4007000C 0 32)).upd l fun L =>
      { L with tv := L.tv.filter fun t => !(t.1 == 0x40000048 && t.2.1 == 0) }) := by
  obtain ⟨r, i, j, hreg, hruns⟩ := paceStat_triple
  exact congrArg Host.Outcome.next ((if_pos hup).trans (tvScrub_two_agree hreg hruns (by decide) hunit))

/-- Settles O25: FR_CMD's rows by `frRow_code`, both snapshot requests as `State.snapAsk`, the scrub by `tvScrub_two_agree`. -/
theorem windowAndSnapshotCommands : Obligations.WindowAndSnapshotCommands :=
  ⟨fun _ _ _ hlanes heven hfield hcode => congrArg Host.Outcome.next (frRow_code hlanes heven hfield hcode),
    fun _ _ _ hlanes heven hfield hcode => congrArg Host.Outcome.next (frRow_code hlanes heven hfield hcode),
    fun _ _ _ hlanes heven hfield hcode => congrArg Host.Outcome.next (frRow_code hlanes heven hfield hcode),
    fun _ _ hlanes => congrArg Host.Outcome.next (snapCmd_keyed hlanes), fun _ _ => exec_frSnap_asks, fun _ _ => exec_snapCapture_asked,
    fun _ _ _ _ => exec_tvScrub_paceStat⟩

end Sys2Proof.Machine
end

section
/-! The host channel (R475-R483) and the service UART (R485). -/
namespace Sys2Proof.Machine

variable {s u : State} {L : Lane} {d : HcDatagram} {l : LaneId}

/-! A slot that a use may read (R459): VALID, with the use's attribute, and not being written. -/

/-- The lane's key command writes the slot. -/
def Lane.keyWriting (L : Lane) (slot : Nat) : Prop := ∃ c, L.keys.cmd = some c ∧ c.op ≠ 3 ∧ c.slot.val = slot ∧ c.effective = true

theorem imgKey_isNone_iff {imgBit : Nat} {slot : Fin 32} : (L.imgKey imgBit slot).isNone = true ↔
    L.keys.slots[slot].state ≠ 1 ∨ L.keys.slots[slot].attr.getLsbD imgBit = false ∨ L.keyWriting slot := by
  have slotIs : L.keys.slots.getD slot.val KeySlot.init = L.keys.slots[slot] := by simp [Vector.getD]
  have free (p : Prop) [Decidable p] (v : Big) : (if p then some v else none).isNone = true ↔ ¬ p := by split <;> simp [*]
  unfold Lane.imgKey Lane.keyWriting
  rw [if_pos slot.isLt, slotIs]
  dsimp only
  rw [free, Classical.not_and_iff_not_or_not, Classical.not_and_iff_not_or_not, Bool.not_eq_true]
  refine or_congr_right (or_congr_right ?_)
  cases L.keys.cmd with
  | none => simp
  | some c => simp [and_assoc]

/-! HELLO. -/

/-- The slot HCH_CFG names. -/
def Lane.hcSlot (L : Lane) : Fin 32 := Fin.ofNat 32 (fieldOf (L.get (aHch 0)) 8 5)

theorem hcSlot_val (L : Lane) : L.hcSlot.val = fieldOf (L.get (aHch 0)) 8 5 :=
  Nat.mod_mod _ _

theorem hcSlot_unusable_iff {k : KeySlot} (hk : k = L.keys.slots[L.hcSlot]) : (L.imgKey 0 L.hcSlot).isNone = true ↔
    k.state ≠ 1 ∨ k.attr.getLsbD 0 = false ∨ L.keyWriting (fieldOf (L.get (aHch 0)) 8 5) := by
  rw [imgKey_isNone_iff, hk, ← hcSlot_val]

section Hello

variable (hfits : hcFits d 1 = true) (hlen : d.body.length = 32) (hlistens : s.hcListens = true)
include hfits hlen hlistens

theorem hcHello_refused (hno : s.mode.mode = .reset ∨ s.ups = [] ∨ ((s.lane s.act).imgKey 0 (s.lane s.act).hcSlot).isNone = true ∨
    bitOf ((s.lane s.act).get (aHch 0)) 0 = false) : s.hcHello d = (s.hcSend d.ip d.port (hcHeader 8 0 0 0 0)).raiseUp 0xDA := by
  unfold State.hcHello
  dsimp only
  rw [if_neg (by simp [hfits, hlen, hlistens]), if_pos]
  unfold Lane.hcSlot at hno
  rcases hno with hreset | hups | hslot | hoff
  · rw [hreset]; simp
  · rw [hups]; simp
  · rw [hslot]; simp
  · rw [hoff]; simp

theorem hcHello_challenged (hmode : s.mode.mode ≠ .reset) (hups : s.ups ≠ [])
    (hslot : ((s.lane s.act).imgKey 0 (s.lane s.act).hcSlot).isNone = false) (hon : bitOf ((s.lane s.act).get (aHch 0)) 0 = true)
    (hidle : ∀ h, (s.lane s.act).hc.sess = some h → h.lastAt + sU (fieldOf ((s.lane s.act).get (aHch 0)) 16 12) ≤ s.tb.run)
    (hu : u = { s.each s.ups (fun l x => x.hcEnd l) with hello := s.hello + 1 }) :
    s.hcHello d = (u.hcBoth fun q => { q with chal := (some {
        session := Config.sessionNumber s.hello, ip := d.ip, port := d.port, nH := d.body, nD := slice (Config.randomNonce s.hello) 0 32,
        slot := (s.lane s.act).hcSlot, at_ := s.tb.run }) }).hcSend d.ip d.port
        (hcHeader 2 (Config.sessionNumber s.hello) 32 0 0 ++ slice (Config.randomNonce s.hello) 0 32) := by
  have hups' : s.ups.isEmpty = false := Bool.eq_false_iff.2 fun h => hups (List.isEmpty_iff.1 h)
  subst hu
  unfold State.hcHello
  dsimp only
  rw [if_neg (by simp [hfits, hlen, hlistens]), if_neg]
  · rfl
  · unfold Lane.hcSlot at hslot
    rw [beq_false_of_ne hmode, hups', hslot, hon]
    cases hsess : (s.lane s.act).hc.sess with
    | none => simp
    | some h => simp [hidle h hsess]

end Hello

/-! A CHALLENGE and its OPEN. -/

section Challenge

variable {c : HcChal} (hchal : (s.lane s.act).hc.chal = some c)
include hchal

theorem exec_hcChallengeTimeout_forgets :
    exec .hcChallengeTimeout s = .next ((s.advRun (c.at_ + sU 2)).hcBoth fun q => { q with chal := none }) := by
  show execHcChallengeTimeout s = _
  unfold execHcChallengeTimeout
  rw [hchal]

theorem hcOpen_inTime (hfits : hcFits d 3 = true) (hsession : d.session = c.session) (htime : s.tb.run ≤ c.at_ + sU 2)
    (hretain : s.mode.mode ≠ .retain) (hreset : s.mode.mode ≠ .reset) :
    s.hcOpen d = s.hcOpened d c ((s.lane s.act).hcPlain c.slot c.nH c.nD d) := by
  unfold State.hcOpen
  rw [hchal]
  dsimp only
  rw [if_neg (by simp [hfits, hsession, htime, hretain, hreset])]

end Challenge

theorem hcOpened_verified {c : HcChal} {p : Bytes} (hseq : d.seq = 0) (hbody : d.body = []) : s.hcOpened d c (some p) = s.hcBegun d c :=
  if_neg (by simp [hseq, hbody])

theorem hcBegun_eq {c : HcChal} {h : HcSess} (hh : h = { ip := d.ip, port := d.port, nH := c.nH, nD := c.nD, slot := c.slot, lastAt := s.tb.run })
    (hu : u = s.each s.ups (fun l x => x.upd l fun L => { (((L.setFld (aHch 4) 16 16 c.session.toNat).put (aHch 8) 0).putWords (aHch 0x10) (hcPeer d.ip d.port)) with
      hc := { L.hc with chal := none, sess := some h, cache := none, confirm := [], evFrame := none, evSeq := 1, closing := false } })) :
    s.hcBegun d c = (u.hcReply u.act h 4 1 0 0 []).raiseUp 0xD8 := by
  subst hu hh
  rfl

/-! REQUESTs. -/

theorem hcRequest_ofSession {h : HcSess} (hsess : (s.lane s.act).hc.sess = some h) (hfits : hcFits d 5 = true) (hip : d.ip = h.ip)
    (hport : d.port = h.port) (hsession : d.session.toNat = (s.lane s.act).fld (aHch 4) 16 16) (hretain : s.mode.mode ≠ .retain)
    (hreset : s.mode.mode ≠ .reset) :
    @State.hcRequest regIO s d = @State.hcServe regIO s d h ((s.lane s.act).hcPlain h.slot h.nH h.nD d) := by
  unfold State.hcRequest
  dsimp only
  rw [hsess]
  dsimp only
  rw [if_neg (by simp [hfits, hip, hport, hsession, hretain, hreset])]

section Served

variable {h : HcSess} {body : Bytes} (hu : u = s.hcBoth (fun q => { q with sess := q.sess.map fun h => { h with lastAt := s.tb.run } }))
include hu

theorem hcServe_next (hseq : d.seq.toNat = (s.lane s.act).getN (aHch 8) + 1) :
    @State.hcServe regIO s d h (some body) = @State.hcExecute regIO u s.act d.seq body := by
  subst hu
  exact if_pos hseq

theorem hcServe_other (hseq : d.seq.toNat ≠ (s.lane s.act).getN (aHch 8) + 1) :
    @State.hcServe regIO s d h (some body) = u.hcRepeat s.act h d.seq := by
  subst hu
  exact if_neg hseq

end Served

/-! The standby's receipt and EVENT frames. -/

theorem hcConfirm_first {isEv : Bool} {seq : Word} {text : Bytes} {rest : List (Bool × Word × Bytes)}
    (hconfirm : (s.lane s.act).hc.confirm = (isEv, seq, text) :: rest) : s.hcConfirm = (s.hcTaken isEv seq text).hcFlush := by
  unfold State.hcConfirm
  dsimp only
  rw [hconfirm]

/-- The lane with its first 64 records in a new EVENT frame, which waits for the standby. -/
def Lane.hcEventBuilt (L : Lane) (now : Nat) : Lane :=
  { L with
    evt := { L.evt with hcq := L.evt.hcq.drop 64 },
    hc := { L.hc with
      evFrame := some (L.hc.evSeq, BitVec.ofNat 32 L.hc.dropped, ((L.evt.hcq.take 64).map EvtRec.bytes).flatten)
      evSeq := L.hc.evSeq + 1, dropped := 0, evSentAt := now, confirm := L.hc.confirm ++ [(true, L.hc.evSeq, [])] } }

theorem hcEvent_builds (hsess : (s.lane s.act).hc.sess ≠ none) (hframe : (s.lane s.act).hc.evFrame = none)
    (hrecords : (s.lane s.act).evt.hcq ≠ []) (hopen : (s.lane s.act).hc.closing = false)
    (hu : u = s.upd s.act (·.hcEventBuilt s.tb.run)) : s.hcEvent = if u.bothUp then u else u.hcFlush := by
  have hsess' : (s.lane s.act).hc.sess.isNone = false := Bool.eq_false_iff.2 fun h => hsess (Option.isNone_iff_eq_none.1 h)
  have hrecords' : (s.lane s.act).evt.hcq.isEmpty = false := Bool.eq_false_iff.2 fun h => hrecords (List.isEmpty_iff.1 h)
  subst hu
  unfold State.hcEvent
  dsimp only
  rw [hsess', hframe, hrecords', hopen, if_neg (by decide)]
  rfl

theorem exec_hcEventResend_outstanding {h : HcSess} {f : Word × Word × Bytes} (hsess : (s.lane s.act).hc.sess = some h)
    (hframe : (s.lane s.act).hc.evFrame = some f) (hsent : ∀ c ∈ (s.lane s.act).hc.confirm, c.1 = false)
    (hu : u = s.advRun ((s.lane s.act).hc.evSentAt + msU 200)) :
    exec .hcEventResend s = .next ((u.hcBoth fun q => { q with evSentAt := u.tb.run }).hcReply s.act h 7 2 f.1 f.2.1 f.2.2) := by
  have hnone : ((s.lane s.act).hc.confirm.any (·.1)) = false := List.any_eq_false.2 fun c hc => Bool.eq_false_iff.1 (hsent c hc)
  subst hu
  show execHcEventResend s = _
  unfold execHcEventResend
  dsimp only
  rw [hsess, hframe, hnone]
  rfl

/-! The service UART. -/

theorem uartFrame_latched {f : Bytes} {n : Nat} {r : State × Bytes × Bytes} (hn : n = u16At f 1) (hstart : u8At f 0 = 0x7E) (hpos : 1 ≤ n)
    (hmax : n ≤ 1420) (hlen : f.length = n + 5) (hcrc : crc16 ((f.drop 1).take (n + 2)) = u16At f (n + 3)) (hup : s.isUp s.act = true)
    (hlatch : s.provLatch = true) (hr : r = @State.hcBody regIO s { lane := s.act, req := .uart } ((f.drop 3).take n)) :
    @State.uartFrame regIO s f = { r.1 with
      uartOut := r.1.uartOut ++ [[0x7E] ++ (leBytes 2 r.2.1.length ++ r.2.1) ++ leBytes 2 (crc16 (leBytes 2 r.2.1.length ++ r.2.1))] } := by
  subst hr hn
  have hpos' : u16At f 1 ≠ 0 := Nat.one_le_iff_ne_zero.1 hpos
  rw [List.drop_one] at hcrc
  unfold State.uartFrame
  dsimp only
  rw [if_neg (by simp [hlatch, hstart, hpos', hmax, hlen, hcrc, hup])]

theorem uartFrame_closed {f : Bytes} (hlatch : s.provLatch = false) : @State.uartFrame regIO s f = s := by
  unfold State.uartFrame
  dsimp only
  rw [if_pos (by simp [hlatch])]

/-- Settles O58: HELLO by whether the slot is usable (`hcSlot_unusable_iff`), then one lemma per datagram, frame and timeout. -/
theorem hostChannelCommands : Obligations.HostChannelCommands := by
  refine ⟨fun s u d k hfits hlen hlistens hk => ⟨fun hno => ?_, fun hmode hups hvalid hattr hon hfree hidle hu => ?_⟩,
    fun s d c hchal => ⟨exec_hcChallengeTimeout_forgets hchal, fun hfits hsession htime hretain hreset => ?_⟩,
    fun s d c => ⟨rfl, fun _ => hcOpened_verified⟩, fun _ _ _ _ _ => hcBegun_eq,
    fun s u d h hsess hfits hip hport hsession hretain hreset => ⟨?_, fun hu _ => ⟨hcServe_next hu, hcServe_other hu⟩, rfl⟩,
    fun _ _ _ _ _ hconfirm => ?_, fun s u hsess hframe hrecords hopen hu => ?_, fun _ _ _ _ => exec_hcEventResend_outstanding,
    fun s f n hn hstart hpos hmax hlen hcrc hup => ⟨fun hlatch r hr => ?_, fun hlatch => ?_⟩⟩
  · refine congrArg Host.Outcome.next (hcHello_refused hfits hlen hlistens ?_)
    rcases hno with hreset | hups | hstate | hattr | hoff | hwriting
    · exact .inl hreset
    · exact .inr (.inl hups)
    · exact .inr (.inr (.inl ((hcSlot_unusable_iff hk).2 (.inl hstate))))
    · exact .inr (.inr (.inl ((hcSlot_unusable_iff hk).2 (.inr (.inl hattr)))))
    · exact .inr (.inr (.inr hoff))
    · exact .inr (.inr (.inl ((hcSlot_unusable_iff hk).2 (.inr (.inr hwriting)))))
  · refine congrArg Host.Outcome.next (hcHello_challenged hfits hlen hlistens hmode hups (Bool.eq_false_iff.2 fun hunusable => ?_) hon hidle hu)
    rcases (hcSlot_unusable_iff hk).1 hunusable with hstate | hno | ⟨c, hcmd, hop, hslot, heffective⟩
    · exact hstate hvalid
    · exact absurd (hattr.symm.trans hno) (by decide)
    · rcases hfree c hcmd with h | h | h
      · exact hop h
      · exact h hslot
      · exact absurd (heffective.symm.trans h) (by decide)
  · exact congrArg Host.Outcome.next (hcOpen_inTime hchal hfits hsession htime hretain hreset)
  · exact congrArg Host.Outcome.next (hcRequest_ofSession hsess hfits hip hport hsession hretain hreset)
  · exact congrArg Host.Outcome.next (hcConfirm_first hconfirm)
  · have built := congrArg (Host.Outcome.next (φ := Fault) (ρ := Refusal)) (hcEvent_builds hsess hframe hrecords hopen hu)
    exact ⟨fun hboth => by rwa [if_pos hboth] at built, fun halone => by rwa [if_neg (Bool.eq_false_iff.1 halone)] at built⟩
  · exact congrArg Host.Outcome.next (uartFrame_latched hn hstart hpos hmax hlen hcrc hup hlatch hr)
  · exact congrArg Host.Outcome.next (uartFrame_closed hlatch)

end Sys2Proof.Machine
end
